-- ==== Sys2Proof/Word.lean ====
section
/-! DEFINITION. The word types of the device and their plainest arithmetic: bytes, 16-, 32- and 64-bit words. -/

namespace Sys2Proof

/-- A byte. -/
abbrev Byte := BitVec 8
/-- A 32-bit register word (R8). -/
abbrev Word := BitVec 32
/-- A 64-bit register, or a general register of a control core (R8, R447). -/
abbrev DWord := BitVec 64

/-- Saturating addition of a counter whose greatest value is `top` (R239, R263 and the other register maps). -/
def satAdd (top a n : Nat) : Nat := min top (a + n)

/-- `x` brought into `lo … hi`. -/
def clampNat (lo hi x : Nat) : Nat := max lo (min hi x)

/-- `x` brought into `lo … hi`. -/
def clampInt (lo hi x : Int) : Int := max lo (min hi x)

end Sys2Proof
end

