-- ==== Sys2Proof/Syntax.lean ====
section
/-! DEFINITION. The commands of the AH4808: one constructor of `Instr` per row of spec/opcode_table.json, with
the operands a row needs. What the outside world decides (a measured value, a decoding outcome, a host's choice) is
an operand; what the device decides is the meaning's. -/

namespace Sys2Proof

/-- Host port A or B (R83). -/
inductive Port | a | b
  deriving DecidableEq, Repr

/-- The blocks of the device that have a register window (01, Blocks), with the instance of a Chord slice. -/
inductive Blk
  | sys | hpa | hpb | cqu | loc | cdc | chd (n : Fin 8) | afe | rad | spn | lat | fct | buf | spd | dma | evr | cal
  | cpc | mcs | pmu | dtm | tst
  deriving DecidableEq, Repr

/-! ### Bisin formats (R450). Reserved fields stand in the operands, so that R451 can trap on them. -/

/-- Format R. -/
structure RForm where
  rd : BitVec 5
  ra : BitVec 5
  rb : BitVec 5
  rsv : BitVec 5
  deriving DecidableEq, Repr

/-- Format I. -/
structure IForm where
  rd : BitVec 5
  ra : BitVec 5
  imm : BitVec 16
  deriving DecidableEq, Repr

/-- Format I with the count of SHI: IMM[15:8] reserved, IMM[5:0] the count (R454). -/
structure ShForm where
  rd : BitVec 5
  ra : BitVec 5
  rsv : BitVec 8
  cnt : BitVec 6
  deriving DecidableEq, Repr

/-- Formats K and L. -/
structure KForm where
  rd : BitVec 5
  imm : BitVec 21
  deriving DecidableEq, Repr

/-- Format F. -/
structure FForm where
  rd : BitVec 5
  ra : BitVec 5
  lenm1 : BitVec 6
  pos : BitVec 6
  deriving DecidableEq, Repr

/-- Format B. -/
structure BForm where
  ra : BitVec 5
  rb : BitVec 5
  off : BitVec 16
  deriving DecidableEq, Repr

/-- Format I of a cache operation, whose CM stands in the opcode (R463). -/
structure CForm where
  ra : BitVec 5
  imm : BitVec 16
  deriving DecidableEq, Repr

/-- Format X. -/
structure XForm where
  rd : BitVec 5
  ra : BitVec 5
  rb : BitVec 5
  rsv : BitVec 3
  xop : BitVec 8
  deriving DecidableEq, Repr

/-- An error of a stored word of the symbol code (R422): one symbol wrong, or more than one. -/
inductive EccErr
  | corr (sym : Fin 36)
  | unc
  deriving DecidableEq, Repr

/-- What the memory shows to one access beside the stored bytes: the busy flag of R433 (port 1 of a bank met a
write), a tag-parity error of the cache line hit (R505), and an error that arose in the word since it was written. -/
structure MemEv where
  busy : Bool
  parity : Bool
  upset : Option EccErr
  deriving DecidableEq, Repr

/-- What one microword of an XOP meets (R478, R494): its memory event, and the cores whose copy of the word has failed its
check since it was written. -/
structure XopEv where
  mem : MemEv
  bad : BitVec 8
  deriving DecidableEq, Repr

/-- What a spindle controller sees of the rotor (R363, R364, R366): amplitude in 10 mV, electrical degrees by which the angle has
advanced, direction, speed in 1/16 rpm, and the sector in which the last event leaves the angle. -/
structure RotorObs where
  amp : Nat
  adv : Nat
  forward : Bool
  spd : Nat
  sector : Fin 6
  deriving DecidableEq, Repr

/-- A commutation event as measured (R357, R358, R366, R375): the interval since the last event in MOT cycles, its distance from its
scheduled commutation in electrical degrees, whether its order is forward, the sector whose crossing it is, the amplitude in 10 mV,
and the observer's speed in 1/16 rpm and amplitude in 10 mV. -/
structure CommEv where
  interval : Nat
  dev : Nat
  forward : Bool
  sector : Fin 6
  amp : Nat
  obsSpd : Nat
  obsAmp : Nat
  deriving DecidableEq, Repr

/-- One servo field as it passes the head (R325–R327): its cells as the demodulator decides them, from 8 cells before the position
that the previous wedge predicts to 8 cells after it, the signed amplitudes a and b of the null bursts, a parity error in a
coefficient or state word that the execution reads (R348), the samples at full scale of both readers (R216), and the mean of the
absolute value of each reader over the field's last 256 samples (R242). -/
structure ServoSample where
  cells : List Bool
  a : Int
  b : Int
  coefPar : Bool
  sat : Nat
  ampA : Nat
  ampB : Nat
  deriving DecidableEq, Repr

/-- The NVMe commands of R104 and R112. -/
inductive HostOp
  | read | write | flush | writeZeroes | compare | verify | dsm | copy
  | zoneAppend | zoneReset | zoneFinish | zoneOpen | zoneClose | zoneRecv
  | kvStore | kvRetrieve | kvDelete | kvExist | kvList
  | adminFormat | adminSanitize | adminNsDelete | adminOther
  | unsupported
  deriving DecidableEq, Repr

/-- A submission queue entry, in the terms of R104–R107 and R129. -/
structure HostCmd where
  op : HostOp
  nsid : Nat
  cid : Nat
  slba : Nat
  nlb : Nat
  ranges : List (Nat × Nat)
  key : List Byte
  data : List Byte
  /-- options: bit 0 forbids overwrite, bit 1 requires an existing key (R106); host buffer length for Retrieve. -/
  opts : Nat
  hostLen : Nat
  /-- the data pointer (R98): PRP1 and PRP2, or the low and the high half of SGL1 where `sgl` -/
  prp : Nat
  prp2 : Nat
  sgl : Bool
  deriving DecidableEq, Repr

/-- The fields of a media descriptor (R472, R474). -/
structure Desc where
  kind : Nat
  act : Nat
  notag : Bool
  close : Bool
  profile : Nat
  count : Nat
  band : Nat
  slot : Nat
  wedgebits : Nat
  firstTrack : Nat
  slots : Nat
  head : Nat
  data : Nat
  status : Nat
  aux : Nat
  vstatus : Nat
  /-- every reserved field and encoding zero or listed -/
  clean : Bool
  deriving DecidableEq, Repr

/-- One channel bit as the timing loop took it (R216–R221): the samples of readers A and B, the tentative decision, the timing
error in 2^-10 bit, and the peak amplitudes that the gain loops see, in ADC codes. -/
structure BitEv where
  a : Int
  b : Int
  d : Bool
  e : Int
  pa : Nat
  pb : Nat
  deriving DecidableEq, Repr

/-- A run of payload bits between two servo fields (R188, R204). Where a wedge's payload starts with it: `window` the 32 bits
found from 8 before the nominal place of the resync mark on (R205), `rsErr` the timing errors of bits 16–111 of the resync field
(R220), and `bits` from 8 bits before the nominal start of the payload on. `sat`: samples at full scale in the resync field. -/
structure SegEv where
  window : List Bool
  rsErr : List Int
  sat : Nat
  bits : List BitEv
  deriving DecidableEq, Repr

/-- What a slice takes while a slot passes the head: the runs of payload bits from slot bit −32 to slot bit 37,567, and the phase
that the zero-phase start estimates from samples 16–31 (R219). -/
structure SlotEv where
  segs : List SegEv
  phase0 : Int
  deriving DecidableEq, Repr

/-- Which requester of host memory a link condition meets (R94, R520). -/
inductive LinkTarget
  | cmd (tag : Nat)
  | dma (c : Fin 32)
  deriving DecidableEq, Repr

/-- A request to the function of a port: a configuration read or write of doubleword `dw` of its 4 KiB of configuration space
(R69, R88, R90–R93), or a memory request at byte `off` of BAR0 (R91), which the table names no row for beside the doorbells. -/
inductive CfgReq
  | read (dw : Nat)
  | write (dw : Nat) (v : Word)
  | memRead (off : Nat)
  | memWrite (off : Nat) (v : Word)
  deriving DecidableEq, Repr

/-- Link power states of R88; L0p with the lanes that stay active. -/
inductive LinkPm
  | l0
  | l0p (width : Nat)
  | l1 | l11 | l12
  deriving DecidableEq, Repr

/-- An error of the hardware itself that a fault source reports and no row brings: parity of the tag table or the range-lock table
(R153), of an engine of the codec (R185), an uncorrectable error in the Locus cache (R187), parity of a tag of the translation-page
cache at the set of a unit address (R395), both copies of an internal page of the flash tier lost (R403). -/
inductive HwErr
  | tagPar | lockPar | engPar | cacheUe
  | tpcPar (fla : Nat)
  | jrnLost
  deriving DecidableEq, Repr

/-- How a correctable link error was recovered: reported as a replay timeout or as a receiver error, and with an entry to Recovery or
without (R87, R94). -/
structure LinkRetry where
  replay : Bool
  recovery : Bool
  deriving DecidableEq, Repr

/-- Retain Asynchronous Event, Log Page Offset and Command Set Identifier of Get Log Page (R114). -/
structure LogArgs where
  rae : Bool
  lpo : Nat
  csi : Nat
  deriving DecidableEq, Repr

/-- CNS and Command Set Identifier of Identify (R112). -/
structure IdArgs where
  cns : Nat
  csi : Nat
  deriving DecidableEq, Repr

/-- Feature Identifier and Dword 11 of Get Features (R113). -/
structure FeatArgs where
  fid : Nat
  cdw11 : Nat
  deriving DecidableEq, Repr

/-- Where a Datum request comes from (R596). -/
inductive ReqSrc | mailbox | port
  deriving DecidableEq, Repr

/-- The signed part of a request (R585): its CSEQ and whether its signature verifies under the key named. -/
structure Sig where
  cseq : Nat
  valid : Bool
  deriving DecidableEq, Repr

/-- How the Datum flash behaved in a rewrite (R570): the pulses of each page program, and whether the pulse limit
was reached without a pass. -/
structure NorEv where
  pulses : List Nat
  fail : Bool
  deriving DecidableEq, Repr

/-- A signed image (R495, R588) as the Datum die judges it. -/
structure ImageInfo where
  headerOk : Bool
  sigOk : Bool
  build : Nat
  length : Nat
  loadoff : Nat
  entry : Nat
  code : List Byte
  deriving DecidableEq, Repr

/-- What the flash returns of a codeword at the steps of R402, 4,608 bytes each: at the default thresholds, at levels 1 and on, at SOFTD
steps below and above the best level; and whether the other members of its stripe can be read (R403). -/
structure FlashReads where
  hard : List Byte
  levels : List (List Byte)
  below : List Byte
  above : List Byte
  others : Bool
  deriving DecidableEq, Repr

/-- One populated flash target as bring-up finds it (R385): its number 8c + t, its geometry word in the layout of
FCT.GEOM, whether a parameter-page copy passed, and the fastest rate that it declares, as CHCFG.RATE codes it. -/
structure TargetInfo where
  num : Fin 64
  pageOk : Bool
  geom : Nat
  rate : Fin 8
  deriving DecidableEq, Repr

/-- Write-unsafe sources (R256). -/
inductive WusSrc | pin | pwrfail | servo | force
  deriving DecidableEq, Repr

/-- How a ladder step ended (R266): at steps 1 to 5 a read passed; at steps 6 and 7 the unit was rebuilt, with the information bytes that
the outer-code decoder or Lattice gives (R275, R278). -/
inductive LadderEnd
  | passed
  | rebuilt (info : List Byte)
  | failed
  | lacksMembers (budget : Bool)
  deriving DecidableEq, Repr

/-- The error response or completion that an access of a DMA channel met (R520, R523). -/
inductive DmaEv
  | ok
  | readErr (addr : Nat)
  | writeErr (addr : Nat)
  | hostErr (addr : Nat)
  | busyRetry (addr n : Nat)
  deriving DecidableEq, Repr
/-- The commands. -/
inductive Instr
  /-- A write to a register field that has no row of its own sets RW fields, clears W1C bits written 1 and ignores RO fields. (R12) -/
  | registerWrite (m addr : Nat) (v : DWord)
  /-- A read of an RC field returns its value and clears it, keeping any event of the same cycle. (R13) -/
  | rcRead (m addr : Nat) (inc : DWord)
  /-- A 32-bit read of the low half of a 64-bit register copies the high half into the reading master's shadow. (R9) -/
  | readLowHalf (m addr : Nat)
  /-- A 32-bit write of the low half of a 64-bit register goes into the writing master's shadow and changes nothing in the register. (R10) -/
  | writeLowHalf (m addr : Nat) (v : Word)
  /-- A 32-bit write of the high half commits it, together with the shadowed or present low half, as one 64-bit write. (R10) -/
  | writeHighHalf (m addr : Nat) (v : Word)
  /-- Every 10 ns the device tick advances by one. (R19) -/
  | deviceTick (errs : List HwErr := [])
  /-- A write to IRQROUTEn changes the routing of line n and ends any MODE 1 assignment of that line. (R42) -/
  | irqrouteWrite (n : Fin 128) (v : Word)
  /-- A write to NMTROUTE sets the cores that receive non-maskable traps, a write of 0 leaving the previous value. (R43) -/
  | nmtrouteWrite (v : Word)
  /-- A write to SWINT sets or clears the software interrupt latches of lines 96–103. (R44) -/
  | swintWrite (v : Word)
  /-- A MODE 1 line that waits unassigned is assigned to the first named core that becomes able to take it. (R41) -/
  | lineAssignment (n : Fin 128)
  /-- The crystal shows no edge for 400 ns or the root PLL leaves lock, so CLKLOSS is raised, heads are unloaded and the main die is held in chip reset. (R52) -/
  | clockLoss
  /-- The PLL has held lock for 1 ms after a clock loss, so the main die is released from chip reset. (R52) -/
  | clklossRelease
  /-- A write to PMU.GATE gates or ungates slices and front ends, a loaded actuator's front end staying ungated. (R54) -/
  | gateWrite (v : Word)
  /-- A write to RAILCTLn clamps the setpoint and starts a slew at 1 mV/µs. (R56) -/
  | railctlWrite (r : Fin 6) (v : Word)
  /-- A rail stays outside ±5% of its target for 10 µs, raising RAILFAULT, with a fixed power-on reset and restart for rail 0. (R56) -/
  | railfault (r : Fin 6)
  /-- A waiting request is granted in arrival order once commit + spinupw fits BUDGET and fewer than MAXSPINUP spindles start. (R58) -/
  | spinGrant (obs : RotorObs)
  /-- A write to PMU.BUDGET changes the budget, slowing no running spindle and letting grants resume when they fit. (R60) -/
  | budgetWrite (v : Word)
  /-- The 12 V input stays below PFTHRESH, or nPFAIL stays low, for 2 µs, so the power-fail sequence starts. (R61) -/
  | powerFailDetect
  /-- The dirty set and the power-fail record are in the SLC region and PFSTAT.FLUSHED is set. (R61) -/
  | pfFlushDone
  /-- HOLDUP after detection every bridge shorts its windings and the rails are removed in order 5 to 0. (R61) -/
  | pfHoldupExpire
  /-- The 12 V input has stayed above PFTHRESH + 0.2 V with nPFAIL high for 2 µs, setting RESTORED or letting start-up run. (R64) -/
  | inputReturn
  /-- VIO_A falls below 1.6 V or VDD below 0.65 V, putting the main die in power-on reset. (R66) -/
  | mainPor (vio : Bool)
  /-- nRESET held low for 1 µs or more requests a chip reset. (R66) -/
  | nresetAssert
  /-- A write of RSTCTL.CHIP with the right key requests a chip reset. (R77) -/
  | rstctlChip (v : Word)
  /-- After the heads are unloaded and the bridges shorted, the chip reset takes effect on every main-die block outside AON. (R67) -/
  | chipReset
  /-- A write to SYS.BLKRST with the right key resets the block or instance named by its interrupt line. (R68) -/
  | blockReset (v : Word)
  /-- PERSTn of a port is asserted, resetting that port's PCIe logic. (R94) -/
  | perstAssert (p : Port)
  /-- PERSTn is released and the port answers configuration requests within 100 ms and trains within 20 ms. (R69) -/
  | perstDeassert (p : Port)
  /-- VBAT falls below 1.6 V and rises again, resetting the Datum die, which scans its flash and restores its clock. (R66) -/
  | datumPor
  /-- A write to WDTCTL sets PERIOD and EN, loading the count when EN changes from 0 to 1. (R70) -/
  | wdtctlWrite (v : Word)
  /-- A write of 0x0000_A5C3 to WDTKICK reloads the watchdog with PERIOD. (R70) -/
  | wdtkick (v : Word)
  /-- The watchdog count reaches zero, raising WDT and a fixed chip reset. (R70) -/
  | wdtExpire
  /-- VIO_A reaches 1.7 V with the 12 V input returned, and start-up begins. (R71) -/
  | powerOn
  /-- All six rails are good and main-die power-on reset is released, core 0 running the boot microcode. (R71) -/
  | railsGood (fail : BitVec 4)
  /-- The Datum die returns its verdict on the boot image, falling back to slot B or halting core 0 when both fail. (R72) -/
  | bootVerdict (aOk bOk : Bool)
  /-- The configuration block is loaded, each field checked and clamped, and SYS.CLAMPRPT made valid. (R74) -/
  | configLoad
  /-- LPDDR5X training ends and the buffer checker tests itself. (R425) -/
  | dramTrainingDone (gib rate : Nat) (checkerOk : Bool)
  /-- Every word of the buffer has been written with zero data and valid check bits and STAT.READY is set. (R427) -/
  | bufInitDone
  /-- Firmware sets SYS.BOOTCTL.HOSTRDY and the host ports answer configuration requests in full. (R69) -/
  | hostrdySet
  /-- The port completes link training at the highest common rate and width, FLIT mode where supported. (R86) -/
  | linkTrained (p : Port) (rate width : Nat) (flit : Bool)
  /-- A write of 1 to LINKCTL.RETRAIN retrains the link. (R123) -/
  | linkRetrain (p : Port) (v : Word)
  /-- A correctable link error is recovered at the link layer and counted. (R94) -/
  | correctableLinkError (p : Port) (e : LinkRetry)
  /-- A poisoned TLP with write data is discarded and its command fails with Data Transfer Error. (R94) -/
  | poisonedTlp (p : Port) (t : LinkTarget)
  /-- A read of host memory gets no completion in time and is abandoned as for poisoned data. (R94) -/
  | completionTimeout (p : Port) (t : LinkTarget)
  /-- An Unsupported Request or Completer Abort is received and the request is abandoned. (R94) -/
  | urOrCaReceived (p : Port) (t : LinkTarget)
  /-- A malformed TLP or other uncorrectable error resets the port. (R94) -/
  | uncorrectableLinkError (p : Port)
  /-- The link goes down, by surprise or by PERSTn, and the port is reset. (R94) -/
  | linkDown (p : Port)
  /-- The host writes a submission queue tail doorbell, checked for an invalid queue or value. (R98) -/
  | sqTailDoorbell (p : Port) (qid value : Nat)
  /-- The host writes a completion queue head doorbell, checked for an invalid queue or value. (R98) -/
  | cqHeadDoorbell (p : Port) (qid value : Nat)
  /-- The host sets CC.EN and CSTS.RDY becomes 1 within 100 ms. (R100) -/
  | ccEnSet (p : Port)
  /-- The host clears CC.EN, resetting the controller as a port reset does. (R100) -/
  | ccEnClear (p : Port)
  /-- The host writes CC.SHN = 01b and the controller makes writes durable and unloads its spindles' heads. (R100) -/
  | normalShutdown (p : Port)
  /-- The command queue unit fetches a submission queue entry and gives the command an ASEQ. (R125) -/
  | commandArrival (p : Port) (sqid : Nat) (cmd : HostCmd)
  /-- A read entry is released once every chunk of its range has been copied into the command's staging space. (R133) -/
  | readEntryRelease (tag : Nat)
  /-- The Datum die accepts a destructive operation's record and the command enters ACTIVE. (R108) -/
  | ledgerAccept (tag : Nat)
  /-- The Datum die has not accepted the record within 100 ms and the command fails with Datum Unavailable. (R108) -/
  | ledgerTimeout (tag : Nat)
  /-- The NVM Read command returns data of the LBAs named. (R104) -/
  | read (tag : Nat)
  /-- The NVM Write command stores data and completes once it is durable. (R99) -/
  | write (tag : Nat)
  /-- Flush completes within 1 ms once every earlier completed write is durable. (R137) -/
  | flush (tag : Nat)
  /-- Write Zeroes writes zeroes over the LBAs named. (R104) -/
  | writeZeroes (tag : Nat)
  /-- The NVM Compare command compares host data with stored data. (R104) -/
  | compare (tag : Nat)
  /-- The NVM Verify command reads and checks the LBAs named without transfer. (R104) -/
  | verify (tag : Nat)
  /-- Dataset Management with deallocate writes one tombstone per range. (R173) -/
  | datasetManagement (tag : Nat)
  /-- The NVM Copy command copies source ranges to a destination range. (R129) -/
  | copy (tag : Nat)
  /-- Zone Append takes its LBAs from the zone's write pointer at arrival and writes them. (R135) -/
  | zoneAppend (tag : Nat)
  /-- Zone Management Send Reset writes a tombstone over the zone's chunks. (R173) -/
  | zoneReset (tag : Nat)
  /-- Zone Management Send Finish moves the zone to Full. (R105) -/
  | zoneFinish (tag : Nat)
  /-- Zone Management Send Open opens a zone within the open-zone limit. (R105) -/
  | zoneOpen (tag : Nat)
  /-- Zone Management Send Close closes an open zone. (R105) -/
  | zoneClose (tag : Nat)
  /-- Zone Management Receive returns the zone descriptors. (R105) -/
  | zoneManagementReceive (tag : Nat)
  /-- Key Value Store writes every value chunk and then the object record. (R172) -/
  | kvStore (tag : Nat)
  /-- Key Value Retrieve returns the value up to the host buffer length and reports its full length. (R106) -/
  | kvRetrieve (tag : Nat)
  /-- Key Value Delete writes a tombstone over the object's chunks. (R173) -/
  | kvDelete (tag : Nat)
  /-- Key Value Exist reports whether a key exists. (R104) -/
  | kvExist (tag : Nat)
  /-- Key Value List returns keys in order, reflecting Stores and Deletes that completed before it arrived. (R136) -/
  | kvList (tag : Nat)
  /-- Create I/O Submission Queue creates a submission queue. (R112) -/
  | createIoSq (tag qid size cqid : Nat)
  /-- Delete I/O Submission Queue deletes a submission queue. (R112) -/
  | deleteIoSq (tag qid : Nat)
  /-- Create I/O Completion Queue creates a completion queue. (R112) -/
  | createIoCq (tag qid size vector : Nat)
  /-- Delete I/O Completion Queue deletes a completion queue. (R112) -/
  | deleteIoCq (tag qid : Nat)
  /-- Get Log Page returns a supported log page, unmasking its event type when Retain Asynchronous Event is clear. (R114) -/
  | getLogPage (tag lid : Nat) (a : LogArgs)
  /-- Identify returns the data structure selected by CNS. (R112) -/
  | identify (tag : Nat) (a : IdArgs)
  /-- Abort decides in one FAB cycle, from the named command's state, whether that command is aborted. (R145) -/
  | abort (tag sqid cid : Nat)
  /-- Set Features sets a supported feature, including the power state, or fails with Invalid Field in Command. (R113) -/
  | setFeatures (tag fid value : Nat)
  /-- Get Features returns the value of a supported feature. (R113) -/
  | getFeatures (tag : Nat) (a : FeatArgs)
  /-- An Asynchronous Event Request is held, or takes at once an event that the controller holds. (R116) -/
  | asyncEventRequest (tag : Nat)
  /-- Firmware writes AENPOST to post an asynchronous event. (R123) -/
  | aenpostWrite (p : Port) (v : Word)
  /-- Namespace Management create makes a namespace with key epoch 1 and writes its namespace record. (R174) -/
  | namespaceCreate (tag cmdset lbaf size : Nat) (nguid : List Byte)
  /-- Namespace Management delete writes a tombstone over the namespace record handle. (R173) -/
  | namespaceDelete (tag : Nat)
  /-- Namespace Attachment attaches a namespace to a controller or detaches it. (R112) -/
  | namespaceAttachment (tag nsid : Nat) (p : Port) (attach : Bool)
  /-- Firmware Image Download writes part of a signed firmware image to a slot. (R112) -/
  | firmwareImageDownload (tag slot offset : Nat) (bytes : List Byte)
  /-- Firmware Commit has the Datum die verify and commit a firmware slot. (R590) -/
  | firmwareCommit (tag slot : Nat) (floor : Bool) (img : ImageInfo)
  /-- Device Self-test runs a short or an extended self-test. (R112) -/
  | deviceSelfTest (tag : Nat) (extended pass : Bool)
  /-- Format NVM replaces the namespace key, clears its map entries and writes a new namespace record. (R110) -/
  | formatNvm (tag lbaf ses : Nat)
  /-- Sanitize Crypto Erase replaces every key, erases the flash tier and clears the map, parity and dirty set. (R111) -/
  | sanitize (tag action : Nat)
  /-- Retention Query returns the retention rules covering a namespace range or key. (R112) -/
  | retentionQuery (tag : Nat)
  /-- Migration Control start sets up the host ring and enters migration mode. (R315) -/
  | migrationStart (tag ringAddr ringSize prodAddr : Nat)
  /-- Migration Control stop ends migration mode and posts event 0x7 / 0x02. (R318) -/
  | migrationStop (tag : Nat)
  /-- Migration Control advance gives the host's consumer offset, freeing ring space. (R315) -/
  | migrationAdvance (tag cons : Nat)
  /-- A live chunk version is decrypted, inflated and written to the ring, then the producer offset. (R317) -/
  | migrationRecord (spindle : Fin 8) (handle chunk : Nat)
  /-- Spindle Service with action 0 takes a spindle out of service, sealing its members and braking it. (R310) -/
  | spindleOutOfService (tag : Nat) (s : Fin 8) (force : Bool)
  /-- Spindle Service with action 1 returns a spindle, which rejoins and is rebuilt where stale. (R312) -/
  | spindleReturn (tag : Nat) (s : Fin 8) (originOk : Bool)
  /-- Spindle Service with action 2 returns a spindle as a replacement, marking every band of non-FREE groups stale. (R312) -/
  | spindleReplace (tag : Nat) (s : Fin 8)
  /-- An autonomous power-state transition decides entry to PS3. (R120) -/
  | autonomousPs3 (p : Port)
  /-- Entry to PS3 stops media operations, unloads actuators, brakes spindles and gates slices in steps. (R149) -/
  | ps3Entry
  /-- A media operation of an ACTIVE command starts on the slice assigned to its actuator. (R138) -/
  | mediaOpStart (tag : Nat) (n : Fin 8) (d : Desc)
  /-- A media operation ends, and its command enters COMPLETING when all its work has ended. (R141) -/
  | mediaOpDone (tag : Nat) (n : Fin 8)
  /-- A key not loaded within 100 ms fails the operation with Datum Unavailable and raises KEYMISS. (R163) -/
  | keyLoadTimeout (tag : Nat) (slot : Fin 64)
  /-- A write to CDC.WSEQ sets the next write sequence, a value below the present one being ignored. (R185) -/
  | wseqWrite (v : DWord)
  /-- Locus returns the place of a chunk from its cache, a map page in the buffer or one in flash. (R179) -/
  | locusLookup (handle chunk : Nat)
  /-- A relocation updates a Locus entry only if its LOC and GENLO are unchanged, else it is dropped. (R181) -/
  | relocationUpdate (handle chunk oldLoc oldGenlo newTier newLoc : Nat)
  /-- A write of LOC.CTL.FLUSH writes back every DIRTY cache entry. (R187) -/
  | locusFlush
  /-- The map is rebuilt from the Origin bands, the tags and the records of every band and the flash tier. (R184) -/
  | mapRebuild
  /-- A write to CHDn.ASSIGN becomes pending, or is ignored with ASSIGNERR when the actuator is taken or absent. (R211) -/
  | assignWrite (n : Fin 8) (firmware : Bool) (v : Word)
  /-- A pending ASSIGN takes effect once the slice's current media operation has ended. (R213) -/
  | assignTakeEffect (n : Fin 8)
  /-- A firmware write to AFEn.SYNTH takes effect when no slice is connected, and is ignored otherwise. (R214) -/
  | afeSynthWrite (a : Fin 16) (v : Word)
  /-- A new synthesizer frequency settles within 20 µs. (R50) -/
  | synthSettled (a : Fin 16)
  /-- A synthesizer leaves lock while its actuator is loaded or DATAEN is 1. (R242) -/
  | synthunlock (a : Fin 16)
  /-- A read slot starts and takes a codeword buffer, stopping with BUDGET the unit that has held one longest when all eight are held. (R230) -/
  | slotStart (n : Fin 8) (e : SlotEv)
  /-- The detector and decoder end at a candidate or run out of candidates, and the unit's status entry is written. (R227) A parity error
  in the detector, the decoder or a codeword buffer names the further buffers it concerns; the sample path may have overflowed. (R239) -/
  | unitDecodeDone (n b : Fin 8) (par : Option (List (Fin 8))) (ovf : Bool)
  /-- A write of EQCTL.LOAD copies the shadow equalizer set to the active set at the next slot start or at once. (R224) -/
  | eqLoad (n : Fin 8)
  /-- A write operation reads its profile and write pointer, ending with ORDER or MEMERR on a mismatch or error. (R247) -/
  | writeOpStart (n : Fin 8)
  /-- The slice encodes and writes a slot, accumulating it in the outer code and advancing the write pointer when it ends OK. (R243) -/
  | slotWrite (n : Fin 8) (encoded : Bool) (verify : List Nat)
  /-- Once per wedge payload the slice reads the laser monitor and updates the trim, abandoning with LASERDEV after four large errors. (R253) -/
  | laserLoopUpdate (n : Fin 8) (mon : Nat)
  /-- A firmware write to PSCMD queues a serial frame until no media operation uses the link. (R255) -/
  | pscmdWrite (n : Fin 8) (v : Word)
  /-- A serial frame on the preamplifier link ends and PSCMD.DONE is set. (R254) -/
  | psFrameDone (n : Fin 8) (data : Byte)
  /-- A write-unsafe source becomes present, idling write data, dropping the laser and abandoning the slot. (R257) -/
  | writeUnsafe (link : Fin 16) (src : WusSrc)
  /-- Every write-unsafe source has been absent for WUSHOLD µs and writing may start. (R259) -/
  | wusholdExpire (link : Fin 16)
  /-- Firmware runs the next step of the retry ladder on a unit in recovery. (R266) -/
  | ladderStep (maddr : Nat) (e : LadderEnd)
  /-- The host's Time Limited Error Recovery runs out and the read completes with Unrecovered Read Error unpoisoned. (R268) -/
  | tlerExpire (tag : Nat)
  /-- A recovered unit's whole chunk version is relocated to an open band. (R280) -/
  | relocateChunk (handle chunk newMaddr : Nat)
  /-- A write of OCCTL.START starts an outer-code job on the named rows. (R274) -/
  | ocDecodeStart (n : Fin 8) (v : Word)
  /-- An outer-code job ends, writing rebuilt rows and reporting RESULT and COLS. (R274) -/
  | ocDecodeDone (n : Fin 8)
  /-- Patrol reads a written band or an Origin band and counts HARD and SOFT units. (R284) -/
  | patrolBand (s : Fin 8) (band hard soft years : Nat) (deep : Bool)
  /-- A spindle whose patrol is more than 7 days behind is spun up for patrol. (R284) -/
  | patrolSpinup (s : Fin 8) (behind : Nat)
  /-- A refresh relocates every live chunk version of a band and returns it to Lattice. (R287) -/
  | bandRefresh (s : Fin 8) (band : Nat)
  /-- At start-up firmware replays the dirty set from the power-fail record, or reports an incomplete flush. (R65) -/
  | powerFailReplay (manifestOk : Bool) (missing : List (Nat × Nat))
  /-- A full window, or one at the end of an operation or before a seal, is XORed into the images and committed with FILL. (R303) -/
  | windowFlush (n : Fin 8)
  /-- A write to LAT.SEAL seals a data member with FILL frozen. (R300) -/
  | latSeal (v : Word)
  /-- When the last data member is sealed the group enters CLOSING and its parity bands are written from the images. (R305) -/
  | groupClose (g : Nat)
  /-- Every parity band has ended OK, the images are released and the group becomes CLOSED. (R305) -/
  | parityBandDone (g j : Nat)
  /-- An unreadable image page makes Lattice rebuild the group's images from its data members. (R306) -/
  | imglost (g : Nat)
  /-- Lattice reconstructs a slot of a member from k sources chosen in order of preference. (R307) -/
  | reconstruct (s : Fin 8) (band slot : Nat) (failed : List Nat)
  /-- A write of RBCTL.START starts a rebuild of one spindle, in place or by relocation. (R308) -/
  | rebuildStart (v : Word)
  /-- A write of RBCTL.STOP stops the rebuild under way. (R309) -/
  | rebuildStop
  /-- A rebuilt band's last slot is written and the band is marked current. (R308) -/
  | rebuildBandDone
  /-- A returned band stays a source until every data member is released, and the group then becomes FREE. (R314) -/
  | bandRelease (s : Fin 8) (band : Nat)
  /-- A write to LAT.RESV moves a group between FREE and RESERVED. (R320) -/
  | latResv (v : Word)
  /-- At the end of a servo field both actuators of a lane are demodulated, their laws run and their codes written. (R324) -/
  | servoWedge (lane : Fin 8) (s0 s1 : ServoSample) (demod : Nat)
  /-- CMD LOAD with the spindle at speed plays the load profile and searches for servo. (R342) -/
  | load (a : Fin 16)
  /-- CMD UNLOAD hands the actuator to the PMU retract sequencer. (R347) -/
  | unload (a : Fin 16)
  /-- CMD SEEK moves the reference toward TARGET on the acceleration-limited profile. (R336) -/
  | seek (a : Fin 16) (firmware : Bool)
  /-- CMD MANUAL stops the law and drives the open-loop MANCUR code. (R342) -/
  | manual (a : Fin 16) (keep : Bool)
  /-- CMD AUTO transfers a MANUAL actuator bumplessly to SETTLE. (R343) -/
  | auto (a : Fin 16)
  /-- CMD STEP +1 moves the reference one track forward and plays the MA feed-forward table. (R338) -/
  | stepPlus (a : Fin 16) (firmware : Bool)
  /-- CMD STEP −1 moves the reference one track back and plays the MA feed-forward table. (R338) -/
  | stepMinus (a : Fin 16) (firmware : Bool)
  /-- A write of TARGET moves the reference, retargets a seek or is only stored, by state. (R342) -/
  | targetWrite (a : Fin 16) (v : Word)
  /-- A write of RAD.OFFSETn changes the reference offset from the next execution. (R340) -/
  | offsetWrite (a : Fin 16) (v : Word)
  /-- A write of LAWCFG changes the active set and biquads from the next execution. (R334) -/
  | lawcfgWrite (a : Fin 16) (v : Word)
  /-- A write of a coefficient word is seen by executions that read it in a later cycle. (R334) -/
  | coefficientWrite (a : Fin 16) (w : Fin 512) (v : Word)
  /-- A write of a state word takes effect only in PARKED, LOAD, MANUAL, UNLOAD and RETRACT. (R332) -/
  | stateWordWrite (a : Fin 16) (w : Fin 128) (v : Word)
  /-- A write to UNLDSEGi is copied to the AON domain within 1 µs. (R347) -/
  | unldsegWrite (a : Fin 16) (i : Fin 8) (v : Word)
  /-- A load profile ends before acquisition, raising LOADFAIL. (R346) -/
  | loadProfileEnd (a : Fin 16)
  /-- The unload profile ends with the heads on the ramp and the actuator PARKED. (R347) -/
  | unloadProfileEnd (a : Fin 16)
  /-- A write of 0 to GCTL.EN retracts every loaded actuator and stops every law. (R628) -/
  | gctlEnClear (v : Word)
  /-- A write of 1 to GCTL.EN lets the PARKED actuators take commands again. (R628) -/
  | gctlEnSet (v : Word)
  /-- The spindle command START opens a 20 ms listening window. (R363) -/
  | start (s : Fin 8)
  /-- The spindle command STOP brakes, stops or unloads the spindle by its state. (R362) -/
  | stop (s : Fin 8) (turning : Bool)
  /-- The spindle command CLRFAIL clears FAILED and TRIES in STOPPED. (R362) -/
  | clrfail (s : Fin 8)
  /-- The listening window ends and the rotor is classed rest, forward fast, forward slow or backward. (R363) -/
  | listenWindowEnd (s : Fin 8) (obs : RotorObs)
  /-- Alignment or injection ends with the rotor's angle known, and RAMP starts. (R365) -/
  | locateDone (s : Fin 8) (contrast : Nat) (angle : BitVec 6)
  /-- A zero crossing of the floating phase updates speed and the speed loop and schedules commutation. (R357) -/
  | commutationEvent (s : Fin 8) (e : CommEv)
  /-- Every 1 ms in ACCEL the speed reference rises by ACCEL × 16 / 1,000. (R359) -/
  | refStep (s : Fin 8)
  /-- The back-EMF has stayed below BEMFMIN for 100 ms, so the spindle enters STOPPED and reports it. (R369) -/
  | brakeDone (s : Fin 8)
  /-- No commutation event within LOCKN intervals in RUN raises SYNCLOSS and enters COAST. (R372) -/
  | rotorLoss (s : Fin 8)
  /-- CATCHT expires in COAST without a catch, so a fly-safe unload and BRAKE follow. (R374) -/
  | catchTimeout (s : Fin 8)
  /-- Bridge current over OCLIM in two samples turns every gate off and raises OVERCUR. (R376) -/
  | overcurrent (s : Fin 8)
  /-- Setting FCT.CTL.EN brings up each target and replays the journal from the newest root page. (R385) -/
  | facetBringup (targets : List TargetInfo)
  /-- A flash codeword is read and decoded through read retry, soft decoding and stripe rebuild. (R402) -/
  | flashRead (fla : Nat) (r : FlashReads)
  /-- A die page is programmed and the stripe's XOR updated, closing the superblock at its last stripe. (R391) -/
  | flashProgram (stream : Nat) (slots : List (Nat × List Byte)) (fail : Option (Fin 4))
  /-- Every 2^20 journal entries or 600 s Facet writes a checkpoint and a root page. (R398) -/
  | checkpoint
  /-- A die not ready within 100 ms, or failing reset, is marked failed and omitted from new superblocks. (R405) -/
  | dieFail (die : Fin 256)
  /-- With fewer free SLC superblocks than FOLDLOW, the oldest CHUNK superblock is folded into native mode. (R401) -/
  | fold
  /-- With few free superblocks, reclaim copies the valid slots of the best victim and erases it. (R406) -/
  | reclaim
  /-- A victim's blocks are erased, ERASEDONE is appended and the superblock is free. (R410) -/
  | flashEraseDone (fail : Option (Nat × Fin 4))
  /-- Patrol reads the tier's programmed pages once in every DAYS days, queuing or retiring weak blocks. (R413) -/
  | flashPatrol (die : Fin 256) (plane : Fin 4) (block : Nat) (reads : List FlashReads)
  /-- Scrub reads the next buffer word, correcting and logging errors. (R428) -/
  | scrubRead (upset : Option EccErr)
  /-- After a block reset of BUF the buffer leaves self-refresh and READY returns to 1. (R429) -/
  | bufSelfrefExit
  /-- A write to CELOGCLR frees a correctable-error log entry. (R437) -/
  | celogclrWrite (spd : Bool) (v : Word)
  /-- A keyed write to SPD.CLEAR clears the valid bits of the banks named. (R431) -/
  | spdClear (v : Word)
  /-- A write to a free RETIRE entry starts copying a scratchpad page to a spare. (R441) -/
  | pageRetire (b i : Fin 4) (v : Word)
  /-- The page copy ends and the page maps to the spare in one cycle. (R441) -/
  | retireCopyDone (b i : Fin 4)
  /-- A keyed write to SPD.BANKRET retires bank 0 or bank 3 whole. (R442) -/
  | bankret (v : Word)
  /-- ADD writes ra + rb modulo 2^64. (R453) -/
  | add (c : Fin 8) (o : RForm)
  /-- SUB writes ra − rb modulo 2^64. (R453) -/
  | sub (c : Fin 8) (o : RForm)
  /-- AND writes ra and rb. (R453) -/
  | and (c : Fin 8) (o : RForm)
  /-- OR writes ra or rb. (R453) -/
  | or (c : Fin 8) (o : RForm)
  /-- XOR writes ra xor rb. (R453) -/
  | xor (c : Fin 8) (o : RForm)
  /-- SLL shifts ra left by rb[5:0]. (R453) -/
  | sll (c : Fin 8) (o : RForm)
  /-- SRL shifts ra right by rb[5:0], zero filled. (R453) -/
  | srl (c : Fin 8) (o : RForm)
  /-- SRA shifts ra right by rb[5:0], sign filled. (R453) -/
  | sra (c : Fin 8) (o : RForm)
  /-- ROR rotates ra right by rb[5:0]. (R453) -/
  | ror (c : Fin 8) (o : RForm)
  /-- SLT writes 1 if ra < rb signed. (R453) -/
  | slt (c : Fin 8) (o : RForm)
  /-- SLTU writes 1 if ra < rb unsigned. (R453) -/
  | sltu (c : Fin 8) (o : RForm)
  /-- MIN writes the signed lesser of ra and rb. (R453) -/
  | min (c : Fin 8) (o : RForm)
  /-- MAX writes the signed greater of ra and rb. (R453) -/
  | max (c : Fin 8) (o : RForm)
  /-- MINU writes the unsigned lesser of ra and rb. (R453) -/
  | minu (c : Fin 8) (o : RForm)
  /-- MAXU writes the unsigned greater of ra and rb. (R453) -/
  | maxu (c : Fin 8) (o : RForm)
  /-- MUL writes the low 64 bits of ra × rb. (R453) -/
  | mul (c : Fin 8) (o : RForm)
  /-- MULH writes the high 64 bits of the signed product. (R453) -/
  | mulh (c : Fin 8) (o : RForm)
  /-- MULHU writes the high 64 bits of the unsigned product. (R453) -/
  | mulhu (c : Fin 8) (o : RForm)
  /-- DIV writes ra / rb signed, truncated toward zero. (R453) -/
  | div (c : Fin 8) (o : RForm)
  /-- DIVU writes ra / rb unsigned. (R453) -/
  | divu (c : Fin 8) (o : RForm)
  /-- REM writes the signed remainder. (R453) -/
  | rem (c : Fin 8) (o : RForm)
  /-- REMU writes the unsigned remainder. (R453) -/
  | remu (c : Fin 8) (o : RForm)
  /-- CLZ writes the count of leading zero bits of ra. (R453) -/
  | clz (c : Fin 8) (o : RForm)
  /-- CTZ writes the count of trailing zero bits of ra. (R453) -/
  | ctz (c : Fin 8) (o : RForm)
  /-- POPC writes the count of one bits of ra. (R453) -/
  | popc (c : Fin 8) (o : RForm)
  /-- BSWAP writes the bytes of ra in reverse order. (R453) -/
  | bswap (c : Fin 8) (o : RForm)
  /-- ADDI writes ra + sext(IMM). (R454) -/
  | addi (c : Fin 8) (o : IForm)
  /-- ANDI writes ra and zext(IMM). (R454) -/
  | andi (c : Fin 8) (o : IForm)
  /-- ORI writes ra or zext(IMM). (R454) -/
  | ori (c : Fin 8) (o : IForm)
  /-- XORI writes ra xor zext(IMM). (R454) -/
  | xori (c : Fin 8) (o : IForm)
  /-- SLTI writes 1 if ra < sext(IMM) signed. (R454) -/
  | slti (c : Fin 8) (o : IForm)
  /-- SLTIU writes 1 if ra < sext(IMM) unsigned. (R454) -/
  | sltiu (c : Fin 8) (o : IForm)
  /-- SHI of kind 0 shifts ra left by an immediate count. (R454) -/
  | shiSll (c : Fin 8) (o : ShForm)
  /-- SHI of kind 1 shifts ra right, zero filled, by an immediate count. (R454) -/
  | shiSrl (c : Fin 8) (o : ShForm)
  /-- SHI of kind 2 shifts ra right, sign filled, by an immediate count. (R454) -/
  | shiSra (c : Fin 8) (o : ShForm)
  /-- SHI of kind 3 rotates ra right by an immediate count. (R454) -/
  | shiRor (c : Fin 8) (o : ShForm)
  /-- LDC loads a signed 21-bit constant. (R454) -/
  | ldc (c : Fin 8) (o : KForm)
  /-- SHC shifts 21 further constant bits into the register. (R454) -/
  | shc (c : Fin 8) (o : KForm)
  /-- BFX extracts an unsigned bit field of ra. (R454) -/
  | bfx (c : Fin 8) (o : FForm)
  /-- BFXS extracts a signed bit field of ra. (R454) -/
  | bfxs (c : Fin 8) (o : FForm)
  /-- BFI inserts the low bits of ra into a field of rd. (R454) -/
  | bfi (c : Fin 8) (o : FForm)
  /-- LD.B loads a sign-extended byte. (R455) -/
  | ldB (c : Fin 8) (o : IForm) (e : MemEv)
  /-- LD.BU loads a zero-extended byte. (R455) -/
  | ldBu (c : Fin 8) (o : IForm) (e : MemEv)
  /-- LD.H loads a sign-extended halfword. (R455) -/
  | ldH (c : Fin 8) (o : IForm) (e : MemEv)
  /-- LD.HU loads a zero-extended halfword. (R455) -/
  | ldHu (c : Fin 8) (o : IForm) (e : MemEv)
  /-- LD.W loads a sign-extended word. (R455) -/
  | ldW (c : Fin 8) (o : IForm) (e : MemEv)
  /-- LD.WU loads a zero-extended word. (R455) -/
  | ldWu (c : Fin 8) (o : IForm) (e : MemEv)
  /-- LD.D loads a doubleword. (R455) -/
  | ldD (c : Fin 8) (o : IForm) (e : MemEv)
  /-- ST.B stores a byte. (R455) -/
  | stB (c : Fin 8) (o : IForm) (e : MemEv)
  /-- ST.H stores a halfword. (R455) -/
  | stH (c : Fin 8) (o : IForm) (e : MemEv)
  /-- ST.W stores a word. (R455) -/
  | stW (c : Fin 8) (o : IForm) (e : MemEv)
  /-- ST.D stores a doubleword. (R455) -/
  | stD (c : Fin 8) (o : IForm) (e : MemEv)
  /-- AADD.W adds a word at the bank and returns the old value. (R460) -/
  | aaddW (c : Fin 8) (o : RForm)
  /-- AADD.D adds a doubleword at the bank and returns the old value. (R460) -/
  | aaddD (c : Fin 8) (o : RForm)
  /-- ASWP.W swaps a word at the bank. (R460) -/
  | aswpW (c : Fin 8) (o : RForm)
  /-- ASWP.D swaps a doubleword at the bank. (R460) -/
  | aswpD (c : Fin 8) (o : RForm)
  /-- FENCE.W waits until every earlier store, clean, flush, atomic and POST is acknowledged. (R462) -/
  | fenceW (c : Fin 8) (o : RForm)
  /-- FENCE.R waits until every earlier preload has filled. (R462) -/
  | fenceR (c : Fin 8) (o : RForm)
  /-- FENCE waits for both and discards instructions fetched ahead. (R462) -/
  | fence (c : Fin 8) (o : RForm)
  /-- CCLEAN writes back a dirty data-cache line and keeps it clean. (R463) -/
  | cclean (c : Fin 8) (o : CForm)
  /-- CINVAL removes a line from the data cache, discarding dirty data. (R463) -/
  | cinval (c : Fin 8) (o : CForm)
  /-- CFLUSH cleans and then invalidates a data-cache line. (R463) -/
  | cflush (c : Fin 8) (o : CForm)
  /-- IINVAL removes a line from the instruction cache. (R463) -/
  | iinval (c : Fin 8) (o : CForm)
  /-- CPRE fills a line into the data cache, into way PLWAY when PLEN is 1. (R504) -/
  | cpre (c : Fin 8) (o : CForm)
  /-- IPRE fills a line into the instruction cache, into way PLWAY when PLEN is 1. (R504) -/
  | ipre (c : Fin 8) (o : CForm)
  /-- BEQ branches if ra = rb. (R464) -/
  | beq (c : Fin 8) (o : BForm)
  /-- BNE branches if ra ≠ rb. (R464) -/
  | bne (c : Fin 8) (o : BForm)
  /-- BLT branches if ra < rb signed. (R464) -/
  | blt (c : Fin 8) (o : BForm)
  /-- BGE branches if ra ≥ rb signed. (R464) -/
  | bge (c : Fin 8) (o : BForm)
  /-- BLTU branches if ra < rb unsigned. (R464) -/
  | bltu (c : Fin 8) (o : BForm)
  /-- BGEU branches if ra ≥ rb unsigned. (R464) -/
  | bgeu (c : Fin 8) (o : BForm)
  /-- BLB clears LDBUSY and branches when it is set. (R464) -/
  | blb (c : Fin 8) (o : BForm)
  /-- J jumps by a 26-bit offset. (R464) -/
  | j (c : Fin 8) (off : BitVec 26)
  /-- JL jumps and writes the return address. (R464) -/
  | jl (c : Fin 8) (o : KForm)
  /-- JLR jumps to a register address and writes the return address. (R464) -/
  | jlr (c : Fin 8) (o : IForm)
  /-- MFS reads a special register. (R465) -/
  | mfs (c : Fin 8) (o : RForm)
  /-- MTS writes a special register. (R465) -/
  | mts (c : Fin 8) (o : RForm)
  /-- TRAP raises a trap of cause TRAP with a code. (R465) -/
  | trap (c : Fin 8) (o : RForm)
  /-- RETI pops frame 0 of the trap stack. (R469) -/
  | reti (c : Fin 8) (o : RForm)
  /-- WFI waits for a deliverable line, a non-maskable trap or a BUSERRW. (R466) -/
  | wfi (c : Fin 8) (o : RForm)
  /-- HALT halts the core until a core reset. (R471) -/
  | halt (c : Fin 8) (o : RForm)
  /-- POST places a media descriptor in a queue and returns a result code. (R473) -/
  | post (c : Fin 8) (o : RForm)
  /-- XOP runs the customer microcode entry of its number, or traps with XOPEMPTY. (R477) -/
  | xop (c : Fin 8) (o : XForm) (es : List XopEv)
  /-- A posted write's error response is taken as BUSERRW at the next instruction boundary. (R468) -/
  | buserrw (c : Fin 8)
  /-- A pending non-maskable trap is taken at an instruction boundary when NMI is 0 and DEPTH below 2. (R469) -/
  | takeNmt (c : Fin 8)
  /-- A deliverable line is taken at an instruction boundary, raising IPRI to its priority. (R469) -/
  | takeInterrupt (c : Fin 8)
  /-- A keyed write of RUN 1 releases a core from reset at STARTPC. (R481) -/
  | coreRun (c : Fin 8) (v : Word)
  /-- A keyed write of RESET, or of RUN 0 to a running core, performs a core reset. (R479) -/
  | coreReset (c : Fin 8) (v : Word)
  /-- A core's write to its own CACHECTL takes effect before the core goes on, draining the data cache when DEN is cleared. (R506) -/
  | cachectlWrite (c : Fin 8) (v : Word)
  /-- A slice takes a media descriptor from its queue and checks it in the order FORMAT to NOTREADY. (R474) -/
  | descriptorStart (n : Fin 8)
  /-- A REPLAY descriptor re-anchors a unit from its sample record with no revolution. (R271) -/
  | replay (n : Fin 8)
  /-- A descriptor ends, its status entries written, then CTL with DONE, then OPDONE set. (R476) -/
  | descriptorDone (n : Fin 8)
  /-- A write of LOADCTL.START checks and hashes the staged image and sends it to the Datum die. (R496) -/
  | mcsLoadStart (v : Word)
  /-- The Datum verdict arrives and a favourable image is committed with the cores held at a boundary. (R498) -/
  | mcsVerdict (sigOk : Bool)
  /-- No verdict within 100 ms ends the load with RESULT DATUM. (R496) -/
  | mcsVerdictTimeout
  /-- A write to CHSTARTc reads the descriptor and starts the channel, or ends with DESCERR. (R513) -/
  | dmaStart (c : Fin 32) (v : DWord)
  /-- A COPY descriptor copies LEN bytes from SRC to DST. (R516) -/
  | dmaCopy (c : Fin 32) (e : DmaEv)
  /-- A GATHER descriptor reads indexed elements into a contiguous destination. (R516) -/
  | gather (c : Fin 32) (e : DmaEv)
  /-- A SCATTER descriptor writes contiguous elements to indexed destinations. (R516) -/
  | scatter (c : Fin 32) (e : DmaEv)
  /-- A FILL descriptor writes the repeated constant of AUX. (R516) -/
  | fill (c : Fin 32) (e : DmaEv)
  /-- A COMPARE descriptor compares two operands and records the first mismatch. (R521) -/
  | dmaCompare (c : Fin 32) (e : DmaEv)
  /-- The read-back returns, and the channel writes CTL, sets DONESTAT and follows the chain. (R522) -/
  | dmaReadbackDone (c : Fin 32) (err : Bool)
  /-- A write of CHCTLc.ABORT stops new source accesses and ends the descriptor with ABORTED. (R525) -/
  | dmaAbort (c : Fin 32) (v : Word)
  /-- A write of 1 to FSTAT clears bits whose source is not LIVE, sets STILL otherwise, and resets ESC and the capture as they empty. (R540) -/
  | fstatWrite (b : Blk) (v : DWord)
  /-- A write to FMASK masks or unmasks kinds and sets their nFAULT enables. (R532) -/
  | fmaskWrite (b : Blk) (v : Word)
  /-- A write of 1 to PMU.FRSTSRC.HOLD releases nFAULT held through a fault chip reset. (R537) -/
  | frstsrcHoldClear (v : Word)
  /-- A general input's filtered level changes after FILT ticks, counting and triggering on an active edge. (R543) -/
  | inputEdge (i : Fin 9) (active : Bool)
  /-- A general input held active triggers again every RETRIG ms. (R544) -/
  | inputRetrigger (i : Fin 9)
  /-- An input active for 10 s without a break is marked FAULTY and raises INSTUCK. (R546) -/
  | inputStuck (i : Fin 9)
  /-- A write of 1 to MASKED or FAULTY clears it only when the filtered level is inactive. (R545) -/
  | instatWrite (i : Fin 9) (v : Word)
  /-- A sample enters the recorder's queue, stamped, or is dropped when the queue is full. (R550) -/
  | evrSample (ch : Fin 96) (value : BitVec 32)
  /-- One queued sample is applied to its channel's bins, extremes and stamps in one PER cycle. (R549) -/
  | evrApply
  /-- An 8-byte write to EVR.POST posts a firmware sample, forwarded to the Datum die for channels 90–95. (R551) -/
  | evrPost (v : DWord)
  /-- A post forwarded to the Datum die not accepted within 100 ms is dropped and DLINK raised. (R554) -/
  | evrForwardTimeout
  /-- A read of EVR.WINDOW returns the word under the cursor and advances it. (R555) -/
  | windowRead
  /-- With RESTORE set, a write to EVR.WINDOW sets a record word and advances the cursor. (R555) -/
  | windowWrite (v : Word)
  /-- A keyed write to EVR.CLEAR clears one channel or all of channels 0–87. (R557) -/
  | evrClear (v : Word)
  /-- Every 100,000,000 ticks OPSEC adds one operating second. (R552) -/
  | opsecAdvance
  /-- A due trim is measured in its gap and moved one step toward its target, or abandoned at the gap's end. (R562) -/
  | calMeasure (kind : Fin 6) (inst : Fin 32) (target : Int) (overtaken : Bool)
  /-- A write to CAL.CMD makes an instance due at once. (R561) -/
  | calCmd (v : Word)
  /-- REFIN and the bandgap differ by more than 5%, suspending all calibration. (R558) -/
  | reflost
  /-- A keyed write to DTM.DOOR sends the request in REQ to the Datum die. (R601) -/
  | mailboxDoor (v : Word)
  /-- The Datum die's response arrives in RESP and IRQSTAT.DONE is set. (R601) -/
  | mailboxResponse
  /-- A request without response for 100 ms raises LINKLOST and ends with result 0xFF. (R598) -/
  | mailboxTimeout
  /-- BOOTREQ streams and verifies boot slot A, then slot B, into scratchpad bank 0. (R589) -/
  | bootreq (a b : ImageInfo)
  /-- VERIFY checks a microcode digest and signature against the key and build floor of its kind. (R496) -/
  | datumVerify (kind build : Nat) (sigOk floor : Bool)
  /-- FWWRITE writes part of a firmware slot, erasing it at offset 0. (R590) -/
  | fwwrite (slot offset : Nat) (bytes : List Byte) (e : NorEv)
  /-- FWCOMMIT verifies a slot in place, raising the floor with FLOOR. (R590) -/
  | fwcommit (slot : Nat) (floor : Bool) (img : ImageInfo)
  /-- CFGREAD returns the configuration block, and with FRESH also OPSEC and PCYC + 1. (R599) -/
  | cfgread (src : ReqSrc) (fresh : Bool)
  /-- CFGWRITE rewrites the configuration block for the next start-up. (R596) -/
  | cfgwrite (src : ReqSrc) (bytes : List Byte) (e : NorEv)
  /-- CALREAD returns the calibration row. (R579) -/
  | calread (src : ReqSrc)
  /-- KEYLOAD sends an unwrapped key over the key link to a codec slot. (R586) -/
  | keyload (slot : Fin 64) (epoch : Nat)
  /-- KEYNEW gives one slot a new key and zeroes the old copy. (R587) -/
  | keynew (slot : Fin 64) (e : NorEv)
  /-- KEYALL gives every slot a new key and zeroes the old copy. (R587) -/
  | keyall (e : NorEv)
  /-- CHAINAPPEND appends an entry to the hash chain unless a rule covers its scope. (R595) -/
  | chainappend (op nsslot nsid handle first last : Nat) (key : List Byte) (e : NorEv)
  /-- CHAINREAD returns chain entries from a SEQ. (R596) -/
  | chainread (src : ReqSrc) (seq : Nat)
  /-- CHAINACK, signed, lets chain sectors up to a SEQ be erased. (R595) -/
  | chainack (src : ReqSrc) (sig : Sig) (seq : Nat)
  /-- RULEADD, signed, writes a SWEEPING rule and its window and posts SWEEP. (R592) -/
  | ruleadd (src : ReqSrc) (sig : Sig) (nswide hold : Bool) (nsslot : Fin 64) (handle first last until_ : Nat)
  /-- RULEEXTEND, signed, raises UNTIL or sets HOLD. (R593) -/
  | ruleextend (src : ReqSrc) (sig : Sig) (rule until_ : Nat) (hold : Bool)
  /-- RULERELEASE, signed, clears HOLD. (R593) -/
  | rulerelease (src : ReqSrc) (sig : Sig) (rule : Nat)
  /-- RULEREAD returns rule records. (R596) -/
  | ruleread (src : ReqSrc) (rule : Nat)
  /-- SWEEPDONE makes a rule ACTIVE and clears its window. (R592) -/
  | sweepdone (rule : Nat)
  /-- At a second boundary a rule whose UNTIL has passed is released and RELEASED posted. (R593) -/
  | ruleRelease (rule : Nat)
  /-- TIMEGET returns the Datum clock. (R580) -/
  | timeget (src : ReqSrc)
  /-- CLKADJ slews the clock by at most ±1 s per day window. (R581) -/
  | clkadj (delta : Int)
  /-- CLKSET, signed, sets the clock forward and sets CLKVALID. (R581) -/
  | clkset (src : ReqSrc) (sig : Sig) (time : Nat)
  /-- COUNTSAVE appends an OPSEC, TIME and PCYC record to COUNTERS. (R599) -/
  | countsave (opsec pcyc : Nat) (e : NorEv)
  /-- TIERREAD returns the tier record. (R596) -/
  | tierread (src : ReqSrc)
  /-- TIERWRITE rewrites the tier record. (R596) -/
  | tierwrite (src : ReqSrc) (bytes : List Byte) (e : NorEv)
  /-- EVPOST records a sample on channels 90–95. (R554) -/
  | evpost (ch : Fin 96) (value : BitVec 32)
  /-- STATUS returns wear, CLKVALID, floors and the rotation pointer. (R596) -/
  | status (src : ReqSrc)
  /-- PROVISION writes CFWKEY, CMCKEY or CUSTKEY once. (R584) -/
  | provision (src : ReqSrc) (which : Fin 3) (key : List Byte)
  /-- PHYSREAD returns a physical sector and header at the port, with INDET. (R596) -/
  | physread (src : ReqSrc) (sector : Fin 4096)
  /-- In idle time the Datum die erases INTERRUPTED sectors in ascending order. (R577) -/
  | interruptedErase (ok : Bool)
  /-- At 00:00:00 UTC the Datum die saves the time, records 88–95 and a VBAT sample. (R582) -/
  | dailySave (vbat : Int) (e : NorEv)
  /-- VBAT falls below 1.80 V and event VBATLOW is posted. (R600) -/
  | vbatLow
  /-- A port frame opening with 0xA5 sends a request to the Datum die. (R597) -/
  | portRequestFrame (req : List Byte)
  /-- A port frame opening with 0x5A reads the response. (R597) -/
  | portResponseRead
  /-- A port frame opening with 0x55 reads one status byte. (R597) -/
  | portStatusRead
  /-- nTRST low or five TCK edges with TMS high put the port in Test-Logic-Reset with IDCODE. (R602) -/
  | tapReset
  /-- EXTEST drives the boundary register onto the balls when nRESET is low and the unload has ended. (R605) -/
  | extest
  /-- IDCODE selects the 32-bit identification register. (R604) -/
  | idcode
  /-- SAMPLE/PRELOAD captures and loads the boundary register. (R603) -/
  | samplePreload (capture load_ : BitVec 2318)
  /-- EXTEST_PULSE drives 1149.6 pulse waveforms on the lanes. (R609) -/
  | extestPulse
  /-- EXTEST_TRAIN drives 1149.6 train waveforms on the lanes. (R609) -/
  | extestTrain
  /-- CLAMP holds the boundary values on the balls and selects bypass. (R605) -/
  | clamp
  /-- HIGHZ leaves every output ball undriven. (R610) -/
  | highz
  /-- BYPASS, or any unlisted opcode, selects the bypass register. (R603) -/
  | bypass (opcode : Byte)
  /-- Every 1 ms the junction sensor gives a reading, evaluating TEMPHI and TEMPCRIT. (R621) -/
  | tempReading (t : Int)
  /-- nRESET rises, ending the chip reset unless a pin-driving test instruction holds it. (R605) -/
  | nresetRelease
  /-- A PCI Express configuration request reaches a port and is answered with Request Retry Status or in full, setting BARs, Bus Master Enable and power state. (R69) -/
  | configurationRequest (p : Port) (r : CfgReq)
  /-- The link enters or leaves L0p, L1, L1.1 or L1.2 with CLKREQn, gating or ungating the HOSTPHY domain. (R88) -/
  | linkPowerState (p : Port) (st : LinkPm)
  /-- A successful completion with data for a device read of host memory arrives at a port. (R520) -/
  | hostReadCompletion (p : Port) (t : LinkTarget) (bytes : List Byte)
  /-- nWUSn rises or another write-unsafe source goes away, clearing WUSLIVE and starting the WUSHOLD count. (R259) -/
  | writeUnsafeAbsent (link : Fin 16) (src : WusSrc)
  /-- The controller commutates at a scheduled instant, advancing the RAMP schedule and failing a handover that got no HOSYNC events within 2 × HOSYNC intervals. (R366) -/
  | commutationInstant (s : Fin 8) (lag : Nat)
  /-- No commutation event comes within LOCKN intervals in ACCEL, ending the start with FAILCAUSE 1. (R367) -/
  | lockedRotor (s : Fin 8)
  /-- With a head loaded, no zero crossing comes within four intervals, or the amplitude falls below BEMFMIN, and a fly-safe unload follows. (R374) -/
  | zeroCrossingTimeout (s : Fin 8)
  /-- A rail returns within ±5% of its target, setting PGOOD and ending the LIVE condition of RAILFAULT. (R56) -/
  | railReturn (r : Fin 6)
  /-- REFIN and the bandgap again agree within 5%, ending REFLOST and letting calibration resume. (R558) -/
  | refinReturn
  deriving DecidableEq, Repr

end Sys2Proof
end

