-- ==== Sys2Proof/Config.lean ====
section
/-! DEFINITION. What one device or one run fixes and the spec leaves open: every constant here is opaque, so that no
proof can learn a value. Each is named in the assumption log. -/

namespace Sys2Proof.Config

/-- The value number `n` of the unpredictable values that one run draws (R16, R433, R459, R483). -/
opaque free : Nat → DWord
/-- What the reserved bits of the register at an address read as (R12, code RSV). -/
opaque rsvRead : Nat → DWord
/-- What a byte of host memory that no command has set holds: host memory is the host's. -/
opaque hostByte : Nat → Byte
/-- Contents of PCI Express capabilities that neither the spec nor the standard fixes, by offset (R92). -/
opaque cfgOpen : Nat → Word
/-- The factory calibration row of Datum flash (R579), byte by byte. -/
opaque calRow : Nat → Byte
/-- Whether the CRC of the calibration row passes (R579). -/
opaque calRowOk : Bool
/-- BUILD of the vendor microcode ROM of a stepping (R508, ROMVER). -/
opaque romBuild : Bool → Word
/-- Word of the vendor microcode ROM (R492), by stepping and address. -/
opaque romWord : Bool → Nat → BitVec 80
/-- Columns repaired by fuses (R440, SPD.REPAIR). -/
opaque repair : Word
/-- Output of the DEFLATE encoder (R159): a function of the stepping, CDC.CTL.LEVEL and the input. -/
opaque deflate : Bool → Nat → List Byte → List Byte
/-- The 64 bytes of the media key that a draw of the Datum die's generator makes (R162, R586). -/
opaque keyByte : Nat → Nat → Byte
/-- The 64-bit hash of the NSID and the key of a Key Value command (R128). -/
opaque kvHash : Nat → List Byte → Nat
/-- FMTTIME and WSEQBASE of the Origin header: when the brick was formatted, and the write sequence it began with (R176). -/
opaque fmtTime : Nat
opaque fmtWseq : Nat
/-- Magnitude, less one and modulo 127, of the LLR that a hard read of the flash gives each bit (R402). -/
opaque flashLlr : Nat
/-- Whether a quotient of the detector, or of the decoder whose rounding the spec leaves open is rounded up (R225, R226). -/
opaque roundUp : Int → Nat → Bool
/-- Hard decisions on an equalized stream toward a target, the one detector of them that no rule describes (R271). -/
opaque hardBits : List Int → List Int → List Bool
/-- Wrapped key of a draw of the Datum die's random-number generator (R586). -/
opaque wrapKey : Nat → List Byte
/-- Erase count that a physical sector of the Datum flash left the factory with. -/
opaque factoryErases : Nat → Nat

end Sys2Proof.Config
end

