-- ==== Sys2Proof/Machine/RegMap.lean ====
section
/-! DEFINITION. The register maps of the blocks (R39, R77, R80, R123, R153, R185, R187, R239, R242, R263, R291, R320,
R349, R381, R420, R445, R446, R481, R508, R510, R527, R531, R537, R547, R564, R565, R601, R624): offsets, access codes, reset values and field ranges. -/

namespace Sys2Proof.Machine

/-- One entry of a register map: `n1 × n2` registers at `off + s1·a + s2·b`, the masks of its fields by access code
(R12), the reset value of instance `n2·a + b`, and the ranges of fields that a write is clamped to, as (lowest bit, width, least,
greatest). A bit that no mask names is reserved. -/
structure RegRow where
  off : Nat
  s1 : Nat := 0
  n1 : Nat := 1
  s2 : Nat := 0
  n2 : Nat := 1
  w64 : Bool := false
  rw : Nat := 0
  w1c : Nat := 0
  rc : Nat := 0
  ro : Nat := 0
  wo : Nat := 0
  reset : Nat → Nat := fun _ => 0
  clamps : List (Nat × Nat × Nat × Nat) := []

/-- Default bin rules of the event recorder channels (R551), in the layout of CHCFG (R564). -/
def chcfgReset (c : Nat) : Nat :=
  if c < 8 then 0
  else if c < 40 then 0x8000_0000
  else if c < 48 then 0
  else if c < 56 then 0x0400_0000
  else if c = 56 then 0x0A00_0000
  else if c = 57 then 0x02FF_FFD8
  else if c = 58 then 0x0400_0000
  else if c < 88 then 0x8000_0000
  else if c = 88 then 0
  else if c = 89 then 0x0300_00AA
  else 0x8000_0000

/-- Factory value of instance `i` of trim kind `k` (R563, R579). -/
def trimReset (k i : Nat) : Nat :=
  if !Config.calRowOk then 0
  else if k = 0 then (Config.calRow (0x210 + i)).toNat
  else if k = 1 then (Config.calRow (0x230 + i)).toNat
  else if k = 2 then (Config.calRow (0x250 + i)).toNat % 64
  else if k = 3 then (Config.calRow (0x270 + i)).toNat
  else if k = 4 then ((Config.calRow (0x280 + 2 * i)).toNat + 256 * (Config.calRow (0x281 + 2 * i)).toNat) % 1024
  else (Config.calRow 0x2A0).toNat % 64

/-- Register map of SYS. -/
def rowsSys : List RegRow :=
  [{ off := 0x0, ro := 0xFFFFFF } /- PARTID -/,
   { off := 0x8, w64 := true, ro := 0xFFFFFFFFFFFFFFFF } /- TICK -/,
   { off := 0x10, w1c := 0x7F, reset := fun _ => 0x1 } /- RSTCAUSE -/,
   { off := 0x14, wo := 0xFFFF0001 } /- RSTCTL -/,
   { off := 0x18, wo := 0xFFFF00FF } /- BLKRST -/,
   { off := 0x20, ro := 0x3 } /- CLKSTAT -/,
   { off := 0x24, rw := 0x8000FFFF, clamps := [(0, 16, 1, 65535)] } /- WDTCTL -/,
   { off := 0x28, wo := 0xFFFFFFFF } /- WDTKICK -/,
   { off := 0x30, ro := 0x7FF } /- BOOTSTAT -/,
   { off := 0x34, rw := 0x1 } /- BOOTCTL -/,
   { off := 0x40, w64 := true, ro := 0xFFFFFFFFFFFFFFFF } /- CLAMPRPT -/,
   { off := 0x48, ro := 0x8000FFFF } /- CLAMPINFO -/,
   { off := 0x100, s1 := 0x10, n1 := 9, rw := 0xFFFFFFFF, reset := fun i => if i = 0 then 0x0A10_0005 else 0x0A10_0064, clamps := [(0, 16, 1, 65535), (16, 8, 1, 255)] } /- INCFGi -/,
   { off := 0x104, s1 := 0x10, n1 := 9, w1c := 0x70000000, ro := 0x80000000 } /- INSTATi -/,
   { off := 0x108, s1 := 0x10, n1 := 9, rc := 0xFFFF } /- INCNTi -/]

/-- Register map of HPA and HPB. -/
def rowsHp : List RegRow :=
  [{ off := 0x0, ro := 0x80FF0F77 } /- LINKSTAT -/,
   { off := 0x4, rw := 0x7, wo := 0x100, reset := fun _ => 0x5 } /- LINKCTL -/,
   { off := 0x8, ro := 0x33F } /- CTLSTAT -/,
   { off := 0xC, ro := 0xFF } /- QACTIVE -/,
   { off := 0x10, rc := 0xFFFFFFFF } /- ERRCOR -/,
   { off := 0x14, rc := 0xFFFFFFFF } /- ERRUNC -/,
   { off := 0x18, rc := 0xFFFFFFFF } /- RECOVCNT -/,
   { off := 0x20, wo := 0xFF00FF07 } /- AENPOST -/,
   { off := 0x24, ro := 0xFFFF } /- AENHELD -/]

/-- Register map of CQU. -/
def rowsCqu : List RegRow :=
  [{ off := 0x0, ro := 0x1FFF1FFF } /- INFLIGHT -/,
   { off := 0x4, ro := 0x7FF } /- LOCKUSE -/,
   { off := 0x8, rc := 0x7FF } /- LOCKHWM -/,
   { off := 0xC, rw := 0xFFFF, reset := fun _ => 0x1F4, clamps := [(0, 16, 1, 65535)] } /- SCHED -/,
   { off := 0x10, w64 := true, ro := 0xFFFFFFFFFFFFFFFF } /- ASEQ -/,
   { off := 0x18, rw := 0xFFF } /- TAGSEL -/,
   { off := 0x1C, ro := 0x71FFFFFF } /- TAGINFO -/,
   { off := 0x20, w64 := true, ro := 0xFFFFFFFFFFFFFFFF } /- TAGSEQ -/,
   { off := 0x28, ro := 0x771 } /- PSSTAT -/,
   { off := 0x2C, rc := 0xFFFFFFFF } /- ABORTCNT -/]

/-- Register map of LOC. -/
def rowsLoc : List RegRow :=
  [{ off := 0x0, rw := 0x1, wo := 0x10 } /- CTL -/,
   { off := 0x4, ro := 0x8007FFFF } /- STAT -/,
   { off := 0x8, ro := 0x7FFFF } /- DIRTYCNT -/,
   { off := 0xC, rc := 0xFFFFFFFF } /- HITS -/,
   { off := 0x10, rc := 0xFFFFFFFF } /- MISSES -/,
   { off := 0x14, rc := 0xFFFFFFFF } /- CASFAIL -/,
   { off := 0x18, ro := 0x7FF } /- BANDRDR -/,
   { off := 0x100, s1 := 0x20, n1 := 8, w64 := true, ro := 0xC00000FFFFFFFFFF } /- RWHANDLEn -/,
   { off := 0x108, s1 := 0x20, n1 := 8, w64 := true, ro := 0xFFFFFFFFFF } /- RWFIRSTn -/,
   { off := 0x110, s1 := 0x20, n1 := 8, w64 := true, ro := 0xFFFFFFFFFF } /- RWLASTn -/]

/-- Register map of CDC. -/
def rowsCdc : List RegRow :=
  [{ off := 0x0, rw := 0x3, reset := fun _ => 0x2 } /- CTL -/,
   { off := 0x4, ro := 0xFFFF } /- STAT -/,
   { off := 0x8, w64 := true, rw := 0xFFFFFFFFFFFFFF } /- WSEQ -/,
   { off := 0x10, rc := 0xFFFFFFFF } /- CHUNKSC -/,
   { off := 0x14, rc := 0xFFFFFFFF } /- CHUNKSR -/,
   { off := 0x18, rc := 0xFFFFFFFF } /- SAVED -/,
   { off := 0x1C, rc := 0xFFFFFFFF } /- TAGMISM -/,
   { off := 0x20, rc := 0xFFFFFFFF } /- DCRCERR -/,
   { off := 0x24, rc := 0xFFFFFFFF } /- INFLERR -/,
   { off := 0x28, w64 := true, ro := 0xFFFFFFFFFFFFFFFF } /- KEYLOADED -/]

/-- Register map of CHD. -/
def rowsChd : List RegRow :=
  [{ off := 0x0, rw := 0x7 } /- CTL -/,
   { off := 0x4, rw := 0x8000010F } /- ASSIGN -/,
   { off := 0x8, ro := 0xF018FF00 } /- STAT -/,
   { off := 0x10, rw := 0x30707, reset := fun _ => 0x30603, clamps := [(16, 2, 1, 3)] } /- SYNCCTL -/,
   { off := 0x14, rw := 0xFFFFF, reset := fun _ => 0x4C673 } /- TIMCTL -/,
   { off := 0x18, ro := 0x80FFFFFF } /- TIMSTAT -/,
   { off := 0x1C, rw := 0xFFFF, reset := fun _ => 0x6228, clamps := [(0, 8, 1, 63)] } /- AGCCTL -/,
   { off := 0x20, rw := 0xFFFFFFFF } /- TARGET -/,
   { off := 0x24, rw := 0xFF } /- TARGET4 -/,
   { off := 0x28, rw := 0x3F7F7F, reset := fun _ => 0x2020 } /- COMB -/,
   { off := 0x2C, rw := 0xF1, wo := 0x100, reset := fun _ => 0xA0 } /- EQCTL -/,
   { off := 0x30, rw := 0xFF, reset := fun _ => 0x18, clamps := [(0, 8, 1, 255)] } /- DETCTL -/,
   { off := 0x34, rw := 0x1FFF, reset := fun _ => 0xC2C, clamps := [(0, 4, 1, 12), (4, 4, 1, 8), (8, 5, 8, 16)] } /- ITERCTL -/,
   { off := 0x38, rw := 0xFF7F1F0F, reset := fun _ => 0x24180C05 } /- DEFCTL -/,
   { off := 0x3C, rw := 0xFF01, reset := fun _ => 0x1001, clamps := [(8, 8, 1, 64)] } /- SRCTL -/,
   { off := 0x40, w64 := true, rw := 0xFFFFF0000 } /- SAMPBASE -/,
   { off := 0x50, rc := 0xFFFFFFFF } /- UNITOK -/,
   { off := 0x54, rc := 0xFFFFFFFF } /- UNITFAIL -/,
   { off := 0x58, rc := 0xFFFFFFFF } /- SYNCMISS -/,
   { off := 0x5C, rc := 0xFFFFFFFF } /- RSMISS -/,
   { off := 0x60, rc := 0xFFFFFFFF } /- BUDGETCNT -/,
   { off := 0x64, rc := 0xFFFFFFFF } /- MARKED -/,
   { off := 0x68, rc := 0xFFFFFFFF } /- ITERSUM -/,
   { off := 0x6C, rc := 0xFFFFFFFF } /- LOCKLOSS -/,
   { off := 0x70, rw := 0x7 } /- IRQEN -/,
   { off := 0x74, w1c := 0x7 } /- IRQSTAT -/,
   { off := 0x100, s1 := 0x4, n1 := 32, rw := 0x3FF } /- EQAk -/,
   { off := 0x180, s1 := 0x4, n1 := 32, rw := 0x3FF } /- EQBk -/,
   { off := 0x200, rw := 0xFFFF0130, reset := fun _ => 0x640000, clamps := [(16, 16, 1, 65535)] } /- WCTL -/,
   { off := 0x204, ro := 0xE3FF00FF } /- WSTAT -/,
   { off := 0x208, w64 := true, rw := 0xFFFFFFFC0 } /- WPBASE -/,
   { off := 0x210, w64 := true, rw := 0xFFC000000 } /- WPTRBASE -/,
   { off := 0x218, rw := 0x7F } /- PSCTL -/,
   { off := 0x21C, rw := 0xFFFF, w1c := 0x40000000, ro := 0x80000000 } /- PSCMD -/,
   { off := 0x220, ro := 0xFF } /- PSRESP -/,
   { off := 0x230, rc := 0xFFFFFFFF } /- UNITSWR -/,
   { off := 0x234, rc := 0xFFFFFFFF } /- WUSCNT -/,
   { off := 0x238, rc := 0xFFFFFFFF } /- LASERDEV -/,
   { off := 0x23C, rc := 0xFFFFFFFF } /- VERIFYFAIL -/,
   { off := 0x240, rc := 0xFFFFFFFF } /- UNDERRUN -/,
   { off := 0x300, rw := 0x6, wo := 0x1 } /- OCCTL -/,
   { off := 0x308, w64 := true, rw := 0xFFFFFFE00 } /- OCROWS -/,
   { off := 0x310, w64 := true, rw := 0xFFFFFFFFFFFFFFFF } /- OCERASE -/,
   { off := 0x318, w1c := 0x40000000, ro := 0xB03F1FFF } /- OCSTAT -/,
   { off := 0x320, rc := 0xFFFFFFFF } /- OCCORR -/,
   { off := 0x324, rc := 0xFFFFFFFF } /- OCFAIL -/]

/-- Register map of AFE. -/
def rowsAfe : List RegRow :=
  [{ off := 0x0, s1 := 0x1000, n1 := 16, rw := 0x3 } /- CTL -/,
   { off := 0x4, s1 := 0x1000, n1 := 16, rw := 0x1FFFFFF } /- SYNTH -/,
   { off := 0x8, s1 := 0x1000, n1 := 16, ro := 0x3 } /- SYNTHSTAT -/,
   { off := 0x10, s1 := 0x1000, n1 := 16, rw := 0xFF, reset := fun _ => 0x80 } /- GAINA -/,
   { off := 0x14, s1 := 0x1000, n1 := 16, rw := 0xFF, reset := fun _ => 0x80 } /- GAINB -/,
   { off := 0x18, s1 := 0x1000, n1 := 16, rw := 0xF1F, reset := fun _ => 0x410 } /- CTF -/,
   { off := 0x1C, s1 := 0x1000, n1 := 16, rc := 0xFFFFFFFF } /- SATCNT -/,
   { off := 0x20, s1 := 0x1000, n1 := 16, ro := 0xFF } /- AMPA -/,
   { off := 0x24, s1 := 0x1000, n1 := 16, ro := 0xFF } /- AMPB -/]

/-- Register map of RAD. -/
def rowsRad : List RegRow :=
  [{ off := 0x0, s1 := 0x100, n1 := 16, wo := 0x1F } /- CMD -/,
   { off := 0x4, s1 := 0x100, n1 := 16, ro := 0xF0F00F0F } /- STATE -/,
   { off := 0x8, s1 := 0x100, n1 := 16, rw := 0xFFFFFF } /- TARGET -/,
   { off := 0xC, s1 := 0x100, n1 := 16, rw := 0xFFFF } /- OFFSET -/,
   { off := 0x10, s1 := 0x100, n1 := 16, rw := 0xFFFF01FF, reset := fun _ => 0xF0, clamps := [(0, 4, 0, 12)] } /- LAWCFG -/,
   { off := 0x14, s1 := 0x100, n1 := 16, rw := 0xFFFFFFFF, reset := fun _ => 0x40000, clamps := [(0, 32, 1, 2147483647)] } /- AMAX -/,
   { off := 0x18, s1 := 0x100, n1 := 16, rw := 0xFFFFFFFF, reset := fun _ => 0x10000000 } /- VMAX -/,
   { off := 0x1C, s1 := 0x100, n1 := 16, rw := 0xFFFFFF } /- FFGAIN -/,
   { off := 0x20, s1 := 0x100, n1 := 16, rw := 0xFFFFFF, reset := fun _ => 0x40CCD, clamps := [(16, 8, 1, 255)] } /- SETTLE -/,
   { off := 0x24, s1 := 0x100, n1 := 16, rw := 0xFFFFFF, reset := fun _ => 0x32000, clamps := [(16, 8, 1, 255)] } /- WINH -/,
   { off := 0x28, s1 := 0x100, n1 := 16, rw := 0xF0FFFFFF, reset := fun _ => 0x80040000, clamps := [(28, 4, 1, 15)] } /- PLAUS -/,
   { off := 0x2C, s1 := 0x100, n1 := 16, rw := 0xFFFFFFFF, reset := fun _ => 0x7FFF7FFF, clamps := [(0, 16, 1, 32767), (16, 16, 1, 32767)] } /- VCMLIM -/,
   { off := 0x30, s1 := 0x100, n1 := 16, rw := 0xFFFF } /- MANCUR -/,
   { off := 0x34, s1 := 0x100, n1 := 16, ro := 0xFFFFFFFF } /- PES -/,
   { off := 0x38, s1 := 0x100, n1 := 16, w64 := true, ro := 0xFFFFFFFFFF } /- POS -/,
   { off := 0x40, s1 := 0x100, n1 := 16, s2 := 0x4, n2 := 8, rw := 0xFFFF } /- TSTEPi -/,
   { off := 0x60, s1 := 0x100, n1 := 16, s2 := 0x4, n2 := 8, rw := 0xFFFFFFFF } /- LOADSEGi -/,
   { off := 0x80, s1 := 0x100, n1 := 16, s2 := 0x4, n2 := 8, rw := 0xFFFFFFFF } /- UNLDSEGi -/,
   { off := 0xA0, s1 := 0x100, n1 := 16, rc := 0xFFFFFFFF } /- BADCNT -/,
   { off := 0xA4, s1 := 0x100, n1 := 16, rc := 0xFFFFFFFF } /- WINHCNT -/,
   { off := 0xA8, s1 := 0x100, n1 := 16, rc := 0xFFFFFFFF } /- STEPIGN -/,
   { off := 0xAC, s1 := 0x100, n1 := 16, rc := 0xFFFFFFFF } /- CMDIGN -/,
   { off := 0xB0, s1 := 0x100, n1 := 16, w1c := 0xF } /- IRQSTAT -/,
   { off := 0xB4, s1 := 0x100, n1 := 16, rw := 0xF } /- IRQEN -/,
   { off := 0x1000, rw := 0xFFFF03, reset := fun _ => 0x100801 } /- GCTL -/,
   { off := 0x1004, ro := 0xFFFFFFFF, reset := fun _ => 0x280 } /- WEDGES -/,
   { off := 0x1008, rc := 0xFFF } /- LATEMAX -/,
   { off := 0x100C, rc := 0xFF } /- CYCMAX -/,
   { off := 0x4000, s1 := 0x4, n1 := 8192, rw := 0xFFFFFF } /- coefficient memory -/,
   { off := 0xC000, s1 := 0x4, n1 := 2048, rw := 0xFFFFFFFF } /- state memory -/]

/-- Register map of SPN. -/
def rowsSpn : List RegRow :=
  [{ off := 0x0, s1 := 0x1000, n1 := 8, rw := 0x73, reset := fun _ => 0x31, clamps := [(4, 3, 1, 7)] } /- CTL -/,
   { off := 0x4, s1 := 0x1000, n1 := 8, wo := 0xF } /- CMD -/,
   { off := 0x8, s1 := 0x1000, n1 := 8, ro := 0xFFFF0FFF } /- STAT -/,
   { off := 0xC, s1 := 0x1000, n1 := 8, ro := 0x80FFFFFF } /- SPEED -/,
   { off := 0x10, s1 := 0x1000, n1 := 8, ro := 0xFFF } /- BEMF -/,
   { off := 0x14, s1 := 0x1000, n1 := 8, ro := 0xFFFFFFFF, reset := fun _ => 0x2581C20 } /- TARGET -/,
   { off := 0x20, s1 := 0x1000, n1 := 8, rw := 0xFFFFFF0F, reset := fun _ => 0x643204, clamps := [(0, 4, 1, 8)] } /- MOTOR -/,
   { off := 0x24, s1 := 0x1000, n1 := 8, rw := 0x3F0FFF, reset := fun _ => 0x501F4, clamps := [(0, 12, 250, 2500), (16, 6, 1, 63)] } /- PWM -/,
   { off := 0x28, s1 := 0x1000, n1 := 8, rw := 0xFFFFFFFF, reset := fun _ => 0x200200 } /- SPDLOOP -/,
   { off := 0x2C, s1 := 0x1000, n1 := 8, rw := 0xFFFFFFFF, reset := fun _ => 0x2580384, clamps := [(0, 16, 100, 4000), (16, 16, 50, 2000)] } /- RAMP -/,
   { off := 0x30, s1 := 0x1000, n1 := 8, rw := 0xFFF0FFF, reset := fun _ => 0x1F404E2 } /- ILIM -/,
   { off := 0x34, s1 := 0x1000, n1 := 8, rw := 0xFF0FFF, reset := fun _ => 0x8007D0, clamps := [(16, 8, 1, 128)] } /- PROTECT -/,
   { off := 0x38, s1 := 0x1000, n1 := 8, rw := 0xFFFF0FFF, reset := fun _ => 0x12C02EE, clamps := [(16, 16, 10, 2000)] } /- ALIGN -/,
   { off := 0x3C, s1 := 0x1000, n1 := 8, rw := 0xFFFFFFFF, reset := fun _ => 0x32402064, clamps := [(0, 8, 20, 200), (16, 8, 16, 255), (24, 8, 10, 200)] } /- HFI -/,
   { off := 0x40, s1 := 0x1000, n1 := 8, rw := 0xFFFFF, reset := fun _ => 0x60019, clamps := [(0, 8, 5, 50), (8, 8, 0, 30), (16, 4, 3, 12)] } /- COMM -/,
   { off := 0x44, s1 := 0x1000, n1 := 8, rw := 0xFFFF0FFF, reset := fun _ => 0xC8034B, clamps := [(0, 8, 50, 95), (8, 4, 2, 8), (16, 16, 20, 1000)] } /- LIMITS -/,
   { off := 0x48, s1 := 0x1000, n1 := 8, rw := 0xFFFF, reset := fun _ => 0x610, clamps := [(0, 8, 4, 64), (8, 8, 2, 24)] } /- OBS -/,
   { off := 0x4C, s1 := 0x1000, n1 := 8, rw := 0xFFFF, reset := fun _ => 0x504, clamps := [(0, 8, 1, 255), (8, 8, 1, 50)] } /- DETECT -/,
   { off := 0x60, s1 := 0x1000, n1 := 8, rc := 0xFFFFFFFF } /- STARTS -/,
   { off := 0x64, s1 := 0x1000, n1 := 8, rc := 0xFFFFFFFF } /- CATCHES -/,
   { off := 0x68, s1 := 0x1000, n1 := 8, rc := 0xFFFFFFFF } /- SYNCLOSS -/,
   { off := 0x6C, s1 := 0x1000, n1 := 8, rc := 0xFFFFFFFF } /- STARTFAILS -/,
   { off := 0x70, s1 := 0x1000, n1 := 8, rc := 0xFFFFFFFF } /- OBSIMPL -/,
   { off := 0x74, s1 := 0x1000, n1 := 8, rc := 0xFFFFFFFF } /- CMDIGN -/,
   { off := 0x80, s1 := 0x1000, n1 := 8, rw := 0x7F } /- IRQEN -/,
   { off := 0x84, s1 := 0x1000, n1 := 8, w1c := 0x7F } /- IRQSTAT -/]

/-- Register map of LAT. -/
def rowsLat : List RegRow :=
  [{ off := 0x0, rw := 0x1 } /- CTL -/,
   { off := 0x4, ro := 0xFFF } /- CFG -/,
   { off := 0x8, rw := 0x7F, reset := fun _ => 0x10, clamps := [(0, 7, 1, 64)] } /- OPENMAX -/,
   { off := 0xC, ro := 0x7F } /- OPENCNT -/,
   { off := 0x10, ro := 0xFFFF } /- SPNSTATE -/,
   { off := 0x14, wo := 0xE01FFFFF } /- SEAL -/,
   { off := 0x18, rw := 0xFFFFFF } /- GRPSEL -/,
   { off := 0x1C, ro := 0x70FFFFFF } /- GRPINFO -/,
   { off := 0x20, s1 := 0x4, n1 := 8, ro := 0x1FFFF } /- GRPFILLj -/,
   { off := 0x40, rw := 0x701, wo := 0xC0000000 } /- RBCTL -/,
   { off := 0x44, ro := 0x801FFFFF } /- RBSTAT -/,
   { off := 0x48, rc := 0xFFFFFFFF } /- RBDONE -/,
   { off := 0x4C, rc := 0xFFFFFFFF } /- RECON -/,
   { off := 0x50, rc := 0xFFFFFFFF } /- RECONFAIL -/,
   { off := 0x54, rc := 0xFFFFFFFF } /- VERIFYERR -/,
   { off := 0x58, ro := 0x800000FF } /- MIGSTAT -/,
   { off := 0x60, s1 := 0x4, n1 := 8, ro := 0x8001FFFF } /- DIRTYCNTs -/,
   { off := 0x80, rw := 0xF } /- IRQEN -/,
   { off := 0x84, w1c := 0xF } /- IRQSTAT -/,
   { off := 0x90, wo := 0x80FFFFFF } /- RESV -/]

/-- Register map of FCT. -/
def rowsFct : List RegRow :=
  [{ off := 0x0, rw := 0xF } /- CTL -/,
   { off := 0x4, ro := 0xF8FF03FF } /- STAT -/,
   { off := 0x8, rw := 0x7, reset := fun _ => 0x7 } /- CHCFG -/,
   { off := 0xC, ro := 0xFFFFFFFF } /- TGTBAD -/,
   { off := 0x10, w64 := true, ro := 0x3FFF1FFF0FFF } /- GEOM -/,
   { off := 0x18, rw := 0x7, reset := fun _ => 0x2, clamps := [(0, 3, 1, 4)] } /- GEOMCFG -/,
   { off := 0x1C, rw := 0xFF00FF, reset := fun _ => 0x10000A, clamps := [(0, 8, 1, 50), (16, 8, 2, 255)] } /- SLCCFG -/,
   { off := 0x20, ro := 0xFFFFFFFF } /- SLCSTAT -/,
   { off := 0x24, rw := 0xFFFFFFFF, reset := fun _ => 0x40010 } /- FREETH -/,
   { off := 0x28, rw := 0xFFFFFFF, reset := fun _ => 0xC802D0, clamps := [(0, 16, 1, 8760)] } /- RECLAIM -/,
   { off := 0x2C, rw := 0xFFFFFFFF, reset := fun _ => 0x75300BB8 } /- ENDUR -/,
   { off := 0x30, rw := 0xFFFF3F, reset := fun _ => 0x40814, clamps := [(0, 6, 1, 63)] } /- DECCTL -/,
   { off := 0x34, rw := 0xFFFF3F1F, reset := fun _ => 0xF00C07, clamps := [(0, 5, 1, 30)] } /- PATROLCTL -/,
   { off := 0x38, rw := 0xFF, reset := fun _ => 0x14, clamps := [(0, 8, 5, 100)] } /- SPARECFG -/,
   { off := 0x40, w64 := true, rw := 0xFF0000000 } /- TPCBASE -/,
   { off := 0x48, s1 := 0x8, n1 := 5, w64 := true, rw := 0xFFFFFF000 } /- DIRBASEs -/,
   { off := 0x70, s1 := 0x8, n1 := 5, w64 := true, rw := 0xFFFFFFFFF } /- SPACELIMs -/,
   { off := 0xA0, ro := 0xFFFFFFFF } /- SPARES -/,
   { off := 0xA4, ro := 0xFFFFF } /- FREESB -/,
   { off := 0xA8, ro := 0x7FFFF } /- VICTIM -/,
   { off := 0xAC, ro := 0xFFFFFFFF } /- VSCORE -/,
   { off := 0xB0, ro := 0xFFFFFFFF } /- PECAVG -/,
   { off := 0xB4, rc := 0xFFFFFFFF } /- TPCHITS -/,
   { off := 0xB8, rc := 0xFFFFFFFF } /- TPCMISS -/,
   { off := 0xBC, rc := 0xFFFFFFFF } /- RELOCS -/,
   { off := 0xC0, rc := 0xFFFFFFFF } /- CASDROP -/,
   { off := 0xC4, rc := 0xFFFFFFFF } /- RETRY -/,
   { off := 0xC8, rc := 0xFFFFFFFF } /- SOFTDEC -/,
   { off := 0xCC, rc := 0xFFFFFFFF } /- XORREB -/,
   { off := 0xD0, rc := 0xFFFFFFFF } /- UNCORR -/,
   { off := 0xD4, ro := 0xFFFFFFFF } /- RETIRED -/,
   { off := 0xD8, rc := 0xFFFFFFFF } /- UNKNOWN -/,
   { off := 0xE0, w64 := true, ro := 0xFFFFFFFFFFFFFFFF } /- JSEQ -/,
   { off := 0xE8, rw := 0x1F } /- IRQEN -/,
   { off := 0xEC, w1c := 0x1F } /- IRQSTAT -/,
   { off := 0x100, s1 := 0x4, n1 := 8, ro := 0xFFFFFFFF } /- DIEFAILk -/]

/-- Register map of BUF. -/
def rowsBuf : List RegRow :=
  [{ off := 0x0, rw := 0xFF01, reset := fun _ => 0x1801, clamps := [(8, 8, 1, 168)] } /- CTL -/,
   { off := 0x4, ro := 0xE00000FF } /- STAT -/,
   { off := 0x8, ro := 0xFFFF } /- RATE -/,
   { off := 0x10, rc := 0xFFFFFFFF } /- CECNT -/,
   { off := 0x14, rc := 0xFFFFFFFF } /- UECNT -/,
   { off := 0x18, rc := 0xFFFFFFFF } /- CEOVF -/,
   { off := 0x1C, rw := 0x1F7F, clamps := [(1, 6, 0, 35), (8, 4, 1, 15)] } /- INJECT -/,
   { off := 0x20, ro := 0x80000001 } /- STEST -/,
   { off := 0x24, ro := 0xFFFFFFFF } /- SCRUBPOS -/,
   { off := 0x30, wo := 0xF } /- CELOGCLR -/,
   { off := 0x100, s1 := 0x20, n1 := 16, w64 := true, ro := 0x8000000FFFFFFFF0 } /- CELOGADDRn -/,
   { off := 0x108, s1 := 0x20, n1 := 16, ro := 0xFFFF013F } /- CELOGINFOn -/,
   { off := 0x110, s1 := 0x20, n1 := 16, w64 := true, ro := 0xFFFFFFFFFFFFFFFF } /- CELOGTICKn -/]

/-- Register map of SPD. -/
def rowsSpd : List RegRow :=
  [{ off := 0x4, ro := 0xFF } /- STAT -/,
   { off := 0x8, wo := 0xFFFF000F } /- CLEAR -/,
   { off := 0x10, s1 := 0x4, n1 := 4, rc := 0xFFFFFFFF } /- CECNTb -/,
   { off := 0x20, s1 := 0x4, n1 := 4, rc := 0xFFFFFFFF } /- UECNTb -/,
   { off := 0x30, rc := 0xFFFFFFFF } /- BUSYCNT -/,
   { off := 0x34, ro := 0xB0FFFFF0 } /- BUSYADDR -/,
   { off := 0x38, rc := 0xFFFFFFFF } /- CEOVF -/,
   { off := 0x3C, rw := 0x31F7F, clamps := [(1, 6, 0, 35), (8, 4, 1, 15)] } /- INJECT -/,
   { off := 0x40, ro := 0x8000000F } /- STEST -/,
   { off := 0x44, rc := 0xF0F } /- VOTESTAT -/,
   { off := 0x48, ro := 0xFFFF, reset := fun _ => Config.repair.toNat % 0x1_0000 } /- REPAIR -/,
   { off := 0x50, s1 := 0x4, n1 := 16, rw := 0x800007FF, ro := 0x40000000 } /- RETIREb_i -/,
   { off := 0x90, wo := 0xFFFF0009 } /- BANKRET -/,
   { off := 0xA0, wo := 0xF } /- CELOGCLR -/,
   { off := 0x100, s1 := 0x20, n1 := 16, w64 := true, ro := 0x8000FFFFFFFFFFF0 } /- CELOGADDRn -/,
   { off := 0x108, s1 := 0x20, n1 := 16, ro := 0xFFFF013F } /- CELOGINFOn -/,
   { off := 0x110, s1 := 0x20, n1 := 16, w64 := true, ro := 0xFFFFFFFFFFFFFFFF } /- CELOGTICKn -/]

/-- Register map of DMA. -/
def rowsDma : List RegRow :=
  [{ off := 0x0, rw := 0x1 } /- CTL -/,
   { off := 0x4, ro := 0xFFFFFFFF } /- BUSY -/,
   { off := 0x8, w1c := 0xFFFFFFFF } /- DONESTAT -/,
   { off := 0xC, rc := 0xFFFFFFFF } /- BUSYRETRY -/,
   { off := 0x1000, s1 := 0x40, n1 := 32, w64 := true, wo := 0xFFFFFFFFFFC0 } /- CHSTARTc -/,
   { off := 0x1008, s1 := 0x40, n1 := 32, w64 := true, ro := 0xFFFFFFFFFFC0 } /- CHCURc -/,
   { off := 0x1010, s1 := 0x40, n1 := 32, ro := 0xE7FFFFFF } /- CHSTATc -/,
   { off := 0x1014, s1 := 0x40, n1 := 32, wo := 0x1 } /- CHCTLc -/,
   { off := 0x1018, s1 := 0x40, n1 := 32, w64 := true, ro := 0xFFFFFFFFFFFFFFFF } /- ERRADDRc -/,
   { off := 0x1020, s1 := 0x40, n1 := 32, w64 := true, ro := 0xFFFFFFFFFFFFFFFF } /- MISMATCHc -/,
   { off := 0x1028, s1 := 0x40, n1 := 32, rc := 0xFFFFFFFF } /- CHDONEc -/,
   { off := 0x102C, s1 := 0x40, n1 := 32, rc := 0xFFFFFFFF } /- CHSTARTIGNc -/]

/-- Register map of EVR. -/
def rowsEvr : List RegRow :=
  [{ off := 0x0, rw := 0x3 } /- CTL -/,
   { off := 0x4, rw := 0x7F3F, clamps := [(0, 6, 0, 47), (8, 7, 0, 95)] } /- CURSOR -/,
   { off := 0x8, rw := 0xFFFFFFFF } /- WINDOW -/,
   { off := 0x10, w64 := true, wo := 0x7FFFFFFFFF } /- POST -/,
   { off := 0x18, wo := 0xFFFF017F } /- CLEAR -/,
   { off := 0x1C, rc := 0xFFFFFFFF } /- DROPPED -/,
   { off := 0x20, w64 := true, ro := 0xFFFFFFFFFF } /- OPSEC -/,
   { off := 0x28, ro := 0xFFFFFFFF } /- PCYC -/,
   { off := 0x2C, ro := 0xFF01 } /- DATUMSTAT -/,
   { off := 0x100, s1 := 0x4, n1 := 96, rw := 0x9FFFFFFF, reset := fun i => chcfgReset i } /- CHCFGc -/]

/-- Register map of CAL. -/
def rowsCal : List RegRow :=
  [{ off := 0x0, rw := 0x3 } /- CTL -/,
   { off := 0x4, ro := 0xC03F003F } /- STAT -/,
   { off := 0x8, wo := 0x3F07 } /- CMD -/,
   { off := 0x10, s1 := 0x4, n1 := 6, rw := 0xFFFFFFFF, reset := fun i => [0x02D0_0018, 0x02D0_00A8, 0x02D0_00A8, 0x02D0_02D0, 0x02D0_0018, 0x02D0_00A8].getD i 0, clamps := [(0, 16, 1, 8760), (16, 16, 1, 8760)] } /- PERIODk -/,
   { off := 0x30, s1 := 0x4, n1 := 6, ro := 0xFFFFFFFF } /- COUNTk -/,
   { off := 0x50, s1 := 0x8, n1 := 6, w64 := true, ro := 0xFFFFFFFFFF } /- LASTk -/,
   { off := 0x100, s1 := 0x4, n1 := 32, rw := 0xFF, reset := fun i => trimReset 0 i } /- ADCOFSi -/,
   { off := 0x180, s1 := 0x4, n1 := 32, rw := 0xFF, reset := fun i => trimReset 1 i } /- ADCGAINi -/,
   { off := 0x200, s1 := 0x4, n1 := 32, rw := 0x3F, reset := fun i => trimReset 2 i } /- AFEGAINi -/,
   { off := 0x280, s1 := 0x4, n1 := 16, rw := 0xFF, reset := fun i => trimReset 3 i } /- LASERBn -/,
   { off := 0x2C0, s1 := 0x4, n1 := 16, rw := 0x3FF, reset := fun i => trimReset 4 i } /- VCMOFSn -/,
   { off := 0x300, rw := 0x3F, reset := fun i => trimReset 5 i } /- BANDGAP -/]

/-- Register map of CPC. -/
def rowsCpc : List RegRow :=
  [{ off := 0x0, s1 := 0x4, n1 := 8, rw := 0x1, wo := 0xFFFF0002, reset := fun i => if i = 0 then 1 else 0 } /- CORECTLc -/,
   { off := 0x40, s1 := 0x4, n1 := 8, ro := 0xFF0FF3 } /- CORESTATc -/,
   { off := 0x80, s1 := 0x8, n1 := 8, w64 := true, rw := 0xFFFFFFFFFFFC } /- STARTPCc -/,
   { off := 0xC0, s1 := 0x8, n1 := 8, w64 := true, ro := 0xFFFFFFFFFFFC } /- PCSAMPc -/,
   { off := 0x100, s1 := 0x10, n1 := 8, rw := 0x7773, reset := fun _ => 0x3 } /- CACHECTLc -/,
   { off := 0x104, s1 := 0x10, n1 := 8, ro := 0x800003FF } /- CACHESTATc -/,
   { off := 0x108, s1 := 0x10, n1 := 8, rc := 0xFFFFFFFF } /- CPERRc -/,
   { off := 0x1000, s1 := 0x4, n1 := 128, rw := 0x810F00FF } /- IRQROUTEn -/,
   { off := 0x1200, ro := 0xFFFFFFFF } /- IRQPEND0 -/,
   { off := 0x1204, ro := 0xFFFFFFFF } /- IRQPEND1 -/,
   { off := 0x1208, ro := 0xFFFFFFFF } /- IRQPEND2 -/,
   { off := 0x120C, ro := 0xFFFFFFFF } /- IRQPEND3 -/,
   { off := 0x1210, rw := 0xFF, reset := fun _ => 0x1 } /- NMTROUTE -/,
   { off := 0x1214, wo := 0xFFFF } /- SWINT -/]

/-- Register map of MCS. -/
def rowsMcs : List RegRow :=
  [{ off := 0x0, ro := 0xFFFFFFFF } /- VER -/,
   { off := 0x4, ro := 0xFFFFFFFF } /- CVER -/,
   { off := 0x8, ro := 0xFFFFFFFF } /- ROMVER -/,
   { off := 0x10, rw := 0x100, wo := 0x1 } /- LOADCTL -/,
   { off := 0x14, rw := 0xFFFF } /- LOADLEN -/,
   { off := 0x18, w1c := 0x40000000, ro := 0xB00000FF } /- LOADSTAT -/,
   { off := 0x20, w64 := true, ro := 0xFFFFFFFFFFFFFFFF } /- OVLVALID -/,
   { off := 0x30, s1 := 0x4, n1 := 8, ro := 0xFFFFFFFF } /- XOPVALIDk -/,
   { off := 0x50, rc := 0xFFFFFFFF } /- CSERR -/,
   { off := 0x60, rw := 0x73FFF } /- DBGSEL -/,
   { off := 0x68, w64 := true, ro := 0xFFFFFFFFFFFFFFFF } /- DBGDATA -/,
   { off := 0x70, ro := 0xFFFF } /- DBGDATAH -/,
   { off := 0x100, s1 := 0x4, n1 := 64, ro := 0xFFFFFFFF } /- OVLn -/,
   { off := 0x200, s1 := 0x4, n1 := 256, ro := 0xFFFF } /- XOPENTn -/,
   { off := 0x4000, s1 := 0x4, n1 := 8448, rw := 0xFFFFFFFF, reset := fun i => (Config.rsvRead (0x20_00A8_4000 + 4 * i)).toNat % 0x1_0000_0000 } /- STAGE -/]

/-- Register map of PMU. -/
def rowsPmu : List RegRow :=
  [{ off := 0x0, s1 := 0x4, n1 := 6, rw := 0xFFF, reset := fun i => [750, 900, 1050, 500, 1200, 3300].getD i 0 } /- RAILCTLn -/,
   { off := 0x20, ro := 0x3F } /- RAILSTAT -/,
   { off := 0x30, rw := 0xFFFF, reset := fun _ => 0x5DC, clamps := [(0, 16, 300, 4000)] } /- BUDGET -/,
   { off := 0x34, rw := 0xFFFF, reset := fun _ => 0x190, clamps := [(0, 16, 50, 1000)] } /- BASEW -/,
   { off := 0x38, rw := 0xFFFFFFFF, reset := fun _ => 0x5A00F0, clamps := [(0, 16, 50, 400), (16, 16, 20, 200)] } /- SPINPWR -/,
   { off := 0x3C, rw := 0xF, reset := fun _ => 0x2, clamps := [(0, 4, 1, 8)] } /- MAXSPINUP -/,
   { off := 0x40, ro := 0xFFFF, reset := fun _ => 0x190 } /- COMMIT -/,
   { off := 0x44, ro := 0xFFFFFFFF } /- SPINREQ -/,
   { off := 0x48, ro := 0xFFFFFFFF } /- INPWR -/,
   { off := 0x50, rw := 0xFFFFFFFF, reset := fun _ => 0x3FCC01E, clamps := [(0, 8, 10, 100), (8, 8, 0, 192), (16, 16, 900, 1140)] } /- PFCTL -/,
   { off := 0x54, w1c := 0xF } /- PFSTAT -/,
   { off := 0x58, rw := 0xFFFFFF, reset := fun _ => 0xFFFFFF } /- GATE -/,
   { off := 0x60, w1c := 0x40000000, ro := 0x803F00FF } /- FRSTSRC -/]

/-- Register map of DTM. -/
def rowsDtm : List RegRow :=
  [{ off := 0x0, ro := 0xF800FFFF } /- STAT -/,
   { off := 0x4, wo := 0xFFFF0001 } /- DOOR -/,
   { off := 0x8, rc := 0xFFFFFFFF } /- EVENT -/,
   { off := 0xC, ro := 0x11F } /- EVCNT -/,
   { off := 0x10, rw := 0x3 } /- IRQEN -/,
   { off := 0x14, w1c := 0x3 } /- IRQSTAT -/,
   { off := 0x100, s1 := 0x4, n1 := 64, rw := 0xFFFFFFFF } /- REQ -/,
   { off := 0x200, s1 := 0x4, n1 := 64, ro := 0xFFFFFFFF } /- RESP -/]

/-- Register map of TST. -/
def rowsTst : List RegRow :=
  [{ off := 0x0, ro := 0xFFFFFFFF } /- IDCODE -/,
   { off := 0x4, ro := 0xE00000FF } /- SCANSTAT -/,
   { off := 0x10, ro := 0x8000FFFF } /- TEMP -/,
   { off := 0x14, rc := 0x8000FFFF } /- TEMPMAX -/,
   { off := 0x18, rw := 0xFFF, reset := fun _ => 0x569, clamps := [(0, 8, 85, 110), (8, 4, 1, 15)] } /- THERMCTL -/,
   { off := 0x20, rw := 0x3 } /- IRQEN -/,
   { off := 0x24, w1c := 0x3 } /- IRQSTAT -/]

/-- The fault registers of a window (R531, R532, R533, R538). -/
def rowsFault : List RegRow :=
  [{ off := 0xFF00, w64 := true, w1c := 0xFFFFFFFFFFFFFFFF } /- FSTAT -/,
   { off := 0xFF08, w64 := true, ro := 0xFFFFFFFFFFFFFFFF } /- FLIVE -/,
   { off := 0xFF10, rw := 0xFFFF } /- FMASK -/,
   { off := 0xFF14, rw := 0xFFFF, ro := 0xFFFF0000 } /- FREACT -/,
   { off := 0xFF18, rw := 3, ro := 0x80000000 } /- FCTL -/,
   { off := 0xFF1C, ro := 0xFFFFFFFF } /- FCAP -/]

/-! ### Addresses of the registers, by the names of the maps -/

/-- PARTID (R77). -/
def Reg.sysPartid : Nat := 0x2000000000
/-- TICK (R77). -/
def Reg.sysTick : Nat := 0x2000000008
/-- RSTCAUSE (R77). -/
def Reg.sysRstcause : Nat := 0x2000000010
/-- RSTCTL (R77). -/
def Reg.sysRstctl : Nat := 0x2000000014
/-- BLKRST (R77). -/
def Reg.sysBlkrst : Nat := 0x2000000018
/-- CLKSTAT (R77). -/
def Reg.sysClkstat : Nat := 0x2000000020
/-- WDTCTL (R77). -/
def Reg.sysWdtctl : Nat := 0x2000000024
/-- WDTKICK (R77). -/
def Reg.sysWdtkick : Nat := 0x2000000028
/-- BOOTSTAT (R77). -/
def Reg.sysBootstat : Nat := 0x2000000030
/-- BOOTCTL (R77). -/
def Reg.sysBootctl : Nat := 0x2000000034
/-- CLAMPRPT (R77). -/
def Reg.sysClamprpt : Nat := 0x2000000040
/-- CLAMPINFO (R77). -/
def Reg.sysClampinfo : Nat := 0x2000000048
/-- INCFGi (R547). -/
def Reg.sysIncfg (i : Nat) : Nat := 0x2000000100 + 0x10 * i
/-- INSTATi (R547). -/
def Reg.sysInstat (i : Nat) : Nat := 0x2000000104 + 0x10 * i
/-- INCNTi (R547). -/
def Reg.sysIncnt (i : Nat) : Nat := 0x2000000108 + 0x10 * i
/-- LINKSTAT (R123). -/
def Reg.hpLinkstat (n : Nat) : Nat := 0x2000010000 + 0x10000 * n
/-- LINKCTL (R123). -/
def Reg.hpLinkctl (n : Nat) : Nat := 0x2000010004 + 0x10000 * n
/-- CTLSTAT (R123). -/
def Reg.hpCtlstat (n : Nat) : Nat := 0x2000010008 + 0x10000 * n
/-- QACTIVE (R123). -/
def Reg.hpQactive (n : Nat) : Nat := 0x200001000C + 0x10000 * n
/-- ERRCOR (R123). -/
def Reg.hpErrcor (n : Nat) : Nat := 0x2000010010 + 0x10000 * n
/-- ERRUNC (R123). -/
def Reg.hpErrunc (n : Nat) : Nat := 0x2000010014 + 0x10000 * n
/-- RECOVCNT (R123). -/
def Reg.hpRecovcnt (n : Nat) : Nat := 0x2000010018 + 0x10000 * n
/-- AENPOST (R123). -/
def Reg.hpAenpost (n : Nat) : Nat := 0x2000010020 + 0x10000 * n
/-- AENHELD (R123). -/
def Reg.hpAenheld (n : Nat) : Nat := 0x2000010024 + 0x10000 * n
/-- INFLIGHT (R153). -/
def Reg.cquInflight : Nat := 0x2000030000
/-- LOCKUSE (R153). -/
def Reg.cquLockuse : Nat := 0x2000030004
/-- LOCKHWM (R153). -/
def Reg.cquLockhwm : Nat := 0x2000030008
/-- SCHED (R153). -/
def Reg.cquSched : Nat := 0x200003000C
/-- ASEQ (R153). -/
def Reg.cquAseq : Nat := 0x2000030010
/-- TAGSEL (R153). -/
def Reg.cquTagsel : Nat := 0x2000030018
/-- TAGINFO (R153). -/
def Reg.cquTaginfo : Nat := 0x200003001C
/-- TAGSEQ (R153). -/
def Reg.cquTagseq : Nat := 0x2000030020
/-- PSSTAT (R153). -/
def Reg.cquPsstat : Nat := 0x2000030028
/-- ABORTCNT (R153). -/
def Reg.cquAbortcnt : Nat := 0x200003002C
/-- CTL (R187). -/
def Reg.locCtl : Nat := 0x2000040000
/-- STAT (R187). -/
def Reg.locStat : Nat := 0x2000040004
/-- DIRTYCNT (R187). -/
def Reg.locDirtycnt : Nat := 0x2000040008
/-- HITS (R187). -/
def Reg.locHits : Nat := 0x200004000C
/-- MISSES (R187). -/
def Reg.locMisses : Nat := 0x2000040010
/-- CASFAIL (R187). -/
def Reg.locCasfail : Nat := 0x2000040014
/-- BANDRDR (R187). -/
def Reg.locBandrdr : Nat := 0x2000040018
/-- RWHANDLEn (R187). -/
def Reg.locRwhandle (i : Nat) : Nat := 0x2000040100 + 0x20 * i
/-- RWFIRSTn (R187). -/
def Reg.locRwfirst (i : Nat) : Nat := 0x2000040108 + 0x20 * i
/-- RWLASTn (R187). -/
def Reg.locRwlast (i : Nat) : Nat := 0x2000040110 + 0x20 * i
/-- CTL (R185). -/
def Reg.cdcCtl : Nat := 0x2000050000
/-- STAT (R185). -/
def Reg.cdcStat : Nat := 0x2000050004
/-- WSEQ (R185). -/
def Reg.cdcWseq : Nat := 0x2000050008
/-- CHUNKSC (R185). -/
def Reg.cdcChunksc : Nat := 0x2000050010
/-- CHUNKSR (R185). -/
def Reg.cdcChunksr : Nat := 0x2000050014
/-- SAVED (R185). -/
def Reg.cdcSaved : Nat := 0x2000050018
/-- TAGMISM (R185). -/
def Reg.cdcTagmism : Nat := 0x200005001C
/-- DCRCERR (R185). -/
def Reg.cdcDcrcerr : Nat := 0x2000050020
/-- INFLERR (R185). -/
def Reg.cdcInflerr : Nat := 0x2000050024
/-- KEYLOADED (R185). -/
def Reg.cdcKeyloaded : Nat := 0x2000050028
/-- CTL (R239). -/
def Reg.chdCtl (n : Nat) : Nat := 0x2000100000 + 0x10000 * n
/-- ASSIGN (R239). -/
def Reg.chdAssign (n : Nat) : Nat := 0x2000100004 + 0x10000 * n
/-- STAT (R239). -/
def Reg.chdStat (n : Nat) : Nat := 0x2000100008 + 0x10000 * n
/-- SYNCCTL (R239). -/
def Reg.chdSyncctl (n : Nat) : Nat := 0x2000100010 + 0x10000 * n
/-- TIMCTL (R239). -/
def Reg.chdTimctl (n : Nat) : Nat := 0x2000100014 + 0x10000 * n
/-- TIMSTAT (R239). -/
def Reg.chdTimstat (n : Nat) : Nat := 0x2000100018 + 0x10000 * n
/-- AGCCTL (R239). -/
def Reg.chdAgcctl (n : Nat) : Nat := 0x200010001C + 0x10000 * n
/-- TARGET (R239). -/
def Reg.chdTarget (n : Nat) : Nat := 0x2000100020 + 0x10000 * n
/-- TARGET4 (R239). -/
def Reg.chdTarget4 (n : Nat) : Nat := 0x2000100024 + 0x10000 * n
/-- COMB (R239). -/
def Reg.chdComb (n : Nat) : Nat := 0x2000100028 + 0x10000 * n
/-- EQCTL (R239). -/
def Reg.chdEqctl (n : Nat) : Nat := 0x200010002C + 0x10000 * n
/-- DETCTL (R239). -/
def Reg.chdDetctl (n : Nat) : Nat := 0x2000100030 + 0x10000 * n
/-- ITERCTL (R239). -/
def Reg.chdIterctl (n : Nat) : Nat := 0x2000100034 + 0x10000 * n
/-- DEFCTL (R239). -/
def Reg.chdDefctl (n : Nat) : Nat := 0x2000100038 + 0x10000 * n
/-- SRCTL (R239). -/
def Reg.chdSrctl (n : Nat) : Nat := 0x200010003C + 0x10000 * n
/-- SAMPBASE (R239). -/
def Reg.chdSampbase (n : Nat) : Nat := 0x2000100040 + 0x10000 * n
/-- UNITOK (R239). -/
def Reg.chdUnitok (n : Nat) : Nat := 0x2000100050 + 0x10000 * n
/-- UNITFAIL (R239). -/
def Reg.chdUnitfail (n : Nat) : Nat := 0x2000100054 + 0x10000 * n
/-- SYNCMISS (R239). -/
def Reg.chdSyncmiss (n : Nat) : Nat := 0x2000100058 + 0x10000 * n
/-- RSMISS (R239). -/
def Reg.chdRsmiss (n : Nat) : Nat := 0x200010005C + 0x10000 * n
/-- BUDGETCNT (R239). -/
def Reg.chdBudgetcnt (n : Nat) : Nat := 0x2000100060 + 0x10000 * n
/-- MARKED (R239). -/
def Reg.chdMarked (n : Nat) : Nat := 0x2000100064 + 0x10000 * n
/-- ITERSUM (R239). -/
def Reg.chdItersum (n : Nat) : Nat := 0x2000100068 + 0x10000 * n
/-- LOCKLOSS (R239). -/
def Reg.chdLockloss (n : Nat) : Nat := 0x200010006C + 0x10000 * n
/-- IRQEN (R239). -/
def Reg.chdIrqen (n : Nat) : Nat := 0x2000100070 + 0x10000 * n
/-- IRQSTAT (R239). -/
def Reg.chdIrqstat (n : Nat) : Nat := 0x2000100074 + 0x10000 * n
/-- EQAk (R239). -/
def Reg.chdEqa (n i : Nat) : Nat := 0x2000100100 + 0x10000 * n + 0x4 * i
/-- EQBk (R239). -/
def Reg.chdEqb (n i : Nat) : Nat := 0x2000100180 + 0x10000 * n + 0x4 * i
/-- WCTL (R263). -/
def Reg.chdWctl (n : Nat) : Nat := 0x2000100200 + 0x10000 * n
/-- WSTAT (R263). -/
def Reg.chdWstat (n : Nat) : Nat := 0x2000100204 + 0x10000 * n
/-- WPBASE (R263). -/
def Reg.chdWpbase (n : Nat) : Nat := 0x2000100208 + 0x10000 * n
/-- WPTRBASE (R263). -/
def Reg.chdWptrbase (n : Nat) : Nat := 0x2000100210 + 0x10000 * n
/-- PSCTL (R263). -/
def Reg.chdPsctl (n : Nat) : Nat := 0x2000100218 + 0x10000 * n
/-- PSCMD (R263). -/
def Reg.chdPscmd (n : Nat) : Nat := 0x200010021C + 0x10000 * n
/-- PSRESP (R263). -/
def Reg.chdPsresp (n : Nat) : Nat := 0x2000100220 + 0x10000 * n
/-- UNITSWR (R263). -/
def Reg.chdUnitswr (n : Nat) : Nat := 0x2000100230 + 0x10000 * n
/-- WUSCNT (R263). -/
def Reg.chdWuscnt (n : Nat) : Nat := 0x2000100234 + 0x10000 * n
/-- LASERDEV (R263). -/
def Reg.chdLaserdev (n : Nat) : Nat := 0x2000100238 + 0x10000 * n
/-- VERIFYFAIL (R263). -/
def Reg.chdVerifyfail (n : Nat) : Nat := 0x200010023C + 0x10000 * n
/-- UNDERRUN (R263). -/
def Reg.chdUnderrun (n : Nat) : Nat := 0x2000100240 + 0x10000 * n
/-- OCCTL (R291). -/
def Reg.chdOcctl (n : Nat) : Nat := 0x2000100300 + 0x10000 * n
/-- OCROWS (R291). -/
def Reg.chdOcrows (n : Nat) : Nat := 0x2000100308 + 0x10000 * n
/-- OCERASE (R291). -/
def Reg.chdOcerase (n : Nat) : Nat := 0x2000100310 + 0x10000 * n
/-- OCSTAT (R291). -/
def Reg.chdOcstat (n : Nat) : Nat := 0x2000100318 + 0x10000 * n
/-- OCCORR (R291). -/
def Reg.chdOccorr (n : Nat) : Nat := 0x2000100320 + 0x10000 * n
/-- OCFAIL (R291). -/
def Reg.chdOcfail (n : Nat) : Nat := 0x2000100324 + 0x10000 * n
/-- CTL (R242). -/
def Reg.afeCtl (i : Nat) : Nat := 0x2000200000 + 0x1000 * i
/-- SYNTH (R242). -/
def Reg.afeSynth (i : Nat) : Nat := 0x2000200004 + 0x1000 * i
/-- SYNTHSTAT (R242). -/
def Reg.afeSynthstat (i : Nat) : Nat := 0x2000200008 + 0x1000 * i
/-- GAINA (R242). -/
def Reg.afeGaina (i : Nat) : Nat := 0x2000200010 + 0x1000 * i
/-- GAINB (R242). -/
def Reg.afeGainb (i : Nat) : Nat := 0x2000200014 + 0x1000 * i
/-- CTF (R242). -/
def Reg.afeCtf (i : Nat) : Nat := 0x2000200018 + 0x1000 * i
/-- SATCNT (R242). -/
def Reg.afeSatcnt (i : Nat) : Nat := 0x200020001C + 0x1000 * i
/-- AMPA (R242). -/
def Reg.afeAmpa (i : Nat) : Nat := 0x2000200020 + 0x1000 * i
/-- AMPB (R242). -/
def Reg.afeAmpb (i : Nat) : Nat := 0x2000200024 + 0x1000 * i
/-- CMD (R349). -/
def Reg.radCmd (i : Nat) : Nat := 0x2000300000 + 0x100 * i
/-- STATE (R349). -/
def Reg.radState (i : Nat) : Nat := 0x2000300004 + 0x100 * i
/-- TARGET (R349). -/
def Reg.radTarget (i : Nat) : Nat := 0x2000300008 + 0x100 * i
/-- OFFSET (R349). -/
def Reg.radOffset (i : Nat) : Nat := 0x200030000C + 0x100 * i
/-- LAWCFG (R349). -/
def Reg.radLawcfg (i : Nat) : Nat := 0x2000300010 + 0x100 * i
/-- AMAX (R349). -/
def Reg.radAmax (i : Nat) : Nat := 0x2000300014 + 0x100 * i
/-- VMAX (R349). -/
def Reg.radVmax (i : Nat) : Nat := 0x2000300018 + 0x100 * i
/-- FFGAIN (R349). -/
def Reg.radFfgain (i : Nat) : Nat := 0x200030001C + 0x100 * i
/-- SETTLE (R349). -/
def Reg.radSettle (i : Nat) : Nat := 0x2000300020 + 0x100 * i
/-- WINH (R349). -/
def Reg.radWinh (i : Nat) : Nat := 0x2000300024 + 0x100 * i
/-- PLAUS (R349). -/
def Reg.radPlaus (i : Nat) : Nat := 0x2000300028 + 0x100 * i
/-- VCMLIM (R349). -/
def Reg.radVcmlim (i : Nat) : Nat := 0x200030002C + 0x100 * i
/-- MANCUR (R349). -/
def Reg.radMancur (i : Nat) : Nat := 0x2000300030 + 0x100 * i
/-- PES (R349). -/
def Reg.radPes (i : Nat) : Nat := 0x2000300034 + 0x100 * i
/-- POS (R349). -/
def Reg.radPos (i : Nat) : Nat := 0x2000300038 + 0x100 * i
/-- TSTEPi (R349). -/
def Reg.radTstep (i j : Nat) : Nat := 0x2000300040 + 0x100 * i + 0x4 * j
/-- LOADSEGi (R349). -/
def Reg.radLoadseg (i j : Nat) : Nat := 0x2000300060 + 0x100 * i + 0x4 * j
/-- UNLDSEGi (R349). -/
def Reg.radUnldseg (i j : Nat) : Nat := 0x2000300080 + 0x100 * i + 0x4 * j
/-- BADCNT (R349). -/
def Reg.radBadcnt (i : Nat) : Nat := 0x20003000A0 + 0x100 * i
/-- WINHCNT (R349). -/
def Reg.radWinhcnt (i : Nat) : Nat := 0x20003000A4 + 0x100 * i
/-- STEPIGN (R349). -/
def Reg.radStepign (i : Nat) : Nat := 0x20003000A8 + 0x100 * i
/-- CMDIGN (R349). -/
def Reg.radCmdign (i : Nat) : Nat := 0x20003000AC + 0x100 * i
/-- IRQSTAT (R349). -/
def Reg.radIrqstat (i : Nat) : Nat := 0x20003000B0 + 0x100 * i
/-- IRQEN (R349). -/
def Reg.radIrqen (i : Nat) : Nat := 0x20003000B4 + 0x100 * i
/-- GCTL (R349). -/
def Reg.radGctl : Nat := 0x2000301000
/-- WEDGES (R349). -/
def Reg.radWedges : Nat := 0x2000301004
/-- LATEMAX (R349). -/
def Reg.radLatemax : Nat := 0x2000301008
/-- CYCMAX (R349). -/
def Reg.radCycmax : Nat := 0x200030100C
/-- coefficient memory (R349). -/
def Reg.radCoef (i : Nat) : Nat := 0x2000304000 + 0x4 * i
/-- state memory (R349). -/
def Reg.radStateWord (i : Nat) : Nat := 0x200030C000 + 0x4 * i
/-- CTL (R381). -/
def Reg.spnCtl (i : Nat) : Nat := 0x2000310000 + 0x1000 * i
/-- CMD (R381). -/
def Reg.spnCmd (i : Nat) : Nat := 0x2000310004 + 0x1000 * i
/-- STAT (R381). -/
def Reg.spnStat (i : Nat) : Nat := 0x2000310008 + 0x1000 * i
/-- SPEED (R381). -/
def Reg.spnSpeed (i : Nat) : Nat := 0x200031000C + 0x1000 * i
/-- BEMF (R381). -/
def Reg.spnBemf (i : Nat) : Nat := 0x2000310010 + 0x1000 * i
/-- TARGET (R381). -/
def Reg.spnTarget (i : Nat) : Nat := 0x2000310014 + 0x1000 * i
/-- MOTOR (R381). -/
def Reg.spnMotor (i : Nat) : Nat := 0x2000310020 + 0x1000 * i
/-- PWM (R381). -/
def Reg.spnPwm (i : Nat) : Nat := 0x2000310024 + 0x1000 * i
/-- SPDLOOP (R381). -/
def Reg.spnSpdloop (i : Nat) : Nat := 0x2000310028 + 0x1000 * i
/-- RAMP (R381). -/
def Reg.spnRamp (i : Nat) : Nat := 0x200031002C + 0x1000 * i
/-- ILIM (R381). -/
def Reg.spnIlim (i : Nat) : Nat := 0x2000310030 + 0x1000 * i
/-- PROTECT (R381). -/
def Reg.spnProtect (i : Nat) : Nat := 0x2000310034 + 0x1000 * i
/-- ALIGN (R381). -/
def Reg.spnAlign (i : Nat) : Nat := 0x2000310038 + 0x1000 * i
/-- HFI (R381). -/
def Reg.spnHfi (i : Nat) : Nat := 0x200031003C + 0x1000 * i
/-- COMM (R381). -/
def Reg.spnComm (i : Nat) : Nat := 0x2000310040 + 0x1000 * i
/-- LIMITS (R381). -/
def Reg.spnLimits (i : Nat) : Nat := 0x2000310044 + 0x1000 * i
/-- OBS (R381). -/
def Reg.spnObs (i : Nat) : Nat := 0x2000310048 + 0x1000 * i
/-- DETECT (R381). -/
def Reg.spnDetect (i : Nat) : Nat := 0x200031004C + 0x1000 * i
/-- STARTS (R381). -/
def Reg.spnStarts (i : Nat) : Nat := 0x2000310060 + 0x1000 * i
/-- CATCHES (R381). -/
def Reg.spnCatches (i : Nat) : Nat := 0x2000310064 + 0x1000 * i
/-- SYNCLOSS (R381). -/
def Reg.spnSyncloss (i : Nat) : Nat := 0x2000310068 + 0x1000 * i
/-- STARTFAILS (R381). -/
def Reg.spnStartfails (i : Nat) : Nat := 0x200031006C + 0x1000 * i
/-- OBSIMPL (R381). -/
def Reg.spnObsimpl (i : Nat) : Nat := 0x2000310070 + 0x1000 * i
/-- CMDIGN (R381). -/
def Reg.spnCmdign (i : Nat) : Nat := 0x2000310074 + 0x1000 * i
/-- IRQEN (R381). -/
def Reg.spnIrqen (i : Nat) : Nat := 0x2000310080 + 0x1000 * i
/-- IRQSTAT (R381). -/
def Reg.spnIrqstat (i : Nat) : Nat := 0x2000310084 + 0x1000 * i
/-- CTL (R320). -/
def Reg.latCtl : Nat := 0x2000400000
/-- CFG (R320). -/
def Reg.latCfg : Nat := 0x2000400004
/-- OPENMAX (R320). -/
def Reg.latOpenmax : Nat := 0x2000400008
/-- OPENCNT (R320). -/
def Reg.latOpencnt : Nat := 0x200040000C
/-- SPNSTATE (R320). -/
def Reg.latSpnstate : Nat := 0x2000400010
/-- SEAL (R320). -/
def Reg.latSeal : Nat := 0x2000400014
/-- GRPSEL (R320). -/
def Reg.latGrpsel : Nat := 0x2000400018
/-- GRPINFO (R320). -/
def Reg.latGrpinfo : Nat := 0x200040001C
/-- GRPFILLj (R320). -/
def Reg.latGrpfill (i : Nat) : Nat := 0x2000400020 + 0x4 * i
/-- RBCTL (R320). -/
def Reg.latRbctl : Nat := 0x2000400040
/-- RBSTAT (R320). -/
def Reg.latRbstat : Nat := 0x2000400044
/-- RBDONE (R320). -/
def Reg.latRbdone : Nat := 0x2000400048
/-- RECON (R320). -/
def Reg.latRecon : Nat := 0x200040004C
/-- RECONFAIL (R320). -/
def Reg.latReconfail : Nat := 0x2000400050
/-- VERIFYERR (R320). -/
def Reg.latVerifyerr : Nat := 0x2000400054
/-- MIGSTAT (R320). -/
def Reg.latMigstat : Nat := 0x2000400058
/-- DIRTYCNTs (R320). -/
def Reg.latDirtycnt (i : Nat) : Nat := 0x2000400060 + 0x4 * i
/-- IRQEN (R320). -/
def Reg.latIrqen : Nat := 0x2000400080
/-- IRQSTAT (R320). -/
def Reg.latIrqstat : Nat := 0x2000400084
/-- RESV (R320). -/
def Reg.latResv : Nat := 0x2000400090
/-- CTL (R420). -/
def Reg.fctCtl : Nat := 0x2000500000
/-- STAT (R420). -/
def Reg.fctStat : Nat := 0x2000500004
/-- CHCFG (R420). -/
def Reg.fctChcfg : Nat := 0x2000500008
/-- TGTBAD (R420). -/
def Reg.fctTgtbad : Nat := 0x200050000C
/-- GEOM (R420). -/
def Reg.fctGeom : Nat := 0x2000500010
/-- GEOMCFG (R420). -/
def Reg.fctGeomcfg : Nat := 0x2000500018
/-- SLCCFG (R420). -/
def Reg.fctSlccfg : Nat := 0x200050001C
/-- SLCSTAT (R420). -/
def Reg.fctSlcstat : Nat := 0x2000500020
/-- FREETH (R420). -/
def Reg.fctFreeth : Nat := 0x2000500024
/-- RECLAIM (R420). -/
def Reg.fctReclaim : Nat := 0x2000500028
/-- ENDUR (R420). -/
def Reg.fctEndur : Nat := 0x200050002C
/-- DECCTL (R420). -/
def Reg.fctDecctl : Nat := 0x2000500030
/-- PATROLCTL (R420). -/
def Reg.fctPatrolctl : Nat := 0x2000500034
/-- SPARECFG (R420). -/
def Reg.fctSparecfg : Nat := 0x2000500038
/-- TPCBASE (R420). -/
def Reg.fctTpcbase : Nat := 0x2000500040
/-- DIRBASEs (R420). -/
def Reg.fctDirbase (i : Nat) : Nat := 0x2000500048 + 0x8 * i
/-- SPACELIMs (R420). -/
def Reg.fctSpacelim (i : Nat) : Nat := 0x2000500070 + 0x8 * i
/-- SPARES (R420). -/
def Reg.fctSpares : Nat := 0x20005000A0
/-- FREESB (R420). -/
def Reg.fctFreesb : Nat := 0x20005000A4
/-- VICTIM (R420). -/
def Reg.fctVictim : Nat := 0x20005000A8
/-- VSCORE (R420). -/
def Reg.fctVscore : Nat := 0x20005000AC
/-- PECAVG (R420). -/
def Reg.fctPecavg : Nat := 0x20005000B0
/-- TPCHITS (R420). -/
def Reg.fctTpchits : Nat := 0x20005000B4
/-- TPCMISS (R420). -/
def Reg.fctTpcmiss : Nat := 0x20005000B8
/-- RELOCS (R420). -/
def Reg.fctRelocs : Nat := 0x20005000BC
/-- CASDROP (R420). -/
def Reg.fctCasdrop : Nat := 0x20005000C0
/-- RETRY (R420). -/
def Reg.fctRetry : Nat := 0x20005000C4
/-- SOFTDEC (R420). -/
def Reg.fctSoftdec : Nat := 0x20005000C8
/-- XORREB (R420). -/
def Reg.fctXorreb : Nat := 0x20005000CC
/-- UNCORR (R420). -/
def Reg.fctUncorr : Nat := 0x20005000D0
/-- RETIRED (R420). -/
def Reg.fctRetired : Nat := 0x20005000D4
/-- UNKNOWN (R420). -/
def Reg.fctUnknown : Nat := 0x20005000D8
/-- JSEQ (R420). -/
def Reg.fctJseq : Nat := 0x20005000E0
/-- IRQEN (R420). -/
def Reg.fctIrqen : Nat := 0x20005000E8
/-- IRQSTAT (R420). -/
def Reg.fctIrqstat : Nat := 0x20005000EC
/-- DIEFAILk (R420). -/
def Reg.fctDiefail (i : Nat) : Nat := 0x2000500100 + 0x4 * i
/-- CTL (R445). -/
def Reg.bufCtl : Nat := 0x2000600000
/-- STAT (R445). -/
def Reg.bufStat : Nat := 0x2000600004
/-- RATE (R445). -/
def Reg.bufRate : Nat := 0x2000600008
/-- CECNT (R445). -/
def Reg.bufCecnt : Nat := 0x2000600010
/-- UECNT (R445). -/
def Reg.bufUecnt : Nat := 0x2000600014
/-- CEOVF (R445). -/
def Reg.bufCeovf : Nat := 0x2000600018
/-- INJECT (R445). -/
def Reg.bufInject : Nat := 0x200060001C
/-- STEST (R445). -/
def Reg.bufStest : Nat := 0x2000600020
/-- SCRUBPOS (R445). -/
def Reg.bufScrubpos : Nat := 0x2000600024
/-- CELOGCLR (R445). -/
def Reg.bufCelogclr : Nat := 0x2000600030
/-- CELOGADDRn (R445). -/
def Reg.bufCelogaddr (i : Nat) : Nat := 0x2000600100 + 0x20 * i
/-- CELOGINFOn (R445). -/
def Reg.bufCeloginfo (i : Nat) : Nat := 0x2000600108 + 0x20 * i
/-- CELOGTICKn (R445). -/
def Reg.bufCelogtick (i : Nat) : Nat := 0x2000600110 + 0x20 * i
/-- STAT (R446). -/
def Reg.spdStat : Nat := 0x2000610004
/-- CLEAR (R446). -/
def Reg.spdClear : Nat := 0x2000610008
/-- CECNTb (R446). -/
def Reg.spdCecnt (i : Nat) : Nat := 0x2000610010 + 0x4 * i
/-- UECNTb (R446). -/
def Reg.spdUecnt (i : Nat) : Nat := 0x2000610020 + 0x4 * i
/-- BUSYCNT (R446). -/
def Reg.spdBusycnt : Nat := 0x2000610030
/-- BUSYADDR (R446). -/
def Reg.spdBusyaddr : Nat := 0x2000610034
/-- CEOVF (R446). -/
def Reg.spdCeovf : Nat := 0x2000610038
/-- INJECT (R446). -/
def Reg.spdInject : Nat := 0x200061003C
/-- STEST (R446). -/
def Reg.spdStest : Nat := 0x2000610040
/-- VOTESTAT (R446). -/
def Reg.spdVotestat : Nat := 0x2000610044
/-- REPAIR (R446). -/
def Reg.spdRepair : Nat := 0x2000610048
/-- RETIREb_i (R446). -/
def Reg.spdRetire (i : Nat) : Nat := 0x2000610050 + 0x4 * i
/-- BANKRET (R446). -/
def Reg.spdBankret : Nat := 0x2000610090
/-- CELOGCLR (R446). -/
def Reg.spdCelogclr : Nat := 0x20006100A0
/-- CELOGADDRn (R446). -/
def Reg.spdCelogaddr (i : Nat) : Nat := 0x2000610100 + 0x20 * i
/-- CELOGINFOn (R446). -/
def Reg.spdCeloginfo (i : Nat) : Nat := 0x2000610108 + 0x20 * i
/-- CELOGTICKn (R446). -/
def Reg.spdCelogtick (i : Nat) : Nat := 0x2000610110 + 0x20 * i
/-- CTL (R527). -/
def Reg.dmaCtl : Nat := 0x2000700000
/-- BUSY (R527). -/
def Reg.dmaBusy : Nat := 0x2000700004
/-- DONESTAT (R527). -/
def Reg.dmaDonestat : Nat := 0x2000700008
/-- BUSYRETRY (R527). -/
def Reg.dmaBusyretry : Nat := 0x200070000C
/-- CHSTARTc (R527). -/
def Reg.dmaChstart (i : Nat) : Nat := 0x2000701000 + 0x40 * i
/-- CHCURc (R527). -/
def Reg.dmaChcur (i : Nat) : Nat := 0x2000701008 + 0x40 * i
/-- CHSTATc (R527). -/
def Reg.dmaChstat (i : Nat) : Nat := 0x2000701010 + 0x40 * i
/-- CHCTLc (R527). -/
def Reg.dmaChctl (i : Nat) : Nat := 0x2000701014 + 0x40 * i
/-- ERRADDRc (R527). -/
def Reg.dmaErraddr (i : Nat) : Nat := 0x2000701018 + 0x40 * i
/-- MISMATCHc (R527). -/
def Reg.dmaMismatch (i : Nat) : Nat := 0x2000701020 + 0x40 * i
/-- CHDONEc (R527). -/
def Reg.dmaChdone (i : Nat) : Nat := 0x2000701028 + 0x40 * i
/-- CHSTARTIGNc (R527). -/
def Reg.dmaChstartign (i : Nat) : Nat := 0x200070102C + 0x40 * i
/-- CTL (R564). -/
def Reg.evrCtl : Nat := 0x2000800000
/-- CURSOR (R564). -/
def Reg.evrCursor : Nat := 0x2000800004
/-- WINDOW (R564). -/
def Reg.evrWindow : Nat := 0x2000800008
/-- POST (R564). -/
def Reg.evrPost : Nat := 0x2000800010
/-- CLEAR (R564). -/
def Reg.evrClear : Nat := 0x2000800018
/-- DROPPED (R564). -/
def Reg.evrDropped : Nat := 0x200080001C
/-- OPSEC (R564). -/
def Reg.evrOpsec : Nat := 0x2000800020
/-- PCYC (R564). -/
def Reg.evrPcyc : Nat := 0x2000800028
/-- DATUMSTAT (R564). -/
def Reg.evrDatumstat : Nat := 0x200080002C
/-- CHCFGc (R564). -/
def Reg.evrChcfg (i : Nat) : Nat := 0x2000800100 + 0x4 * i
/-- CTL (R565). -/
def Reg.calCtl : Nat := 0x2000900000
/-- STAT (R565). -/
def Reg.calStat : Nat := 0x2000900004
/-- CMD (R565). -/
def Reg.calCmd : Nat := 0x2000900008
/-- PERIODk (R565). -/
def Reg.calPeriod (i : Nat) : Nat := 0x2000900010 + 0x4 * i
/-- COUNTk (R565). -/
def Reg.calCount (i : Nat) : Nat := 0x2000900030 + 0x4 * i
/-- LASTk (R565). -/
def Reg.calLast (i : Nat) : Nat := 0x2000900050 + 0x8 * i
/-- ADCOFSi (R565). -/
def Reg.calAdcofs (i : Nat) : Nat := 0x2000900100 + 0x4 * i
/-- ADCGAINi (R565). -/
def Reg.calAdcgain (i : Nat) : Nat := 0x2000900180 + 0x4 * i
/-- AFEGAINi (R565). -/
def Reg.calAfegain (i : Nat) : Nat := 0x2000900200 + 0x4 * i
/-- LASERBn (R565). -/
def Reg.calLaserb (i : Nat) : Nat := 0x2000900280 + 0x4 * i
/-- VCMOFSn (R565). -/
def Reg.calVcmofs (i : Nat) : Nat := 0x20009002C0 + 0x4 * i
/-- BANDGAP (R565). -/
def Reg.calBandgap : Nat := 0x2000900300
/-- CORECTLc (R481). -/
def Reg.cpcCorectl (i : Nat) : Nat := 0x2000A00000 + 0x4 * i
/-- CORESTATc (R481). -/
def Reg.cpcCorestat (i : Nat) : Nat := 0x2000A00040 + 0x4 * i
/-- STARTPCc (R481). -/
def Reg.cpcStartpc (i : Nat) : Nat := 0x2000A00080 + 0x8 * i
/-- PCSAMPc (R481). -/
def Reg.cpcPcsamp (i : Nat) : Nat := 0x2000A000C0 + 0x8 * i
/-- CACHECTLc (R510). -/
def Reg.cpcCachectl (i : Nat) : Nat := 0x2000A00100 + 0x10 * i
/-- CACHESTATc (R510). -/
def Reg.cpcCachestat (i : Nat) : Nat := 0x2000A00104 + 0x10 * i
/-- CPERRc (R510). -/
def Reg.cpcCperr (i : Nat) : Nat := 0x2000A00108 + 0x10 * i
/-- IRQROUTEn (R39). -/
def Reg.cpcIrqroute (i : Nat) : Nat := 0x2000A01000 + 0x4 * i
/-- IRQPEND0 (R39). -/
def Reg.cpcIrqpend0 : Nat := 0x2000A01200
/-- IRQPEND1 (R39). -/
def Reg.cpcIrqpend1 : Nat := 0x2000A01204
/-- IRQPEND2 (R39). -/
def Reg.cpcIrqpend2 : Nat := 0x2000A01208
/-- IRQPEND3 (R39). -/
def Reg.cpcIrqpend3 : Nat := 0x2000A0120C
/-- NMTROUTE (R39). -/
def Reg.cpcNmtroute : Nat := 0x2000A01210
/-- SWINT (R39). -/
def Reg.cpcSwint : Nat := 0x2000A01214
/-- VER (R508). -/
def Reg.mcsVer : Nat := 0x2000A80000
/-- CVER (R508). -/
def Reg.mcsCver : Nat := 0x2000A80004
/-- ROMVER (R508). -/
def Reg.mcsRomver : Nat := 0x2000A80008
/-- LOADCTL (R508). -/
def Reg.mcsLoadctl : Nat := 0x2000A80010
/-- LOADLEN (R508). -/
def Reg.mcsLoadlen : Nat := 0x2000A80014
/-- LOADSTAT (R508). -/
def Reg.mcsLoadstat : Nat := 0x2000A80018
/-- OVLVALID (R508). -/
def Reg.mcsOvlvalid : Nat := 0x2000A80020
/-- XOPVALIDk (R508). -/
def Reg.mcsXopvalid (i : Nat) : Nat := 0x2000A80030 + 0x4 * i
/-- CSERR (R508). -/
def Reg.mcsCserr : Nat := 0x2000A80050
/-- DBGSEL (R508). -/
def Reg.mcsDbgsel : Nat := 0x2000A80060
/-- DBGDATA (R508). -/
def Reg.mcsDbgdata : Nat := 0x2000A80068
/-- DBGDATAH (R508). -/
def Reg.mcsDbgdatah : Nat := 0x2000A80070
/-- OVLn (R508). -/
def Reg.mcsOvl (i : Nat) : Nat := 0x2000A80100 + 0x4 * i
/-- XOPENTn (R508). -/
def Reg.mcsXopent (i : Nat) : Nat := 0x2000A80200 + 0x4 * i
/-- STAGE (R508). -/
def Reg.mcsStage (i : Nat) : Nat := 0x2000A84000 + 0x4 * i
/-- RAILCTLn (R80). -/
def Reg.pmuRailctl (i : Nat) : Nat := 0x2000B00000 + 0x4 * i
/-- RAILSTAT (R80). -/
def Reg.pmuRailstat : Nat := 0x2000B00020
/-- BUDGET (R80). -/
def Reg.pmuBudget : Nat := 0x2000B00030
/-- BASEW (R80). -/
def Reg.pmuBasew : Nat := 0x2000B00034
/-- SPINPWR (R80). -/
def Reg.pmuSpinpwr : Nat := 0x2000B00038
/-- MAXSPINUP (R80). -/
def Reg.pmuMaxspinup : Nat := 0x2000B0003C
/-- COMMIT (R80). -/
def Reg.pmuCommit : Nat := 0x2000B00040
/-- SPINREQ (R80). -/
def Reg.pmuSpinreq : Nat := 0x2000B00044
/-- INPWR (R80). -/
def Reg.pmuInpwr : Nat := 0x2000B00048
/-- PFCTL (R80). -/
def Reg.pmuPfctl : Nat := 0x2000B00050
/-- PFSTAT (R80). -/
def Reg.pmuPfstat : Nat := 0x2000B00054
/-- GATE (R80). -/
def Reg.pmuGate : Nat := 0x2000B00058
/-- FRSTSRC (R537). -/
def Reg.pmuFrstsrc : Nat := 0x2000B00060
/-- STAT (R601). -/
def Reg.dtmStat : Nat := 0x2000C00000
/-- DOOR (R601). -/
def Reg.dtmDoor : Nat := 0x2000C00004
/-- EVENT (R601). -/
def Reg.dtmEvent : Nat := 0x2000C00008
/-- EVCNT (R601). -/
def Reg.dtmEvcnt : Nat := 0x2000C0000C
/-- IRQEN (R601). -/
def Reg.dtmIrqen : Nat := 0x2000C00010
/-- IRQSTAT (R601). -/
def Reg.dtmIrqstat : Nat := 0x2000C00014
/-- REQ (R601). -/
def Reg.dtmReq (i : Nat) : Nat := 0x2000C00100 + 0x4 * i
/-- RESP (R601). -/
def Reg.dtmResp (i : Nat) : Nat := 0x2000C00200 + 0x4 * i
/-- IDCODE (R624). -/
def Reg.tstIdcode : Nat := 0x2000D00000
/-- SCANSTAT (R624). -/
def Reg.tstScanstat : Nat := 0x2000D00004
/-- TEMP (R624). -/
def Reg.tstTemp : Nat := 0x2000D00010
/-- TEMPMAX (R624). -/
def Reg.tstTempmax : Nat := 0x2000D00014
/-- THERMCTL (R624). -/
def Reg.tstThermctl : Nat := 0x2000D00018
/-- IRQEN (R624). -/
def Reg.tstIrqen : Nat := 0x2000D00020
/-- IRQSTAT (R624). -/
def Reg.tstIrqstat : Nat := 0x2000D00024

/-! ### Looking a register up -/

/-- First address of the block windows (R27). -/
def windowBase : Nat := 0x20_0000_0000

/-- Number of the 64 KiB window of a block (R27); the front ends and the spindle controllers are one block each (R28). -/
def blkWindow (b : Blk) : Nat :=
  match b with
  | .sys => 0x00 | .hpa => 0x01 | .hpb => 0x02 | .cqu => 0x03 | .loc => 0x04 | .cdc => 0x05
  | .chd n => 0x10 + n.val
  | .afe => 0x20 | .rad => 0x30 | .spn => 0x31 | .lat => 0x40 | .fct => 0x50 | .buf => 0x60 | .spd => 0x61 | .dma => 0x70
  | .evr => 0x80 | .cal => 0x90 | .cpc => 0xA0 | .mcs => 0xA8 | .pmu => 0xB0 | .dtm => 0xC0 | .tst => 0xD0

/-- Base address of the window of a block. -/
def blkBase (b : Blk) : Nat := windowBase + 0x1_0000 * blkWindow b

/-- The block whose window has a number. -/
def blkOfWindow (w : Nat) : Option Blk :=
  if w = 0x00 then some .sys else if w = 0x01 then some .hpa else if w = 0x02 then some .hpb
  else if w = 0x03 then some .cqu else if w = 0x04 then some .loc else if w = 0x05 then some .cdc
  else if h : 0x10 ≤ w ∧ w < 0x18 then some (.chd ⟨w - 0x10, by omega⟩)
  else if w = 0x20 then some .afe else if w = 0x30 then some .rad else if w = 0x31 then some .spn
  else if w = 0x40 then some .lat else if w = 0x50 then some .fct else if w = 0x60 then some .buf
  else if w = 0x61 then some .spd else if w = 0x70 then some .dma else if w = 0x80 then some .evr
  else if w = 0x90 then some .cal else if w = 0xA0 then some .cpc else if w = 0xA8 then some .mcs
  else if w = 0xB0 then some .pmu else if w = 0xC0 then some .dtm else if w = 0xD0 then some .tst
  else none

/-- The register map of a block, without its fault registers. -/
def blkRows (b : Blk) : List RegRow :=
  match b with
  | .sys => rowsSys | .hpa => rowsHp | .hpb => rowsHp | .cqu => rowsCqu | .loc => rowsLoc | .cdc => rowsCdc
  | .chd _ => rowsChd | .afe => rowsAfe | .rad => rowsRad | .spn => rowsSpn | .lat => rowsLat | .fct => rowsFct
  | .buf => rowsBuf | .spd => rowsSpd | .dma => rowsDma | .evr => rowsEvr | .cal => rowsCal | .cpc => rowsCpc
  | .mcs => rowsMcs | .pmu => rowsPmu | .dtm => rowsDtm | .tst => rowsTst

/-- Number of the instance of `r` whose first byte lies at offset `o` (aligned to 4; the high half of a 64-bit register
counts as its low half), none where `o` is no offset of `r`. -/
def RegRow.index (r : RegRow) (o : Nat) : Option Nat :=
  if o < r.off then none
  else
    let d := o - r.off
    let a := if r.n1 = 1 then 0 else d / r.s1
    let e := d - a * r.s1
    let b := if r.n2 = 1 then 0 else e / r.s2
    let e := e - b * r.s2
    if a < r.n1 && b < r.n2 && (e = 0 || (r.w64 && e = 4)) then some (r.n2 * a + b) else none

/-- First entry of a map that holds an offset, with the instance. -/
def findRow (rows : List RegRow) (o : Nat) : Option (RegRow × Nat) :=
  match rows with
  | [] => none
  | r :: rest =>
    match r.index o with
    | some i => some (r, i)
    | none => findRow rest o

/-- The register at a 4-byte-aligned internal address: its block, its map entry and its instance; none at an offset that no map assigns (R11). -/
def regAt (a : Nat) : Option (Blk × RegRow × Nat) :=
  if a < windowBase then none
  else
    match blkOfWindow ((a - windowBase) / 0x1_0000) with
    | none => none
    | some b =>
      let o := a % 0x1_0000 / 4 * 4
      match findRow (if 0xFF00 ≤ o then rowsFault else blkRows b) o with
      | none => none
      | some (r, i) => some (b, r, i)

/-- Bits of a register that a map names. -/
def RegRow.named (r : RegRow) : Nat := r.rw ||| r.w1c ||| r.rc ||| r.ro ||| r.wo

/-- Mask of a register's width. -/
def RegRow.full (r : RegRow) : Nat := if r.w64 then 0xFFFF_FFFF_FFFF_FFFF else 0xFFFF_FFFF

/-- What the register at an address reads after a reset of its block (R15): the map's value; 0 where no map assigns the address. -/
def regReset (a : Nat) : DWord :=
  match regAt a with
  | none => 0
  | some (_, r, i) => BitVec.ofNat 64 (r.reset i)

/-- `v` with each field that has a range brought into it. -/
def clampFields (cl : List (Nat × Nat × Nat × Nat)) (v : Nat) : Nat :=
  match cl with
  | [] => v
  | (lsb, w, lo, hi) :: rest =>
    let f := v / 2 ^ lsb % 2 ^ w
    let g := clampNat lo hi f
    clampFields rest (v - f * 2 ^ lsb + g * 2 ^ lsb)

end Sys2Proof.Machine
end

