-- ==== Sys2Proof/Machine/State.lean ====
section
/-! DEFINITION. The state of the AH4808: everything the spec gives the device, as plain data. Register contents that
no other part of the state holds are in `regs`, keyed by internal address (R27); a register that shows other state
is computed when it is read. -/

namespace Sys2Proof.Machine

/-- Why the machine stops with a fault. No meaning of this model raises it: every command of the table has an effect
in every state. It stands so that the type is inhabited by a named reason; safe. -/
inductive Fault
  /-- raised by nothing; safe -/
  | unreachable
  deriving DecidableEq, Repr

/-- Why the machine refuses a command. -/
inductive Refusal
  /-- raised by a dispatch arm whose command has no meaning yet; safe -/
  | notModelled (mnemonic : String)
  deriving DecidableEq, Repr

/-- A sparse table in canonical form: keys strictly rising, no entry equal to what an unlisted key reads as. -/
abbrev SMap (α : Type) := List (Nat × α)

/-- Memory: bytes by address, an unlisted byte reads as 0 (R427, R431). -/
abbrev Memory := SMap Byte

/-- Which part and stepping (R1–R4). -/
structure Part where
  is4804 : Bool
  stepB0 : Bool
  deriving DecidableEq, Repr

/-- What the last read command or request returned (the model's own record of the answer on the bus). -/
structure Resp where
  data : DWord
  err : Bool
  busy : Bool
  deriving DecidableEq, Repr

/-! ### Configuration, clocks, power, resets (02) -/

/-- The loaded configuration block (R74), each field as clamped. -/
structure Conf where
  spindles : BitVec 8
  rpm7200 : Bool
  actuators : BitVec 16
  dramGib : Nat
  hostcfg1 : Bool
  maxRate : Nat
  k : Nat
  m : Nat
  handover : Nat
  patrolDays : Nat
  deriving DecidableEq, Repr

/-- The start-up steps of R71 as the model distinguishes them. -/
inductive BootPhase
  | off | softStart | resetReleased | imageVerified | configLoaded | trained | bufferReady | hostReady | halted
  deriving DecidableEq, Repr

/-- Causes of a chip reset (R78). -/
inductive ResetCause | pin | soft | wdt | fault | clkloss
  deriving DecidableEq, Repr

/-- Resets, clock monitor and watchdog (R52, R66–R70, R605, R622). -/
structure ResetSt where
  /-- chip resets asked for and not yet in effect (R67) -/
  pending : List ResetCause
  /-- requests that wait for the end of a power-fail sequence (R64) -/
  deferred : List ResetCause
  /-- source bit and line of a fault reaction of chip reset (R537), and whether its kind drives nFAULT -/
  faultSrc : Option (Nat × Nat × Bool)
  /-- rail-0 fault under way: the main die is in power-on reset until the last head is parked (R56) -/
  rail0 : Bool
  /-- the main die is held in chip reset by clock loss, by TEMPCRIT, by nRESET -/
  clkHold : Bool
  tempHold : Bool
  pinLow : Bool
  /-- the chip reset of a low nRESET has ended its unload (R605) -/
  inChipReset : Bool
  xtalOk : Bool
  pllLock : Bool
  /-- a main-die power-on reset has come since the configuration block was last loaded (R71, R599) -/
  fresh : Bool
  /-- watchdog count, in ticks (R70) -/
  wdtCount : Nat
  deriving DecidableEq, Repr

/-- Power-fail sequence (R61, R64). -/
structure PfSt where
  active : Bool
  step3 : Bool
  /-- rails removed at step 7, waiting for the input -/
  railsOff : Bool
  inputOk : Bool
  deriving DecidableEq, Repr

/-- PMU state beside its registers (R56–R60, R347). -/
structure PmuSt where
  waitQ : List (Fin 8)
  starting : BitVec 8
  running : BitVec 8
  refused : BitVec 8
  pgood : BitVec 6
  /-- setpoint that each rail slews from and the tick of the write, none once the slew has ended (R56) -/
  slewFrom : Vector (Option (Nat × Nat)) 6
  /-- AON copies of UNLDSEG, word 8a + i (R347) -/
  unldAon : SMap Word
  /-- spindle bridges that the AON override rectifies or shorts (R354) -/
  overRect : BitVec 8
  overShort : BitVec 8
  deriving DecidableEq, Repr

/-! ### Faults and inputs (18) -/

/-- First-error capture of a block (R538). -/
structure Fcap where
  valid : Bool
  addr : Nat
  ty : Nat
  srcbit : Nat
  master : Nat
  tick : Nat
  deriving DecidableEq, Repr

/-- Qualification of one general input (R543–R546). -/
structure InputSt where
  level : Bool
  masked : Bool
  faulty : Bool
  trig : Bool
  /-- open storm window: tick at which it opened and triggers counted -/
  window : Option (Nat × Nat)
  deriving DecidableEq, Repr

/-! ### Control cores (15, 16) -/

inductive RunState | reset | running | waiting | halted
  deriving DecidableEq, Repr

/-- One frame of the trap stack (R469). -/
structure Frame where
  pc : DWord
  stat : DWord
  pri : DWord
  cause : DWord
  addr : DWord
  deriving DecidableEq, Repr

/-- A line of an instruction or data cache (R500): line number = address / 64, sub-block flags, 64 bytes. -/
structure Line where
  line : Nat
  way : Nat
  valid : BitVec 4
  dirty : BitVec 4
  bytes : List Byte
  deriving DecidableEq, Repr

/-- One control core. Caches list their lines most recently used first. -/
structure CoreSt where
  run : RunState
  g : Vector DWord 32
  pc : DWord
  stat : DWord
  f0 : Frame
  f1 : Frame
  tbase : DWord
  ipri : DWord
  scr : Vector DWord 4
  lbaddr : DWord
  cycle : Nat
  /-- address of the pending posted-write error (R468) -/
  werr : Option Nat
  nmt : Bool
  pcsamp : DWord
  lastCause : Nat
  dcache : List Line
  icache : List Line
  deriving DecidableEq, Repr

/-- Microcode store (16). -/
structure McsSt where
  /-- patch RAM and customer RAM, by control-store address; the eight copies are alike but for `bad` -/
  words : SMap (BitVec 80)
  /-- words that fail R488: core × 16,384 + address -/
  bad : List Nat
  /-- BUILD of the vendor patch loaded since chip reset, none where there is none (R499) -/
  vbuild : Option Word
  /-- BUILD of the customer image, or 0 -/
  cbuild : Word
  /-- image that awaits its verdict: kind and build (R496) -/
  load : Option (Nat × Word)
  deriving DecidableEq, Repr

/-! ### Host ports and command queues (03, 04) -/

structure Sq where
  qid : Nat
  size : Nat
  cqid : Nat
  tail : Nat
  head : Nat
  stopped : Bool
  deriving DecidableEq, Repr

/-- A completion queue entry that the device has written (R142). -/
structure Cqe where
  sqid : Nat
  cid : Nat
  sct : Nat
  sc : Nat
  dw0 : Nat
  deriving DecidableEq, Repr

structure Cq where
  qid : Nat
  size : Nat
  vector : Nat
  head : Nat
  tail : Nat
  /-- entries written, newest first -/
  entries : List Cqe
  stopped : Bool
  deriving DecidableEq, Repr

/-- One asynchronous event (R116): type, information, log. -/
structure Aen where
  ty : Nat
  info : Nat
  log : Nat
  deriving DecidableEq, Repr

/-- Writes that a port sends to host memory: data of commands, completion queue entries, MSI-X messages (R93, R142). -/
inductive WrKind | data | cqe | msix
  deriving DecidableEq, Repr

/-- An entry of the Error Information log (R114): number, queue, command, status, first LBA, namespace. -/
structure ErrEnt where
  num : Nat
  sqid : Nat
  cid : Nat
  sct : Nat
  sc : Nat
  lba : Nat
  nsid : Nat
  deriving DecidableEq, Repr

/-- One host port and its controller. -/
structure PortSt where
  perst : Bool
  linkUp : Bool
  /-- the link is in Recovery -/
  inRec : Bool
  /-- CLKREQn is asserted (R85, R88) -/
  clkreq : Bool
  ltssm : Nat
  rate : Nat
  width : Nat
  flit : Bool
  dstate : Nat
  pm : LinkPm
  bar0 : Nat
  bme : Bool
  wake : Bool
  /-- answer to the last configuration request: 0 none, 1 Request Retry Status, 2 in full (R69) -/
  cfgAnswer : Nat
  /-- configuration registers that the host may write, and status registers, by doubleword; the rest stands in the fields above
  (R92–R94) -/
  cfg : SMap Nat
  /-- MSI-X table by doubleword, pending bits, messages sent on each vector, address and data of the last one (R91, R142) -/
  mtab : SMap Word
  pba : List Nat
  msgs : SMap Nat
  lastMsg : Option (Nat × Word)
  /-- entries that wait for one message on a vector, and the tick of the first (interrupt coalescing, R98) -/
  agg : SMap (Nat × Nat)
  /-- the last write sent to host memory, and whether with Relaxed Ordering (R93) -/
  posted : Option (WrKind × Bool)
  /-- CC but for EN and SHN, AQA, ASQ and ACQ of the controller registers (R91, R97) -/
  cc : Nat
  aqa : Nat
  asq : Nat
  acq : Nat
  en : Bool
  rdy : Bool
  shn : Nat
  shst : Nat
  ps : Nat
  lastOpPs : Nat
  sqs : List Sq
  cqs : List Cq
  held : List Aen
  maskedTypes : List Nat
  /-- tags of outstanding Asynchronous Event Requests, oldest first -/
  aers : List Nat
  /-- event results given to requests, newest first -/
  events : List Aen
  features : SMap Nat
  /-- Timestamp: what the host set it to, in ms, and the tick of that (R113) -/
  tsBase : Nat
  tsTick : Nat
  /-- Error Information log, newest first, and the number of its last entry (R114) -/
  errs : List ErrEnt
  errNum : Nat
  /-- namespaces changed since the Changed Namespace List was read (R114) -/
  changed : List Nat
  deriving DecidableEq, Repr

/-- The live version of a chunk: its Locus entry (R177) and its content. -/
structure Chunk where
  /-- LBAs of the chunk that the host has written, a bit each (R107) -/
  wr : Nat
  gen : Nat
  wseq : Nat
  keyep : Nat
  /-- the key of that epoch, by the draw that made it (R162, R586) -/
  kdraw : Nat
  /-- the compressed stream of a version that is not raw (R159) -/
  stream : List Byte
  clen : Nat
  raw : Bool
  count : Nat
  tier : Nat
  loc : Nat
  ret : Bool
  poison : Bool
  dirty : Bool
  /-- its units lie in the buffer's dirty set alone (R62, R99) -/
  staged : Bool
  data : List Byte
  deriving DecidableEq, Repr

/-- Tag states (R143). -/
inductive TagState | free | fetched | lockwait | ledger | active | completing
  deriving DecidableEq, Repr

/-- One tag of the command queue unit. -/
structure Tag where
  st : TagState
  port : Port
  sqid : Nat
  aseq : Nat
  cmd : HostCmd
  admin : Bool
  /-- media operations started and not ended -/
  mops : Nat
  /-- ended by a port or controller reset: it posts no completion (R144) -/
  dead : Bool
  aborted : Bool
  /-- keys of the chunks that the command has staged (R95, R99) -/
  keys : List Nat
  /-- units of those chunks handed to write operations -/
  wunits : Nat
  /-- chunks that recovery has given up for this command without poisoning them (R268, R279) -/
  bad : List Nat
  /-- versions copied into the command's staging space before its read entries were released (R133) -/
  copy : Option (List (Nat × Chunk))
  /-- keys of the namespace as a List found them at its arrival (R136) -/
  snap : List (List Byte)
  /-- an Abort whose own entry waits for that of the command it aborted (R147) -/
  waits : Option Nat
  /-- result fixed at COMPLETING -/
  sct : Nat
  sc : Nat
  dw0 : Nat
  /-- LBA assigned at arrival to a Zone Append (R135) -/
  zlba : Nat
  /-- the arrival gave the Zone Append its LBAs and moved the write pointer past them -/
  assigned : Bool
  /-- the retention check found the command destructive (R107, R145) -/
  destr : Bool
  /-- media addresses of the units that read operations of the command have read (R138) -/
  got : List Nat
  deriving DecidableEq, Repr

/-- Arbitration of a port's submission queues (R126): the queue served last, and the entries taken of it in the burst that runs, 0
where none runs. -/
structure Turn where
  qid : Nat
  taken : Nat
  deriving DecidableEq, Repr

/-- A range-lock entry (R128). -/
structure Lock where
  obj : Nat
  first : Nat
  last : Nat
  write : Bool
  aseq : Nat
  tag : Nat
  deriving DecidableEq, Repr

/-- A media operation of a command that waits: tag, first unit among those the command staged and how many of its slots hold units
of the command (the rest are pads, R171), tick at which it was queued. -/
structure WaitOp where
  tag : Nat
  first : Nat
  units : Nat
  tick : Nat
  d : Desc
  deriving DecidableEq, Repr

/-- Command queue unit. -/
structure CquSt where
  tags : SMap Tag
  locks : List Lock
  aseq : Nat
  /-- media operations in flight -/
  mops : Nat
  /-- tags in COMPLETING whose entry is not yet written, in the order in which they entered it (R141) -/
  compq : List Nat
  stopped : Bool
  /-- step of R149 under way, target state, reversing (PSSTAT) -/
  psStep : Nat
  psTarget : Nat
  reversing : Bool
  /-- the controller for which entry to PS3 was decided; the other one has decided it too -/
  psPort : Port
  psBoth : Bool
  /-- the step under way has reached its safe point, and the steps done are being undone (R150, R151) -/
  psUndo : Bool
  /-- arbitration: the turn of each port, and the port whose burst runs (R126) -/
  turns : Vector Turn 2
  turnPort : Port
  /-- the queue whose next command found too little room in the range-lock table: fetch stops until it fits (R131) -/
  stalled : Option (Port × Nat)
  /-- posted descriptors of queue 17 with the tick of the POST, oldest first (R139, R473) -/
  q17 : List (Nat × Nat)
  /-- media operations of tags, queued and not started, oldest first (R138, R139) -/
  waitOps : List WaitOp
  /-- a block reset has cut the unit's commands, and those of ports: they end at the next tick (R68, R95, R144) -/
  wiped : Bool
  cut : List Port
  deriving DecidableEq, Repr

/-! ### Objects (05) -/

/-- Zone states of a Zoned namespace. -/
inductive ZoneState | empty | implOpen | explOpen | closed | full
  deriving DecidableEq, Repr

structure Zone where
  st : ZoneState
  wp : Nat
  deriving DecidableEq, Repr

/-- A Key Value object: key, handle, value length; its store time stands in its record chunk (R172). -/
structure KvObj where
  key : List Byte
  handle : Nat
  vallen : Nat
  deriving DecidableEq, Repr

structure Ns where
  nsid : Nat
  cmdset : Nat
  nguid : List Byte
  size : Nat
  attA : Bool
  attB : Bool
  keyep : Nat
  /-- the key of that epoch, by the draw that made it (R163, R586) -/
  keyDraw : Nat
  /-- CREATETIME (R174) -/
  created : Nat
  recGen : Nat
  nextSerial : Nat
  zones : SMap Zone
  objs : List KvObj
  deriving DecidableEq, Repr

/-- A tombstone (R173): handle, first and last chunk, cause, write sequence, key epoch, and where it has been placed. -/
structure Tomb where
  handle : Nat
  first : Nat
  last : Nat
  cause : Nat
  wseq : Nat
  keyep : Nat
  loc : Option Nat
  deriving DecidableEq, Repr

/-- An entry of the Unrecoverable Object log (R117). -/
structure UnrecEntry where
  seq : Nat
  nsid : Nat
  cause : Nat
  key : List Byte
  chunk : Nat
  unit : Nat
  maddr : Nat
  time : Nat
  deriving DecidableEq, Repr

/-- Objects, map and records. -/
structure ObjSt where
  nss : List Ns
  /-- the map: key handle × 2^40 + chunk -/
  chunks : SMap Chunk
  /-- the version on media or flash of a chunk whose live version is staged, same key -/
  durable : SMap Chunk
  /-- chunks of the dirty set that the power-fail record names, none where there is no record (R61, R65) -/
  pfRecord : Option (SMap Chunk)
  tombs : List Tomb
  /-- keys of the map in the Locus cache with their ways, most recently used first (R177, R178) -/
  cache : List (Nat × Nat)
  /-- band-reader table: (spindle, band) of reads under way (R182) -/
  readers : List (Nat × Nat)
  unrec : List UnrecEntry
  unrecNext : Nat
  /-- a Sanitize has begun and not ended (R111) -/
  sanitizing : Bool
  /-- a reset has cut it, so that it starts again; tick of its start; a Sanitize has completed before (R111) -/
  sanCut : Bool
  sanTick : Nat
  sanDone : Bool
  /-- self-tests, newest first: extended, passed -/
  selfTest : List (Bool × Bool)
  /-- Critical Warning bits (R115); bit 2 until the log is read -/
  critWarn : BitVec 5
  /-- unrecoverable units that no live version owned (R281); the spec gives the count no register -/
  unowned : Nat
  deriving DecidableEq, Repr

/-! ### Media, slices and front ends (06–09) -/

/-- A zone of a surface (R200, R201), its bands and tracks counted from the surface's first. -/
structure ZoneRow where
  firstBand : Nat
  bands : Nat
  firstTrack : Nat
  n : Nat
  f : Nat
  s : Nat
  t : Nat
  deriving DecidableEq, Repr

/-- A surface: its spindle, actuator, head, bands and zones. -/
structure Surface where
  spindle : Nat
  act : Nat
  head : Nat
  firstBand : Nat
  bands : Nat
  zones : List ZoneRow
  deriving DecidableEq, Repr

/-- What the brick was formatted with, as its Origin bands hold it (R175, R176, R295). -/
structure Fmt where
  surfaces : List Surface
  k : Nat
  m : Nat
  spindles : Nat
  rpm7200 : Bool
  deriving DecidableEq, Repr

/-- What a slot of a track was last written with: WEDGEBITS and the information bytes (R188, R243). -/
structure MediaRec where
  n : Nat
  info : List Byte
  deriving DecidableEq, Repr

/-- One channel bit of the write path: the bit driven, none where the link is idle, the early shift of its transition in 1/64 bit
(R251), the laser code (R252). -/
structure WdBit where
  data : Option Bool
  early : Nat
  laser : Nat
  deriving DecidableEq, Repr

/-- Who posted a media operation. -/
inductive OpSrc
  | tag (t : Nat)
  | queue (q addr : Nat)
  deriving DecidableEq, Repr

/-- A media operation under way on a slice. -/
structure MediaOp where
  src : OpSrc
  d : Desc
  /-- slots done -/
  done : Nat
  /-- the write operation has begun writing (R259) -/
  writing : Bool
  opres : Nat
  ended : Bool
  cfgErr : Bool
  /-- a write for a command: number of its first unit among the units that the command staged, and how many of its slots hold units
  of the command; the slots after them take pads (R171) -/
  first : Nat
  units : Nat
  /-- entries of the verify status array written (R261) -/
  vdone : Nat
  /-- slots written with RESULT OK -/
  ok : Nat
  deriving DecidableEq, Repr

/-- One candidate anchor (R207). -/
structure Cand where
  off : Int
  score : Nat
  deriving DecidableEq, Repr

/-- One held codeword buffer (R230). -/
structure CwBuf where
  slot : Nat
  idx : Nat
  cands : List Cand
  /-- samples of readers A and B from slot bit −32 to slot bit 37,343 -/
  xa : List Int
  xb : List Int
  /-- the combined stream, and the bits of it at which both readers are abnormal (R222, R223, R234) -/
  y : List Int
  gone : List Bool
  rsMiss : Nat
  lockLoss : Bool
  recIdx : Option Nat
  recBusy : Bool
  recMism : Bool
  /-- CREATE, or COMBINE with a record whose COUNT is 0 (R235) -/
  recNew : Bool
  deriving DecidableEq, Repr

/-- One Chord slice beside its registers. -/
structure SliceSt where
  valid : Bool
  dir : Bool
  act : Fin 16
  pend : Option (Bool × Bool × Fin 16)
  /-- shadow equalizer set: EQA 0–31, EQB 32–63, COMB 64 (R224) -/
  shadow : SMap Word
  loadPend : Bool
  op : Option MediaOp
  bufs : List CwBuf
  lock : Bool
  cfgErr : Bool
  /-- timing loop: frequency and phase (R218); lock lost and not found again (R221) -/
  freq : Int
  phase : Int
  lost : Bool
  fclamp : Bool
  /-- laser loop (R253) -/
  acc : Int
  trim : Int
  code : Nat
  mon : Nat
  /-- monitor readings within the slot under way: their sum and number (R262) -/
  monSum : Nat
  monN : Nat
  devs : Nat
  psBusy : Bool
  psDone : Bool
  psFrame : BitVec 16
  /-- frames sent on the link by the slice, newest first -/
  frames : List (BitVec 16)
  oc : Bool
  ocSingle : Bool
  /-- write profile read at the start of a write operation (R250) -/
  prof : List Byte
  /-- Lattice window: band key, first slot, slots held (R302) -/
  win : Option (Nat × Nat × Nat)
  deriving DecidableEq, Repr

/-- One preamplifier link (R256–R259). -/
structure LinkSt where
  live : List WusSrc
  holding : Bool
  /-- write data and laser code over the last slot that the link carried (R204, R251, R252) -/
  wd : List WdBit
  deriving DecidableEq, Repr

/-- One front end beside its registers. -/
structure AfeSt where
  lock : Bool
  settling : Bool
  ampA : Nat
  ampB : Nat
  deriving DecidableEq, Repr

/-- A retry ladder (R266–R270). -/
structure Ladder where
  maddr : Nat
  step : Nat
  cause : Nat
  /-- commands that wait for its outcome (R269) -/
  tags : List Nat
  recIdx : Option Nat
  background : Bool
  waiting : Bool
  deriving DecidableEq, Repr

/-- What is kept on a written band: last refresh class due (days), hard and soft counts of the last patrol. -/
structure BandNote where
  refreshDays : Option Nat
  hard : Nat
  soft : Nat
  deriving DecidableEq, Repr

/-! ### Lattice (10) -/

inductive GroupState | free | open_ | closing | closed | pending | rebuild | reserved
  deriving DecidableEq, Repr

structure Group where
  st : GroupState
  fill : Vector Nat 8
  sealed_ : BitVec 8
  stale : BitVec 8
  released : BitVec 8
  /-- parity members (2) whose band has been written -/
  parDone : BitVec 8
  imgOk : Bool
  deriving DecidableEq, Repr

inductive SpinService | absent | inService | outOfService | rejoin
  deriving DecidableEq, Repr

/-- A rebuild under way (R308): spindle, mode 1, next band, bands still to do. -/
structure Rebuild where
  spindle : Fin 8
  inPlace : Bool
  band : Nat
  /-- stopped by a spindle that went out of service; it resumes from its band (R309) -/
  paused : Bool
  deriving DecidableEq, Repr

/-- Migration mode (R315–R318). -/
structure Migration where
  active : Bool
  ringAddr : Nat
  ringSize : Nat
  prodAddr : Nat
  prod : Nat
  cons : Nat
  /-- media position, band × 2^16 + unit, from which each spindle goes on (R316) -/
  next : Vector Nat 8
  /-- bands that each spindle has read and verified (R48, R318) -/
  seen : Vector Nat 8
  finished : BitVec 8
  /-- last group with an unresolved mismatch (R319) -/
  lastBad : Option Nat
  deriving DecidableEq, Repr

structure LatSt where
  groups : SMap Group
  svc : Vector SpinService 8
  /-- band-dirty logs (R311) and their overflow -/
  dirty : Vector (List Nat) 8
  ovf : BitVec 8
  rebuilt : Vector Nat 8
  vErr : Vector Nat 8
  rb : Option Rebuild
  mig : Migration
  /-- parity images in the flash tier (R303): key (2 × group + part) × 2^17 + slot, part 0 P and 1 Q; an unlisted slot is zero -/
  images : SMap (List Byte)
  /-- the slot last reconstructed (R307) -/
  out : List Byte
  deriving DecidableEq, Repr

/-! ### Radius (11) -/

inductive ActState | parked | load | manual | seek | settle | track | unload | retract
  deriving DecidableEq, Repr

/-- One actuator beside its registers. -/
structure ActSt where
  st : ActState
  cause : Nat
  /-- reference, in 2^-16 track -/
  r : Int
  /-- seek: target of the profile and step per sample, signal units -/
  goal : Int
  v : Int
  seeking : Bool
  /-- VCM code at the DAC pair; MA code of the last execution -/
  vcode : Int
  mcode : Int
  bad : Nat
  settle : Nat
  wok : Nat
  satV : Bool
  satM : Bool
  satL : Bool
  /-- executions since entry to an automatic state -/
  execs : Nat
  /-- valid samples in a row, newest first, at most four: wedge number and track (R343) -/
  acq : List (Nat × Nat)
  /-- wedge number last decoded or carried on (R327) -/
  lastWedge : Nat
  sampleOk : Bool
  coefPars : Nat
  y : Int
  e : Int
  ymeas : Int
  /-- residual of the MA feed-forward table (R338, R339) -/
  stepRes : Int
  /-- biquads that take their histories from the input at the next execution (R335) -/
  newBq : BitVec 16
  /-- bumpless transfer due at the next execution: the manual code (R345) -/
  bump : Option Int
  /-- segments of the profile that plays, as they stood at its start: the LOAD profile, or the retract sequencer's (R346, R347) -/
  profile : List Word
  shockLeft : Nat
  /-- largest |e| of the revolution in TRACK, wedges counted (R551) -/
  revMax : Nat
  revN : Nat
  deriving DecidableEq, Repr

/-! ### Spindle motors (12) -/

inductive SpnState
  | stopped | listen | waitgrant | brake | locate | ramp | accel | run | coast | rectify | stopping
  deriving DecidableEq, Repr

structure SpnSt where
  st : SpnState
  failed : Bool
  atspeed : Bool
  err : Nat
  cls : Nat
  losscause : Nat
  failcause : Nat
  tries : Nat
  sector : Nat
  backward : Bool
  spd : Nat
  amp : Nat
  /-- tick of the START (R363) and of the entry to RUN's START for channel 32 + s -/
  t0 : Nat
  /-- intervals between events, newest first, at most one revolution -/
  ivals : List Nat
  /-- speed reference of R359, 1/16 rpm, and the same in thousandths, so that the fraction is carried; ACCEL as it stood at the last
  commutation event (R381) -/
  ref : Nat
  refMilli : Nat
  accel : Nat
  /-- square of the scheduled speed in RAMP, in (1/16 rpm)² -/
  rampSq : Nat
  integ : Int
  duty : Int
  /-- events that matched their scheduled commutation, or followed in order, without a break -/
  hosync : Nat
  /-- intervals scheduled since the schedule reached HANDOVER -/
  sched : Nat
  inject : Bool
  goodRevs : Nat
  evInRev : Nat
  obsN : Nat
  /-- a start that failed waits for the rotor to stop (R368) -/
  failing : Bool
  autoRestart : Bool
  catching : Bool
  forwardSlow : Bool
  deriving DecidableEq, Repr

/-! ### Facet (13) -/

inductive SbState | erased | open_ | closed | erasing | unknown | retired
  deriving DecidableEq, Repr

/-- A superblock (R390, R399). -/
structure Sb where
  st : SbState
  stream : Nat
  native : Bool
  bseq : Nat
  /-- FLA of each slot programmed, newest first; 2^40 for a header, an XOR slot or a pad -/
  slots : List Nat
  /-- dies at the member positions -/
  members : List Nat
  pec : Nat
  /-- operating second at which it closed -/
  closedAt : Nat
  /-- clock second at which it opened (R389) -/
  opened : Nat
  deriving DecidableEq, Repr

inductive TierMode | normal | writethru | retired
  deriving DecidableEq, Repr

/-- A journal entry (R396): FLA or block, OP, ARG, VALUE. -/
structure JEntry where
  key : Nat
  op : Nat
  arg : Nat
  value : Nat
  deriving DecidableEq, Repr

structure FctSt where
  ready : Bool
  /-- usable dies -/
  dies : List Nat
  geom : Nat
  mode : TierMode
  /-- superblocks by number, g × 16,384 + block -/
  sbs : SMap Sb
  /-- mapping table (R393): FLA to superblock × 2^24 + slot + 1; 0 unmapped -/
  map : SMap Nat
  /-- content of a slot, key superblock × 2^24 + slot -/
  data : SMap (List Byte)
  /-- journal entries since the last checkpoint, oldest first, and the JSEQ of the next -/
  journal : List JEntry
  jseq : Nat
  /-- JSEQ up to which the journal lies in programmed pages, and that of the last checkpoint -/
  jFlash : Nat
  ckptSeq : Nat
  ckptJ : Nat
  ckptMap : SMap Nat
  bseqNext : Nat
  /-- victim whose valid slots have been copied -/
  victim : Option Nat
  /-- superblock and slot count up to which the copies reach, and the JSEQ after their entries (R410) -/
  copied : Nat × Nat × Nat
  folding : Bool
  /-- spares reserved in each plane at the first format (R415) -/
  sparePer : Nat
  /-- blocks retired, and blocks to be retired once their superblock is erased: (die × 4 + plane) × 16,384 + block -/
  retired : List Nat
  retiring : List Nat
  /-- dies omitted from later superblocks, having lost a block with no spare (R416) -/
  omitted : List Nat
  /-- superblocks queued for reclaim (R405, R413) -/
  weak : List Nat
  /-- blocks that needed step 3 in the patrol before -/
  weak3 : List Nat
  /-- blocks patrolled in the present period -/
  patrolPos : Nat
  formatted : Bool
  /-- translation pages in the cache (R394), space × 2^32 + page, most recently used first -/
  tpc : List Nat
  /-- rate at which each target in use runs (R385), as CHCFG.RATE codes it -/
  rates : SMap Nat
  /-- FLAs that lie in the reserved disk area (R417): media address + 1, 0 where none -/
  disk : SMap Nat
  deriving DecidableEq, Repr

/-! ### Memories (14) -/

/-- One entry of a correctable-error log (R437). -/
structure CeEnt where
  addr : Nat
  count : Nat
  scrub : Bool
  sym : Nat
  tick : Nat
  deriving DecidableEq, Repr

structure MemSt where
  /-- words (address / 16) whose stored symbols are in error -/
  ecc : SMap (Option EccErr)
  /-- words of the scratchpad whose valid bit is 1, by address / 16 (R431) -/
  spdValid : SMap Bool
  bufLog : Vector (Option CeEnt) 16
  spdLog : Vector (Option CeEnt) 16
  ready : Bool
  init : Bool
  selfref : Bool
  gib : Nat
  rate : Nat
  bufTestDone : Bool
  bufTestFail : Bool
  spdTestDone : Bool
  spdTestFail : BitVec 4
  scrubPos : Nat
  /-- RETIRE entries: page index and COPYING, entry 4b + i -/
  retire : Vector (Option (Nat × Bool)) 16
  bankRet : BitVec 4
  busyAddr : Option (Nat × Nat)
  /-- correctable errors of the buffer in the present operating hour (R551, channel 59) -/
  ceHour : Nat
  deriving DecidableEq, Repr

/-! ### DMA (17) -/

/-- A descriptor as a channel holds it (R514). -/
structure DmaDesc where
  ctl : Nat
  len : Nat
  src : Nat
  dst : Nat
  aux : Nat
  idxcnt : Nat
  esize : Nat
  rsv : Bool
  next : Nat
  deriving DecidableEq, Repr

structure DmaSt where
  busy : Bool
  aborting : Bool
  /-- read-back outstanding with the result it will carry -/
  readback : Option Nat
  desc : Option DmaDesc
  cur : Nat
  result : Nat
  elem : Nat
  erraddr : Nat
  mismatch : DWord
  /-- address of the last byte written, to be read back -/
  lastWr : Option Nat
  deriving DecidableEq, Repr

/-! ### Event recorder and calibration (19) -/

/-- A record (R548); a stamp is (seconds, power cycles). -/
structure Rec where
  bins : List Nat
  min : BitVec 32
  max : BitVec 32
  total : Nat
  minStamp : Nat × Nat
  maxStamp : Nat × Nat
  lastStamp : Nat × Nat
  seq : Nat
  deriving DecidableEq, Repr

structure EvrSt where
  /-- queued samples, oldest first: channel, value, stamp -/
  queue : List (Nat × BitVec 32 × (Nat × Nat))
  recs : SMap Rec
  opsec : Nat
  pcyc : Nat
  /-- posts to channels 90–95 awaiting the Datum die, oldest first -/
  fwd : List (Nat × BitVec 32)
  deriving DecidableEq, Repr

structure CalSt where
  /-- instances due: kind, instance, and the OPSEC since when -/
  due : List (Nat × Nat × Nat)
  /-- OPSEC at which an instance of a kind last completed a pass, key 64k + i -/
  last : SMap Nat
  refOk : Bool
  deriving DecidableEq, Repr

/-! ### Datum die (20) -/

inductive SecState | blank | alloc | valid | obsolete | erasing | suspended | interrupted | retired
  deriving DecidableEq, Repr

/-- Header of a physical sector of the Datum flash (R572). -/
structure Sector where
  st : SecState
  logical : Nat
  version : Nat
  ecount : Nat
  deriving DecidableEq, Repr

/-- A rule record (R591); its STATE is one of the four codes. -/
structure Rule where
  st : Nat
  nswide : Bool
  hold : Bool
  nsslot : Nat
  window : Option (Fin 8)
  handle : Nat
  first : Nat
  last : Nat
  until_ : Nat
  created : Nat
  cseq : Nat
  deriving DecidableEq, Repr

/-- An entry of the hash chain (R594). -/
structure ChainEnt where
  seq : Nat
  time : Nat
  op : Nat
  nsslot : Nat
  nsid : Nat
  handle : Nat
  first : Nat
  last : Nat
  key : List Byte
  deriving DecidableEq, Repr

/-- A media key of a namespace slot (R586): epoch and the draw of the generator that made it. -/
structure MKey where
  epoch : Nat
  draw : Nat
  deriving DecidableEq, Repr

structure DatumSt where
  /-- the clock, in 2^-15 s, and what a slew still withholds of it (R580, R581) -/
  clock : Nat
  slewHold : Nat
  clkvalid : Bool
  /-- what CLKADJ has moved the clock by in the day window, in 2^-15 s, and that day (R581) -/
  adj : Int
  adjDay : Nat
  savedTime : Nat
  sectors : SMap Sector
  rotation : Nat
  rewrites : Nat
  /-- contents of the logical sectors that hold plain bytes, by logical byte address -/
  bytes : SMap Byte
  keys : SMap MKey
  keyDraws : Nat
  /-- codec key slots loaded over the key link (R568) -/
  loaded : SMap MKey
  cfw : Option (List Byte)
  cmc : Option (List Byte)
  cust : Option (List Byte)
  lastCseq : Nat
  floors : Vector Nat 3
  rules : SMap Rule
  /-- entries of the chain, oldest first -/
  chain : List ChainEnt
  chainSeq : Nat
  chainAck : Nat
  /-- chain hash after the entry before the oldest listed one -/
  chainBase : List Byte
  tier : List Byte
  /-- counter records of the COUNTERS sector, newest first: OPSEC, TIME, PCYC -/
  counters : List (Nat × Nat × Nat)
  recs : SMap Rec
  recsSaved : SMap Rec
  /-- OPSEC and PCYC that a CFGREAD with FRESH returned and no load has taken yet (R599) -/
  cfgFresh : Option (Nat × Nat)
  /-- slot whose image BOOTREQ streamed and verified last: 1 A, 2 B, 0 none (R589) -/
  bootSlot : Nat
  /-- response frame for the mailbox, not yet in RESP; and the one for the port -/
  mboxRes : Option (List Byte)
  portRes : Option (List Byte)
  /-- request frame received at the port, waiting to be served -/
  portReq : Option (List Byte)
  /-- what the port shifted out last -/
  portOut : List Byte
  /-- events posted while the mailbox is down, oldest first -/
  evq : List (Nat × Nat)
  deriving DecidableEq, Repr

/-- The DTM mailbox of the main die (R601). -/
structure DtmSt where
  busy : Bool
  linkUp : Bool
  events : List (Nat × Nat)
  ovf : Bool
  deriving DecidableEq, Repr

/-! ### Test (21) -/

/-- Instructions of the test access port (R603). -/
inductive TapInstr
  | extest | idcode | samplePreload | extestPulse | extestTrain | clamp | highz | bypass
  deriving DecidableEq, Repr

structure TapSt where
  active : Bool
  instr : TapInstr
  refused : Bool
  boundary : BitVec 2318
  temp : Option Int
  tempMax : Option Int
  hot : Nat
  tempHi : Bool
  deriving DecidableEq, Repr

/-- The device. -/
structure State where
  pending : List Instr
  part : Part
  tick : BitVec 64
  regs : SMap DWord
  /-- half-register shadows of R9 and R10: key master × 2^48 + address of the low half -/
  rshadow : List (Nat × Word)
  wshadow : List (Nat × Word)
  mem : Memory
  hostMem : Memory
  /-- number of unpredictable values drawn -/
  drawn : Nat
  resp : Resp
  conf : Conf
  boot : BootPhase
  rst : ResetSt
  pf : PfSt
  pmu : PmuSt
  fcaps : SMap Fcap
  inputs : Vector InputSt 9
  /-- NMT pending and MODE 1 assignments (line, core) -/
  assigns : List (Nat × Nat)
  swint : BitVec 8
  cores : Vector CoreSt 8
  mcs : McsSt
  ports : Vector PortSt 2
  cqu : CquSt
  obj : ObjSt
  /-- zone tables in force: of every surface, as start-up read them from the Origin bands (R201) -/
  geom : List Surface
  /-- what the brick was formatted with (R175) -/
  fmt : Fmt
  slices : Vector SliceSt 8
  links : Vector LinkSt 16
  afes : Vector AfeSt 16
  /-- posted descriptors of queues 0–15 and of queue 16, oldest first (R473) -/
  queues : Vector (List Nat) 17
  /-- what the media hold: key ((actuator × 16 + head) × 2^24 + track) × 2^12 + slot of the track -/
  media : SMap MediaRec
  ladders : List Ladder
  bands : SMap BandNote
  lat : LatSt
  acts : Vector ActSt 16
  spns : Vector SpnSt 8
  fct : FctSt
  ms : MemSt
  dmas : Vector DmaSt 32
  evr : EvrSt
  cal : CalSt
  datum : DatumSt
  dtm : DtmSt
  tap : TapSt
  deriving DecidableEq, Repr

/-! ### Reset values. A value the spec gives is cited; the others are the model's, named in the assumption log. -/

/-- Defaults of R74 for the AH4808. -/
def Conf.defaults : Conf :=
  { spindles := 0xFF, rpm7200 := true, actuators := 0x5555, dramGib := 8, hostcfg1 := false, maxRate := 5
    k := 6, m := 2, handover := 600, patrolDays := 7 }

def ResetSt.reset : ResetSt :=
  { pending := [], deferred := [], faultSrc := none, rail0 := false, clkHold := false, tempHold := false
    pinLow := false, inChipReset := false, xtalOk := false, pllLock := false, fresh := true, wdtCount := 0 }

def PfSt.reset : PfSt :=
  { active := false, step3 := false, railsOff := false, inputOk := true }

def PmuSt.reset : PmuSt :=
  { waitQ := [], starting := 0, running := 0, refused := 0, pgood := 0
    slewFrom := Vector.replicate 6 none, unldAon := [], overRect := 0, overShort := 0 }

def Fcap.empty : Fcap := { valid := false, addr := 0, ty := 0, srcbit := 0, master := 0, tick := 0 }

/-- R543: the filtered level becomes inactive, windows and timers cleared. -/
def InputSt.reset : InputSt :=
  { level := false, masked := false, faulty := false, trig := false, window := none }

def Frame.zero : Frame := { pc := 0, stat := 0, pri := 0, cause := 0, addr := 0 }

/-- R447, R448: every register of a core reads 0 after reset; `run` is given by CORECTL (R480). -/
def CoreSt.reset (run : RunState) : CoreSt :=
  { run := run, g := Vector.replicate 32 0, pc := 0, stat := 0, f0 := Frame.zero, f1 := Frame.zero, tbase := 0
    ipri := 0, scr := Vector.replicate 4 0, lbaddr := 0, cycle := 0, werr := none, nmt := false, pcsamp := 0
    lastCause := 0, dcache := [], icache := [] }

def McsSt.reset : McsSt := { words := [], bad := [], vbuild := none, cbuild := 0, load := none }

def PortSt.reset : PortSt :=
  { perst := true, linkUp := false, inRec := false, clkreq := false, ltssm := 0, rate := 0, width := 0, flit := false, dstate := 0
    pm := .l0, bar0 := 0, bme := false, wake := false, cfgAnswer := 0, cfg := [], mtab := [], pba := [], msgs := [], lastMsg := none
    agg := [], posted := none, cc := 0, aqa := 0, asq := 0, acq := 0, en := false, rdy := false, shn := 0, shst := 0, ps := 0
    lastOpPs := 0, sqs := [], cqs := [], held := [], maskedTypes := [], aers := [], events := [], features := [], tsBase := 0
    tsTick := 0, errs := [], errNum := 0, changed := [] }

def HostCmd.none : HostCmd :=
  { op := .unsupported, nsid := 0, cid := 0, slba := 0, nlb := 0, ranges := [], key := [], data := [], opts := 0
    hostLen := 0, prp := 0, prp2 := 0, sgl := false }

/-- R143: every tag is FREE after reset. -/
def Tag.free : Tag :=
  { st := .free, port := .a, sqid := 0, aseq := 0, cmd := HostCmd.none, admin := false, mops := 0, dead := false
    aborted := false, keys := [], wunits := 0, bad := [], copy := none, snap := [], waits := none, sct := 0, sc := 0, dw0 := 0, zlba := 0
    assigned := false, destr := false, got := [] }

def CquSt.reset : CquSt :=
  { tags := [], locks := [], aseq := 0, mops := 0, compq := [], stopped := false, psStep := 0, psTarget := 0
    reversing := false, psPort := .a, psBoth := false, psUndo := false
    turns := Vector.replicate 2 { qid := 65536, taken := 0 }, turnPort := .a, stalled := none, q17 := [], waitOps := []
    wiped := false, cut := [] }

def ObjSt.reset : ObjSt :=
  { nss := [], chunks := [], durable := [], pfRecord := none, tombs := [], cache := [], readers := [], unrec := [], unrecNext := 1
    sanitizing := false, sanCut := false, sanTick := 0, sanDone := false, selfTest := [], critWarn := 0, unowned := 0 }

/-- What an unlisted map key holds: no live version (V = 0). -/
def Chunk.absent : Chunk :=
  { wr := 0, gen := 0, wseq := 0, keyep := 0, kdraw := 0, stream := [], clen := 0, raw := true, count := 0, tier := 0, loc := 0, ret := false
    poison := false, dirty := false, staged := false, data := [] }

def MediaRec.none : MediaRec := { n := 0, info := [] }

def SliceSt.reset : SliceSt :=
  { valid := false, dir := false, act := 0, pend := none, shadow := [], loadPend := false, op := none, bufs := []
    lock := false, cfgErr := false, freq := 0, phase := 0, lost := false, fclamp := false, acc := 0, trim := 0, code := 0, mon := 0, monSum := 0, monN := 0, devs := 0
    psBusy := false, psDone := false, psFrame := 0, frames := [], oc := false, ocSingle := false, prof := [], win := none }

def LinkSt.reset : LinkSt := { live := [.servo], holding := false, wd := [] }

def AfeSt.reset : AfeSt := { lock := false, settling := false, ampA := 0, ampB := 0 }

def BandNote.none : BandNote := { refreshDays := .none, hard := 0, soft := 0 }

/-- R300: a group is FREE at the format of the brick. -/
def Group.free : Group :=
  { st := .free, fill := Vector.replicate 8 0, sealed_ := 0, stale := 0, released := 0, parDone := 0, imgOk := true }

def Migration.reset : Migration :=
  { active := false, ringAddr := 0, ringSize := 0, prodAddr := 0, prod := 0, cons := 0
    next := Vector.replicate 8 0, seen := Vector.replicate 8 0, finished := 0, lastBad := none }

def LatSt.reset : LatSt :=
  { groups := [], svc := Vector.replicate 8 .inService, dirty := Vector.replicate 8 [], ovf := 0
    rebuilt := Vector.replicate 8 0, vErr := Vector.replicate 8 0, rb := none, mig := Migration.reset, images := [], out := [] }

/-- R342: PARKED with codes 0. -/
def ActSt.reset : ActSt :=
  { st := .parked, cause := 0, r := 0, goal := 0, v := 0, seeking := false, vcode := 0, mcode := 0, bad := 0
    settle := 0, wok := 0, satV := false, satM := false, satL := false, execs := 0, acq := []
    lastWedge := 0, sampleOk := false, coefPars := 0, y := 0, e := 0, ymeas := 0, stepRes := 0
    newBq := 0, bump := none, profile := [], shockLeft := 0, revMax := 0, revN := 0 }

/-- R361: STOPPED. -/
def SpnSt.reset : SpnSt :=
  { st := .stopped, failed := false, atspeed := false, err := 0, cls := 0
    losscause := 0, failcause := 0, tries := 0, sector := 0, backward := false, spd := 0, amp := 0, t0 := 0
    ivals := [], ref := 0, refMilli := 0, accel := 0, rampSq := 0, integ := 0, duty := 0, hosync := 0, sched := 0
    inject := false, goodRevs := 0, evInRev := 0, obsN := 0, failing := false, autoRestart := false
    catching := false, forwardSlow := false }

def Sb.erased : Sb :=
  { st := .erased, stream := 0, native := false, bseq := 0, slots := [], members := [], pec := 0, closedAt := 0, opened := 0 }

def FctSt.reset : FctSt :=
  { ready := false, dies := [], geom := 0, mode := .normal, sbs := [], map := [], data := [], journal := [], jseq := 0
    jFlash := 0, ckptSeq := 0, ckptJ := 0, ckptMap := [], bseqNext := 1, victim := none, copied := (0, 0, 0), folding := false
    sparePer := 0, retired := [], retiring := [], omitted := [], weak := [], weak3 := [], patrolPos := 0, formatted := false, tpc := [], rates := [], disk := [] }

def MemSt.reset : MemSt :=
  { ecc := [], spdValid := [], bufLog := Vector.replicate 16 none, spdLog := Vector.replicate 16 none, ready := false, init := false
    selfref := false, gib := 0, rate := 0, bufTestDone := false, bufTestFail := false, spdTestDone := false
    spdTestFail := 0, scrubPos := 0, retire := Vector.replicate 16 none, bankRet := 0, busyAddr := none, ceHour := 0 }

def DmaSt.reset : DmaSt :=
  { busy := false, aborting := false, readback := none, desc := none, cur := 0, result := 0, elem := 0, erraddr := 0
    mismatch := 0, lastWr := none }

/-- R549, after a clear. -/
def Rec.cleared : Rec :=
  { bins := List.replicate 32 0, min := 0x7FFF_FFFF, max := 0x8000_0000, total := 0, minStamp := (0, 0)
    maxStamp := (0, 0), lastStamp := (0, 0), seq := 0 }

def EvrSt.reset : EvrSt :=
  { queue := [], recs := [], opsec := 0, pcyc := 0, fwd := [] }

def CalSt.reset : CalSt := { due := [], last := [], refOk := true }

/-- A physical sector as it left the factory: BLANK. -/
def Sector.blank : Sector := { st := .blank, logical := 0xFFFF, version := 0, ecount := 0 }

def Rule.free : Rule :=
  { st := 0, nswide := false, hold := false, nsslot := 0, window := none, handle := 0, first := 0, last := 0
    until_ := 0, created := 0, cseq := 0 }

def MKey.none : MKey := { epoch := 0, draw := 0 }

def DatumSt.reset : DatumSt :=
  { clock := 0, slewHold := 0, clkvalid := false, adj := 0, adjDay := 0, savedTime := 0, sectors := [], rotation := 0
    rewrites := 0, bytes := [], keys := [], keyDraws := 0, loaded := [], cfw := none, cmc := none
    cust := none, lastCseq := 0, floors := Vector.replicate 3 0, rules := [], chain := [], chainSeq := 1, chainAck := 0
    chainBase := [], tier := [], counters := [], recs := [], recsSaved := [], cfgFresh := none, bootSlot := 0, mboxRes := none
    portRes := none, portReq := none, portOut := [], evq := [] }

/-- How an output ball is driven: not at all, to a level, by the unit that switches it, or by its boundary cell. -/
inductive BallDrive | undriven | low | high | switching | cell
  deriving DecidableEq, Repr

def DtmSt.reset : DtmSt := { busy := false, linkUp := true, events := [], ovf := false }

/-- R602: Test-Logic-Reset with IDCODE. -/
def TapSt.reset : TapSt :=
  { active := false, instr := .idcode, refused := false, boundary := 0, temp := none, tempMax := none, hot := 0
    tempHi := false }

/-- Zones of a reference surface (R192). -/
def refZones (last : Nat) : List ZoneRow :=
  [⟨0, 15560, 128, 83320, 79026, 1344, 51⟩, ⟨15560, 13000, 809248, 76340, 72395, 1231, 55⟩, ⟨28560, 12000, 1537248, 69960, 66334, 1128, 60⟩,
   ⟨40560, 11000, 2269248, 64580, 61223, 1041, 65⟩, ⟨51560, 10000, 2995248, 59140, 56055, 953, 71⟩, ⟨61560, 9500, 3715248, 53880, 51058, 868, 78⟩,
   ⟨71060, 9000, 4465748, 48880, 46308, 787, 86⟩, ⟨80060, last, 5248748, 44300, 41957, 713, 95⟩]

/-- Surface `u` of spindle `s` in the reference geometry (R192): surfaces 0–7 carry 87,382 bands, 8–23 carry 87,381. -/
def refSurface (s u : Nat) : Surface :=
  { spindle := s, act := 2 * s + u / 12, head := u % 12
    firstBand := if u < 8 then 87382 * u else 699056 + 87381 * (u - 8)
    bands := if u < 8 then 87382 else 87381
    zones := refZones (if u < 8 then 7322 else 7321) }

/-- Every surface of a reference brick. -/
def refSurfaces : List Surface := (List.range 8).flatMap fun s => (List.range 24).map (refSurface s)

/-- The device right after main-die power-on reset, released with all six rails good (step 7 of R71): no command waits, every register reads its reset value, memory
lists nothing, core 0 runs and the other cores stay in reset (R480, R481). -/
def State.reset : State :=
  { pending := [], part := { is4804 := false, stepB0 := true }, tick := 0, regs := [], rshadow := [], wshadow := []
    mem := [], hostMem := [], drawn := 0, resp := { data := 0, err := false, busy := false }
    conf := Conf.defaults, boot := .resetReleased, rst := { ResetSt.reset with xtalOk := true, pllLock := true }
    pf := PfSt.reset, pmu := { PmuSt.reset with pgood := 0x3F }, fcaps := []
    inputs := Vector.replicate 9 InputSt.reset, assigns := [], swint := 0
    cores := (Vector.replicate 8 (CoreSt.reset .reset)).set 0 (CoreSt.reset .running)
    mcs := McsSt.reset, ports := Vector.replicate 2 PortSt.reset, cqu := CquSt.reset, obj := ObjSt.reset
    geom := refSurfaces, fmt := { surfaces := refSurfaces, k := 6, m := 2, spindles := 0xFF, rpm7200 := true }
    slices := Vector.replicate 8 SliceSt.reset, links := Vector.replicate 16 LinkSt.reset
    afes := Vector.replicate 16 AfeSt.reset, queues := Vector.replicate 17 [], media := [], ladders := [], bands := []
    lat := LatSt.reset, acts := Vector.replicate 16 ActSt.reset, spns := Vector.replicate 8 SpnSt.reset
    fct := FctSt.reset, ms := MemSt.reset, dmas := Vector.replicate 32 DmaSt.reset, evr := EvrSt.reset
    cal := CalSt.reset, datum := DatumSt.reset, dtm := DtmSt.reset, tap := TapSt.reset }

end Sys2Proof.Machine
end

