-- ==== Sys2Proof/Machine/Ops.lean ====
section
/-! DEFINITION. The named operations over tables, registers, memory and the indexed parts of the state. Every meaning
works through them. -/

namespace Sys2Proof.Machine

/-! ### Sparse tables -/

/-- What key `k` holds; `d` where it is not listed. -/
def tget {α : Type} (d : α) (m : SMap α) (k : Nat) : α :=
  match m with
  | [] => d
  | (k', v) :: rest => if k' = k then v else tget d rest k

/-- `m` with `(k, v)` at the place of its key. -/
def tins {α : Type} (m : SMap α) (k : Nat) (v : α) : SMap α :=
  match m with
  | [] => [(k, v)]
  | (k', v') :: rest =>
    if k < k' then (k, v) :: (k', v') :: rest
    else if k = k' then (k, v) :: rest
    else (k', v') :: tins rest k v

/-- `m` with `v` at `k`, in canonical form: an entry equal to the default `d` is not listed. -/
def tset {α : Type} [DecidableEq α] (d : α) (m : SMap α) (k : Nat) (v : α) : SMap α :=
  if v = d then m.filter fun e => e.1 ≠ k else tins m k v

/-- Keys strictly rising from `lo` on, and no listed value equal to the default of its key. -/
def tableFrom {α : Type} [DecidableEq α] (d : Nat → α) (lo : Nat) (m : SMap α) : Bool :=
  match m with
  | [] => true
  | (k, v) :: rest => decide (lo ≤ k) && decide (v ≠ d k) && tableFrom d (k + 1) rest

/-- The canonical form of a table. -/
def tableWf {α : Type} [DecidableEq α] (d : Nat → α) (m : SMap α) : Bool := tableFrom d 0 m

/-! ### Numbers, fields, bytes -/

/-- Field of `w` bits at `lsb`. -/
def fld (v lsb w : Nat) : Nat := v / 2 ^ lsb % 2 ^ w

/-- `v` with the field of `w` bits at `lsb` set to `x`. -/
def putFld (v lsb w x : Nat) : Nat := v - fld v lsb w * 2 ^ lsb + x % 2 ^ w * 2 ^ lsb

/-- A bit as a number. -/
def bit01 (b : Bool) : Nat := if b then 1 else 0

/-- `v` with bit `i` set to `b`. -/
def putBit (v i : Nat) (b : Bool) : Nat := putFld v i 1 (bit01 b)

/-- The `w`-bit number `n` as a signed number. -/
def sgn (w n : Nat) : Int := if n % 2 ^ w < 2 ^ (w - 1) then ((n % 2 ^ w : Nat) : Int) else ((n % 2 ^ w : Nat) : Int) - ((2 ^ w : Nat) : Int)

/-- A signed number in two's complement of `w` bits. -/
def unsgn (w : Nat) (x : Int) : Nat := (x % ((2 ^ w : Nat) : Int)).toNat

/-- Number of bits set among the lowest `w`. -/
def popcount (w v : Nat) : Nat :=
  match w with
  | 0 => 0
  | w' + 1 => v % 2 + popcount w' (v / 2)

/-- The `n` bytes of a number, least significant first (R5). -/
def toBytes (n v : Nat) : List Byte :=
  match n with
  | 0 => []
  | n' + 1 => BitVec.ofNat 8 v :: toBytes n' (v / 256)

/-- The number that bytes hold, least significant first (R5). -/
def ofBytes (bs : List Byte) : Nat :=
  match bs with
  | [] => 0
  | b :: rest => b.toNat + 256 * ofBytes rest

/-- The number that bytes hold, most significant first (R6). -/
def ofBytesBe (bs : List Byte) : Nat := ofBytes bs.reverse

/-! ### Indexed parts -/

/-- Element of a vector at a bounded index. -/
def vget {α : Type} {n : Nat} (v : Vector α n) (i : Fin n) : α := v[i.val]

/-- `v` with element `i` replaced. -/
def vset {α : Type} {n : Nat} (v : Vector α n) (i : Fin n) (x : α) : Vector α n := v.set i.val x

/-- `v` with element `i` changed by `f`. -/
def vmod {α : Type} {n : Nat} (v : Vector α n) (i : Fin n) (f : α → α) : Vector α n := vset v i (f (vget v i))

def State.core (s : State) (c : Fin 8) : CoreSt := vget s.cores c
def State.act (s : State) (a : Fin 16) : ActSt := vget s.acts a
def State.spn (s : State) (i : Fin 8) : SpnSt := vget s.spns i
def State.slice (s : State) (n : Fin 8) : SliceSt := vget s.slices n
def State.dmaCh (s : State) (c : Fin 32) : DmaSt := vget s.dmas c

/-- Index of a port. -/
def portIx (p : Port) : Fin 2 := match p with | .a => 0 | .b => 1
def State.port (s : State) (p : Port) : PortSt := vget s.ports (portIx p)

def modCore (s : State) (c : Fin 8) (f : CoreSt → CoreSt) : State := { s with cores := vmod s.cores c f }
def modAct (s : State) (a : Fin 16) (f : ActSt → ActSt) : State := { s with acts := vmod s.acts a f }
def modSpn (s : State) (i : Fin 8) (f : SpnSt → SpnSt) : State := { s with spns := vmod s.spns i f }
def modSlice (s : State) (n : Fin 8) (f : SliceSt → SliceSt) : State := { s with slices := vmod s.slices n f }
def modDma (s : State) (c : Fin 32) (f : DmaSt → DmaSt) : State := { s with dmas := vmod s.dmas c f }
def modPort (s : State) (p : Port) (f : PortSt → PortSt) : State := { s with ports := vmod s.ports (portIx p) f }
def modLink (s : State) (a : Fin 16) (f : LinkSt → LinkSt) : State := { s with links := vmod s.links a f }
def modAfe (s : State) (a : Fin 16) (f : AfeSt → AfeSt) : State := { s with afes := vmod s.afes a f }

/-- `f` applied to the state for each element of a list, in order. -/
def overList {α : Type} (l : List α) (s : State) (f : State → α → State) : State := l.foldl f s

def fin8 : List (Fin 8) := [0, 1, 2, 3, 4, 5, 6, 7]
def fin16 : List (Fin 16) := [0, 1, 2, 3, 4, 5, 6, 7, 8, 9, 10, 11, 12, 13, 14, 15]
def fin32 : List (Fin 32) := (List.range 32).map (Fin.ofNat 32)

/-! ### Registers held in `regs` -/

/-- The value held in the register at `a`. -/
def rget (s : State) (a : Nat) : DWord := tget (regReset a) s.regs a

/-- The same as a number. -/
def rn (s : State) (a : Nat) : Nat := (rget s a).toNat

/-- `s` with `v` held in the register at `a`. -/
def rset (s : State) (a : Nat) (v : DWord) : State := { s with regs := tset (regReset a) s.regs a v }

def rsetN (s : State) (a n : Nat) : State := rset s a (BitVec.ofNat 64 n)

/-- A field of a register. -/
def rf (s : State) (a lsb w : Nat) : Nat := fld (rn s a) lsb w

/-- A field set. -/
def rfSet (s : State) (a lsb w x : Nat) : State := rsetN s a (putFld (rn s a) lsb w x)

def rbit (s : State) (a i : Nat) : Bool := (rn s a).testBit i

def rbitSet (s : State) (a i : Nat) (b : Bool) : State := rfSet s a i 1 (bit01 b)

/-- A counter register advanced, saturating at its greatest value. -/
def rcount (s : State) (a n : Nat) : State := rsetN s a (satAdd 0xFFFF_FFFF (rn s a) n)

/-- A counter that is a field, likewise. -/
def rfCount (s : State) (a lsb w n : Nat) : State := rfSet s a lsb w (satAdd (2 ^ w - 1) (rf s a lsb w) n)

/-- Every register held in a span of addresses returns to its reset value. -/
def clearRegs (lo hi : Nat) (keep : Nat → Bool) (m : SMap DWord) : SMap DWord :=
  m.filter fun e => e.1 < lo || hi ≤ e.1 || keep e.1

/-! ### Memory -/

/-- A byte of memory; an unlisted byte reads 0 (R427, R431). -/
def mget (m : Memory) (a : Nat) : Byte := tget 0 m a

def mset (m : Memory) (a : Nat) (b : Byte) : Memory := tset 0 m a b

/-- Canonical form of a memory. -/
def Memory.wf (m : Memory) : Bool := tableWf (fun _ => (0 : Byte)) m

/-- `n` bytes from `a` on. -/
def readBytes (m : Memory) (a n : Nat) : List Byte :=
  match n with
  | 0 => []
  | n' + 1 => mget m a :: readBytes m (a + 1) n'

/-- Bytes stored from `a` on. -/
def writeBytes (m : Memory) (a : Nat) (bs : List Byte) : Memory :=
  match bs with
  | [] => m
  | b :: rest => writeBytes (mset m a b) (a + 1) rest

/-- The little-endian number of `n` bytes at `a` (R5). -/
def readNat (m : Memory) (a n : Nat) : Nat := ofBytes (readBytes m a n)

/-- `v` stored as `n` bytes at `a`, little-endian (R5). -/
def writeNat (m : Memory) (a n v : Nat) : Memory := writeBytes m a (toBytes n v)

def setMem (s : State) (m : Memory) : State := { s with mem := m }

/-- Bytes of host memory; what no command has set is the host's own (an opaque value). -/
def hostReadBytes (s : State) (a n : Nat) : List Byte :=
  match n with
  | 0 => []
  | n' + 1 => tget (Config.hostByte a) s.hostMem a :: hostReadBytes s (a + 1) n'

def hostWriteBytes (m : Memory) (a : Nat) (bs : List Byte) : Memory :=
  match bs with
  | [] => m
  | b :: rest => hostWriteBytes (tset (Config.hostByte a) m a b) (a + 1) rest

/-! ### Unpredictable values -/

/-- The next unpredictable value (R16), and the state in which it is drawn. -/
def draw (s : State) : DWord × State := (Config.free s.drawn, { s with drawn := s.drawn + 1 })

/-- `n` unpredictable bytes. -/
def drawBytes (s : State) (n : Nat) : List Byte × State :=
  ((List.range n).map fun i => BitVec.ofNat 8 (Config.free (s.drawn + i)).toNat, { s with drawn := s.drawn + n })

/-! ### Lists -/

/-- `l` with element `i` replaced, where it exists. -/
def lset {α : Type} (l : List α) (i : Nat) (x : α) : List α := l.set i x

/-- The first element that satisfies `p` changed by `f`. -/
def lmodFirst {α : Type} (p : α → Bool) (f : α → α) (l : List α) : List α :=
  match l with
  | [] => []
  | x :: rest => if p x then f x :: rest else x :: lmodFirst p f rest

/-- Which spindles, actuators and slices the part and its configuration have (R1, R2, R74). -/
def partSpindles (s : State) : Nat := if s.part.is4804 then 0x0F else 0xFF
def spindlePresent (s : State) (i : Nat) : Bool := s.conf.spindles.toNat.testBit i
def actPresent (s : State) (a : Nat) : Bool := s.conf.actuators.toNat.testBit a
def slicePresent (s : State) (n : Nat) : Bool := !(s.part.is4804 && 4 ≤ n)
def frontPresent (s : State) (a : Nat) : Bool := !(s.part.is4804 && 8 ≤ a)

/-- Spindle of an actuator. -/
def spnOf (a : Fin 16) : Fin 8 := ⟨a.val / 2, by omega⟩
/-- The actuators of a spindle. -/
def act0 (i : Fin 8) : Fin 16 := ⟨2 * i.val, by omega⟩
def act1 (i : Fin 8) : Fin 16 := ⟨2 * i.val + 1, by omega⟩

/-- A command that the present state does not let occur changes nothing (DESIGN CHOICE, log entry 2). -/
def when (b : Bool) (s : State) (f : State → State) : State := if b then f s else s

end Sys2Proof.Machine
end

