-- ==== Sys2Proof/Machine/Operands.lean ====
section
/-! DEFINITION. The operand forms of the spec: media addresses and the geometry behind them, parity groups, object
handles and unit tags, check codes, the arithmetic of the codes, media descriptors, per-slot entries and status entries. -/

namespace Sys2Proof.Machine

/-! ### Media addresses (R24–R26) -/

def maddrSpindle (a : Nat) : Nat := fld a 40 3
def maddrBand (a : Nat) : Nat := fld a 16 21
def maddrUnit (a : Nat) : Nat := fld a 0 16

/-- A media address in the layout of R24. -/
def maddrOf (spindle band unit : Nat) : Nat := spindle * 2 ^ 40 + band * 2 ^ 16 + unit

/-- The reserved fields of R24 are zero. -/
def maddrClean (a : Nat) : Bool := decide (a < 2 ^ 43) && decide (fld a 37 3 = 0)

/-- Surfaces of a spindle, in the order of the zone tables. -/
def surfacesOf (s : State) (spindle : Nat) : List Surface := s.geom.filter fun u => u.spindle = spindle

/-- Band count of a spindle, as its zone tables give it. -/
def spindleBands (s : State) (spindle : Nat) : Nat := (surfacesOf s spindle).foldl (fun n u => n + u.bands) 0

/-- R25: a media address is valid. -/
def maddrValid (s : State) (a : Nat) : Bool :=
  maddrClean a && spindlePresent s (maddrSpindle a) && decide (maddrBand a < spindleBands s (maddrSpindle a))

/-- F of R188: payload bits of a wedge. -/
def payloadBits (n : Nat) : Nat := 19 * n / 20 - 128

/-- S of R190: slots of a track. -/
def slotsPerTrack (n : Nat) : Nat := 640 * payloadBits n / 37600 - 1

/-- T of R195: tracks of a band. -/
def tracksPerBand (sl : Nat) : Nat := (67652 + sl - 1) / sl

/-- R191: WEDGEBITS of a valid zone. -/
def wedgebitsValid (n : Nat) : Bool :=
  decide (n % 20 = 0) && decide (17380 ≤ n) && decide (n ≤ 83320) && decide (slotsPerTrack n ≤ 2055)

/-- Where a band lies (R201): surface, zone, first servo track. -/
def locateBand (s : State) (spindle band : Nat) : Option (Surface × ZoneRow × Nat) :=
  match (surfacesOf s spindle).find? fun u => u.firstBand ≤ band && band < u.firstBand + u.bands with
  | none => none
  | some u =>
    let l := band - u.firstBand
    match u.zones.find? fun z => z.firstBand ≤ l && l < z.firstBand + z.bands with
    | none => none
    | some z => some (u, z, z.firstTrack + (l - z.firstBand) * (z.t + 1))

/-- Key of a band. -/
def bandKey (spindle band : Nat) : Nat := spindle * 2 ^ 21 + band

/-- Slots of a band, and its parity slots included (R194, R196). -/
def dataSlots : Nat := 65536
def bandSlots : Nat := 67652

/-- Group and row of a slot in the band outer code (R196). -/
def outerGroup (q : Nat) : Nat := if q < 65536 then q % 1058 else if q < 66594 then q - 65536 else q - 66594
def outerRow (q : Nat) : Nat := if q < 65536 then q / 1058 else if q < 66594 then 62 else 63
/-- Slot of a row of an outer-code group; none for a row that is not written. -/
def outerSlot (g r : Nat) : Option Nat :=
  if r = 62 then some (65536 + g) else if r = 63 then some (66594 + g)
  else if g + 1058 * r < 65536 then some (g + 1058 * r) else none

/-! ### Parity groups (R293–R295) -/

/-- Present spindles in ascending order, L of R293. -/
def spindleList (s : State) : List Nat := (List.range 8).filter fun i => spindlePresent s i
def groupW (s : State) : Nat := s.conf.k + s.conf.m
/-- BMIN: least band count of the present spindles. -/
def bandMin (s : State) : Nat :=
  match spindleList s with
  | [] => 0
  | i :: rest => rest.foldl (fun m j => min m (spindleBands s j)) (spindleBands s i)
/-- G of R293. -/
def groupCount (s : State) : Nat :=
  if groupW s = 0 then 0 else (spindleList s).length * bandMin s / groupW s
/-- Position of an element in a list. -/
def posOf (l : List Nat) (x : Nat) : Option Nat :=
  match l with
  | [] => none
  | y :: rest => if y = x then some 0 else (posOf rest x).map (· + 1)
/-- Group and member of a band; none for a band of no group (R294). -/
def groupOf (s : State) (spindle band : Nat) : Option (Nat × Nat) :=
  match posOf (spindleList s) spindle with
  | none => none
  | some i =>
    let x := band * (spindleList s).length + i
    if groupW s = 0 then none
    else if band < bandMin s && x < groupCount s * groupW s then some (x / groupW s, x % groupW s) else none
/-- Spindle and band of member `j` of group `g`. -/
def memberOf (s : State) (g j : Nat) : Nat × Nat :=
  let x := g * groupW s + j
  let n := (spindleList s).length
  if n = 0 then (0, 0) else ((spindleList s).getD (x % n) 0, x / n)
/-- Role of member `j` of group `g`: below k a data role, k is P, k + 1 is Q. -/
def roleOf (s : State) (g j : Nat) : Nat := if groupW s = 0 then 0 else (j + groupW s - g % groupW s) % groupW s
/-- Member that has role `r` in group `g`. -/
def memberOfRole (s : State) (g r : Nat) : Nat := if groupW s = 0 then 0 else (r + g) % groupW s
def isDataMember (s : State) (g j : Nat) : Bool := decide (roleOf s g j < s.conf.k)

/-! ### Objects (R155–R157, R177, R178) -/

def handleOf (nsslot serial : Nat) : Nat := nsslot * 2 ^ 34 + serial
def handleSlot (h : Nat) : Nat := h / 2 ^ 34
/-- The namespace record handle of a slot (R156). -/
def nsRecordHandle (nsslot : Nat) : Nat := handleOf nsslot 0x3_FFFF_FFFE
/-- The object of an NVM or Zoned namespace (R156). -/
def nsObject (nsslot : Nat) : Nat := handleOf nsslot 1
/-- Chunk index of the object record of a Key Value object (R157). -/
def objRecordChunk : Nat := 0xFF_FFFF_FFFF
/-- Key of a chunk in `ObjSt.chunks`. -/
def chunkKey (handle chunk : Nat) : Nat := handle * 2 ^ 40 + chunk
/-- Set of a chunk in the Locus cache (R178). -/
def locusSet (handle chunk : Nat) : Nat :=
  fld chunk 0 14 ^^^ fld handle 0 14 ^^^ fld handle 14 14 ^^^ fld handle 28 12

/-! ### Check codes (R73, R168) -/

/-- One bit of a reflected CRC with polynomial `p`. -/
def crcStepR (p c : Nat) : Nat := if c % 2 = 1 then c / 2 ^^^ p else c / 2
def crcByteR (p c : Nat) (b : Byte) : Nat :=
  let c := c ^^^ b.toNat
  crcStepR p (crcStepR p (crcStepR p (crcStepR p (crcStepR p (crcStepR p (crcStepR p (crcStepR p c)))))))
/-- CRC-32C (DCRC): polynomial 0x1EDC6F41 reflected is 0x82F63B78. -/
def crc32c (bs : List Byte) : Nat := bs.foldl (crcByteR 0x82F6_3B78) 0xFFFF_FFFF ^^^ 0xFFFF_FFFF
/-- CRC-32 of IEEE 802.3. -/
def crc32 (bs : List Byte) : Nat := bs.foldl (crcByteR 0xEDB8_8320) 0xFFFF_FFFF ^^^ 0xFFFF_FFFF
/-- One bit of CRC-16, unreflected, polynomial 0x1021. -/
def crc16Step (c : Nat) : Nat := if c ≥ 0x8000 then (2 * c) % 0x1_0000 ^^^ 0x1021 else 2 * c
def crc16Byte (c : Nat) (b : Byte) : Nat :=
  let c := c ^^^ (b.toNat * 256)
  crc16Step (crc16Step (crc16Step (crc16Step (crc16Step (crc16Step (crc16Step (crc16Step c)))))))
/-- CRC-16 (TCRC). -/
def crc16 (bs : List Byte) : Nat := bs.foldl crc16Byte 0xFFFF

/-! ### Unit tags (R166, R167) -/

/-- The fields of a unit tag. -/
structure UnitTag where
  handle : Nat
  chunk : Nat
  unit : Nat
  units : Nat
  flags : Nat
  gen : Nat
  wseq : Nat
  keyep : Nat
  clenm1 : Nat
  deriving DecidableEq, Repr

/-- `n` bytes of a number, most significant first (R6). -/
def toBytesBe (n v : Nat) : List Byte := (toBytes n v).reverse

/-- The 32 bytes of a tag over 4,096 stored bytes. -/
def tagBytes (t : UnitTag) (stored : List Byte) : List Byte :=
  let front := toBytesBe 5 t.handle ++ toBytesBe 5 t.chunk ++ [BitVec.ofNat 8 (16 * t.unit + (t.units - 1))]
    ++ [BitVec.ofNat 8 t.flags] ++ toBytesBe 4 t.gen ++ toBytesBe 7 t.wseq ++ [BitVec.ofNat 8 t.keyep]
    ++ toBytesBe 2 t.clenm1 ++ toBytesBe 4 (crc32c stored)
  front ++ toBytesBe 2 (crc16 front)

/-- A field of tag bytes. -/
def tagField (bs : List Byte) (off n : Nat) : Nat := ofBytesBe ((bs.drop off).take n)

/-- The tag that the first 32 of a unit's information bytes hold. -/
def parseTag (bs : List Byte) : UnitTag :=
  { handle := tagField bs 0 5, chunk := tagField bs 5 5, unit := tagField bs 0x0A 1 / 16, units := tagField bs 0x0A 1 % 16 + 1
    flags := tagField bs 0x0B 1, gen := tagField bs 0x0C 4, wseq := tagField bs 0x10 7, keyep := tagField bs 0x17 1
    clenm1 := tagField bs 0x18 2 }

/-- TCRC and DCRC of a unit's information bytes (R168). -/
def tcrcOk (bs : List Byte) : Bool := decide (tagField bs 0x1E 2 = crc16 (bs.take 0x1E))
def dcrcOk (bs : List Byte) : Bool := decide (tagField bs 0x1A 4 = crc32c (bs.drop 32))

/-- `n` zero bytes. -/
def zeros (n : Nat) : List Byte := List.replicate n 0

/-- A unit: tag and stored bytes, the latter padded to 4,096. -/
def unitInfo (t : UnitTag) (body : List Byte) : List Byte :=
  let stored := body ++ zeros (4096 - body.length)
  tagBytes t stored ++ stored

/-- A pad unit (R171). -/
def padUnit (wseq : Nat) : List Byte :=
  unitInfo { handle := 0, chunk := 0, unit := 0, units := 1, flags := 0xC0, gen := 0, wseq := wseq, keyep := 0, clenm1 := 0 } []

/-! ### The slot on the medium (R202, R203, R209) -/

/-- Bits of a byte, most significant first. -/
def byteBits (b : Byte) : List Bool :=
  [b.toNat.testBit 7, b.toNat.testBit 6, b.toNat.testBit 5, b.toNat.testBit 4, b.toNat.testBit 3, b.toNat.testBit 2,
   b.toNat.testBit 1, b.toNat.testBit 0]

/-- The scrambler of R203 from register `r` on. -/
def scrambleFrom (r : Nat) (x : List Bool) : List Bool :=
  match x with
  | [] => []
  | b :: rest =>
    let k := r.testBit 14 != r.testBit 13
    (b != k) :: scrambleFrom ((2 * r + bit01 k) % 0x8000) rest

/-- c0 to c33,023: the information bits of a unit, scrambled. -/
def scramble (info : List Byte) : List Bool := scrambleFrom 0x7FFF (info.flatMap byteBits)

/-- The shift of the circulant of information column `j` in block row `i`. -/
def ldpcShift (i j : Nat) : Nat := (i + 1) * (j * j + 5 * j + 11) % 384

/-- Whether information column `j` has a circulant in block row `i`. -/
def ldpcRow (i j : Nat) : Bool := decide (i = j % 10) || decide (i = (j + 3) % 10) || decide (i = (j + 7) % 10)

/-- P^s applied to a block: entry `r` of the result is entry `(r + s) mod 384` of the block. -/
def circulant {α : Type} (v : List α) (k : Nat) : List α := v.drop (k % 384) ++ v.take (k % 384)

def xorBits (a b : List Bool) : List Bool := List.zipWith (· != ·) a b

/-- Block `j` of 384 bits. -/
def block (c : List Bool) (j : Nat) : List Bool := (c.drop (384 * j)).take 384

/-- Sum of the information blocks in block row `i`. -/
def ldpcLam (c : List Bool) (i : Nat) : List Bool :=
  (List.range 86).foldl (fun acc j => if ldpcRow i j then xorBits acc (circulant (block c j) (ldpcShift i j)) else acc)
    (List.replicate 384 false)

/-- The parity bits of R209: blocks p[0] to p[9]. -/
def ldpcParity (c : List Bool) : List Bool :=
  let p0 := (List.range 10).foldl (fun acc i => xorBits acc (ldpcLam c i)) (List.replicate 384 false)
  let p1 := xorBits (ldpcLam c 0) (circulant p0 1)
  let go := (List.range 8).foldl (fun (acc : List Bool × List (List Bool)) t =>
    let nxt := xorBits (ldpcLam c (t + 1)) acc.1
    let nxt := if t + 1 = 5 then xorBits nxt p0 else nxt
    (nxt, acc.2 ++ [nxt])) (p1, [p0, p1])
  go.2.flatten

/-- Repetition of the 2T pattern 1100. -/
def twoT (n : Nat) : List Bool := (List.range n).map fun i => decide (i % 4 < 2)

/-- Bits of a 32-bit mark, most significant first. -/
def markBits (v : Nat) : List Bool := (List.range 32).map fun i => v.testBit (31 - i)

/-- The written bits of a slot, in the order of R202; the splice gap is not written. -/
def slotBits (info : List Byte) : List Bool :=
  let c := scramble info
  twoT 288 ++ markBits 0x2F1B_9CD4 ++ twoT 64 ++ markBits 0x5B8E_1C73 ++ c ++ ldpcParity c ++ twoT 64

/-! ### GF(2^8) with polynomial 0x11D and α = 2 (R272) -/

def gfDouble (a : Nat) : Nat := if a < 128 then 2 * a else (2 * a) ^^^ 0x11D

/-- Product, over the lowest `n` bits of `b`. -/
def gfMulN (n a b : Nat) : Nat :=
  match n with
  | 0 => 0
  | n' + 1 => (if b % 2 = 1 then a else 0) ^^^ gfMulN n' (gfDouble a) (b / 2)

def gfMul (a b : Nat) : Nat := gfMulN 8 a b

/-- α to a power. -/
def gfPow (e : Nat) : Nat :=
  match e with
  | 0 => 1
  | e' + 1 => gfDouble (gfPow e')

/-- Inverse: a^254. -/
def gfInv (a : Nat) : Nat :=
  let a2 := gfMul a a
  let a4 := gfMul a2 a2
  let a8 := gfMul a4 a4
  let a16 := gfMul a8 a8
  let a32 := gfMul a16 a16
  let a64 := gfMul a32 a32
  let a128 := gfMul a64 a64
  gfMul a2 (gfMul a4 (gfMul a8 (gfMul a16 (gfMul a32 (gfMul a64 a128)))))

def gfDiv (a b : Nat) : Nat := gfMul a (gfInv b)

/-- Sum of two rows of bytes. -/
def xorBytes (a b : List Byte) : List Byte := List.zipWith (· ^^^ ·) a b
/-- A row of bytes times a field element. -/
def gfScale (k : Nat) (a : List Byte) : List Byte := a.map fun b => BitVec.ofNat 8 (gfMul k b.toNat)

/-! ### Media descriptors (R472, R474, R475) -/

/-- The descriptor at a buffer address. -/
def descAt (m : Memory) (a : Nat) : Desc :=
  let ctl := readNat m a 4
  { kind := fld ctl 0 4, act := fld ctl 12 4, notag := ctl.testBit 11, close := ctl.testBit 10, profile := fld ctl 16 10
    count := readNat m (a + 4) 4, band := readNat m (a + 8) 8, slot := readNat m (a + 0x10) 4
    wedgebits := readNat m (a + 0x14) 4, firstTrack := readNat m (a + 0x18) 4, slots := readNat m (a + 0x1C) 2
    head := readNat m (a + 0x1E) 1, data := readNat m (a + 0x20) 8, status := readNat m (a + 0x28) 8
    aux := readNat m (a + 0x30) 8, vstatus := readNat m (a + 0x38) 8
    clean := decide (fld ctl 26 2 = 0) && decide (fld ctl 4 6 = 0) && decide (readNat m (a + 0x1F) 1 = 0) }

/-- One entry of the per-slot array (R475): retention mode, sample record, retention record. -/
structure SlotEntry where
  rmode : Nat
  sampv : Bool
  ret : Nat
  samp : Nat
  deriving DecidableEq, Repr

def slotEntry (m : Memory) (aux i : Nat) : SlotEntry :=
  if aux = 0 then { rmode := 0, sampv := false, ret := 0, samp := 0 }
  else
    let v := readNat m (aux + 4 * i) 4
    { rmode := fld v 30 2, sampv := v.testBit 29, ret := fld v 16 9, samp := fld v 0 16 }

/-- Usable buffer capacity: 7/8 of the installed and declared one, 0x3800_0000 bytes for each GiB (R29, R426). -/
def bufUsable (s : State) : Nat := 0x3800_0000 * s.conf.dramGib

/-- The addresses are assigned buffer DRAM (R27, R29, R426). -/
def bufAssigned (s : State) (a n : Nat) : Bool := decide (a + n ≤ bufUsable s)

/-- R474, FORMAT. `wvmode`: the WVMODE of the slice, for a WRITE. -/
def descFormatBad (d : Desc) (wvmode : Nat) : Bool :=
  !d.clean || !(d.kind = 1 || d.kind = 2 || d.kind = 3) || decide (2 ^ 48 ≤ d.band) || decide (maddrUnit d.band ≠ 0)
    || (d.close && !(d.kind = 2))
    || (!(d.kind = 3) && (decide (11 < d.head) || !wedgebitsValid d.wedgebits
          || !(d.slots = slotsPerTrack d.wedgebits)))
    || (d.close && d.aux = 0) || (d.kind = 3 && d.aux = 0) || (d.kind = 2 && wvmode ≠ 0 && d.vstatus = 0)

/-- An actuator that may run operations: SEEK, SETTLE or TRACK (R474, R626). -/
def actAuto (st : ActState) : Bool := st = .seek || st = .settle || st = .track

/-- The checks of R474, in their order: 0 passes, else the OPRES code. -/
def descCheck (s : State) (d : Desc) (wvmode : Nat) : Nat :=
  if descFormatBad d wvmode then 5
  else if !maddrValid s d.band then 1
  else if d.count = 0 || bandSlots < d.slot + d.count then 2
  else if d.kind = 3 then 0
  else if !(d.act / 2 = maddrSpindle d.band && actPresent s d.act) then 3
  else if (s.spn (Fin.ofNat 8 (d.act / 2))).atspeed && actAuto (s.act (Fin.ofNat 16 d.act)).st then 0 else 4

/-! ### Status entries -/

/-- Read status of a unit (R232). -/
structure ReadStatus where
  ret : Nat
  recv : Bool
  marked : Nat
  corr : Nat
  giter : Nat
  cand : Nat
  recmism : Bool
  recbusy : Bool
  lockloss : Bool
  rsmiss : Nat
  result : Nat
  deriving DecidableEq, Repr

def ReadStatus.none (result : Nat) : ReadStatus :=
  { ret := 0, recv := false, marked := 0, corr := 0, giter := 0, cand := 0, recmism := false, recbusy := false
    lockloss := false, rsmiss := 0, result := result }

def readStatusWord (r : ReadStatus) : Nat :=
  r.result + 16 * min 7 r.rsmiss + 2 ^ 7 * bit01 r.lockloss + 2 ^ 8 * bit01 r.recbusy + 2 ^ 9 * bit01 r.recmism
    + 2 ^ 10 * (r.cand % 4) + 2 ^ 12 * (r.giter % 16) + 2 ^ 16 * (r.corr % 2 ^ 16) + 2 ^ 32 * (r.marked % 2 ^ 16)
    + 2 ^ 48 * bit01 r.recv + 2 ^ 49 * (r.ret % 512)

/-- Write-unsafe sources as the WUS field of R262. -/
def wusBits (l : List WusSrc) : Nat :=
  8 * bit01 (l.contains .pin) + 4 * bit01 (l.contains .pwrfail) + 2 * bit01 (l.contains .servo) + bit01 (l.contains .force)

/-- Write status of a slot (R262). -/
def writeStatusWord (lmon wus slot result : Nat) : Nat :=
  result + 2 ^ 15 * (slot % 2 ^ 17) + 2 ^ 32 * wus + 2 ^ 48 * (lmon % 256)

/-! ### Bits of a Bisin value -/

/-- Number of leading zero bits of a 64-bit value. -/
def leadZeros (n : Nat) (v : Nat) : Nat :=
  match n with
  | 0 => 0
  | n' + 1 => if v.testBit n' then 0 else 1 + leadZeros n' v

/-- Number of trailing zero bits among the lowest `n`. -/
def trailZeros (n : Nat) (v : Nat) : Nat :=
  match n with
  | 0 => 0
  | n' + 1 => if v % 2 = 1 then 0 else 1 + trailZeros n' (v / 2)

end Sys2Proof.Machine
end

