-- ==== Sys2Proof/Machine/Flags.lean ====
section
/-! DEFINITION. The flag computations of the spec: fault kinds and source bits, the levels of the interrupt lines, nFAULT. -/

namespace Sys2Proof.Machine

/-! ### Fault registers (R529–R541) -/

/-- The window of a block takes writes: a slice that the part lacks (R2) and port B at HOSTCFG 1 (R84) take none. -/
def blkPresent (s : State) (b : Blk) : Bool :=
  match b with
  | .chd n => slicePresent s n
  | .hpb => !s.conf.hostcfg1
  | _ => true

def aFstat (b : Blk) : Nat := blkBase b + 0xFF00
def aFlive (b : Blk) : Nat := blkBase b + 0xFF08
def aFmask (b : Blk) : Nat := blkBase b + 0xFF10
def aFreact (b : Blk) : Nat := blkBase b + 0xFF14
def aFctl (b : Blk) : Nat := blkBase b + 0xFF18

/-- Kind of a source bit (R529). -/
def faultKind (b : Blk) (bit : Nat) : Nat :=
  match b with
  | .spn => bit / 8
  | .rad => bit / 16
  | .cpc => bit / 8
  | .afe => 0
  | .pmu => 0
  | .sys => if bit < 16 then bit else if bit < 32 then 4 else 5
  | _ => bit

/-- Bits of `v`, of 64, whose kind satisfies `p`. -/
def bitsOfKind (b : Blk) (p : Nat → Bool) (v : Nat) : List Nat :=
  (List.range 64).filter fun i => v.testBit i && p (faultKind b i)

/-- Kind `k` of the block is masked (R532). -/
def kindMasked (s : State) (b : Blk) (k : Nat) : Bool := rbit s (aFmask b) k

/-- Kind `k` is unacknowledged (R536). -/
def unacked (s : State) (b : Blk) (k : Nat) : Bool := (bitsOfKind b (· == k) (rn s (aFstat b))) ≠ []

/-- Source bits that assert an interrupt line (R534): set in FSTAT, of an unmasked kind. -/
def assertingBits (s : State) (b : Blk) : List Nat :=
  bitsOfKind b (fun k => !kindMasked s b k) (rn s (aFstat b))

/-- Every block, in the order of 01, Blocks. -/
def allBlks : List Blk :=
  [.sys, .pmu, .hpa, .hpb, .cqu, .loc, .cdc] ++ fin8.map Blk.chd
    ++ [.afe, .rad, .spn, .lat, .fct, .buf, .spd, .dma, .evr, .cal, .cpc, .mcs, .dtm, .tst]

/-- Interrupt line of a source bit of a block (R38, R534). -/
def lineOf (b : Blk) (bit : Nat) : Nat :=
  match b with
  | .chd n => n.val
  | .afe => 8 + bit % 16
  | .rad => 24
  | .spn => 25 + bit % 8
  | .lat => 33 | .fct => 34 | .loc => 35 | .cdc => 36 | .cqu => 37 | .hpa => 38 | .hpb => 39 | .buf => 40 | .spd => 41
  | .dma => 42 | .evr => 43 | .cal => 44 | .pmu => 45 | .dtm => 46 | .sys => 47 | .tst => 48 | .cpc => 49 | .mcs => 50

/-- Level of the fault registers on a line (R534). -/
def faultLevel (s : State) (b : Blk) (line : Nat) : Bool := (assertingBits s b).any fun i => lineOf b i = line

/-- A bit of an IRQSTAT register is set whose enable is 1. -/
def irqPair (s : State) (stat en : Nat) : Bool := decide (rn s stat &&& rn s en ≠ 0)

/-- R622: TEMPHI and TEMPCRIT of TST are its fault sources; R544: INSTAT.TRIG of an input. -/
def anyTrig (s : State) : Bool := s.inputs.toList.any fun i => i.trig

/-- Level of interrupt line `n` (R38): the causes that each block's chapter names, and its fault registers. -/
def lineLevel (s : State) (n : Nat) : Bool :=
  if h : n < 8 then
    slicePresent s n && (irqPair s (Reg.chdIrqstat n) (Reg.chdIrqen n)
      || (rbit s (Reg.chdOcstat n) 30 && rbit s (Reg.chdOcctl n) 2) || faultLevel s (.chd ⟨n, h⟩) n)
  else if n < 24 then
    frontPresent s (n - 8) && (decide (65535 < rn s (Reg.afeSatcnt (n - 8))) || faultLevel s .afe n)
  else if n = 24 then
    (List.range 16).any (fun a => irqPair s (Reg.radIrqstat a) (Reg.radIrqen a)) || faultLevel s .rad 24
  else if n < 33 then
    !(s.part.is4804 && 29 ≤ n) && (irqPair s (Reg.spnIrqstat (n - 25)) (Reg.spnIrqen (n - 25)) || faultLevel s .spn n)
  else if n = 33 then irqPair s Reg.latIrqstat Reg.latIrqen || faultLevel s .lat 33
  else if n = 34 then irqPair s Reg.fctIrqstat Reg.fctIrqen || faultLevel s .fct 34
  else if n = 35 then faultLevel s .loc 35
  else if n = 36 then faultLevel s .cdc 36
  else if n = 37 then faultLevel s .cqu 37
  else if n = 38 then faultLevel s .hpa 38
  else if n = 39 then !s.conf.hostcfg1 && faultLevel s .hpb 39
  else if n = 40 then faultLevel s .buf 40
  else if n = 41 then faultLevel s .spd 41
  else if n = 42 then faultLevel s .dma 42
  else if n = 43 then faultLevel s .evr 43
  else if n = 44 then faultLevel s .cal 44
  else if n = 45 then faultLevel s .pmu 45
  else if n = 46 then irqPair s Reg.dtmIrqstat Reg.dtmIrqen || faultLevel s .dtm 46
  else if n = 47 then anyTrig s || faultLevel s .sys 47
  else if n = 48 then irqPair s Reg.tstIrqstat Reg.tstIrqen || faultLevel s .tst 48
  else if n = 49 then faultLevel s .cpc 49
  else if n = 50 then (rbit s Reg.mcsLoadstat 30 && rbit s Reg.mcsLoadctl 8) || faultLevel s .mcs 50
  else if n < 64 then false
  else if n < 96 then rbit s Reg.dmaDonestat (n - 64)
  else if n < 104 then s.swint.toNat.testBit (n - 96)
  else false

/-- Levels of the 32 lines from `lo` on, as a word (R39, IRQPEND). -/
def lineWord (s : State) (lo : Nat) : Nat :=
  (List.range 32).foldl (fun w i => w + bit01 (lineLevel s (lo + i)) * 2 ^ i) 0

/-- A block drives nFAULT (R535): a set source bit of a kind with NFEN and without MASK; SIGFAIL whatever NFEN holds. -/
def blkNfault (s : State) (b : Blk) : Bool :=
  (assertingBits s b).any fun i =>
    rbit s (aFmask b) (8 + faultKind b i) || (b = .sys && i = 3)

/-- The nFAULT pin is driven low (R535, R537). -/
def nfaultLow (s : State) : Bool := rbit s Reg.pmuFrstsrc 30 || allBlks.any (blkNfault s)

/-! ### Output balls (R353, R354, R535, R605, R606, R610) -/

/-- No output ball is driven: HIGHZ is in effect, or the main die is off. -/
def ballsFloat (s : State) : Bool := s.boot = .off || (s.tap.active && s.tap.instr = .highz)

/-- The boundary register drives the balls. -/
def cellsDrive (s : State) : Bool :=
  s.tap.active && (s.tap.instr = .extest || s.tap.instr = .extestPulse || s.tap.instr = .extestTrain || s.tap.instr = .clamp)

/-- The gate balls of a phase of bridge `i`, the high or the low one. A bridge that the AON override holds keeps its short or its
rectification whatever the port does (R606; DEDUCED, log 194). -/
def gateDrive (s : State) (i : Fin 8) (high : Bool) : BallDrive :=
  if s.pmu.overShort.toNat.testBit i then (if high then .low else .high)
  else if s.pmu.overRect.toNat.testBit i then .switching
  else if ballsFloat s then .undriven
  else if cellsDrive s then .cell
  else
    match (s.spn i).st with
    | .stopped | .listen | .waitgrant | .coast => .low
    | .brake => if high then .low else .high
    | .locate | .ramp | .accel | .run | .rectify | .stopping => .switching

/-- nFAULT, an open-drain output: low or not driven. -/
def nfaultDrive (s : State) : BallDrive :=
  if ballsFloat s then .undriven else if cellsDrive s then .cell else if nfaultLow s then .low else .undriven

/-- The write data pair of a link: idle where nothing is written. -/
def wdDrive (s : State) (a : Fin 16) : BallDrive :=
  if ballsFloat s then .undriven else if cellsDrive s then .cell
  else if (vget s.links a).live.isEmpty && (fin8.any fun n => (s.slice n).valid && (s.slice n).act = a
      && (s.slice n).op.any fun o => o.d.kind = 2 && o.writing && !o.ended) then .switching
  else .low

end Sys2Proof.Machine
end

