-- ==== Sys2Proof/Machine/Report.lean ====
section
/-! DEFINITION. Reporting: fault events with their escalation, capture and reaction (R529–R541), requests for a chip
reset, non-maskable traps, and samples for the event recorder (R550). -/

namespace Sys2Proof.Machine

/-! ### Event recorder samples -/

/-- Channels of instances that the AH4804 lacks receive no samples (R551). -/
def evrChannelPresent (s : State) (ch : Nat) : Bool :=
  !s.part.is4804 || !((4 ≤ ch && ch < 8) || (12 ≤ ch && ch < 16) || (24 ≤ ch && ch < 32) || (36 ≤ ch && ch < 40))

/-- The stamp that a sample takes at this tick (R548). -/
def evrStamp (s : State) : Nat × Nat := (s.evr.opsec, s.evr.pcyc)

/-- Room in the queue of 64 (R550). -/
def evrRoom (s : State) : Bool := decide (s.evr.queue.length < 64)

/-! ### Chip reset requests (R64, R67) -/

/-- A chip reset is asked for; during a power-fail sequence it waits until step 7 has ended (R64). -/
def requestReset (s : State) (c : ResetCause) : State :=
  if s.pf.active then
    if s.rst.deferred.contains c then s else { s with rst := { s.rst with deferred := s.rst.deferred ++ [c] } }
  else if s.rst.pending.contains c then s else { s with rst := { s.rst with pending := s.rst.pending ++ [c] } }

/-- A chip reset taken as a fault reaction: the source that chose it is kept for FRSTSRC (R537). -/
def requestFaultReset (s : State) (b : Blk) (bit : Nat) : State :=
  let src := (bit, lineOf b bit, rbit s (aFmask b) (8 + faultKind b bit))
  let s := requestReset s .fault
  match s.rst.faultSrc with
  | some _ => s
  | none => { s with rst := { s.rst with faultSrc := some src } }

/-- A non-maskable trap to every core that NMTROUTE names (R43). -/
def deliverNmt (s : State) : State :=
  overList fin8 s fun s c => if rbit s Reg.cpcNmtroute c then modCore s c fun k => { k with nmt := true } else s

/-! ### Fault events -/

/-- The access that an event involves (R538): address, type, master. -/
structure Cap where
  addr : Nat
  ty : Nat
  master : Nat
  deriving DecidableEq, Repr

/-- An event that involves no access. -/
def Cap.none : Cap := { addr := 0, ty := 0, master := 0xFF }

/-- Sources whose reaction is fixed (R534). -/
def fixedReaction (b : Blk) (bit : Nat) : Bool :=
  (b = .sys && (bit = 1 || bit = 2)) || (b = .pmu && bit = 0) || (b = .tst && bit = 1)

/-- Bit of kind `k` among the events of one cycle. -/
def eventsOfKind (b : Blk) (bits : List Nat) (k : Nat) : Nat := (bits.filter fun i => faultKind b i = k).length

/-- ESC after the events (R536): each event of an unmasked kind that arrives while an earlier one is unacknowledged
adds one, up to 3. -/
def escalate (s : State) (b : Blk) (bits : List Nat) : State :=
  overList (List.range 8) s fun t k =>
    if kindMasked s b k || !unacked s b k then t
    else rfSet t (aFreact b) (16 + 2 * k) 2 (min 3 (rf t (aFreact b) (16 + 2 * k) 2 + eventsOfKind b bits k))

/-- FSTAT with the source bits set. -/
def setFstat (s : State) (b : Blk) (bits : List Nat) : State :=
  overList bits s fun t i => rbitSet t (aFstat b) i true

/-- What a block has captured. -/
def fcapOf (s : State) (b : Blk) : Fcap := tget Fcap.empty s.fcaps (blkWindow b)

/-- Capture of the first event of an unmasked kind, the lowest source bit of the cycle (R538). -/
def capture (s : State) (b : Blk) (bits : List Nat) (c : Cap) : State :=
  match (List.range 64).find? fun i => bits.contains i && !kindMasked s b (faultKind b i) with
  | none => s
  | some i =>
    if (fcapOf s b).valid then s
    else
      { s with
        fcaps := tset Fcap.empty s.fcaps (blkWindow b)
          { valid := true, addr := c.addr % 2 ^ 48, ty := c.ty, srcbit := i, master := c.master, tick := s.tick.toNat % 2 ^ 63 } }

/-- Reaction code of a source bit: min(REACT + ESC, 3) (R534); 0 for a masked kind and for a fixed reaction. -/
def reactionOf (s : State) (b : Blk) (bit : Nat) : Nat :=
  let k := faultKind b bit
  if kindMasked s b k || fixedReaction b bit then 0
  else
    let c := min 3 (rf s (aFreact b) (2 * k) 2 + rf s (aFreact b) (16 + 2 * k) 2)
    if c = 2 && (b = .sys || b = .pmu) then 3 else c

/-- The reactions of the events of one cycle (R534): a chip reset takes precedence. -/
def react (blockReset : State → Blk → Nat → State) (s : State) (b : Blk) (bits : List Nat) : State :=
  match bits.find? fun i => reactionOf s b i = 3 with
  | some i => requestFaultReset s b i
  | none =>
    let s := if bits.any fun i => reactionOf s b i = 1 then deliverNmt s else s
    overList (bits.filter fun i => reactionOf s b i = 2) s fun t i => blockReset t b i

/-- Events of source bits of one block in one cycle. -/
def raiseWith (blockReset : State → Blk → Nat → State) (s : State) (b : Blk) (bits : List Nat) (c : Cap) : State :=
  if bits = [] then s
  else react blockReset (capture (setFstat (escalate s b bits) b bits) b bits c) b bits

/-- A source bit's condition becomes present or absent (R530). -/
def setLive (s : State) (b : Blk) (bit : Nat) (v : Bool) : State := rbitSet s (aFlive b) bit v

/-- A condition becomes present: an event only where it was absent (R530). -/
def raiseCondWith (blockReset : State → Blk → Nat → State) (s : State) (b : Blk) (bit : Nat) (c : Cap) : State :=
  if rbit s (aFlive b) bit then s else raiseWith blockReset (setLive s b bit true) b [bit] c

/-! ### Block resets that touch registers alone -/

/-- The uncommitted write shadows of a block's whole window are discarded, those of its fault registers too (R10). -/
def dropShadows (s : State) (b : Blk) : State :=
  { s with wshadow := s.wshadow.filter fun e => e.1 % 2 ^ 48 / 2 ^ 16 ≠ blkBase b / 2 ^ 16 }

/-- Registers of a block, or of a span of its window, take their reset values; the fault registers keep theirs (R68,
R531), and an uncommitted write shadow of the span is discarded (R10). -/
def clearSpan (s : State) (b : Blk) (lo hi : Nat) : State :=
  let base := blkBase b
  { s with
    regs := clearRegs (base + lo) (base + hi) (fun _ => false) s.regs
    wshadow := s.wshadow.filter fun e => !(base + lo ≤ e.1 % 2 ^ 48 && e.1 % 2 ^ 48 < base + hi) }

/-- Every register of a block but its fault registers; every write shadow of its window is discarded. -/
def clearBlock (s : State) (b : Blk) : State := dropShadows (clearSpan s b 0 0xFF00) b

/-- A superblock under erase becomes UNKNOWN at a reset that cuts the erase (R420). -/
def cutErase (m : SMap Sb) : SMap Sb :=
  m.map fun e => if e.2.st = .erasing then (e.1, { e.2 with st := .unknown }) else e

/-- Block reset of a host port: its link and its controller are as after reset but for the pin, and its commands end as by a port
reset (R15, R95); log entry 189. -/
def resetPortBlock (s : State) (b : Blk) (p : Port) : State :=
  let s := modPort (clearBlock s b) p fun x => { PortSt.reset with perst := x.perst, clkreq := !x.perst }
  { s with cqu := { s.cqu with cut := p :: s.cqu.cut } }

/-- Block resets of the blocks whose work in flight is their own (R68). The lines of SYS and PMU name no block reset. The commands of
the command queue unit end with Internal Error, as their controllers stay enabled (R144); log entry 189. -/
def plainReset (s : State) (b : Blk) (bit : Nat) : State :=
  match b with
  | .sys | .pmu | .cpc => s
  | .cqu =>
    let q := s.cqu
    { clearBlock s b with
      cqu := { CquSt.reset with
        tags := q.tags, locks := q.locks, aseq := q.aseq, mops := q.mops, compq := q.compq, stopped := q.stopped, q17 := q.q17
        waitOps := q.waitOps, cut := q.cut, wiped := true }
      ports := s.ports.map fun (p : PortSt) => { p with aers := [] } }
  | .loc => { clearBlock s b with obj := { s.obj with cache := [], unowned := 0 } }
  | .cdc => { clearBlock s b with datum := { s.datum with loaded := [] } }
  | .lat => { clearBlock s b with lat := { s.lat with rb := none, mig := Migration.reset } }
  | .fct =>
    { clearBlock s b with fct := { s.fct with ready := false, victim := none, folding := false, sbs := cutErase s.fct.sbs } }
  | .buf => { clearBlock s b with ms := { s.ms with bufLog := Vector.replicate 16 none, bufTestDone := false, bufTestFail := false, scrubPos := 0, ready := false, selfref := true } }
  | .spd => { clearBlock s b with ms := { s.ms with spdLog := Vector.replicate 16 none, spdTestDone := false, spdTestFail := 0, busyAddr := none } }
  | .evr => { clearBlock s b with evr := { s.evr with queue := [], fwd := [], opsec := 0, pcyc := 0 } }
  | .cal => { clearBlock s b with cal := { s.cal with due := [] } }
  | .dtm =>
    let t := { clearBlock s b with dtm := { s.dtm with busy := false, events := [], ovf := false } }
    if s.dtm.busy then rbitSet (rsetN t (Reg.dtmResp 0) (rf s (Reg.dtmReq 0) 0 8 + 0xFF00)) Reg.dtmIrqstat 0 true else t
  | .tst => { clearBlock s b with tap := { s.tap with temp := none, tempMax := none, hot := 0, tempHi := false } }
  | .afe =>
    let n := bit % 16
    let s := clearSpan s b (0x1000 * n) (0x1000 * n + 0xF00)
    modAfe s (Fin.ofNat 16 n) fun _ => AfeSt.reset
  | .hpa => resetPortBlock s b .a
  | .hpb => resetPortBlock s b .b
  | .mcs =>
    let s := dropShadows (clearSpan (clearSpan s b 0 0x100) b 0x4000 0xFF00) b
    { s with mcs := { s.mcs with load := none } }
  | .chd _ | .rad | .spn | .dma => s

/-- Events of the blocks whose block reset is a plain one. -/
def raisePlain (s : State) (b : Blk) (bits : List Nat) (c : Cap) : State := raiseWith plainReset s b bits c

/-- A sample enters the queue of the event recorder (R550): dropped, counted and reported by DROP when the queue is
full; discarded uncounted while CTL.EN is 0 (R564). -/
def evrPush (s : State) (ch : Nat) (v : BitVec 32) : State :=
  if !rbit s Reg.evrCtl 0 || !evrChannelPresent s ch then s
  else if evrRoom s then { s with evr := { s.evr with queue := s.evr.queue ++ [(ch, v, evrStamp s)] } }
  else raisePlain (rcount s Reg.evrDropped 1) .evr [0] Cap.none

def evrPushN (s : State) (ch n : Nat) : State := evrPush s ch (BitVec.ofNat 32 n)

end Sys2Proof.Machine
end

