-- ==== Sys2Proof/Machine/Fabric.lean ====
section
/-! DEFINITION. The fabric and the memories behind it: regions and masters (R27–R34), the symbol code (R422–R424),
valid bits (R431), voted words (R434–R436), logs and injection (R437, R439), atomics (R432), fabric errors (R30). -/

namespace Sys2Proof.Machine

/-! ### Regions (R27, R31) -/

inductive Region | buf | spd (b : Fin 4) | locus | regs | none
  deriving DecidableEq, Repr

/-- First address and size of a scratchpad bank (R27). -/
def spdBase (b : Fin 4) : Nat :=
  match b with | 0 => 0x10_0000_0000 | 1 => 0x10_0020_0000 | 2 => 0x10_0040_0000 | 3 => 0x10_0080_0000
def spdSize (b : Fin 4) : Nat :=
  match b with | 0 => 0x20_0000 | 1 => 0x20_0000 | 2 => 0x40_0000 | 3 => 0x80_0000
/-- Highest page index of a bank (R446). -/
def spdLastPage (b : Fin 4) : Nat := spdSize b / 4096 - 1

def locusBase : Nat := 0x18_0000_0000

/-- Region of an address. -/
def regionOf (s : State) (a : Nat) : Region :=
  if a < bufUsable s then .buf
  else if 0x10_0000_0000 ≤ a && a < 0x10_0020_0000 then .spd 0
  else if 0x10_0020_0000 ≤ a && a < 0x10_0040_0000 then .spd 1
  else if 0x10_0040_0000 ≤ a && a < 0x10_0080_0000 then .spd 2
  else if 0x10_0080_0000 ≤ a && a < 0x10_0100_0000 then .spd 3
  else if locusBase ≤ a && a < locusBase + 0x40_0000 then .locus
  else if windowBase ≤ a && (blkOfWindow ((a - windowBase) / 0x1_0000)).isSome then .regs
  else .none

/-- Codes of the masters (R539). -/
def masterCqu : Nat := 0x40
def masterLoc : Nat := 0x43
def masterCdc : Nat := 0x44
def masterLat : Nat := 0x45
def masterFct : Nat := 0x46
def masterScrub : Nat := 0x47
def masterChd (n : Fin 8) : Nat := 0x48 + n.val
def masterMcs : Nat := 0x50
def masterConf : Nat := 0x51
def masterBoot : Nat := 0x52
def masterDma (c : Fin 32) : Nat := 0x20 + c.val

/-- A master reaches a region (R31); the three loaders reach bank 0. -/
def reaches (m : Nat) (r : Region) (write : Bool) : Bool :=
  match r with
  | .none => false
  | .regs => decide (m < 8)
  | .locus => if m < 8 then !write else decide (m = masterLoc)
  | .buf => decide (m < 0x50) || decide (m = masterMcs)
  | .spd b =>
    if m < 8 || (0x20 ≤ m && m < 0x40) then true
    else if m = masterLoc then b = 1
    else if m = masterLat then b = 2
    else if m = masterFct then b = 1 || b = 2
    else if 0x48 ≤ m && m < 0x50 then b = 3
    else if 0x50 ≤ m && m < 0x53 then b = 0
    else false

/-- The last page of bank 0 stays in service when the bank is retired (R442). -/
def inLastPage0 (a : Nat) : Bool := 0x10_001F_F000 ≤ a && a < 0x10_0020_0000

/-- The three copies of CLAMP are written by the loader of the configuration block alone (R435). -/
def inClampCopies (a : Nat) : Bool := 0x10_001F_FF00 ≤ a && a < 0x10_001F_FFC0

/-- The memory at an address answers: buffer READY (R427), bank not retired (R442). -/
def inService (s : State) (a : Nat) (r : Region) : Bool :=
  match r with
  | .buf => s.ms.ready
  | .spd b => !s.ms.bankRet.toNat.testBit b.val || inLastPage0 a
  | _ => true

/-- A fabric error (R30): FABRIC, with address, access type and master. -/
def fabricError (s : State) (a ty m : Nat) : State := raisePlain s .sys [0] { addr := a, ty := ty, master := m }

/-! ### Words, errors and the correctable-error logs (R422–R424, R437) -/

def eccOf (s : State) (w : Nat) : Option EccErr := tget none s.ms.ecc w
def setEcc (s : State) (w : Nat) (e : Option EccErr) : State :=
  { s with ms := { s.ms with ecc := tset none s.ms.ecc w e } }

/-- Bank of a word (address / 16) of the scratchpad; none for the buffer. -/
def bankOfWord (w : Nat) : Option (Fin 4) :=
  if w < 0x1_0000_0000 then none
  else if w < 0x1_0002_0000 then some 0 else if w < 0x1_0004_0000 then some 1 else if w < 0x1_0008_0000 then some 2
  else some 3

/-- The word's valid bit (R431); a buffer word has none and always holds data. -/
def wordValid (s : State) (w : Nat) : Bool :=
  match bankOfWord w with | none => true | some _ => tget false s.ms.spdValid w

def setWordValid (s : State) (w : Nat) : State :=
  match bankOfWord w with
  | none => s
  | some _ => { s with ms := { s.ms with spdValid := tset false s.ms.spdValid w true } }

/-- Error that arose in a word since it was written. A word whose valid bit is 0 checks no code (R431). -/
def upsetWord (s : State) (w : Nat) (u : Option EccErr) : State :=
  match u with
  | none => s
  | some e => if wordValid s w then setEcc s w (some e) else s

/-- Entry of a log after a correctable error at word `w` (R437): none where no entry is free. -/
def logCe (log : Vector (Option CeEnt) 16) (w sym tick : Nat) (scrub : Bool) : Option (Vector (Option CeEnt) 16) :=
  match fin16.find? fun i => ((vget log i).map (·.addr)) = some w with
  | some i =>
    match vget log i with
    | some e => some (vset log i (some { e with count := satAdd 0xFFFF e.count 1, scrub := scrub, sym := sym }))
    | none => some log
  | none =>
    match fin16.find? fun i => vget log i = none with
    | some i => some (vset log i (some { addr := w, count := 1, scrub := scrub, sym := sym, tick := tick }))
    | none => none

/-- A correctable error is counted and logged (R423, R437). -/
def noteCe (s : State) (w sym : Nat) (scrub : Bool) : State :=
  match bankOfWord w with
  | none =>
    let s := rcount s Reg.bufCecnt 1
    let s := { s with ms := { s.ms with ceHour := s.ms.ceHour + 1 } }
    match logCe s.ms.bufLog w sym s.tick.toNat scrub with
    | some l => { s with ms := { s.ms with bufLog := l } }
    | none => rcount s Reg.bufCeovf 1
  | some b =>
    let s := rcount s (Reg.spdCecnt b.val) 1
    match logCe s.ms.spdLog w sym s.tick.toNat scrub with
    | some l => { s with ms := { s.ms with spdLog := l } }
    | none => rcount s Reg.spdCeovf 1

/-- An uncorrectable word: counted, and UE raised (R423, R424, R432). -/
def noteUe (s : State) (w ty m : Nat) : State :=
  let c := { addr := 16 * w, ty := ty, master := m : Cap }
  match bankOfWord w with
  | none => raisePlain (rcount s Reg.bufUecnt 1) .buf [0] c
  | some b => raisePlain (rcount s (Reg.spdUecnt b.val) 1) .spd [0] c

/-- Decoding of one word (R422, R423): whether it is uncorrectable; a correctable error is counted, logged and written back. -/
def decodeWord (s : State) (w : Nat) : Bool × State :=
  if !wordValid s w then (true, s)
  else
    match eccOf s w with
    | none => (true, s)
    | some (.corr sym) => (true, noteCe (setEcc s w none) w sym.val false)
    | some .unc => (false, s)

/-! ### Voted groups (R434–R436) -/

/-- Voted group whose copy 0 holds a word: 0 LROOT, 1 LHEAD, 2 SPNST, 3 CLAMP. -/
def votedGroup (w : Nat) : Option Nat :=
  if 0x1_0002_0000 ≤ w && w < 0x1_0002_0004 then some 0
  else if 0x1_0004_0000 ≤ w && w < 0x1_0004_0004 then some 1
  else if 0x1_0001_FFE0 ≤ w && w < 0x1_0001_FFE4 then some 2
  else if 0x1_0001_FFF0 ≤ w && w < 0x1_0001_FFF4 then some 3
  else none

/-- The disagreement source of a group, and NOMAJ where there is no majority (R434, R436). -/
def raiseVote (s : State) (g w : Nat) (nomaj : Bool) (ty m : Nat) : State :=
  let c := { addr := 16 * w, ty := ty, master := m : Cap }
  if g = 0 then
    let s := raisePlain s .loc [1] c
    if nomaj then raisePlain s .spd [2] c else s
  else if g = 1 then
    let s := raisePlain s .lat [0] c
    if nomaj then raisePlain s .spd [2] c else s
  else raisePlain s .spd (if nomaj then [1, 2] else [1]) c

/-- Bitwise majority of three bytes. -/
def maj3 (a b c : Byte) : Byte := (a &&& b) ||| (a &&& c) ||| (b &&& c)

/-- Bytes of a word stored, its valid bit set and its error ended. -/
def putWord (s : State) (w : Nat) (bs : List Byte) : State :=
  setEcc (setWordValid { s with mem := writeBytes s.mem (16 * w) bs } w) w none

/-- The voted read of word `w` of copy 0 (R436): data, whether there is a majority, and the state. -/
def votedRead (s : State) (g w ty m : Nat) : List Byte × Bool × State :=
  let d0 := decodeWord s w
  let d1 := decodeWord d0.2 (w + 4)
  let d2 := decodeWord d1.2 (w + 8)
  let s := d2.2
  let b0 := readBytes s.mem (16 * w) 16
  let b1 := readBytes s.mem (16 * (w + 4)) 16
  let b2 := readBytes s.mem (16 * (w + 8)) 16
  let present := (if d0.1 then [b0] else []) ++ (if d1.1 then [b1] else []) ++ (if d2.1 then [b2] else [])
  let majority : Option (List Byte) :=
    match present with
    | [x, y, z] => some (List.zipWith (fun p c => maj3 p.1 p.2 c) (x.zip y) z)
    | [x, y] => if x = y then some x else none
    | _ => none
  match majority with
  | some v =>
    if d0.1 && d1.1 && d2.1 && b0 = v && b1 = v && b2 = v then (v, true, s)
    else
      let fix := fun (t : State) (e : Nat × Bool × List Byte) => if e.2.1 && e.2.2 = v then t else putWord t e.1 v
      let s := overList [(w, d0.1, b0), (w + 4, d1.1, b1), (w + 8, d2.1, b2)] s fix
      (v, true, raiseVote (rbitSet s Reg.spdVotestat g true) g w false ty m)
  | none =>
    (present.headD (zeros 16), false, raiseVote (rbitSet s Reg.spdVotestat (8 + g) true) g w true ty m)

/-! ### Reads (R423, R436) -/

/-- A word as a read sees it: none for an error response. `u` is an error that has arisen in the word. -/
def readWord (s : State) (m w ty : Nat) (u : Option EccErr) : Option (List Byte) × State :=
  let s := upsetWord s w u
  match votedGroup w with
  | some g =>
    let r := votedRead s g w ty m
    (if r.2.1 then some r.1 else none, r.2.2)
  | none =>
    let d := decodeWord s w
    if d.1 then (some (readBytes d.2.mem (16 * w) 16), d.2) else (none, noteUe d.2 w ty m)

/-- Words from `w` on; the first error ends the read. -/
def readWords (s : State) (m w n ty : Nat) (u : Option EccErr) : Option (List Byte) × State :=
  match n with
  | 0 => (some [], s)
  | n' + 1 =>
    match readWord s m w ty u with
    | (none, s) => (none, s)
    | (some bs, s) =>
      match readWords s m (w + 1) n' ty none with
      | (none, s) => (none, s)
      | (some rest, s) => (some (bs ++ rest), s)

/-- Number of the words that `n` bytes from `a` on touch. -/
def wordSpan (a n : Nat) : Nat := if n = 0 then 0 else (a + n - 1) / 16 - a / 16 + 1

/-- Content of a Locus cache entry as the debug window shows it (R177): V is 0 once the chunk has no live version. -/
def locusEntry (key : Nat) (c : Chunk) : Nat :=
  let handle := key / 2 ^ 40
  let chunk := key % 2 ^ 40
  c.gen % 4096 + 4096 * bit01 c.dirty + 2 ^ 13 * bit01 c.poison + 2 ^ 14 * bit01 c.raw + 2 ^ 15 * (c.tier % 2)
    + 2 ^ 16 * bit01 c.ret + 2 ^ 17 * bit01 (decide (c.count ≠ 0)) + 2 ^ 18 * ((c.count - 1) % 16) + 2 ^ 22 * (c.loc % 2 ^ 40)
    + 2 ^ 62 * (chunk / 2 ^ 14 % 2 ^ 26) + 2 ^ 88 * (handle % 2 ^ 40)

/-- Sixteen bytes of the debug window (R32, R178): way `i % 16` of set `i / 16`. -/
def locusWord (s : State) (i : Nat) : List Byte :=
  match s.obj.cache.find? fun e => locusSet (e.1 / 2 ^ 40) (e.1 % 2 ^ 40) = i / 16 && e.2 = i % 16 with
  | some e => toBytes 16 (locusEntry e.1 (tget Chunk.absent s.obj.chunks e.1))
  | none => zeros 16

def locusBytes (s : State) (a n : Nat) : List Byte :=
  match n with
  | 0 => []
  | n' + 1 => (locusWord s ((a - locusBase) / 16)).getD (a % 16) 0 :: locusBytes s (a + 1) n'

/-- A read of memory by a master (R30, R31): the bytes, or none with an error response. -/
def busRead (s : State) (m a n : Nat) (u : Option EccErr) : Option (List Byte) × State :=
  let r := regionOf s a
  if !reaches m r false || !inService s a r || !(regionOf s (a + n - 1) = r) then (none, fabricError s a 1 m)
  else
    match r with
    | .locus => (some (locusBytes s a n), s)
    | .buf | .spd _ =>
      match readWords s m (a / 16) (wordSpan a n) 1 u with
      | (none, s) => (none, s)
      | (some bs, s) => (some ((bs.drop (a % 16)).take n), s)
    | .regs | .none => (none, fabricError s a 1 m)

/-! ### Writes (R424, R435, R439) -/

/-- Address of the INJECT register that arms errors on a word's memory, where it is armed for it (R439). -/
def injectReg (s : State) (w : Nat) : Option Nat :=
  match bankOfWord w with
  | none => if rbit s Reg.bufInject 0 then some Reg.bufInject else none
  | some b => if rbit s Reg.spdInject 0 && rf s Reg.spdInject 16 2 = b.val then some Reg.spdInject else none

/-- The armed error is applied to the word just written, and ARM clears (R439). -/
def applyInject (s : State) (w : Nat) : State :=
  match injectReg s w with
  | none => s
  | some r =>
    let sym := min 35 (rf s r 1 6)
    let e := if rf s r 8 4 = 0 then none
      else if rbit s r 12 && sym < 35 then some EccErr.unc else some (EccErr.corr (Fin.ofNat 36 sym))
    rbitSet (setEcc s w e) r 0 false

/-- A word of 16 bytes stored; copy 0 of a voted group stores all three copies in the same cycle (R435). -/
def storeWord (s : State) (w : Nat) (bs : List Byte) : State :=
  match votedGroup w with
  | some _ => putWord (putWord (putWord s w bs) (w + 4) bs) (w + 8) bs
  | none => putWord s w bs

/-- Bytes at position `p` of a word replaced. -/
def mergeBytes (old : List Byte) (p : Nat) (bs : List Byte) : List Byte := old.take p ++ bs ++ old.drop (p + bs.length)

/-- A write within one word (R424): whether it answers without error, and the state. -/
def writeWord (s : State) (m w p : Nat) (bs : List Byte) : Bool × State :=
  if bs.length = 16 then (true, storeWord s w bs)
  else
    match votedGroup w with
    | some g =>
      let r := votedRead s g w 2 m
      if r.2.1 then (true, storeWord r.2.2 w (mergeBytes r.1 p bs)) else (false, r.2.2)
    | none =>
      let d := decodeWord s w
      if d.1 then (true, storeWord d.2 w (mergeBytes (readBytes d.2.mem (16 * w) 16) p bs))
      else (false, noteUe d.2 w 2 m)

/-- A write over `n` words, the bytes of each in turn; false where a part met an uncorrectable word. -/
def writeWords (s : State) (m a n : Nat) (bs : List Byte) : Bool × State :=
  match n with
  | 0 => (true, s)
  | n' + 1 =>
    let p := a % 16
    let l := 16 - p
    let r := writeWord s m (a / 16) p (bs.take l)
    let q := writeWords r.2 m (a / 16 * 16 + 16) n' (bs.drop l)
    (r.1 && q.1, q.2)

/-- A write of memory by a master: false for an error response. -/
def busWrite (s : State) (m a : Nat) (bs : List Byte) : Bool × State :=
  let n := bs.length
  let r := regionOf s a
  if n = 0 then (true, s)
  else if !reaches m r true || !inService s a r || !(regionOf s (a + n - 1) = r)
      || (inClampCopies a && m ≠ masterConf) then (false, fabricError s a 2 m)
  else
    match r with
    | .buf | .spd _ =>
      let q := writeWords s m a (wordSpan a n) bs
      (q.1, applyInject q.2 (a / 16))
    | .locus | .regs | .none => (false, fabricError s a 2 m)

/-- A number read and written by a master, as a little-endian value of `n` bytes. -/
def busReadNat (s : State) (m a n : Nat) : Option Nat × State :=
  match busRead s m a n none with
  | (none, s) => (none, s)
  | (some bs, s) => (some (ofBytes bs), s)

def busWriteNat (s : State) (m a n v : Nat) : Bool × State := busWrite s m a (toBytes n v)

/-- Reads that met a write of the other port (R433): counted, and the word kept. -/
def noteBusy (s : State) (a n : Nat) : State :=
  match regionOf s a with
  | .spd b =>
    if n = 0 then s
    else
      let s := rcount s Reg.spdBusycnt n
      { s with ms := { s.ms with busyAddr := some (b.val, a - spdBase b) } }
  | _ => s

/-! ### Atomics (R432) -/

/-- An atomic at a scratchpad bank: `add` or swap of `n` bytes; the old value, or none with an error response. -/
def busAtomic (s : State) (m a n : Nat) (add : Bool) (v : Nat) : Option Nat × State :=
  let r := regionOf s a
  let w := a / 16
  let p := a % 16
  let upd := fun old => toBytes n (if add then (old + v) % 2 ^ (8 * n) else v % 2 ^ (8 * n))
  match r with
  | .spd _ =>
    if !reaches m r true || !inService s a r || (inClampCopies a && m ≠ masterConf) then (none, fabricError s a 3 m)
    else
      match votedGroup w with
      | some g =>
        let q := votedRead s g w 3 m
        if q.2.1 then
          let old := ofBytes ((q.1.drop p).take n)
          (some old, applyInject (storeWord q.2.2 w (mergeBytes q.1 p (upd old))) w)
        else (none, q.2.2)
      | none =>
        let d := decodeWord s w
        if d.1 then
          let cur := readBytes d.2.mem (16 * w) 16
          let old := ofBytes ((cur.drop p).take n)
          (some old, applyInject (storeWord d.2 w (mergeBytes cur p (upd old))) w)
        else (none, noteUe d.2 w 3 m)
  | _ => (none, fabricError s a 3 m)

end Sys2Proof.Machine
end

