-- ==== Sys2Proof/Machine/Media.lean ====
section
/-! DEFINITION. What the Chord slices do beneath their commands: status entries (R232, R262), the end of a media
operation (R476, R626, R627), the preamplifier links and write-unsafe (R254–R259). -/

namespace Sys2Proof.Machine

/-- The slice connected to the front end of an actuator (R211). -/
def sliceOfAct (s : State) (a : Fin 16) : Option (Fin 8) :=
  fin8.find? fun n => (s.slice n).valid && (s.slice n).act = a

/-- A bit of CHDn.IRQSTAT: 0 UNITFAIL, 1 OPDONE, 2 LOCKLOSS (R239). -/
def chdIrq (s : State) (n : Fin 8) (i : Nat) : State := rbitSet s (Reg.chdIrqstat n) i true

/-- The operation under way on a slice changed. -/
def modOp (s : State) (n : Fin 8) (f : MediaOp → MediaOp) : State :=
  modSlice s n fun x => { x with op := x.op.map f }

/-- Address of unit `i`'s entry in the status array that the operation names; an operation of a host command has none
in memory. -/
def statusAddr (o : MediaOp) (i : Nat) : Option Nat :=
  match o.src with
  | .tag _ => none
  | .queue _ _ => some (o.d.status + 8 * i)

/-- A status entry written by a slice, 8 bytes little-endian (R232, R262). -/
def putStatus (s : State) (n : Fin 8) (o : MediaOp) (i v : Nat) : State :=
  match statusAddr o i with
  | none => s
  | some a => (busWriteNat s (masterChd n) a 8 v).2

/-- Counters and interrupt of a unit that ends (R239). -/
def countUnit (s : State) (n : Fin 8) (r : ReadStatus) : State :=
  let s := if r.result = 0 then rcount s (Reg.chdUnitok n) 1
    else
      let s := chdIrq s n 0
      if r.result = 1 || r.result = 3 then rcount s (Reg.chdUnitfail n) 1
      else if r.result = 2 then rcount s (Reg.chdSyncmiss n) 1 else s
  if r.result = 3 then rcount s (Reg.chdBudgetcnt n) 1 else s

/-- A unit of a read or replay ends (R232): its entry, its counts, and its samples for the event recorder where it
was decoded (R551). -/
def endUnit (s : State) (n : Fin 8) (o : MediaOp) (i : Nat) (r : ReadStatus) : State :=
  let s := countUnit (putStatus s n o i (readStatusWord r)) n r
  if r.result ≤ 3 then
    let s := rcount s (Reg.chdItersum n) r.giter
    let s := evrPushN s n.val r.giter
    if r.result = 0 then evrPushN s (8 + n.val) r.corr else s
  else s

/-- The units from `i` on, `k` of them, end with one RESULT and nothing else to report. -/
def endUnits (s : State) (n : Fin 8) (o : MediaOp) (i k result : Nat) : State :=
  match k with
  | 0 => s
  | k' + 1 => endUnits (endUnit s n o i (ReadStatus.none result)) n o (i + 1) k' result

/-- Slot of entry `i` of a write (R262): the entries past the data slots of a CLOSE are those of its parity slots (R245). -/
def entrySlot (o : MediaOp) (i : Nat) : Nat := if o.d.count ≤ i then 65536 + (i - o.d.count) else o.d.slot + i

/-- A slot of a write ends (R262). -/
def endSlot (s : State) (n : Fin 8) (o : MediaOp) (i lmon wus result : Nat) : State :=
  let s := putStatus s n o i (writeStatusWord lmon wus (entrySlot o i) result)
  if result = 0 then rcount s (Reg.chdUnitswr n) 1 else chdIrq s n 0

/-- The slots from `i` on, `k` of them, end with one RESULT. -/
def endSlots (s : State) (n : Fin 8) (o : MediaOp) (i k result : Nat) : State :=
  match k with
  | 0 => s
  | k' + 1 => endSlots (endSlot s n o i 0 0 result) n o (i + 1) k' result

/-- Slots that an operation runs over: its COUNT, and the 2,116 parity slots of a CLOSE (R245). -/
def opSlots (o : MediaOp) : Nat := o.d.count + (if o.d.kind = 2 && o.d.close then 2116 else 0)

/-- The band of a read enters the band-reader table (R182). -/
def addReader (s : State) (d : Desc) : State :=
  if d.kind = 1 then { s with obj := { s.obj with readers := s.obj.readers ++ [(maddrSpindle d.band, maddrBand d.band)] } } else s

/-- The band of a read leaves the band-reader table (R182). -/
def dropReader (s : State) (d : Desc) : State :=
  if d.kind = 1 then { s with obj := { s.obj with readers := s.obj.readers.erase (maddrSpindle d.band, maddrBand d.band) } } else s

/-- An operation of a command waits on its actuator (R138); a read that waits holds its entry of the band-reader table (R182). -/
def addWait (s : State) (w : WaitOp) : State :=
  addReader { s with cqu := { s.cqu with waitOps := s.cqu.waitOps ++ [w] } } w.d

/-- Waiting operations that `p` names are dropped, with the entries that their reads hold. -/
def dropWaits (s : State) (p : WaitOp → Bool) : State :=
  let gone := s.cqu.waitOps.filter p
  overList gone { s with cqu := { s.cqu with waitOps := s.cqu.waitOps.filter fun w => !p w } } fun s w => dropReader s w.d

/-- What is left of a command's operation from slot `i` on is queued again (R258, R626). A command that an abort, a failed
transfer or a reset has ended starts no further operation (R94, R95, R146). -/
def requeue (s : State) (o : MediaOp) (i : Nat) : State :=
  match o.src with
  | .queue _ _ => s
  | .tag t =>
    let x := tget Tag.free s.cqu.tags t
    if o.d.count ≤ i || x.dead || x.aborted then s
    else
      let d := { o.d with slot := o.d.slot + i, count := o.d.count - i, data := o.d.data + 4128 * i }
      addWait s { tag := t, first := o.first + i, units := o.units - i, tick := s.tick.toNat, d := d }

/-- Every unit not yet read ends with NOTREAD, and the operation ends (R626). -/
def notRead (s : State) (n : Fin 8) : State :=
  match (s.slice n).op with
  | none => s
  | some o =>
    if o.d.kind = 1 && !o.ended then
      let s := requeue (endUnits s n o o.done (o.d.count - o.done) 5) o o.done
      modOp s n fun o => { o with done := o.d.count, ended := true }
    else s

/-- The slice that reads on an actuator ends its units with NOTREAD (R626). -/
def notReadAct (s : State) (a : Fin 16) : State :=
  match sliceOfAct s a with
  | none => s
  | some n => notRead s n

/-- The write under way on a slice is abandoned at the slot under way, or at the first slot not yet started (R258);
later slots end with NOTWRITTEN. `result`: 5 WUNSAFE, 8 LASERDEV. -/
def abandonWrite (s : State) (n : Fin 8) (wus result : Nat) : State :=
  match (s.slice n).op with
  | none => s
  | some o =>
    if o.d.kind = 2 && o.writing && !o.ended then
      let sl := s.slice n
      let lmon := if sl.monN = 0 then 0 else sl.monSum / sl.monN
      let s := endSlot s n o o.done lmon wus result
      let s := requeue (endSlots s n o (o.done + 1) (opSlots o - o.done - 1) 9) o o.done
      let s := modOp s n fun o => { o with done := opSlots o, ended := true, writing := false }
      modSlice s n fun x => { x with code := 0, monSum := 0, monN := 0 }
    else s

/-! ### Write-unsafe (R256–R259) -/

/-- A source becomes present on a link (R257): counted on the connected slice, whose write is abandoned. -/
def wusAdd (s : State) (a : Fin 16) (src : WusSrc) : State :=
  let l := vget s.links a
  if l.live.contains src then s
  else
    let live := src :: l.live
    let s := modLink s a fun l => { l with live := live, holding := false }
    match sliceOfAct s a with
    | none => s
    | some n => abandonWrite (rcount s (Reg.chdWuscnt n) 1) n (wusBits live) 5

/-- A source becomes absent: when none is left WUSHOLD runs (R259). -/
def wusRemove (s : State) (a : Fin 16) (src : WusSrc) : State :=
  let l := vget s.links a
  if l.live.contains src then
    let live := l.live.filter fun x => x ≠ src
    modLink s a fun l => { l with live := live, holding := l.holding || live.isEmpty }
  else s

/-- Source FORCE of every link as the connections and WCTL.FORCEWUS have it (R256). -/
def syncForce (s : State) : State :=
  overList fin16 s fun s a =>
    let force := match sliceOfAct s a with
      | none => false
      | some n => rbit s (Reg.chdWctl n) 8
    if force then wusAdd s a .force else wusRemove s a .force

/-! ### Serial frames (R254, R255) -/

def sendFrame (s : State) (n : Fin 8) (f : Nat) : State :=
  modSlice s n fun x => { x with frames := BitVec.ofNat 16 f :: x.frames }

/-- The head-select frame at the start of a media operation (R255). -/
def headSelect (s : State) (n : Fin 8) (head : Nat) : State :=
  sendFrame s n (rf s (Reg.chdPsctl n) 0 7 * 256 + head % 256)

/-! ### Gates (R54) -/

/-- The PMU ungates a slice and a front end for an operation. -/
def ungate (s : State) (n : Fin 8) (a : Fin 16) : State :=
  rbitSet (rbitSet s Reg.pmuGate n false) Reg.pmuGate (8 + a.val) false

/-! ### Ends of an operation (R476, R627) -/

/-- CTL of a descriptor written with DONE and OPRES, by the slice or unit that served it (R476). -/
def writeCtl (s : State) (m addr opres : Nat) : State :=
  let ctl := readNat s.mem addr 4
  (busWriteNat s m addr 4 (putFld (putFld ctl 28 3 opres) 31 1 1)).2

/-- An operation leaves its slice: CTL for a posted descriptor, and OPDONE (R239, R476). -/
def finishOp (s : State) (n : Fin 8) (opres : Nat) : State :=
  match (s.slice n).op with
  | none => s
  | some o =>
    let s := match o.src with
      | .tag _ => s
      | .queue _ a => writeCtl s (masterChd n) a opres
    let s := modSlice s n fun x => { x with op := none, bufs := [], lock := false, code := 0, acc := 0, trim := 0, devs := 0 }
    chdIrq s n 1

/-- A block reset of a slice (R627): the status entries written stand, CTL is written with FLUSHED, the registers take
their reset values and the connection ends. -/
def resetSlice (s : State) (n : Fin 8) : State :=
  let s := match (s.slice n).op with
    | none => s
    | some _ => finishOp s n 6
  let s := clearBlock s (.chd n)
  syncForce { s with slices := vset s.slices n SliceSt.reset }

end Sys2Proof.Machine
end

