-- ==== Sys2Proof/Machine/Motion.lean ====
section
/-! DEFINITION. Actuators leaving the law for the retract sequencer (R344, R347, R626), the PMU's count of spindles
(R57–R59, R67), and the overrides of the bridges (R354, R377, R378). -/

namespace Sys2Proof.Machine

/-! ### Actuators -/

/-- A bit of an actuator's IRQSTAT: 0 SEEKDONE, 1 LOADDONE, 2 PARKED, 3 RETRACT (R349). -/
def radIrq (s : State) (a : Fin 16) (i : Nat) : State := rbitSet s (Reg.radIrqstat a) i true

/-- Codes of a signed 16-bit register field. -/
def code16 (n : Nat) : Int := sgn 16 n

/-- Segments that a profile plays: those before the first of duration 0 (R346). -/
def playedSegs (l : List Word) : List Word := l.takeWhile fun w => decide (w.toNat / 2 ^ 16 ≠ 0)
/-- Code with which a profile starts; one that plays no segment drives none. -/
def firstCode (l : List Word) : Int := match l with | [] => 0 | w :: _ => code16 w.toNat

/-- The segments that begin before a profile has played `left` µs. -/
def cutSegs (left : Nat) (l : List Word) : List Word :=
  match l with
  | [] => []
  | w :: rest => if left = 0 then [] else w :: cutSegs (left - w.toNat / 2 ^ 16) rest

/-- The unload profile, from the copy of the AON domain (R347), cut at 3,500 µs (R346), and its first code. -/
def unldSegs (s : State) (a : Fin 16) : List Word :=
  cutSegs 3500 (playedSegs ((List.range 8).map fun i => tget (0 : Word) s.pmu.unldAon (8 * a.val + i)))
def unldFirst (s : State) (a : Fin 16) : Int := firstCode (unldSegs s a)

/-- The states in which a law runs (R342). -/
def automatic (st : ActState) : Bool := actAuto st

/-- An actuator is handed to the retract sequencer with its law ended and its MA code at 0 (R347). -/
def toSequencer (s : State) (a : Fin 16) (st : ActState) : State :=
  modAct s a fun k => { k with
    st := st, profile := unldSegs s a, vcode := unldFirst s a, mcode := 0, seeking := false, v := 0, settle := 0, wok := 0
    bad := 0, acq := [], execs := 0, stepRes := 0, revMax := 0, revN := 0, bump := none, newBq := 0 }

/-- Entry to RETRACT (R344): a PARKED actuator stays PARKED, one in RETRACT keeps its first cause, one in UNLOAD keeps
its profile; a read on the actuator ends with NOTREAD (R626). -/
def retractEntry (s : State) (a : Fin 16) (cause : Nat) : State :=
  match (s.act a).st with
  | .parked | .retract => s
  | .unload => radIrq (modAct s a fun k => { k with st := .retract, cause := cause }) a 3
  | .load | .manual | .seek | .settle | .track =>
    let s := toSequencer s a .retract
    notReadAct (radIrq (modAct s a fun k => { k with cause := cause }) a 3) a

/-- Every actuator enters RETRACT. -/
def retractAll (s : State) (cause : Nat) : State := overList fin16 s fun s a => retractEntry s a cause

/-- Entry to UNLOAD by a command (R342, R347). -/
def unloadEntry (s : State) (a : Fin 16) : State :=
  match (s.act a).st with
  | .parked | .retract | .unload => s
  | .load | .manual | .seek | .settle | .track => notReadAct (toSequencer s a .unload) a

/-- Every head rests on its ramp. -/
def allParked (s : State) : Bool := fin16.all fun a => (s.act a).st = .parked

/-- Both actuators of a spindle are PARKED. -/
def spnParked (s : State) (i : Fin 8) : Bool := (s.act (act0 i)).st = .parked && (s.act (act1 i)).st = .parked

/-! ### Spindles in the PMU (R57, R81) -/

/-- Bit `i` of a byte of spindles. -/
def setSpn (m : BitVec 8) (i : Fin 8) (b : Bool) : BitVec 8 := BitVec.ofNat 8 (putBit m.toNat i.val b)

/-- A spindle ends its start before reaching speed: it counts in neither term of R57. -/
def endStarting (s : State) (i : Fin 8) : State :=
  { s with pmu := { s.pmu with starting := setSpn s.pmu.starting i false } }

/-- A spindle reports reaching speed (R57). -/
def reportSpeed (s : State) (i : Fin 8) : State :=
  { s with pmu := { s.pmu with starting := setSpn s.pmu.starting i false, running := setSpn s.pmu.running i true } }

/-- A spindle reports that it has stopped (R57). -/
def reportStopped (s : State) (i : Fin 8) : State :=
  { s with pmu := { s.pmu with starting := setSpn s.pmu.starting i false, running := setSpn s.pmu.running i false } }

/-- A waiting request is withdrawn (R59). -/
def withdraw (s : State) (i : Fin 8) : State :=
  { s with pmu := { s.pmu with waitQ := s.pmu.waitQ.filter fun j => j ≠ i } }

/-- Committed power in 0.1 W (R57). -/
def commit (s : State) : Nat :=
  rn s Reg.pmuBasew + rf s Reg.pmuSpinpwr 0 16 * popcount 8 s.pmu.starting.toNat
    + rf s Reg.pmuSpinpwr 16 16 * popcount 8 s.pmu.running.toNat

/-- A bit of a spindle's IRQSTAT (R381). -/
def spnIrq (s : State) (i : Fin 8) (b : Nat) : State := rbitSet s (Reg.spnIrqstat i) b true

/-- A spindle that may still turn: any state but STOPPED, or STOPPED with a back-EMF of BEMFMIN or more as last measured. -/
def turning (s : State) (i : Fin 8) : Bool :=
  decide ((s.spn i).st ≠ .stopped) || decide (rf s (Reg.spnDetect i) 0 8 ≤ (s.spn i).amp)

/-- Spindles that may turn, as a mask. -/
def turningMask (s : State) : BitVec 8 :=
  BitVec.ofNat 8 (fin8.foldl (fun m i => m + bit01 (turning s i) * 2 ^ i.val) 0)

/-- The controller enters BRAKE (R361). -/
def toBrake (s : State) (i : Fin 8) : State :=
  modSpn s i fun p => { p with st := .brake, atspeed := false, duty := 0, integ := 0 }

/-- Step 4 of the power-fail sequence: the override makes every turning bridge rectify, and the controllers of those
bridges show RECTIFY (R61, R361, R377). -/
def rectifyAll (s : State) : State :=
  let s := { s with pmu := { s.pmu with overRect := s.pmu.overRect ||| turningMask s } }
  { s with
    spns := s.spns.map fun p =>
      if p.st = .stopped then p else { p with st := .rectify, atspeed := false, duty := 0, integ := 0, failing := false, autoRestart := false } }

/-- The unload of R52 and R67: as in steps 4 and 5 of the power-fail sequence every turning bridge rectifies and every
loaded actuator retracts with cause 5. Done again it changes nothing. -/
def unloadForReset (s : State) : State :=
  if s.rst.pending = [] || s.rst.inChipReset then s
  else retractAll (rectifyAll s) 5

end Sys2Proof.Machine
end

