-- ==== Sys2Proof/Machine/Resets.lean ====
section
/-! DEFINITION. Block resets and core resets (R68, R379, R479, R526, R627, R628), and what a chip reset and a main-die
power-on reset leave (R66, R67, R78). -/

namespace Sys2Proof.Machine

/-! ### Data cache write-back (R502) -/

/-- The dirty sub-blocks of a line, from sub-block `k` on: each one aligned 16-byte write. The address of the first
write-back that received an error response. -/
def wbSubs (s : State) (c : Fin 8) (l : Line) (k n : Nat) : Option Nat × State :=
  match n with
  | 0 => (none, s)
  | n' + 1 =>
    let r := if l.dirty.toNat.testBit k && l.valid.toNat.testBit k
      then busWrite s c.val (64 * l.line + 16 * k) ((l.bytes.drop (16 * k)).take 16) else (true, s)
    let q := wbSubs r.2 c l (k + 1) n'
    (if r.1 then q.1 else some (64 * l.line + 16 * k), q.2)

def wbLine (s : State) (c : Fin 8) (l : Line) : Option Nat × State := wbSubs s c l 0 4

/-- Every dirty line of a list written back, with the address of the first write-back that met an error response. -/
def wbLines (s : State) (c : Fin 8) (ls : List Line) : Option Nat × State :=
  match ls with
  | [] => (none, s)
  | l :: rest =>
    let r := wbLine s c l
    let q := wbLines r.2 c rest
    (match r.1 with | some a => some a | none => q.1, q.2)

/-- A core reset (R479): dirty lines written back unless the reset is the reaction to DCPAR, caches emptied and their
lock bits cleared, registers at their reset values; the core starts at STARTPC where RUN is 1. A non-maskable trap delivered and not
yet taken stays due, to be taken when the core next runs (R43); lines assigned to the core stay assigned (R42). -/
def coreResetOp (s : State) (c : Fin 8) (writeBack : Bool) : State :=
  let s := if writeBack then (wbLines s c (s.core c).dcache).2 else s
  let s := rset s (Reg.cpcCachectl c) (regReset (Reg.cpcCachectl c))
  let run := rbit s (Reg.cpcCorectl c) 0
  let k := CoreSt.reset (if run then .running else .reset)
  modCore s c fun old => { k with pc := if run then BitVec.ofNat 64 (rn s (Reg.cpcStartpc c)) else 0, nmt := old.nmt }

/-! ### Block resets -/

/-- Block reset of a spindle controller (R379). -/
def resetSpn (s : State) (i : Fin 8) : State :=
  let s := withdraw (reportStopped s i) i
  let s := clearSpan s .spn (0x1000 * i.val) (0x1000 * i.val + 0xF00)
  let amp := (s.spn i).amp
  let s := modSpn s i fun _ => { SpnSt.reset with amp := amp }
  retractEntry (retractEntry s (act0 i) 6) (act1 i) 6

/-- Block reset of RAD (R628): the coefficient and state memories keep their contents. -/
def resetRad (s : State) : State := retractAll (dropShadows (clearSpan s .rad 0 0x4000) .rad) 7

/-- Block reset of DMA (R526). -/
def resetDma (s : State) : State := { clearBlock s .dma with dmas := Vector.replicate 32 DmaSt.reset }

/-- The block reset that a source bit's reaction or a line number names (R68, R534): in the AFE and SPN groups the
instance of the bit, in CPC the core. -/
def blockResetOf (s : State) (b : Blk) (bit : Nat) : State :=
  match b with
  | .chd n => if slicePresent s n then resetSlice s n else s
  | .spn => if s.part.is4804 && decide (4 ≤ bit % 8) then s else resetSpn s (Fin.ofNat 8 bit)
  | .rad => resetRad s
  | .dma => resetDma s
  | .cpc => coreResetOp s (Fin.ofNat 8 bit) (bit / 8 ≠ 1)
  | b => plainReset s b bit

/-! ### Chip reset and main-die power-on reset -/

/-- Facet after a reset that ends its work: its registers and tables must be brought up again; a cut erase leaves its
superblock UNKNOWN (R420). -/
def fctAfterReset (f : FctSt) : FctSt :=
  { f with ready := false, victim := none, folding := false, sbs := cutErase f.sbs }

/-- Objects after the loss of the buffer: a version that only the buffer held is gone, the version on media or flash is live
again; the cache is empty. -/
def objAfterReset (o : ObjSt) : ObjSt :=
  let kept := o.chunks.filter fun e => !e.2.staged
  let back := o.durable.foldl (fun m e => tset Chunk.absent m e.1 e.2) kept
  { o with chunks := back, durable := [], cache := [], readers := [], sanCut := o.sanitizing, sanTick := 0, selfTest := [], critWarn := 0, unowned := 0 }

/-- Registers of the PMU window. -/
def isPmuReg (a : Nat) : Bool := 0x20_00B0_0000 ≤ a && a < 0x20_00B1_0000

/-- The main-die state outside the AON domain after a reset, with what every such reset keeps: the PMU with its registers
and faults, the Datum die, host memory, media and flash, the configuration in force, the test access port and the waiting
commands. -/
def mainDieReset (s : State) : State :=
  let r := State.reset
  { r with
    pending := s.pending, part := s.part, hostMem := s.hostMem, drawn := s.drawn, resp := s.resp
    regs := s.regs.filter fun e => isPmuReg e.1
    fcaps := s.fcaps.filter fun e => e.1 = blkWindow .pmu
    conf := s.conf, geom := s.geom, fmt := s.fmt, media := s.media, bands := s.bands
    pf := s.pf, pmu := { s.pmu with waitQ := [], starting := 0, running := 0 }
    rst := { s.rst with pending := [], faultSrc := none, wdtCount := 0, inChipReset := false }
    datum := { s.datum with loaded := [] }, tap := { TapSt.reset with active := s.tap.active, instr := s.tap.instr, boundary := s.tap.boundary }
    dtm := { DtmSt.reset with linkUp := s.dtm.linkUp }
    fct := fctAfterReset s.fct, obj := objAfterReset s.obj
    lat := { s.lat with rb := none, mig := Migration.reset }
    ports := s.ports.map fun p => { PortSt.reset with perst := p.perst }
    links := s.links.map fun l => { LinkSt.reset with live := if l.live.contains .pin then [.pin, .servo] else [.servo] }
    cal := { CalSt.reset with refOk := s.cal.refOk } }

/-- Bit of RSTCAUSE of a cause (R78). -/
def causeBit (c : ResetCause) : Nat :=
  match c with | .pin => 1 | .soft => 2 | .wdt => 3 | .fault => 4 | .clkloss => 6

/-- RSTCAUSE with the bits of a list of causes set. -/
def causeBits (l : List ResetCause) (v : Nat) : Nat := l.foldl (fun v c => putBit v (causeBit c) true) v

/-- FRSTSRC at a chip reset (R537). -/
def noteFrstsrc (s : State) (src : Option (Nat × Nat × Bool)) : State :=
  match src with
  | some (bit, line, nfen) =>
    let s := rfSet (rfSet (rbitSet s Reg.pmuFrstsrc 31 true) Reg.pmuFrstsrc 16 6 bit) Reg.pmuFrstsrc 0 8 line
    if nfen then rbitSet s Reg.pmuFrstsrc 30 true else s
  | none => rbitSet s Reg.pmuFrstsrc 31 false

/-- A chip reset takes effect (R66, R67, R78): the tick, RSTCAUSE, the PMU and the event recorder's contents are kept, and
the bridges of turning spindles are shorted (R378). -/
def chipResetOp (s : State) : State :=
  let causes := s.rst.pending
  let t := mainDieReset s
  let shorted := turningMask s
  let t := { t with
    tick := s.tick
    evr := { EvrSt.reset with recs := s.evr.recs, opsec := s.evr.opsec, pcyc := s.evr.pcyc }
    pmu := { t.pmu with overRect := 0, overShort := s.pmu.overShort ||| shorted }
    boot := .resetReleased
    spns := s.spns.map fun (p : SpnSt) => { SpnSt.reset with amp := p.amp }
    rst := { t.rst with xtalOk := s.rst.xtalOk, pllLock := s.rst.pllLock } }
  let t := rsetN t Reg.sysRstcause (causeBits causes (rn s Reg.sysRstcause))
  noteFrstsrc t s.rst.faultSrc

/-- A main-die power-on reset (R66): TICK and the event recorder restart; PWRFAIL is set with POR after a power-fail
sequence (R64, R78); the AON domain is reset as well when VIO_A fell below 1.6 V. A power-fail sequence under way, which the AON domain
runs, goes on to its step 7 (R64); the rails come up again at their setpoints, so that no slew goes on. -/
def mainPorOp (s : State) (aon pwrfail : Bool) : State :=
  let t := mainDieReset s
  let t := { t with
    boot := .off
    cores := Vector.replicate 8 (CoreSt.reset .reset)
    spns := s.spns.map fun (p : SpnSt) => { SpnSt.reset with amp := p.amp }
    rst := { ResetSt.reset with pinLow := s.rst.pinLow }
    pf := if aon then PfSt.reset else s.pf }
  let t := if aon then
      { t with
        regs := [], fcaps := []
        pmu := { PmuSt.reset with overShort := 0 } }
    else { t with pmu := { t.pmu with overRect := 0, overShort := turningMask s, slewFrom := Vector.replicate 6 none } }
  rsetN t Reg.sysRstcause (if pwrfail then 0x21 else 1)

end Sys2Proof.Machine
end

