-- ==== Sys2Proof/Machine/Faults.lean ====
section
/-! DEFINITION. Fault events with every reaction (R534), and the actions that chapters tie to a source. -/

namespace Sys2Proof.Machine

/-- Fault events of one block in one cycle, with their reactions; a chip reset among them starts its unload (R67). -/
def raise (s : State) (b : Blk) (bits : List Nat) (c : Cap) : State :=
  unloadForReset (raiseWith blockResetOf s b bits c)

/-- One event without an access. -/
def raise1 (s : State) (b : Blk) (bit : Nat) : State := raise s b [bit] Cap.none

/-- A condition becomes present. -/
def raiseCond (s : State) (b : Blk) (bit : Nat) : State :=
  unloadForReset (raiseCondWith blockResetOf s b bit Cap.none)

/-- A chip reset is asked for with its unload (R64, R67). -/
def askReset (s : State) (c : ResetCause) : State := unloadForReset (requestReset s c)

end Sys2Proof.Machine
end

