-- ==== Sys2Proof/Machine/Views.lean ====
section
/-! DEFINITION. What a register that shows other state reads as: the read-only views of the register maps (R3, R77,
R81, R123, R124, R153, R154, R187, R240–R242, R263, R292, R320, R321, R349, R351, R381, R382, R445, R446, R481, R508, R510,
R528, R564, R565, R601, R624, R625). -/

namespace Sys2Proof.Machine

def b2n (b : Bool) (i : Nat) : Nat := bit01 b * 2 ^ i

/-- SYS.PARTID (R3). -/
def partId (s : State) : Nat := (if s.part.is4804 then 0x4804 else 0x4808) + (if s.part.stepB0 then 0xB0 else 0xA0) * 2 ^ 16

/-- The identification code of the test access port (R604). -/
def idCode (s : State) : Nat :=
  (if s.part.stepB0 then 2 ^ 28 else 0) + (if s.part.is4804 then 0x4804 else 0x4808) * 2 ^ 12 + 0x5 * 2 ^ 8 + 0x4B * 2 + 1

def viewSys (s : State) (off i : Nat) : Option Nat :=
  if off = 0x00 then some (partId s)
  else if off = 0x08 then some s.tick.toNat
  else if off = 0x20 then some (b2n s.rst.xtalOk 0 + b2n s.rst.pllLock 1)
  else if off = 0x104 then
    let x := vget s.inputs (Fin.ofNat 9 i)
    some (b2n x.level 31 + b2n x.masked 30 + b2n x.faulty 29 + b2n x.trig 28)
  else none

/-- State of power-up requests (R81). -/
def spinreq (s : State) : Nat :=
  (s.pmu.waitQ.foldl (fun m i => putBit m i.val true) 0) + s.pmu.starting.toNat * 2 ^ 8 + s.pmu.running.toNat * 2 ^ 16
    + s.pmu.refused.toNat * 2 ^ 24

def viewPmu (s : State) (off : Nat) : Option Nat :=
  if off = 0x20 then some s.pmu.pgood.toNat
  else if off = 0x40 then some (commit s % 2 ^ 16)
  else if off = 0x44 then some (spinreq s)
  else if off = 0x48 then some ((Config.free s.drawn).toNat % 2 ^ 32)
  else none

/-- I/O queue pairs of a port: its I/O submission queues. -/
def ioPairs (p : PortSt) : Nat := (p.sqs.filter fun q => q.qid ≠ 0).length

/-- L0, L0p and L1 (R124). -/
def linkActive (st : LinkPm) : Bool :=
  match st with
  | .l0 | .l0p _ | .l1 => true
  | .l11 | .l12 => false

def viewHp (s : State) (p : Port) (off : Nat) : Option Nat :=
  let x := s.port p
  if off = 0x00 then
    some (b2n (x.linkUp && !x.inRec && linkActive x.pm) 31 + x.ltssm % 256 * 2 ^ 16 + b2n x.flit 11
      + x.dstate % 8 * 2 ^ 8 + x.width % 8 * 2 ^ 4 + x.rate % 8)
  else if off = 0x08 then some (b2n x.en 0 + b2n x.rdy 1 + x.shn % 4 * 4 + x.shst % 4 * 16 + x.ps % 4 * 256)
  else if off = 0x0C then some (ioPairs x % 256)
  else if off = 0x24 then some (x.held.length % 256 + x.aers.length % 256 * 256)
  else none

def tagAt (s : State) (t : Nat) : Tag := tget Tag.free s.cqu.tags t

def tagCode (t : TagState) : Nat :=
  match t with | .free => 0 | .fetched => 1 | .lockwait => 2 | .ledger => 3 | .active => 4 | .completing => 5

def viewCqu (s : State) (off : Nat) : Option Nat :=
  let t := tagAt s (rn s Reg.cquTagsel)
  if off = 0x00 then some (s.cqu.mops % 2 ^ 13 * 2 ^ 16 + s.cqu.tags.length % 2 ^ 13)
  else if off = 0x04 then some (s.cqu.locks.length % 2 ^ 11)
  else if off = 0x08 then some (max (rn s Reg.cquLockhwm) s.cqu.locks.length % 2 ^ 11)
  else if off = 0x10 then some s.cqu.aseq
  else if off = 0x1C then
    some (if t.st = .free then 0
      else tagCode t.st * 2 ^ 28 + b2n (t.port = .b) 24 + t.sqid % 256 * 2 ^ 16 + t.cmd.cid % 2 ^ 16)
  else if off = 0x20 then some (if t.st = .free then 0 else t.aseq)
  else if off = 0x28 then some (s.cqu.psTarget % 8 * 2 ^ 8 + s.cqu.psStep % 8 * 2 ^ 4 + b2n s.cqu.reversing 0)
  else none

/-- Entries of the Locus cache that are not yet written back. -/
def locDirty (s : State) : Nat := (s.obj.cache.filter fun e => (tget Chunk.absent s.obj.chunks e.1).dirty).length

def viewLoc (s : State) (off : Nat) : Option Nat :=
  if off = 0x04 then some (s.obj.cache.length % 2 ^ 19)
  else if off = 0x08 then some (locDirty s % 2 ^ 19)
  else if off = 0x18 then some (s.obj.readers.length % 2 ^ 11)
  else none

def viewCdc (s : State) (off : Nat) : Option Nat :=
  if off = 0x04 then some 0
  else if off = 0x28 then some (s.datum.loaded.foldl (fun m e => putBit m e.1 true) 0)
  else none

/-- A write operation is writing on the slice. -/
def writingNow (sl : SliceSt) : Bool := match sl.op with | some o => o.writing | none => false

/-- Link of a connected slice; none where it is connected to nothing. -/
def sliceLink (s : State) (n : Fin 8) : Option LinkSt :=
  if (s.slice n).valid then some (vget s.links (s.slice n).act) else none

def viewChd (s : State) (n : Fin 8) (off : Nat) : Option Nat :=
  let x := s.slice n
  if off = 0x04 then some (b2n x.valid 31 + b2n x.dir 8 + x.act.val)
  else if off = 0x08 then
    let p := match x.pend with | none => 0 | some (v, d, a) => 2 ^ 30 + b2n v 20 + b2n d 19 + a.val * 2 ^ 12
    some (b2n x.op.isSome 31 + b2n x.cfgErr 29 + b2n x.lock 28 + p + min 8 x.bufs.length * 2 ^ 8)
  else if off = 0x18 then some (b2n x.fclamp 31 + unsgn 24 x.freq)
  else if off = 0x204 then
    let l := sliceLink s n
    let live := match l with | none => false | some l => !l.live.isEmpty
    let hold := match l with | none => false | some l => l.holding
    some (b2n (writingNow x) 31 + b2n live 30 + b2n hold 29 + x.code % 1024 * 2 ^ 16 + x.mon % 256)
  else if off = 0x21C then some (b2n x.psBusy 31 + b2n x.psDone 30 + x.psFrame.toNat)
  else if off = 0x318 then some (b2n x.oc 31 + rn s (Reg.chdOcstat n) % 2 ^ 31)
  else none

def viewAfe (s : State) (off i : Nat) : Option Nat :=
  let x := vget s.afes (Fin.ofNat 16 i)
  if off = 0x8 then some (b2n x.lock 0 + b2n x.settling 1)
  else if off = 0x20 then some (x.ampA % 256)
  else if off = 0x24 then some (x.ampB % 256)
  else none

def actCode (st : ActState) : Nat :=
  match st with
  | .parked => 0 | .load => 1 | .manual => 2 | .seek => 3 | .settle => 4 | .track => 5 | .unload => 6 | .retract => 7

def viewRad (s : State) (off i : Nat) : Option Nat :=
  let a := Fin.ofNat 16 i
  let x := s.act a
  if off = 0x04 then
    some (x.cause % 16 * 2 ^ 28 + min 15 x.bad * 2 ^ 20 + b2n x.satL 11 + b2n x.satM 10 + b2n x.satV 9
      + b2n ((vget s.links a).live.contains .servo) 8 + actCode x.st)
  else if off = 0x34 then some (unsgn 32 x.e)
  else if off = 0x38 then some (unsgn 40 x.y)
  else none

def spnCode (st : SpnState) : Nat :=
  match st with
  | .stopped => 0 | .listen => 1 | .waitgrant => 2 | .brake => 3 | .locate => 4 | .ramp => 5 | .accel => 6 | .run => 7
  | .coast => 8 | .rectify => 9 | .stopping => 10

/-- Target speed, rpm (R74, R359). -/
def targetRpm (s : State) : Nat := if s.conf.rpm7200 then 7200 else 5400

def viewSpn (s : State) (off i : Nat) : Option Nat :=
  let x := s.spn (Fin.ofNat 8 i)
  if off = 0x08 then
    some (b2n x.failed 31 + b2n x.atspeed 30 + b2n ((s.pmu.starting ||| s.pmu.running).toNat.testBit (i % 8)) 29
      + b2n ((s.pmu.overRect ||| s.pmu.overShort).toNat.testBit (i % 8)) 28 + x.err % 4 * 2 ^ 26
      + x.cls % 4 * 2 ^ 24 + x.losscause % 16 * 2 ^ 20 + x.failcause % 16 * 2 ^ 16 + x.tries % 16 * 2 ^ 8
      + x.sector % 16 * 2 ^ 4 + spnCode x.st)
  else if off = 0x0C then some (b2n x.backward 31 + x.spd % 2 ^ 24)
  else if off = 0x10 then some (min 0xFFF x.amp)
  else if off = 0x14 then some (s.conf.handover % 2 ^ 16 * 2 ^ 16 + targetRpm s)
  else none

def grpCode (st : GroupState) : Nat :=
  match st with
  | .free => 0 | .open_ => 1 | .closing => 2 | .closed => 3 | .pending => 4 | .rebuild => 5 | .reserved => 6

def svcCode (x : SpinService) : Nat :=
  match x with | .absent => 0 | .inService => 1 | .outOfService => 2 | .rejoin => 3

def groupAt (s : State) (g : Nat) : Group := tget Group.free s.lat.groups g

def openCount (s : State) : Nat := (s.lat.groups.filter fun e => e.2.st = .open_ || e.2.st = .closing).length

def viewLat (s : State) (off i : Nat) : Option Nat :=
  let g := groupAt s (rn s Reg.latGrpsel)
  let j := Fin.ofNat 8 i
  if off = 0x04 then some (s.conf.k % 16 + s.conf.m % 16 * 16 + (spindleList s).length % 16 * 256)
  else if off = 0x0C then some (openCount s % 128)
  else if off = 0x10 then
    some (fin8.foldl (fun (v : Nat) (k : Fin 8) =>
      v + (if spindlePresent s k then svcCode (vget s.lat.svc k) else 0) * 4 ^ k.val) 0)
  else if off = 0x1C then
    some (grpCode g.st * 2 ^ 28 + g.stale.toNat * 2 ^ 16 + g.sealed_.toNat * 2 ^ 8 + g.released.toNat)
  else if off = 0x20 then some (if i < groupW s then vget g.fill j % 2 ^ 17 else 0)
  else if off = 0x44 then
    some (match s.lat.rb with | none => 0 | some r => b2n (!r.paused) 31 + r.band % 2 ^ 21)
  else if off = 0x58 then some (b2n s.lat.mig.active 31 + s.lat.mig.finished.toNat)
  else if off = 0x60 then some (b2n (s.lat.ovf.toNat.testBit i) 31 + (vget s.lat.dirty j).length % 2 ^ 17)
  else none

/-- A log entry as its three registers show it (R437, R445, R446). -/
def viewCelog (e : Option CeEnt) (off : Nat) : Nat :=
  match e with
  | none => 0
  | some x =>
    if off = 0x100 then 2 ^ 63 + 16 * x.addr
    else if off = 0x108 then x.count % 2 ^ 16 * 2 ^ 16 + b2n x.scrub 8 + x.sym % 64
    else x.tick

def viewBuf (s : State) (off i : Nat) : Option Nat :=
  if off = 0x04 then some (b2n s.ms.ready 31 + b2n s.ms.init 30 + b2n s.ms.selfref 29 + s.ms.gib % 256)
  else if off = 0x08 then some (s.ms.rate % 2 ^ 16)
  else if off = 0x20 then some (b2n s.ms.bufTestDone 31 + b2n s.ms.bufTestFail 0)
  else if off = 0x24 then some (s.ms.scrubPos % 2 ^ 32)
  else if off = 0x100 || off = 0x108 || off = 0x110 then some (viewCelog (vget s.ms.bufLog (Fin.ofNat 16 i)) off)
  else none

/-- Banks that copy a page (R441). -/
def copyingBanks (s : State) : Nat :=
  (List.range 16).foldl (fun v i =>
    match vget s.ms.retire (Fin.ofNat 16 i) with
    | some (_, true) => putBit v (i / 4) true
    | _ => v) 0

def viewSpd (s : State) (off i : Nat) : Option Nat :=
  if off = 0x04 then some (s.ms.bankRet.toNat + copyingBanks s * 16)
  else if off = 0x34 then
    some (match s.ms.busyAddr with | none => 0 | some (b, o) => 2 ^ 31 + b % 4 * 2 ^ 28 + o / 16 * 16 % 2 ^ 24)
  else if off = 0x40 then some (b2n s.ms.spdTestDone 31 + s.ms.spdTestFail.toNat)
  else if off = 0x50 then
    some (match vget s.ms.retire (Fin.ofNat 16 i) with
      | none => rn s (Reg.spdRetire i) % 2 ^ 11
      | some (p, c) => 2 ^ 31 + b2n c 30 + p % 2 ^ 11)
  else if off = 0x100 || off = 0x108 || off = 0x110 then some (viewCelog (vget s.ms.spdLog (Fin.ofNat 16 i)) off)
  else none

def viewDma (s : State) (off i : Nat) : Option Nat :=
  let x := s.dmaCh (Fin.ofNat 32 i)
  if off = 0x04 then some (fin32.foldl (fun v c => v + b2n (s.dmaCh c).busy c.val) 0)
  else if off = 0x1008 then some (x.cur / 64 * 64)
  else if off = 0x1010 then
    some (b2n x.busy 31 + b2n x.aborting 30 + b2n x.readback.isSome 29 + x.result % 8 * 2 ^ 24 + x.elem % 2 ^ 24)
  else if off = 0x1018 then some x.erraddr
  else if off = 0x1020 then some x.mismatch.toNat
  else none

/-- A record of the event recorder; channels 88–95 are those of the Datum die (R554). -/
def evrRec (s : State) (ch : Nat) : Rec :=
  tget Rec.cleared (if ch < 88 then s.evr.recs else s.datum.recs) ch

/-- The three words of a stamp (R548). -/
def stampWord (st : Nat × Nat) (k : Nat) : Nat :=
  if k = 0 then st.1 % 2 ^ 32 else if k = 1 then st.1 / 2 ^ 32 % 256 else st.2 % 2 ^ 32

/-- Word `w` of a record (R548). -/
def recWord (r : Rec) (w : Nat) : Nat :=
  if w < 32 then r.bins.getD w 0 % 2 ^ 32
  else if w = 32 then r.min.toNat
  else if w = 33 then r.max.toNat
  else if w = 34 then r.total % 2 ^ 32
  else if w = 35 then r.total / 2 ^ 32 % 2 ^ 32
  else if w < 39 then stampWord r.minStamp (w - 36)
  else if w < 42 then stampWord r.maxStamp (w - 39)
  else if w < 45 then stampWord r.lastStamp (w - 42)
  else if w = 45 then r.seq % 2 ^ 32
  else 0

def evrCursorCh (s : State) : Nat := rf s Reg.evrCursor 8 7
def evrCursorWord (s : State) : Nat := rf s Reg.evrCursor 0 6

/-- The main die is held in its chip reset, or in the power-on reset that a rail-0 fault started. -/
def dieHeld (s : State) : Bool := s.rst.inChipReset || s.rst.rail0

/-- The mailbox is up: the main die is powered and out of reset (R568). -/
def mailboxUp (s : State) : Bool := !dieHeld s && s.boot ≠ .off && s.boot ≠ .softStart

def viewEvr (s : State) (off : Nat) : Option Nat :=
  if off = 0x08 then some (recWord (evrRec s (evrCursorCh s)) (evrCursorWord s))
  else if off = 0x20 then some (s.evr.opsec % 2 ^ 40)
  else if off = 0x28 then some (s.evr.pcyc % 2 ^ 32)
  else if off = 0x2C then some (b2n (mailboxUp s) 0 + s.evr.fwd.length % 256 * 256)
  else none

/-- MAXDEFER of a kind in operating seconds, and since when an instance is due: OVERDUE (R561). -/
def calOverdue (s : State) (k : Nat) : Bool :=
  s.cal.due.any fun d => d.1 = k &&
    decide (d.2.2 + rf s (Reg.calPeriod k) 16 16 * 3600 ≤ s.evr.opsec)

def viewCal (s : State) (off : Nat) : Option Nat :=
  if off = 0x04 then
    some (b2n s.cal.refOk 30 + (List.range 6).foldl (fun v k =>
      v + b2n (calOverdue s k) (16 + k) + b2n (s.cal.due.any fun d => d.1 = k) k) 0)
  else none

def runCode (r : RunState) : Nat :=
  match r with | .reset => 0 | .running => 1 | .waiting => 2 | .halted => 3

/-- Dirty lines that a core's data cache holds (R510). -/
def dirtyLines (k : CoreSt) : Nat := (k.dcache.filter fun l => l.dirty ≠ 0).length

def viewCpc (s : State) (off i : Nat) : Option Nat :=
  let k := s.core (Fin.ofNat 8 i)
  let st := k.stat.toNat
  if off = 0x40 then
    some (runCode k.run + k.ipri.toNat % 16 * 16 + b2n (st.testBit 0) 8 + fld st 1 2 * 2 ^ 9 + b2n (st.testBit 3) 11
      + k.lastCause % 256 * 2 ^ 16)
  else if off = 0xC0 then some k.pcsamp.toNat
  else if off = 0x104 then some (dirtyLines k % 1024)
  else if off = 0x1200 then some (lineWord s 0)
  else if off = 0x1204 then some (lineWord s 32)
  else if off = 0x1208 then some (lineWord s 64)
  else if off = 0x120C then some (lineWord s 96)
  else none

/-- A word of the control store as core `c` holds it (R492). -/
def csWord (s : State) (a : Nat) : BitVec 80 :=
  if a < 0x3000 then Config.romWord s.part.stepB0 a else tget 0 s.mcs.words a

def viewMcs (s : State) (off i : Nat) : Option Nat :=
  let w := (csWord s (rf s Reg.mcsDbgsel 0 14)).toNat
  if off = 0x00 then some ((s.mcs.vbuild.getD (Config.romBuild s.part.stepB0)).toNat)
  else if off = 0x04 then some s.mcs.cbuild.toNat
  else if off = 0x08 then some (Config.romBuild s.part.stepB0).toNat
  else if off = 0x20 then some ((List.range 64).foldl (fun v n => v + b2n (rbit s (Reg.mcsOvl n) 31) n) 0)
  else if off = 0x30 then some ((List.range 32).foldl (fun v n => v + b2n (rbit s (Reg.mcsXopent (32 * i + n)) 15) n) 0)
  else if off = 0x68 then some (w % 2 ^ 64)
  else if off = 0x70 then some (w / 2 ^ 64)
  else none

/-- Usable physical sectors of the Datum flash: those not RETIRED. -/
def usableSectors (s : State) : Nat := 4096 - (s.datum.sectors.filter fun e => e.2.st = .retired).length

def viewDtm (s : State) (off : Nat) : Option Nat :=
  if off = 0x00 then
    some (b2n s.dtm.busy 31 + b2n s.dtm.linkUp 30 + b2n s.datum.clkvalid 29 + b2n (!Config.calRowOk) 28
      + b2n (decide (usableSectors s < 3341)) 27 + usableSectors s % 2 ^ 16)
  else if off = 0x08 then
    some (match s.dtm.events with | [] => 0 | (c, a) :: _ => c % 256 * 2 ^ 24 + a % 2 ^ 24)
  else if off = 0x0C then some (s.dtm.events.length % 32 + b2n s.dtm.ovf 8)
  else none

def tapCode (i : TapInstr) : Nat :=
  match i with
  | .extest => 0x00 | .idcode => 0x01 | .samplePreload => 0x02 | .extestPulse => 0x03 | .extestTrain => 0x04
  | .clamp => 0x05 | .highz => 0x06 | .bypass => 0xFF

/-- The pin-driving instructions (R605). -/
def drivesPins (i : TapInstr) : Bool :=
  match i with
  | .extest | .extestPulse | .extestTrain | .clamp | .highz => true
  | .idcode | .samplePreload | .bypass => false

def tempWord (t : Option Int) : Nat := match t with | none => 0 | some x => 2 ^ 31 + unsgn 16 x

def viewTst (s : State) (off : Nat) : Option Nat :=
  if off = 0x00 then some (idCode s)
  else if off = 0x04 then
    some (b2n s.tap.active 31 + b2n (drivesPins s.tap.instr) 30 + b2n s.tap.refused 29 + tapCode s.tap.instr)
  else if off = 0x10 then some (tempWord s.tap.temp)
  else if off = 0x14 then some (tempWord s.tap.tempMax)
  else none

/-- The capture word that FCTL.CAPSEL selects (R538). -/
def viewFcap (s : State) (b : Blk) : Nat :=
  let f := fcapOf s b
  let k := rn s (aFctl b) % 4
  if k = 0 then f.addr % 2 ^ 32
  else if k = 1 then f.ty % 4 * 2 ^ 30 + f.srcbit % 64 * 2 ^ 24 + f.master % 256 * 2 ^ 16 + f.addr / 2 ^ 32 % 2 ^ 16
  else if k = 2 then f.tick % 2 ^ 32
  else b2n f.valid 31 + f.tick / 2 ^ 32 % 2 ^ 31

end Sys2Proof.Machine
end

