-- ==== Sys2Proof/Machine/RegFile.lean ====
section
/-! DEFINITION. The plain write of a register by its map (R12, R75): fields with a range are clamped, RW fields take the
value, W1C bits written 1 clear, every other bit stays. -/

namespace Sys2Proof.Machine

/-- The value that a register holds after `v` is written to it by its map. -/
def writtenValue (r : RegRow) (old v : DWord) : DWord :=
  let c := BitVec.ofNat 64 (clampFields r.clamps (v.toNat % (r.full + 1)))
  let m := BitVec.ofNat 64 r.rw
  ((old &&& ~~~m) ||| (c &&& m)) &&& ~~~(v &&& BitVec.ofNat 64 r.w1c)

/-- The plain write of the register at an address. -/
def fieldWrite (s : State) (a : Nat) (v : DWord) : State :=
  match regAt a with
  | none => s
  | some (_, r, _) => rset s a (writtenValue r (rget s a) v)

/-- The same of a 32-bit register. -/
def fieldWrite32 (s : State) (a : Nat) (v : Word) : State := fieldWrite s a (v.zeroExtend 64)

/-- Bits of a 32-bit W1C register written 1. -/
def clearW1c (s : State) (a : Nat) (v : Nat) : State := rset s a (rget s a &&& ~~~(BitVec.ofNat 64 v))

end Sys2Proof.Machine
end

