-- ==== Sys2Proof/Machine/DatumDie.lean ====
section
/-! DEFINITION. The Datum die beneath its requests (R548, R549, R567–R600): its events and records, the flash array with
its rotation, the clock, the frames of requests and responses, the rule windows. -/

namespace Sys2Proof.Machine

/-! ### Records (R548, R549) -/

/-- Bin of a value under a bin rule in the layout of CHCFG (R549, R564). -/
def recBin (cfg : Nat) (v : Int) : Nat :=
  let d := v - sgn 24 cfg
  if cfg.testBit 31 then (if d ≤ 0 then 0 else min 31 (Nat.log2 d.toNat + 1))
  else (clampInt 0 31 (d / ((2 ^ fld cfg 24 5 : Nat) : Int))).toNat

/-- A bin counted, saturating. -/
def binAdd (bins : List Nat) (i : Nat) : List Nat := bins.set i (satAdd 0xFFFF_FFFF (bins.getD i 0) 1)

/-- One sample recorded (R549). -/
def recAdd (cfg : Nat) (r : Rec) (v : BitVec 32) (st : Nat × Nat) : Rec :=
  let lo := decide (v.toInt < r.min.toInt)
  let hi := decide (r.max.toInt < v.toInt)
  { bins := binAdd r.bins (recBin cfg v.toInt), min := if lo then v else r.min, max := if hi then v else r.max
    total := satAdd 0xFFFF_FFFF_FFFF_FFFF r.total 1, minStamp := if lo then st else r.minStamp
    maxStamp := if hi then st else r.maxStamp, lastStamp := st, seq := (r.seq + 1) % 2 ^ 32 }

def modDatum (s : State) (f : DatumSt → DatumSt) : State := { s with datum := f s.datum }

/-- The clock in whole seconds (R580). -/
def clockSec (d : DatumSt) : Nat := d.clock / 2 ^ 15

/-- A time that the die stamps: bit 63 set while CLKVALID is 0 (R583). -/
def clockStamp (d : DatumSt) : Nat := clockSec d % 2 ^ 63 + (if d.clkvalid then 0 else 2 ^ 63)

/-- Power cycles as the last counter record has them. -/
def lastCounters (d : DatumSt) : Nat × Nat := match d.counters with | [] => (0, 0) | (o, _, p) :: _ => (o, p)

/-- A sample of the die's own channels, stamped in calendar seconds (R548, R554). -/
def datumSample (s : State) (ch : Nat) (v : BitVec 32) : State :=
  modDatum s fun d =>
    let r := recAdd (chcfgReset ch) (tget Rec.cleared d.recs ch) v (clockSec d % 2 ^ 40, (lastCounters d).2)
    { d with recs := tset Rec.cleared d.recs ch r }

/-! ### Events and sources of DTM (R571, R578, R595, R601) -/

/-- An event into DTM.EVENT: the queue holds 16, a further one is lost and sets OVF. -/
def queueEvent (s : State) (code arg : Nat) : State :=
  let s := if s.dtm.events.length < 16
    then { s with dtm := { s.dtm with events := s.dtm.events ++ [(code, arg % 2 ^ 24)] } }
    else { s with dtm := { s.dtm with ovf := true } }
  rbitSet s Reg.dtmIrqstat 1 true

/-- An event posted; while the mailbox is down the die keeps it. -/
def postEvent (s : State) (code arg : Nat) : State :=
  if mailboxUp s then queueEvent s code arg else modDatum s fun d => { d with evq := d.evq ++ [(code, arg)] }

/-- Entries of the chain that nobody has acknowledged, and how many the chain holds (R594, R595). -/
def chainUnacked (d : DatumSt) : Nat := d.chainSeq - 1 - d.chainAck
def chainRoom : Nat := 1280 * 63

/-- Fewer than 3,341 sectors are left (R578); 90% of the chain is unacknowledged (R595). -/
def wornNow (s : State) : Bool := decide (usableSectors s < 3341)
def chainHigh (s : State) : Bool := decide (9 * chainRoom ≤ 10 * chainUnacked s.datum)

/-- Source CHAINHI or WORN follows its condition; its event is posted as it becomes LIVE. -/
def followCond (s : State) (bit code : Nat) (present : Bool) : State :=
  if present then
    if rbit s (aFlive .dtm) bit then s else raiseCond (postEvent s code 0) .dtm bit
  else setLive s .dtm bit false

/-- What the mailbox brings to the main die when it is up: events kept, and the conditions of the die's sources. -/
def datumSync (s : State) : State :=
  if mailboxUp s then
    let q := s.datum.evq
    let s := overList q (modDatum s fun d => { d with evq := [] }) fun s e => queueEvent s e.1 e.2
    followCond (followCond s 3 4 (wornNow s)) 2 3 (chainHigh s)
  else s

/-! ### The flash array (R570–R578) -/

def secOf (d : DatumSt) (p : Nat) : Sector := tget Sector.blank d.sectors p
def setSec (s : State) (p : Nat) (x : Sector) : State :=
  modDatum s fun d => { d with sectors := tset Sector.blank d.sectors p x }

/-- Erases of a physical sector in all. -/
def eraseCount (d : DatumSt) (p : Nat) : Nat := Config.factoryErases p + (secOf d p).ecount

/-- The first sector in `want` at or after `p`, in ascending order with wrap, among the next `n`. -/
def firstSec (d : DatumSt) (want : SecState → Bool) (p n : Nat) : Option Nat :=
  match n with
  | 0 => none
  | n' + 1 => if want (secOf d (p % 4096)).st then some (p % 4096) else firstSec d want (p + 1) n'

/-- The erases under way end: ECOUNT + 1, BLANK (step 6 of R574). -/
def endErases (d : DatumSt) : DatumSt :=
  { d with sectors := d.sectors.map fun e =>
      if e.2.st = .erasing || e.2.st = .suspended
      then (e.1, { st := .blank, logical := 0xFFFF, version := 0, ecount := e.2.ecount + 1 }) else e }

/-- Physical sector that holds the VALID copy of a logical sector of highest VERSION (R575). -/
def validCopy (d : DatumSt) (l : Nat) : Option (Nat × Sector) :=
  d.sectors.foldl (fun best e =>
    if e.2.st = .valid && e.2.logical = l then
      match best with
      | some b => if b.2.version < e.2.version then some e else best
      | none => some e
    else best) none

/-- A sector whose program or erase failed (R571). -/
def retireSec (s : State) (p : Nat) : State :=
  let s := setSec s p { secOf s.datum p with st := .retired }
  let s := if mailboxUp s then raise1 s .dtm 1 else s
  postEvent s 4 p

/-- Page programs report their pulses on channel 88 (R551). -/
def pulseSamples (s : State) (pulses : List Nat) : State :=
  overList pulses s fun s n => datumSample s 88 (BitVec.ofNat 32 n)

/-- A new copy of a logical sector in the first BLANK sector at or after the rotation pointer; the old copy is erased
from now on (R574, R576). -/
def newCopy (s : State) (l : Nat) : State :=
  match firstSec s.datum (· = .blank) s.datum.rotation 4096 with
  | none => s
  | some p =>
    let old := validCopy s.datum l
    let version := match old with | some o => o.2.version + 1 | none => 1
    let s := setSec s p { st := .valid, logical := l, version := version, ecount := (secOf s.datum p).ecount }
    let s := match old with
      | some o => setSec s o.1 { o.2 with st := .erasing }
      | none => s
    modDatum s fun d => { d with rotation := (p + 1) % 4096 }

/-- The move after every 16 rewrites: the first VALID sector after the rotation pointer (R574). -/
def wearMove (s : State) : State :=
  match firstSec s.datum (· = .valid) s.datum.rotation 4096 with
  | none => s
  | some p => newCopy s (secOf s.datum p).logical

/-- A sector that fails while it takes a copy is retired, and the copy goes to the next one (R571). -/
def failFirst (s : State) (e : NorEv) : State :=
  if e.fail then
    match firstSec s.datum (· = .blank) s.datum.rotation 4096 with
    | none => s
    | some p => retireSec s p
  else s

/-- A logical sector rewritten (R574). -/
def norRewrite (s : State) (l : Nat) (e : NorEv) : State :=
  let s := pulseSamples (modDatum s endErases) e.pulses
  let s := newCopy (failFirst s e) l
  let s := modDatum s fun d => { d with rewrites := d.rewrites + 1 }
  if s.datum.rewrites % 16 = 0 then wearMove s else s

/-- An append into erased bytes of the VALID copy; a copy that fails is retired and its content goes to a new one. -/
def norAppend (s : State) (l : Nat) (e : NorEv) : State :=
  match validCopy s.datum l with
  | none => norRewrite s l e
  | some o =>
    if e.fail then newCopy (retireSec (pulseSamples (modDatum s endErases) e.pulses) o.1) l
    else pulseSamples s e.pulses

/-- How the flash behaves where the command does not say it: 1 to 24 pulses, and whether the limit was reached. -/
def norDraw (s : State) : NorEv × State :=
  let d := draw s
  ({ pulses := [d.1.toNat % 24 + 1], fail := d.1.toNat.testBit 63 }, d.2)

def norRewriteFree (s : State) (l : Nat) : State :=
  let q := norDraw s
  norRewrite q.2 l q.1

/-- Logical sector STATE rewritten: keys, floors, CSEQ values, tier record, clock state (R573). -/
def stateRewrite (s : State) : State := norRewriteFree s 1026

/-! ### Counter records (R582, R599) -/

/-- A record of OPSEC, TIME and PCYC appended to COUNTERS, 128 to the sector. -/
def counterAppend (s : State) (opsec pcyc : Nat) (e : NorEv) : State :=
  let full := decide (128 ≤ s.datum.counters.length)
  let s := if full then norRewrite s 1027 e else norAppend s 1027 e
  modDatum s fun d =>
    { d with
      counters := (opsec, clockStamp d, pcyc) :: (if full then [] else d.counters)
      savedTime := clockSec d }

/-- COUNTSAVE as the main die sends it of itself, with its own OPSEC and PCYC (R599). -/
def countSaveNow (s : State) : State :=
  if mailboxUp s then
    let q := norDraw s
    counterAppend q.2 q.2.evr.opsec q.2.evr.pcyc q.1
  else s

/-- CFGREAD with FRESH (R599): the last OPSEC with PCYC + 1, appended as a record. -/
def freshCounters (s : State) (e : NorEv) : (Nat × Nat) × State :=
  let l := lastCounters s.datum
  let pc := (l.2 + 1) % 2 ^ 32
  ((l.1, pc), counterAppend s l.1 pc e)

/-! ### Rule windows (R183, R592) -/

/-- The window registers that a rule record holds while it is SWEEPING. -/
def writeWindow (s : State) (n : Fin 8) (r : Rule) : State :=
  let s := rsetN s (Reg.locRwhandle n)
    (2 ^ 63 + b2n r.nswide 62 + (if r.nswide then handleOf r.nsslot 0 else r.handle % 2 ^ 40))
  rsetN (rsetN s (Reg.locRwfirst n) (r.first % 2 ^ 40)) (Reg.locRwlast n) (r.last % 2 ^ 40)

/-- A window of every rule still SWEEPING. -/
def writeWindows (s : State) : State :=
  overList s.datum.rules s fun s e =>
    match e.2.window with
    | some n => if e.2.st = 1 then writeWindow s n e.2 else s
    | none => s

/-- A window's VALID cleared. -/
def clearWindow (s : State) (n : Fin 8) : State := rbitSet s (Reg.locRwhandle n) 63 false

/-- A rule is in force: SWEEPING or ACTIVE. -/
def ruleInForce (r : Rule) : Bool := r.st = 1 || r.st = 2

/-- A rule covers a chunk. -/
def ruleCovers (r : Rule) (handle chunk : Nat) : Bool :=
  ruleInForce r &&
    (if r.nswide then r.nsslot = handleSlot handle
     else r.handle = handle && decide (r.first ≤ chunk) && decide (chunk ≤ r.last))

/-- RET set over a rule's scope, as firmware does before SWEEPDONE (R183, R592). -/
def sweepScope (s : State) (r : Rule) : State :=
  { s with obj := { s.obj with
      chunks := s.obj.chunks.map fun e =>
        if ruleCovers r (e.1 / 2 ^ 40) (e.1 % 2 ^ 40) then (e.1, { e.2 with ret := true, dirty := true }) else e } }

/-- RET cleared over the chunks of a released rule that no other rule in force covers (R593). -/
def clearScope (s : State) (r : Rule) : State :=
  { s with obj := { s.obj with
      chunks := s.obj.chunks.map fun e =>
        let h := e.1 / 2 ^ 40
        let c := e.1 % 2 ^ 40
        if ruleCovers r h c && e.2.ret && !(s.datum.rules.any fun x => ruleCovers x.2 h c)
        then (e.1, { e.2 with ret := false, dirty := true }) else e } }

/-! ### Frames (R596, R597) -/

/-- A response frame: CMD, RESULT, LEN, body. -/
def respFrame (cmd result : Nat) (body : List Byte) : List Byte :=
  BitVec.ofNat 8 cmd :: BitVec.ofNat 8 result :: toBytes 2 body.length ++ body

/-- The request that stands in REQ. -/
def reqCmd (s : State) : Nat := rf s (Reg.dtmReq 0) 0 8

/-- The command code of the frame that waits at the port. -/
def portCmd (s : State) : Option Nat := s.datum.portReq.map fun f => (f.headD 0).toNat

/-- A response is ready. A request that the main die's own units send is answered to them. -/
def answer (s : State) (src : ReqSrc) (cmd result : Nat) (body : List Byte) : State :=
  match src with
  | .mailbox =>
    if s.dtm.busy && reqCmd s = cmd && s.datum.mboxRes = none
    then modDatum s fun d => { d with mboxRes := some (respFrame cmd result body) } else s
  | .port => modDatum s fun d => { d with portReq := none, portRes := some (respFrame cmd result body) }

/-- What a request needs: whether the port may send it, whether it writes the flash, whether it is of the ledger class. -/
structure ReqClass where
  port : Bool
  write : Bool
  ledger : Bool
  deriving DecidableEq, Repr

/-- A request served (R578, R596, R597): at the port the table's limits, the WORN refusals, the effect with its result code
and response body; a port request that changed state is posted as PORTCMD. -/
def serve (s : State) (src : ReqSrc) (cmd : Nat) (c : ReqClass) (f : State → Nat × List Byte × State) : State :=
  let here : Bool := match src with | .mailbox => mailboxUp s | .port => portCmd s = some cmd
  if !here then s
  else if src = .port && !c.port then answer s src cmd 8 []
  else if c.write && (decide (usableSectors s < 3334) || (decide (usableSectors s < 3341) && !c.ledger))
  then answer s src cmd 7 []
  else
    let r := f s
    let s := answer r.2.2 src cmd r.1 r.2.1
    let s := if src = .port && c.write && r.1 = 0 then postEvent s 6 cmd else s
    datumSync s

/-- The checks of a signed request (R584, R585): 0 where it is accepted, else the result code. -/
def sigCheck (s : State) (sig : Sig) : Nat :=
  if s.datum.cust = none then 4 else if !sig.valid then 2 else if sig.cseq ≤ s.datum.lastCseq then 3 else 0

/-- A signed request: the CSEQ accepted is kept in STATE. -/
def signed (sig : Sig) (f : State → Nat × List Byte × State) (s : State) : Nat × List Byte × State :=
  if sigCheck s sig = 0 then f (stateRewrite (modDatum s fun d => { d with lastCseq := sig.cseq }))
  else (sigCheck s sig, [], s)

end Sys2Proof.Machine
end

