-- ==== Sys2Proof/Machine/Origin.lean ====
section
/-! DEFINITION. Places on the media (R188–R195) and the Origin bands: the zones of a surface as its Origin band records them
(R175, R176, R199–R201, R295), and what the media hold at a place. -/

namespace Sys2Proof.Machine

/-! ### Places -/

/-- A slot of a track, recorded at WEDGEBITS `n`. -/
structure Place where
  act : Nat
  head : Nat
  track : Nat
  pos : Nat
  n : Nat
  deriving DecidableEq, Repr

/-- Key of a track, and of a place, in `State.media`. -/
def trackKey (act head track : Nat) : Nat := (act * 16 + head) * 2 ^ 24 + track
def Place.key (p : Place) : Nat := trackKey p.act p.head p.track * 2 ^ 12 + p.pos

/-- Where slot `q` of a band lies, as the zone tables have it (R194, R201). -/
def bandPlace (s : State) (spindle band q : Nat) : Option Place :=
  match locateBand s spindle band with
  | none => none
  | some (u, z, first) =>
    if z.s = 0 then none else some { act := u.act, head := u.head, track := first + q / z.s, pos := q % z.s, n := z.n }

/-- Where a slice finds a slot, as its descriptor has it (R472). -/
def descPlace (d : Desc) (slot : Nat) : Place :=
  if d.slots = 0 then { act := d.act, head := d.head % 16, track := d.firstTrack % 2 ^ 24, pos := slot % 2 ^ 12, n := d.wedgebits }
  else { act := d.act, head := d.head % 16, track := (d.firstTrack + slot / d.slots) % 2 ^ 24, pos := slot % d.slots % 2 ^ 12, n := d.wedgebits }

/-- Band and slot that a place belongs to: none for a guard track, for the slots past the last of a band and outside every zone
(R193, R194). -/
def placeBand (s : State) (k : Nat) : Option (Nat × Nat × Nat) :=
  let t := k / 2 ^ 12 % 2 ^ 24
  match s.geom.find? fun u => u.act = k / 2 ^ 40 && u.head = k / 2 ^ 36 % 16 with
  | none => none
  | some u =>
    match u.zones.find? fun z => z.firstTrack ≤ t && t < z.firstTrack + z.bands * (z.t + 1) with
    | none => none
    | some z =>
      let r := (t - z.firstTrack) % (z.t + 1)
      let q := r * z.s + k % 2 ^ 12
      if r < z.t && k % 2 ^ 12 < z.s && q < bandSlots then
        some (u.spindle, u.firstBand + z.firstBand + (t - z.firstTrack) / (z.t + 1), q)
      else none

/-! ### The Origin record (R175, R176, R200, R295) -/

/-- The Origin zone of R192: N 41,600, F 39,392, S 669, servo tracks 0–127. -/
def originZone : ZoneRow := { firstBand := 0, bands := 1, firstTrack := 0, n := 41600, f := 39392, s := 669, t := 0 }

/-- BRICKID of the factory calibration row (R579). -/
def brickId : List Byte := (List.range 16).map fun i => Config.calRow (0x10 + i)

/-- ASCII bytes. -/
def asciiBytes (t : String) : List Byte := t.toList.map fun c => BitVec.ofNat 8 c.toNat

/-- `n` bytes, cut or padded with zeroes. -/
def fitBytes (n : Nat) (bs : List Byte) : List Byte := (bs ++ zeros n).take n

/-- The part number. -/
def partNumber (s : State) : List Byte := asciiBytes (if s.part.is4804 then "AH4804" else "AH4808")

/-- Surface number within a spindle: its place among the spindle's surfaces. -/
def surfaceNo (s : State) (u : Surface) : Nat :=
  (posOf ((s.fmt.surfaces.filter fun v => v.spindle = u.spindle).map fun v => 16 * v.act + v.head) (16 * u.act + u.head)).getD 0

/-- Chunk 0: the Origin header of a surface (R176). -/
def originHeader (s : State) (u : Surface) : List Byte :=
  let mine := s.fmt.surfaces.filter fun v => v.spindle = u.spindle
  fitBytes 4096
    (asciiBytes "ALHORN ORIGIN 01" ++ toBytes 2 1 ++ toBytes 2 3 ++ toBytes 4 64 ++ brickId ++ toBytes 1 u.spindle
      ++ toBytes 1 (surfaceNo s u) ++ toBytes 1 u.act ++ toBytes 1 mine.length ++ toBytes 4 u.firstBand ++ toBytes 4 u.bands
      ++ toBytes 4 (mine.foldl (fun n v => n + v.bands) 0) ++ toBytes 2 (if s.fmt.rpm7200 then 7200 else 5400)
      ++ toBytes 1 (16 * s.fmt.m + s.fmt.k) ++ toBytes 1 s.fmt.spindles ++ toBytes 4 4096 ++ toBytes 2 32 ++ toBytes 2 16
      ++ toBytes 4 65536 ++ toBytes 2 62 ++ toBytes 2 2 ++ toBytes 4 36864 ++ toBytes 4 33024 ++ [1, 1, 1, 1]
      ++ toBytes 8 Config.fmtTime ++ toBytes 8 Config.fmtWseq ++ fitBytes 16 (partNumber s))

/-- Servo tracks of a surface, the Origin band included. -/
def surfaceTracks (u : Surface) : Nat :=
  match u.zones.getLast? with
  | some z => z.firstTrack + z.bands * (z.t + 1)
  | none => 128

/-- One row of the zone table. -/
def zoneBytes (z : ZoneRow) : List Byte :=
  fitBytes 32 (toBytes 4 z.firstBand ++ toBytes 4 z.bands ++ toBytes 4 z.firstTrack ++ toBytes 4 z.n ++ toBytes 4 z.f ++ toBytes 2 z.s
    ++ toBytes 2 z.t)

/-- Chunk 1: the zone table of a surface (R200). -/
def zoneTable (u : Surface) : List Byte :=
  fitBytes 4096
    (asciiBytes "ZTAB" ++ toBytes 2 u.zones.length ++ toBytes 2 640 ++ toBytes 4 37600 ++ toBytes 2 128 ++ toBytes 2 20 ++ toBytes 4 128
      ++ toBytes 4 (surfaceTracks u) ++ toBytes 4 u.bands ++ zeros 4 ++ u.zones.flatMap zoneBytes)

/-- Chunk 2: the parity layout of the brick (R295). -/
def parityLayout (s : State) : List Byte :=
  let l := (List.range 8).filter fun i => s.fmt.spindles.testBit i
  let count := fun (i : Nat) => (s.fmt.surfaces.filter fun v => v.spindle = i).foldl (fun n v => n + v.bands) 0
  let least := match l with
    | [] => 0
    | i :: rest => rest.foldl (fun n j => min n (count j)) (count i)
  let w := s.fmt.k + s.fmt.m
  fitBytes 4096
    (asciiBytes "PLAY" ++ toBytes 2 1 ++ toBytes 1 s.fmt.k ++ toBytes 1 s.fmt.m ++ toBytes 1 l.length ++ toBytes 1 s.fmt.spindles ++ zeros 2
      ++ toBytes 4 least ++ toBytes 4 (if w = 0 then 0 else l.length * least / w)
      ++ (l.map fun i => BitVec.ofNat 8 i) ++ List.replicate (8 - l.length) 0xFF ++ toBytes 1 1)

/-- Unit `i` of a copy of the Origin record of a surface: every copy carries the same tags (R175). -/
def originUnit (s : State) (u : Surface) (i : Nat) : List Byte :=
  unitInfo
    { handle := 0xFF_FFFF_FFFF, chunk := i, unit := 0, units := 1, flags := 0xD0, gen := 1, wseq := Config.fmtWseq, keyep := 0
      clenm1 := 0xFFF }
    (if i = 0 then originHeader s u else if i = 1 then zoneTable u else parityLayout s)

/-- What the format left at a place: copy `c` of the Origin record on track `2c`, in slots `10c` to `10c + 2` (R199). -/
def formatted (s : State) (p : Place) : Option (List Byte) :=
  let c := p.track / 2
  if p.n = originZone.n && p.track % 2 = 0 && p.track < 128 && decide (10 * c ≤ p.pos) && decide (p.pos < 10 * c + 3) then
    (s.fmt.surfaces.find? fun u => u.act = p.act && u.head = p.head).map fun u => originUnit s u (p.pos - 10 * c)
  else none

/-! ### What the media hold -/

/-- The recording at a place, where the device has made one. -/
def recordAt (s : State) (p : Place) : MediaRec := tget MediaRec.none s.media p.key

/-- A track carries a recording of another WEDGEBITS than a place has. -/
def otherRate (s : State) (p : Place) : Bool :=
  s.media.any fun e => decide (e.1 / 2 ^ 12 = trackKey p.act p.head p.track) && decide (e.2.n ≠ p.n)

/-- Information bytes that a reader at a place finds recorded; none where nothing is, or where what is was recorded at another
WEDGEBITS. -/
def placeAt (s : State) (p : Place) : Option (List Byte) :=
  let r := recordAt s p
  if r.info ≠ [] && r.n = p.n then some r.info
  else if otherRate s p then none
  else formatted s p

/-- A slot written at a place; what its track carries at another WEDGEBITS is overwritten (DESIGN CHOICE, log 191). -/
def setPlace (s : State) (p : Place) (info : List Byte) : State :=
  let kept := s.media.filter fun e => decide (e.1 / 2 ^ 12 ≠ trackKey p.act p.head p.track) || decide (e.2.n = p.n)
  { s with media := tset MediaRec.none kept p.key { n := p.n, info := info } }

/-! ### Reading the Origin bands (R175, R201) -/

/-- Copies of unit `i` that a reader of a surface's Origin band finds good, in order. -/
def originCopies (s : State) (u : Surface) (i : Nat) : List (List Byte) :=
  (List.range 64).filterMap fun c =>
    match placeAt s { act := u.act, head := u.head, track := 2 * c, pos := 10 * c + i, n := originZone.n } with
    | some info => if tcrcOk info && dcrcOk info then some (info.drop 32) else none
    | none => none

/-- The zones that a table names. -/
def readZones (bs : List Byte) : List ZoneRow :=
  (List.range (ofBytes ((bs.drop 4).take 2))).map fun i =>
    let r := fun off k => ofBytes ((bs.drop (0x20 + 32 * i + off)).take k)
    { firstBand := r 0 4, bands := r 4 4, firstTrack := r 8 4, n := r 0xC 4, f := r 0x10 4, s := r 0x14 2, t := r 0x16 2 }

/-- R191: N in its range, F, S and T as R188, R190 and R195 give them, S at most 2,055. -/
def zoneValid (z : ZoneRow) : Bool :=
  wedgebitsValid z.n && z.f = payloadBits z.n && z.s = slotsPerTrack z.n && z.t = tracksPerBand z.s

/-- R201: every zone valid, each at the band and the track that follow the one before it, the last ending at BANDS and TRACKS. -/
def zonesFollow (band track bands tracks : Nat) (l : List ZoneRow) : Bool :=
  match l with
  | [] => decide (band = bands) && decide (track = tracks)
  | z :: rest =>
    zoneValid z && decide (z.firstBand = band) && decide (z.firstTrack = track)
      && zonesFollow (band + z.bands) (track + z.bands * (z.t + 1)) bands tracks rest

/-- A zone table is valid (R200, R201). -/
def tableValid (bs : List Byte) : Bool :=
  let k := ofBytes ((bs.drop 4).take 2)
  bs.take 4 = asciiBytes "ZTAB" && decide (1 ≤ k) && decide (k ≤ 32)
    && zonesFollow 0 128 (ofBytes ((bs.drop 0x18).take 4)) (ofBytes ((bs.drop 0x14).take 4)) (readZones bs)

/-- A surface as its Origin band describes it: the first good header and the first valid zone table. -/
def loadSurface (s : State) (u : Surface) : Option Surface :=
  match (originCopies s u 0).head?, (originCopies s u 1).find? tableValid with
  | some h, some t =>
    some { u with act := (h.getD 0x2A 0).toNat, firstBand := ofBytes ((h.drop 0x2C).take 4), bands := ofBytes ((h.drop 0x30).take 4)
                  zones := readZones t }
  | _, _ => none

/-- Spindles of which some surface has no valid copy. -/
def zonelessSpindles (s : State) : List Nat := ((s.fmt.surfaces.filter fun u => (loadSurface s u).isNone).map (·.spindle)).eraseDups

/-- The zone tables of every surface, loaded (R201). -/
def loadZones (s : State) : State := { s with geom := s.fmt.surfaces.filterMap (loadSurface s) }

/-- The Origin band of a surface written in full (R175). -/
def writeOrigin (s : State) (u : Surface) : State :=
  { s with media := s.media.filter fun e => decide (e.1 / 2 ^ 36 ≠ 16 * u.act + u.head) || decide (128 ≤ e.1 / 2 ^ 12 % 2 ^ 24) }

end Sys2Proof.Machine
end

