-- ==== Sys2Proof/Machine/Routing.lean ====
section
/-! DEFINITION. Interrupt routing (R38–R44). -/

namespace Sys2Proof.Machine

/-- Fields of IRQROUTEn (R40). -/
def routeEn (s : State) (n : Nat) : Bool := rbit s (Reg.cpcIrqroute n) 31
def routeMode1 (s : State) (n : Nat) : Bool := rbit s (Reg.cpcIrqroute n) 24
def routePrio (s : State) (n : Nat) : Nat := rf s (Reg.cpcIrqroute n) 16 4
def routeNames (s : State) (n : Nat) (c : Fin 8) : Bool := rbit s (Reg.cpcIrqroute n) c

/-- STAT.IE, DEPTH and NMI of a core (R448). -/
def statIe (k : CoreSt) : Bool := k.stat.toNat.testBit 0
def statDepth (k : CoreSt) : Nat := fld k.stat.toNat 1 2
def statNmi (k : CoreSt) : Bool := k.stat.toNat.testBit 3

/-- The core runs, WFI included. -/
def coreAwake (k : CoreSt) : Bool := k.run = .running || k.run = .waiting

/-- R41: a core can take a line. -/
def canTake (s : State) (n : Nat) (c : Fin 8) : Bool :=
  let k := s.core c
  routeEn s n && routeNames s n c && coreAwake k && !dieHeld s && statIe k && decide (statDepth k < 2)
    && decide (k.ipri.toNat % 16 < routePrio s n)

/-- The core to which a line is assigned in MODE 1. -/
def assignee (s : State) (n : Nat) : Option Nat := (s.assigns.find? fun e => e.1 = n).map (·.2)

/-- An assignment ended. -/
def endAssign (s : State) (n : Nat) : State := { s with assigns := s.assigns.filter fun e => e.1 ≠ n }

/-- Assignments of lines that are no longer asserted end (R42). -/
def dropAssigns (s : State) : State := { s with assigns := s.assigns.filter fun e => lineLevel s e.1 }

/-- A core takes a line at its boundary: also an unassigned MODE 1 line that would be assigned to it (R41). -/
def takeable (s : State) (n : Nat) (c : Fin 8) : Bool :=
  canTake s n c && lineLevel s n
    && (!routeMode1 s n || assignee s n = some c.val || (assignee s n = none && fin8.find? (fun d => canTake s n d) = some c))

/-- A line ends the wait of a core (R466): the conditions of R41 but for IE and DEPTH. -/
def lineWakes (s : State) (n : Nat) (c : Fin 8) : Bool :=
  let rest := routeEn s n && routeNames s n c && decide ((s.core c).ipri.toNat % 16 < routePrio s n)
  if routeMode1 s n then (assignee s n = some c.val || (assignee s n = none && rest)) && lineLevel s n else rest && lineLevel s n

/-- The wait of a WFI ends (R466). -/
def wfiEnds (s : State) (c : Fin 8) : Bool :=
  (s.core c).nmt || (s.core c).werr.isSome || (List.range 128).any fun n => lineWakes s n c

/-- A core whose wait ends goes on. -/
def wakeCore (s : State) (c : Fin 8) : State :=
  if (s.core c).run = .waiting && !dieHeld s && wfiEnds s c then modCore s c fun k => { k with run := .running } else s

/-- What follows from a state whatever command led to it: the assignment of a line that has fallen ends (R42), and a core
whose wait has ended runs (R466). -/
def settle (s : State) : State := overList fin8 (dropAssigns s) wakeCore

/-- The end of a command: the next state, settled. -/
def settled (s : State) : Host.Outcome State Fault Refusal := .next (settle s)

/-- IRQROUTE_WRITE (R42): a write that changes a field ends the assignment. -/
def irqrouteWriteOp (s : State) (n : Fin 128) (v : Word) : State :=
  let t := fieldWrite32 s (Reg.cpcIrqroute n) v
  if rget t (Reg.cpcIrqroute n) = rget s (Reg.cpcIrqroute n) then t else endAssign t n

def execIrqrouteWrite (n : Fin 128) (v : Word) (s : State) : Host.Outcome State Fault Refusal := settled (irqrouteWriteOp s n v)

/-- NMTROUTE_WRITE (R43). -/
def nmtrouteWriteOp (s : State) (v : Word) : State :=
  if v.toNat % 256 = 0 then s else fieldWrite32 s Reg.cpcNmtroute v

def execNmtrouteWrite (v : Word) (s : State) : Host.Outcome State Fault Refusal := settled (nmtrouteWriteOp s v)

/-- SWINT_WRITE (R44): SET wins over CLR. -/
def swintWriteOp (s : State) (v : Word) : State :=
  let set := v.truncate 8
  let clr := (v >>> 8).truncate 8
  { s with swint := (s.swint &&& ~~~clr) ||| set }

def execSwintWrite (v : Word) (s : State) : Host.Outcome State Fault Refusal := settled (swintWriteOp s v)

/-- LINE_ASSIGNMENT (R41): an asserted MODE 1 line that waits unassigned goes to the lowest-numbered named core that can
take it. -/
def lineAssignmentOp (s : State) (n : Fin 128) : State :=
  let s := dropAssigns s
  when (routeMode1 s n && lineLevel s n && (assignee s n).isNone) s fun s =>
    match fin8.find? fun c => canTake s n c with
    | none => s
    | some c => { s with assigns := s.assigns ++ [(n.val, c.val)] }

def execLineAssignment (n : Fin 128) (s : State) : Host.Outcome State Fault Refusal := settled (lineAssignmentOp s n)

end Sys2Proof.Machine
end

