-- ==== Sys2Proof/Machine/Spindle.lean ====
section
/-! DEFINITION. The spindle controllers and the PMU's grants (R57–R60, R353–R382). -/

namespace Sys2Proof.Machine

/-! ### Settings of a controller -/

def polePairs (s : State) (i : Fin 8) : Nat := rf s (Reg.spnMotor i) 0 4
def bemfMin (s : State) (i : Fin 8) : Nat := rf s (Reg.spnDetect i) 0 8
def hoSync (s : State) (i : Fin 8) : Nat := rf s (Reg.spnComm i) 16 4

/-- dmax of R359. -/
def dutyMax (s : State) (i : Fin 8) : Int := (rf s (Reg.spnPwm i) 0 12 : Int) - 2 * (rf s (Reg.spnPwm i) 16 6 : Int)

/-- HANDOVER and the target speed, in 1/16 rpm. -/
def handover16 (s : State) : Nat := 16 * s.conf.handover
def target16 (s : State) : Nat := 16 * targetRpm s

/-- The rotor counts as turning (R363). -/
def rotorTurns (s : State) (i : Fin 8) (o : RotorObs) : Bool := decide (bemfMin s i ≤ o.amp) && decide (30 ≤ o.adv)

/-- Class of a rotor as observed (R363). -/
def rotorClass (s : State) (i : Fin 8) (o : RotorObs) : Nat :=
  if !rotorTurns s i o then 0 else if !o.forward then 3 else if handover16 s ≤ o.spd then 1 else 2

/-- What the controller measured of the rotor. -/
def noteObs (s : State) (i : Fin 8) (o : RotorObs) : State :=
  modSpn s i fun p => { p with amp := o.amp, spd := o.spd, backward := !o.forward }

/-- A command that the controller ignores (R362, R377). -/
def spnIgnored (s : State) (i : Fin 8) : State := rcount s (Reg.spnCmdign i) 1

/-- The controller may take commands: its spindle is declared present and no power-fail sequence runs (R362, R377). -/
def spnHears (s : State) (i : Fin 8) : Bool := spindlePresent s i && !s.pf.active

/-! ### Stopping and starting -/

/-- The listening window opens (R363): the override is released (R378), ERR clears (R364). -/
def spnListen (s : State) (i : Fin 8) : State :=
  let s := { s with pmu := { s.pmu with overRect := setSpn s.pmu.overRect i false, overShort := setSpn s.pmu.overShort i false } }
  modSpn s i fun p => { p with
    st := .listen, t0 := s.tick.toNat, err := 0, atspeed := false, failing := false, autoRestart := false
    forwardSlow := false, catching := false, inject := false, hosync := 0, sched := 0, goodRevs := 0, evInRev := 0, obsN := 0 }

/-- The controller enters STOPPED and reports that it has stopped (R57, R369). A start that failed counts a try and
starts again or sets FAILED (R368); a controller that braked a backward rotor starts again (R363). -/
def spnStopped (s : State) (i : Fin 8) : State :=
  let p := s.spn i
  let s := spnIrq (reportStopped s i) i 1
  let s := modSpn s i fun p => { p with st := .stopped, atspeed := false, duty := 0, integ := 0, failing := false, autoRestart := false }
  if p.failing then
    let tries := min 15 (p.tries + 1)
    let s := modSpn s i fun p => { p with tries := tries }
    if tries < rf s (Reg.spnCtl i) 4 3 then (if s.pf.active then s else spnListen s i)
    else spnIrq (modSpn s i fun p => { p with failed := true }) i 5
  else if p.autoRestart && !s.pf.active then spnListen s i
  else s

/-- End of a start that a STOP or a refusal met: BRAKE where the rotor turns, STOPPED where it does not (R362, R364). -/
def spnIdle (s : State) (i : Fin 8) (turns : Bool) : State := if turns then toBrake s i else spnStopped s i

/-- A start fails (R368); with it come the bits of other sources raised in the same cycle. -/
def spnFail (s : State) (i : Fin 8) (cause : Nat) (bits : List Nat) : State :=
  let s := toBrake (endStarting s i) i
  let s := modSpn s i fun p => { p with failcause := cause, failing := true, catching := false }
  raise (spnIrq (rcount s (Reg.spnStartfails i) 1) i 2) .spn (i.val :: bits) Cap.none

/-- Fly-safe unload (R370): both actuators retract with cause 6, the bridge rectifies, FLYSAFE is raised. -/
def flySafe (s : State) (i : Fin 8) : State :=
  let s := retractEntry (retractEntry s (act0 i) 6) (act1 i) 6
  let s := modSpn s i fun p => { p with st := .rectify, atspeed := false, duty := 0, integ := 0, catching := false }
  let s := if spnParked s i then toBrake s i else s
  raise (spnIrq s i 4) .spn [24 + i.val] Cap.none

/-- A fly-safe unload where a head is loaded, and BRAKE where none is (R374). -/
def flyOrBrake (s : State) (i : Fin 8) : State := if spnParked s i then toBrake s i else flySafe s i

/-- The rotor is lost in RUN (R372): the first cause is recorded, and the controller enters COAST. -/
def rotorLost (s : State) (i : Fin 8) (cause : Nat) (bits : List Nat) : State :=
  let s := modSpn s i fun p => { p with
    st := .coast, losscause := cause, atspeed := false, duty := 0, integ := 0, hosync := 0, goodRevs := 0, evInRev := 0 }
  raise (spnIrq (rcount s (Reg.spnSyncloss i) 1) i 3) .spn ((8 + i.val) :: bits) Cap.none

/-! ### Grants (R58, R59, R364) -/

/-- A request of the controller could be granted now. -/
def grantFits (s : State) : Bool :=
  decide (commit s + rf s Reg.pmuSpinpwr 0 16 ≤ rn s Reg.pmuBudget)
    && decide (popcount 8 s.pmu.starting.toNat < rf s Reg.pmuMaxspinup 0 4)

/-- Duty that a catch or a handover presets: the amplitude over the input voltage, times dmax (R366). Both are in 10 mV;
the input voltage is what PMU.INPWR measures, a free value. -/
def presetDuty (s : State) (i : Fin 8) (amp : Nat) : Int × State :=
  let d := draw s
  let v := fld d.1.toNat 16 16
  let m := dutyMax s i
  (if v = 0 then m else clampInt 0 m ((amp : Int) * m / (v : Int)), d.2)

/-- Settings written since the last commutation event come into force (R381); ACCEL of R359 is the one that acts between events. -/
def takeSettings (s : State) (i : Fin 8) : State := modSpn s i fun p => { p with accel := rf s (Reg.spnRamp i) 0 16 }

/-- Entry to ACCEL with a reference, in 1/16 rpm (R366). -/
def spnAccel (s : State) (i : Fin 8) (ref amp : Nat) (catching : Bool) : State :=
  let q := presetDuty s i amp
  modSpn (takeSettings q.2 i) i fun p => { p with
    st := .accel, ref := ref, refMilli := 1000 * ref, integ := q.1, duty := q.1, hosync := 0, sched := 0, ivals := []
    goodRevs := 0, evInRev := 0, catching := catching, obsN := 0 }

/-- Entry to LOCATE (R365): by injection for a forward slow rotor, else as STARTMODE says. -/
def spnLocate (s : State) (i : Fin 8) (slow : Bool) : State :=
  modSpn s i fun p => { p with
    st := .locate, inject := slow || rbit s (Reg.spnCtl i) 0, forwardSlow := slow, catching := false, hosync := 0, sched := 0 }

/-- The grant (R58): the spindle counts as starting, and the rotor is classed again (R364). -/
def spnGrant (s : State) (i : Fin 8) (o : RotorObs) : State :=
  let s := withdraw s i
  let s := { s with pmu := { s.pmu with starting := setSpn s.pmu.starting i true } }
  let s := noteObs s i o
  let c := rotorClass s i o
  if c = 0 then spnLocate s i false
  else if c = 1 then
    spnAccel (modSpn (rfCount s (Reg.spnCatches i) 0 16 1) i fun p => { p with sector := o.sector.val }) i o.spd o.amp true
  else if c = 2 then spnLocate s i true
  else
    let s := toBrake (endStarting (rfCount s (Reg.spnCatches i) 16 16 1) i) i
    modSpn s i fun p => { p with autoRestart := true }

/-- A request arrives at the PMU (R58, R59): refused where no grant could follow, granted in the same cycle where none
waits before it and it fits. -/
def spinRequest (s : State) (i : Fin 8) (o : RotorObs) : State :=
  let s := { s with pmu := { s.pmu with refused := setSpn s.pmu.refused i false } }
  let s := modSpn s i fun p => { p with st := .waitgrant }
  if rn s Reg.pmuBudget < rn s Reg.pmuBasew + rf s Reg.pmuSpinpwr 0 16 then
    let s := { s with pmu := { s.pmu with refused := setSpn s.pmu.refused i true } }
    spnIdle (modSpn s i fun p => { p with err := 1 }) i (rotorTurns s i o)
  else if s.pmu.waitQ = [] && grantFits s then spnGrant s i o
  else { s with pmu := { s.pmu with waitQ := s.pmu.waitQ ++ [i] } }

/-- SPIN_GRANT: the oldest waiting request, where it fits; one that does not fit blocks every later one. -/
def spinGrantOp (s : State) (o : RotorObs) : State :=
  match s.pmu.waitQ with
  | [] => s
  | i :: _ => when (grantFits s && (s.spn i).st = .waitgrant) s fun s => spnGrant s i o

def execSpinGrant (o : RotorObs) (s : State) : Host.Outcome State Fault Refusal := settled (spinGrantOp s o)

/-- BUDGET_WRITE (R60): the budget alone changes. -/
def budgetWriteOp (s : State) (v : Word) : State := fieldWrite32 s Reg.pmuBudget v

def execBudgetWrite (v : Word) (s : State) : Host.Outcome State Fault Refusal := settled (budgetWriteOp s v)

/-! ### Commands (R362) -/

def spnStartOp (s : State) (i : Fin 8) : State :=
  let p := s.spn i
  if !spnHears s i then spnIgnored s i
  else
    match p.st with
    | .stopped => if p.failed then spnIgnored s i else spnListen (rcount s (Reg.spnStarts i) 1) i
    | .brake => spnListen (rcount (reportStopped s i) (Reg.spnStarts i) 1) i
    | .listen | .waitgrant | .locate | .ramp | .accel | .run | .coast | .rectify | .stopping => spnIgnored s i

def execStart (i : Fin 8) (s : State) : Host.Outcome State Fault Refusal := settled (spnStartOp s i)

/-- STOPPING (R371): an unload of each actuator that is not PARKED, and BRAKE at once where both are. -/
def spnStopping (s : State) (i : Fin 8) : State :=
  let s := unloadEntry (unloadEntry s (act0 i)) (act1 i)
  let s := modSpn s i fun p => { p with st := .stopping }
  if spnParked s i then toBrake s i else s

def spnStopOp (s : State) (i : Fin 8) (turns : Bool) : State :=
  if !spnHears s i then spnIgnored s i
  else
    match (s.spn i).st with
    | .listen => spnIdle s i turns
    | .waitgrant => spnIdle (withdraw s i) i turns
    | .locate | .ramp | .accel => toBrake (endStarting s i) i
    | .run => spnStopping s i
    | .coast => flyOrBrake s i
    | .stopped | .brake | .rectify | .stopping => spnIgnored s i

def execStop (i : Fin 8) (turns : Bool) (s : State) : Host.Outcome State Fault Refusal := settled (spnStopOp s i turns)

def clrfailOp (s : State) (i : Fin 8) : State :=
  if spnHears s i && (s.spn i).st = .stopped then modSpn s i fun p => { p with failed := false, tries := 0 }
  else spnIgnored s i

def execClrfail (i : Fin 8) (s : State) : Host.Outcome State Fault Refusal := settled (clrfailOp s i)

/-! ### Listening, locating, ramping (R363–R366) -/

def listenWindowEndOp (s : State) (i : Fin 8) (o : RotorObs) : State :=
  when ((s.spn i).st = .listen) s fun s =>
    let c := rotorClass s i o
    let s := modSpn (noteObs s i o) i fun p => { p with cls := c }
    if c = 3 then
      modSpn (toBrake (rfCount s (Reg.spnCatches i) 16 16 1) i) i fun p => { p with autoRestart := true }
    else spinRequest s i o

def execListenWindowEnd (i : Fin 8) (o : RotorObs) (s : State) : Host.Outcome State Fault Refusal :=
  settled (listenWindowEndOp s i o)

/-- Sector whose commanded angle leads an estimate by 60 to 120 degrees (R365). The field of sector `k` stands at
60k − 30 degrees in the frame in which alignment settles the rotor at 0 (DEDUCED). `angle` is in 1/64 turn. -/
def leadSector (angle : Nat) : Nat := ((angle % 64) * 360 + 90 * 64 + 60 * 64 - 1) / (60 * 64) % 6

/-- Entry to RAMP: the schedule rises from a speed, in 1/16 rpm (R366). -/
def spnRamp (s : State) (i : Fin 8) (sector spd : Nat) (inject : Bool) : State :=
  modSpn s i fun p => { p with
    st := .ramp, sector := sector, rampSq := spd * spd, inject := inject, hosync := 0, sched := 0, ivals := [], obsN := 0 }

def locateDoneOp (s : State) (i : Fin 8) (contrast : Nat) (angle : BitVec 6) : State :=
  let p := s.spn i
  when (p.st = .locate) s fun s =>
    if !p.inject then spnRamp s i 1 0 false
    else if contrast < rf s (Reg.spnDetect i) 8 8 then
      if p.forwardSlow then spnFail s i 4 [] else spnRamp s i 1 0 false
    else spnRamp s i (leadSector angle.toNat) (if p.forwardSlow then p.spd else 0) true

def execLocateDone (i : Fin 8) (contrast : Nat) (angle : BitVec 6) (s : State) : Host.Outcome State Fault Refusal :=
  settled (locateDoneOp s i contrast angle)

/-- The schedule of RAMP has reached HANDOVER. -/
def atHandover (s : State) (i : Fin 8) : Bool := decide (handover16 s * handover16 s ≤ (s.spn i).rampSq)

/-- COMMUTATION_INSTANT (R356, R357, R366): the next sector; in RAMP the schedule rises by RAMPACC over one interval
(the square of the speed by 20 × RAMPACC / P rpm²), a lag over 90 degrees fails the start where injection runs beneath
the drive, and 2 × HOSYNC intervals at HANDOVER without HOSYNC events fail it. -/
def commutationInstantOp (s : State) (i : Fin 8) (lag : Nat) : State :=
  let p := s.spn i
  let next := modSpn s i fun p => { p with sector := (p.sector + 1) % 6 }
  match p.st with
  | .ramp =>
    if p.inject && decide (90 < lag) then spnFail s i 1 []
    else if !atHandover s i then
      modSpn next i fun p => { p with rampSq := p.rampSq + 5120 * rf s (Reg.spnRamp i) 16 16 / polePairs s i }
    else if 2 * hoSync s i ≤ p.sched + 1 then spnFail s i 2 []
    else modSpn next i fun p => { p with sched := p.sched + 1 }
  | .accel | .run | .stopping => next
  | .stopped | .listen | .waitgrant | .brake | .locate | .coast | .rectify => s

def execCommutationInstant (i : Fin 8) (lag : Nat) (s : State) : Host.Outcome State Fault Refusal :=
  settled (commutationInstantOp s i lag)

/-! ### Speed (R358–R360) -/

/-- Speed over the last `n` of 6 × P intervals, in 1/16 rpm (R358). -/
def speedOver (p n : Nat) (ivals : List Nat) : Nat :=
  let l := ivals.take n
  let c := l.foldl (· + ·) 0
  if c = 0 then 0 else 48000000000 * l.length / (6 * p * c)

/-- The interval of an event recorded, and the speed and amplitude measured: over the last revolution in a driven state, over
the last electrical period in COAST. -/
def noteEvent (s : State) (i : Fin 8) (e : CommEv) (coast : Bool) : State :=
  let pp := polePairs s i
  modSpn s i fun p =>
    let iv := (e.interval :: p.ivals).take (6 * pp)
    { p with ivals := iv, amp := e.amp, backward := !e.forward, spd := speedOver pp (if coast then 6 else 6 * pp) iv }

/-- The speed loop of R359. -/
def speedLoop (s : State) (i : Fin 8) : State :=
  let kp : Int := rf s (Reg.spnSpdloop i) 0 16
  let ki : Int := rf s (Reg.spnSpdloop i) 16 16
  let m := dutyMax s i
  modSpn s i fun p =>
    let e : Int := (p.ref : Int) - (p.spd : Int)
    let g := clampInt 0 m (p.integ + e * ki / 65536)
    { p with integ := g, duty := clampInt 0 m (e * kp / 65536 + g) }

/-- A speed lies within `n`/1000 of the target (R360). -/
def withinTarget (s : State) (spd n : Nat) : Bool :=
  decide (1000 * spd ≤ (1000 + n) * target16 s) && decide ((1000 - n) * target16 s ≤ 1000 * spd)

/-- RUN is entered with the rotor driven: the time since START goes to the event recorder (R551). -/
def enterRun (s : State) (i : Fin 8) : State :=
  let ms := (s.tick.toNat - (s.spn i).t0) / 100000
  evrPushN (spnIrq (modSpn s i fun p => { p with st := .run, ref := target16 s, refMilli := 1000 * target16 s }) i 0) (32 + i.val) ms

/-- The revolution that ends with this event (R360): four good ones in a row set ATSPEED, one bad one clears it. -/
def revolutionEnd (s : State) (i : Fin 8) : State :=
  let p := s.spn i
  let good := if withinTarget s p.spd 1 then p.goodRevs + 1 else 0
  let s := modSpn s i fun p => { p with goodRevs := good, evInRev := 0 }
  if 4 ≤ good && !p.atspeed && (p.st = .accel || p.st = .run) then
    let s := modSpn s i fun p => { p with atspeed := true }
    if p.st = .accel then
      enterRun (modSpn (reportSpeed s i) i fun p => { p with tries := 0, catching := false }) i
    else s
  else if p.atspeed && !withinTarget s p.spd 2 then
    let s := modSpn s i fun p => { p with atspeed := false }
    if p.st = .run then spnIrq s i 6 else s
  else s

/-- An event counted toward its revolution. -/
def revolutionEvent (s : State) (i : Fin 8) : State :=
  let n := (s.spn i).evInRev + 1
  if n < 6 * polePairs s i then modSpn s i fun p => { p with evInRev := n } else revolutionEnd s i

/-- The observer disagrees with an event (R375): its speed with the one measured between events, by more than OBSTOL / 128 of it, or
its amplitude lies below BEMFMIN. -/
def observerBad (s : State) (i : Fin 8) (e : CommEv) : Bool :=
  let v := speedOver (polePairs s i) 1 [e.interval]
  decide (rf s (Reg.spnObs i) 0 8 * v < 128 * ((e.obsSpd : Int) - (v : Int)).natAbs) || decide (e.obsAmp < bemfMin s i)

/-- The event lies within 15 electrical degrees of its scheduled commutation (R366). -/
def eventMatched (e : CommEv) : Bool := decide (e.dev ≤ 15)

/-- The observer's verdict of an event (R375): OBSIMPL counts as OBSN events in a row disagree; true where they do. -/
def observe (s : State) (i : Fin 8) (bad : Bool) : Bool × State :=
  let n := if bad then (s.spn i).obsN + 1 else 0
  let lim := rf s (Reg.spnObs i) 8 8
  let s := modSpn s i fun p => { p with obsN := n }
  (decide (lim ≤ n) && bad, if n = lim && bad then rcount s (Reg.spnObsimpl i) 1 else s)

/-- The fly-safe test of an event in RUN or COAST (R374): the speed over the last electrical period below FLYSAFE percent of
the target, or the amplitude below BEMFMIN, with a head loaded. -/
def flySafeTest (s : State) (i : Fin 8) (e : CommEv) : State :=
  let p := s.spn i
  let v := speedOver (polePairs s i) 6 p.ivals
  let slow := decide (100 * v < rf s (Reg.spnLimits i) 0 8 * target16 s)
  if (p.st = .run || p.st = .coast) && !spnParked s i && (slow || decide (e.amp < bemfMin s i)) then flySafe s i else s

/-- COMMUTATION_EVENT (R357, R358, R360, R366, R372–R375). -/
def commutationEventOp (s : State) (i : Fin 8) (e : CommEv) : State :=
  let p := s.spn i
  let bad := observerBad s i e
  match p.st with
  | .ramp =>
    let s := (observe (noteEvent s i e false) i bad).2
    if !atHandover s i then s
    else
      let n := if eventMatched e then p.hosync + 1 else 0
      if hoSync s i ≤ n then spnAccel s i (handover16 s) e.amp false
      else modSpn s i fun p => { p with hosync := n }
  | .accel =>
    if p.catching && !e.forward then spnLocate (noteEvent s i e false) i true
    else
      let s := takeSettings (observe (noteEvent s i e false) i bad).2 i
      let s := modSpn s i fun p => { p with hosync := p.hosync + 1, catching := p.catching && decide (p.hosync + 1 < hoSync s i) }
      revolutionEvent (speedLoop s i) i
  | .run =>
    let q := observe (noteEvent s i e false) i bad
    let s := revolutionEvent (speedLoop q.2 i) i
    let s := if q.1 && rbit s (Reg.spnCtl i) 1 then rotorLost s i 3 [] else s
    flySafeTest s i e
  | .stopping => revolutionEvent (speedLoop (observe (noteEvent s i e false) i bad).2 i) i
  | .coast =>
    let s := noteEvent s i e true
    let n := if e.forward then p.hosync + 1 else 0
    let s := modSpn s i fun p => { p with hosync := n }
    let s :=
      if hoSync s i ≤ n then
        let q := presetDuty s i e.amp
        enterRun (modSpn q.2 i fun p => { p with sector := e.sector.val, integ := q.1, duty := q.1, atspeed := false, goodRevs := 0, evInRev := 0, obsN := 0 }) i
      else s
    flySafeTest s i e
  | .stopped | .listen | .waitgrant | .brake | .locate | .rectify => s

def execCommutationEvent (i : Fin 8) (e : CommEv) (s : State) : Host.Outcome State Fault Refusal :=
  settled (commutationEventOp s i e)

/-- REF_STEP (R359): the reference rises by ACCEL × 16 / 1,000, the fraction carried, up to the target. -/
def refStepOp (s : State) (i : Fin 8) : State :=
  when ((s.spn i).st = .accel) s fun s =>
    modSpn s i fun p =>
      let m := p.refMilli + 16 * p.accel
      if 1000 * target16 s ≤ m then { p with refMilli := 1000 * target16 s, ref := target16 s }
      else { p with refMilli := m, ref := m / 1000 }

def execRefStep (i : Fin 8) (s : State) : Host.Outcome State Fault Refusal := settled (refStepOp s i)

/-- BRAKE_DONE (R369): the amplitude as last measured is some value below BEMFMIN. -/
def brakeDoneOp (s : State) (i : Fin 8) : State :=
  when ((s.spn i).st = .brake) s fun s =>
    let d := draw s
    spnStopped (modSpn d.2 i fun p => { p with amp := d.1.toNat % bemfMin s i }) i

def execBrakeDone (i : Fin 8) (s : State) : Host.Outcome State Fault Refusal := settled (brakeDoneOp s i)

/-- ROTOR_LOSS (R372). -/
def rotorLossOp (s : State) (i : Fin 8) : State := when ((s.spn i).st = .run) s fun s => rotorLost s i 1 []

def execRotorLoss (i : Fin 8) (s : State) : Host.Outcome State Fault Refusal := settled (rotorLossOp s i)

/-- LOCKED_ROTOR (R367); a catch whose events do not follow goes on as a forward slow start (R366). -/
def lockedRotorOp (s : State) (i : Fin 8) : State :=
  when ((s.spn i).st = .accel) s fun s => if (s.spn i).catching then spnLocate s i true else spnFail s i 1 []

def execLockedRotor (i : Fin 8) (s : State) : Host.Outcome State Fault Refusal := settled (lockedRotorOp s i)

/-- CATCH_TIMEOUT (R374). -/
def catchTimeoutOp (s : State) (i : Fin 8) : State := when ((s.spn i).st = .coast) s fun s => flyOrBrake s i

def execCatchTimeout (i : Fin 8) (s : State) : Host.Outcome State Fault Refusal := settled (catchTimeoutOp s i)

/-- ZERO_CROSSING_TIMEOUT (R374). -/
def zeroCrossingTimeoutOp (s : State) (i : Fin 8) : State :=
  when (((s.spn i).st = .run || (s.spn i).st = .coast) && !spnParked s i) s fun s => flySafe s i

def execZeroCrossingTimeout (i : Fin 8) (s : State) : Host.Outcome State Fault Refusal := settled (zeroCrossingTimeoutOp s i)

/-- OVERCURRENT (R376): in RUN a rotor loss, in a start its failure, in STOPPING the way to COAST. -/
def overcurrentOp (s : State) (i : Fin 8) : State :=
  match (s.spn i).st with
  | .run => rotorLost s i 2 [16 + i.val]
  | .locate | .ramp | .accel => spnFail s i 3 [16 + i.val]
  | .stopping =>
    raise (modSpn s i fun p => { p with st := .coast, atspeed := false, duty := 0, integ := 0, hosync := 0 }) .spn [16 + i.val] Cap.none
  | .stopped | .listen | .waitgrant | .brake | .coast | .rectify => s

def execOvercurrent (i : Fin 8) (s : State) : Host.Outcome State Fault Refusal := settled (overcurrentOp s i)

/-- Both actuators of a spindle in STOPPING or in a fly-safe unload have come to rest (R370, R371). A bridge that the
power-fail override rectifies stays so (R377). -/
def spindleParked (s : State) (i : Fin 8) : State :=
  let p := s.spn i
  if spnParked s i && (p.st = .stopping || (p.st = .rectify && !s.pmu.overRect.toNat.testBit i.val)) then toBrake s i else s

/-- CMD of SPNn (R381). `turns`: the rotor turns, for a STOP. -/
def spnCmdWrite (s : State) (i : Fin 8) (v : Nat) (turns : Bool) : State :=
  let op := v % 16
  if op = 1 then spnStartOp s i else if op = 2 then spnStopOp s i turns else if op = 3 then clrfailOp s i else s

/-- MOTOR of SPNn: ignored outside STOPPED (R381). -/
def spnMotorWrite (s : State) (i : Fin 8) (v : DWord) : State :=
  when ((s.spn i).st = .stopped) s fun s => fieldWrite s (Reg.spnMotor i) v

end Sys2Proof.Machine
end

