-- ==== Sys2Proof/Machine/Wedges.lean ====
section
/-! DEFINITION. A track as wedges lay it out (R188–R190, R204, R205), and what the write path drives over a slot: bits,
precompensation (R251) and the laser code (R252). -/

namespace Sys2Proof.Machine

/-! ### Wedges -/

/-- Bits of a servo field (R188). -/
def servoBits (n : Nat) : Nat := n / 20

/-- Bits of a mark, most significant first. -/
def patternBits (w v : Nat) : List Bool := (List.range w).map fun i => v.testBit (w - 1 - i)

/-- The resync mark. -/
def resyncMark : List Bool := patternBits 16 0xE35A

/-- The resync field: 112 bits of the 2T pattern, then the mark (R188). -/
def resyncField : List Bool := twoT 112 ++ resyncMark

/-- A run of payload bits within one wedge; `fresh` where the wedge's payload starts with it (R204). -/
structure Piece where
  fresh : Bool
  len : Nat
  deriving DecidableEq, Repr

/-- The pieces into which wedges of `f` payload bits split `len` stream bits from position `at_` on. -/
def pieces (fuel f at_ len : Nat) : List Piece :=
  match fuel with
  | 0 => []
  | k + 1 =>
    if len = 0 || f = 0 then []
    else
      let off := at_ % f
      let m := min len (f - off)
      { fresh := decide (off = 0), len := m } :: pieces k f (at_ + m) (len - m)

/-- The pieces of a slot of a track for a read: slot bits −32 to 37,567, the stream of a track taken as closed (R189, R190). -/
def readPieces (n pos : Nat) : List Piece :=
  let f := payloadBits n
  pieces 64 f (37600 * pos + (640 * f - 32)) 37600

/-- The pieces of a slot for a write: slot bits 0 to 37,599. -/
def writePieces (n pos : Nat) : List Piece := pieces 64 (payloadBits n) (37600 * pos) 37600

/-! ### The resync mark (R205) -/

/-- Positions at which two runs of bits differ. -/
def bitDiffs (a b : List Bool) : Nat := ((xorBits a b).filter id).length

/-- Offsets up to `k` bits from nominal, nearest first and then earlier first. -/
def nearOffsets (k : Nat) : List Int := (0 : Int) :: (List.range k).flatMap fun (i : Nat) => [-(i : Int) - 1, (i : Int) + 1]

/-- Differing bits of the mark at an offset, in a window that starts 8 bits before nominal; a window cut short matches nowhere. -/
def resyncDiff (w : List Bool) (o : Int) : Nat :=
  let got := (w.drop (8 + o).toNat).take 16
  if got.length = 16 then bitDiffs got resyncMark else 16

/-- The better of two matches: the first, unless the second has fewer differing bits. -/
def betterMatch (best : Option (Int × Nat)) (o : Int) (d : Nat) : Option (Int × Nat) :=
  match best with
  | none => some (o, d)
  | some b => if d < b.2 then some (o, d) else some b

/-- The offset of the best match of the resync mark; none where no position differs in at most 2 bits. -/
def resyncMatch (w : List Bool) : Option Int :=
  ((nearOffsets 8).foldl (fun best o => if resyncDiff w o ≤ 2 then betterMatch best o (resyncDiff w o) else best) none).map (·.1)

/-! ### The write path -/

/-- A channel bit before precompensation: a servo field, or the bit that is written, none where the current is off. -/
inductive RawBit
  | servo
  | pay (b : Option Bool)
  deriving DecidableEq, Repr

/-- The fields that pass while a slot is written: before a fresh piece the servo field and the resync field, then its payload. -/
def rawBits (n : Nat) (ps : List Piece) (bits : List (Option Bool)) : List RawBit :=
  match ps with
  | [] => []
  | p :: rest =>
    (if p.fresh then List.replicate (servoBits n) RawBit.servo ++ resyncField.map (fun b => RawBit.pay (some b)) else [])
      ++ (bits.take p.len).map RawBit.pay ++ rawBits n rest (bits.drop p.len)

/-- A slot's written bits, and its splice gap, which is not written (R202). -/
def slotStream (info : List Byte) : List (Option Bool) := (slotBits info).map some ++ List.replicate 256 none

/-- Whether bit `k` of a burst differs from the bit before it; the first bit counts as no transition. -/
def transition (prev : Option Bool) (b : Bool) : Nat :=
  match prev with
  | some p => bit01 (p != b)
  | none => 0

/-- The bit that a channel bit drives. -/
def RawBit.data (x : RawBit) : Option Bool :=
  match x with
  | .servo => none
  | .pay b => b

/-- The next bit of the burst. -/
def nextBit (l : List RawBit) : Option Bool := l.head?.bind RawBit.data

/-- Early shift of the transition at each bit, in 1/64 bit (R251): `t1` and `t2` are t(k − 1) and t(k − 2), `prev` the bit before within
the burst. -/
def earlyShifts (pc : List Nat) (prev : Option Bool) (t1 t2 : Nat) (l : List RawBit) : List Nat :=
  match l with
  | [] => []
  | x :: rest =>
    match x.data with
    | none => 0 :: earlyShifts pc none 0 0 rest
    | some b =>
      let t := transition prev b
      let t' := match nextBit rest with
        | some c => transition (some b) c
        | none => 0
      (if t = 1 then pc.getD (4 * t1 + 2 * t2 + t') 0 else 0) :: earlyShifts pc (some b) t t1 rest

/-- Length of the run of servo bits at the front. -/
def servoLeft (l : List RawBit) : Nat :=
  match l with
  | .servo :: rest => servoLeft rest + 1
  | _ => 0

/-- The laser code over each bit (R252): the bias code from the first bit of a servo field on, write level from LPRE bits before the
resync field on, write level elsewhere. -/
def laserCodes (level bias lpre : Nat) (l : List RawBit) : List Nat :=
  match l with
  | [] => []
  | x :: rest => (if lpre < servoLeft (x :: rest) then bias else level) :: laserCodes level bias lpre rest

/-- Bits before the first that is written are dropped. -/
def fromWritten (l : List RawBit) : List RawBit := l.dropWhile fun x => x.data.isNone

/-- What the write path drives over a slot (R204, R251, R252). The first slot of an operation is led by LPRE bits at write level, the last
one ends LTAIL bits after its last written bit. -/
def slotWave (n pos : Nat) (info : List Byte) (pc : List Nat) (level bias lpre ltail : Nat) (first last : Bool) : List WdBit :=
  let raw := rawBits n (writePieces n pos) (slotStream info)
  let raw := if first then List.replicate lpre (RawBit.pay none) ++ fromWritten raw else raw
  let raw := if last then (fromWritten raw.reverse).reverse ++ List.replicate ltail (RawBit.pay none) else raw
  List.zipWith (fun x (e : Nat × Nat) => { data := RawBit.data x, early := e.1, laser := e.2 }) raw
    ((earlyShifts pc none 0 0 raw).zip (laserCodes level bias lpre raw))

end Sys2Proof.Machine
end

