-- ==== Sys2Proof/Machine/Radius.lean ====
section
/-! DEFINITION. Radius: demodulation, the dual-stage law, trajectories, write inhibit and the actuators' commands
(R322–R352, R626, R628). -/

namespace Sys2Proof.Machine

/-! ### Coefficient and state words (R328, R332) -/

def coefAddr (a : Fin 16) (w : Nat) : Nat := Reg.radCoef (512 * a.val + w)
def swordAddr (a : Fin 16) (w : Nat) : Nat := Reg.radStateWord (128 * a.val + w)

/-- A coefficient, in 2^-20. -/
def coef (s : State) (a : Fin 16) (w : Nat) : Int := sgn 24 (rn s (coefAddr a w))
/-- A state word, in 2^-16. -/
def sword (s : State) (a : Fin 16) (w : Nat) : Int := sgn 32 (rn s (swordAddr a w))
def setSword (s : State) (a : Fin 16) (w : Nat) (x : Int) : State := rsetN s (swordAddr a w) (unsgn 32 x)

/-- ypred: words 80 and 81, 40 bits. -/
def ypred (s : State) (a : Fin 16) : Int := sgn 40 (rn s (swordAddr a 80) % 2 ^ 32 + rn s (swordAddr a 81) % 256 * 2 ^ 32)
def setYpred (s : State) (a : Fin 16) (x : Int) : State :=
  let n := unsgn 40 x
  rsetN (rsetN s (swordAddr a 80) (n % 2 ^ 32)) (swordAddr a 81) (n / 2 ^ 32)

/-! ### Arithmetic (R329) -/

def sat32 (x : Int) : Int := clampInt (-2147483648) 2147483647 x
def sat32Over (x : Int) : Bool := decide (sat32 x ≠ x)

/-- A sum of products of coefficients and signal values: rounded, saturated, and whether it saturated. -/
def sop (l : List (Int × Int)) : Int × Bool :=
  let v := (l.foldl (fun acc p => acc + p.1 * p.2) 0 + 524288) / 1048576
  (sat32 v, sat32Over v)

/-- A chain output as a DAC code, and whether it was clamped. -/
def dacCode (w lim : Int) : Int × Bool :=
  let c := (w + 128) / 256
  let k := clampInt (-lim) lim c
  (k, decide (k ≠ c))

/-! ### Demodulation (R325–R327) -/

/-- Track number of a Gray code of 24 bits. -/
def grayDecode (n g : Nat) : Nat :=
  match n with
  | 0 => g
  | n' + 1 => g ^^^ grayDecode n' (g / 2)

/-- Offset from the track centre in 2^-16 track pitch (R326); none for a field without burst amplitude, for which the spec
states no quotient. -/
def burstOffset (a b : Int) : Option Int :=
  let m := (a.natAbs + b.natAbs : Nat)
  if m = 0 then none
  else
    let q : Int := if b ≤ 0 then 16384 * a else a.sign * (32768 * (m : Int) - 16384 * (a.natAbs : Int))
    some ((2 * q + (m : Int)) / (2 * (m : Int)))

/-- The servo address mark (R325). -/
def samMark : List Bool := patternBits 16 0x0B3E

/-- Position of the SAM relative to the one predicted, within ±8 cells: the nearest where several match, then the earlier (R326). -/
def samAt (f : ServoSample) : Option Int := (nearOffsets 8).find? fun d => decide ((f.cells.drop (72 + d).toNat).take 16 = samMark)

/-- `n` cells of a field from its cell `c` on, counted from its SAM; a field without SAM is read where the mark was predicted. -/
def fieldCells (f : ServoSample) (c n : Nat) : List Bool := (f.cells.drop ((c : Int) + 8 + (samAt f).getD 0).toNat).take n

/-- Manchester pairs: 1,0 is 1 and 0,1 is 0, the most significant bit first (R325). -/
def manchesterNat (cells : List Bool) (acc : Nat) : Nat :=
  match cells with
  | x :: _ :: rest => manchesterNat rest (2 * acc + bit01 x)
  | _ => acc

/-- No pair holds two equal cells. -/
def pairsOk (cells : List Bool) : Bool :=
  match cells with
  | x :: y :: rest => (x != y) && pairsOk rest
  | [_] => false
  | [] => true

def wedgeCells (f : ServoSample) : List Bool := fieldCells f 80 24
def trackCells (f : ServoSample) : List Bool := fieldCells f 104 48
def rroCells (f : ServoSample) : List Bool := fieldCells f 224 16

/-- Wedge number of a WEDGE field, and its parity (R325). -/
def wedgeNumber (f : ServoSample) : Nat := manchesterNat (wedgeCells f) 0 / 4
def wedgeParity (f : ServoSample) : Bool :=
  let w := manchesterNat (wedgeCells f) 0
  decide ((popcount 10 (w / 4) + w / 2 % 2) % 2 = 0)

/-- The runout correction of a field; one with two equal cells in a pair has no value in the spec, and a free one here. -/
def rroOf (s : State) (f : ServoSample) : Int × State :=
  if pairsOk (rroCells f) then (sgn 8 (manchesterNat (rroCells f) 0), s)
  else
    let d := draw s
    (sgn 8 d.1.toNat, d.2)

/-- The law of an actuator has a prediction of this sample: from the third execution on (R333). -/
def hasPrediction (s : State) (a : Fin 16) : Bool := automatic (s.act a).st && decide (2 ≤ (s.act a).execs)

/-- The sample of an actuator is valid (R327). In LOAD no wedge number is expected yet. -/
def sampleValid (s : State) (a : Fin 16) (f : ServoSample) : Bool :=
  let x := s.act a
  (samAt f).isSome && pairsOk (wedgeCells f) && pairsOk (trackCells f) && wedgeParity f
    && (x.st = .load || decide (wedgeNumber f = (x.lastWedge + 1) % 640))
    && decide (rf s Reg.radGctl 8 8 ≤ f.a.natAbs + f.b.natAbs)

/-- The track among t − 1, t and t + 1 whose T + x lies nearest to the prediction; t where there is none (R326). -/
def nearestTrack (t : Nat) (x p : Int) : Int :=
  let d := fun (k : Int) => ((k * 65536 + x) - p).natAbs
  let t0 : Int := t
  if d (t0 - 1) < d t0 then t0 - 1 else if d (t0 + 1) < d t0 then t0 + 1 else t0

/-- A demodulated sample: validity, track, measured position. -/
structure Demod where
  valid : Bool
  track : Int
  y : Int

def demodulate (s : State) (a : Fin 16) (f : ServoSample) : Demod × State :=
  let t := grayDecode 23 (manchesterNat (trackCells f) 0)
  let q : Int × State :=
    match burstOffset f.a f.b with
    | some x => (x, s)
    | none =>
      let d := draw s
      ((d.1.toNat % 65537 : Nat) - 32768, d.2)
  let tr := if hasPrediction s a then nearestTrack t q.1 (ypred s a) else (t : Int)
  let r := if rbit s Reg.radGctl 1 then rroOf q.2 f else (0, q.2)
  ({ valid := sampleValid s a f, track := tr, y := tr * 65536 + q.1 + r.1 * 64 }, r.2)

/-- Wedge timing and the run of valid samples after a sample (R327, R343). -/
def noteSample (s : State) (a : Fin 16) (f : ServoSample) (d : Demod) : State :=
  modAct s a fun x => { x with
    lastWedge := if x.st = .load && d.valid then wedgeNumber f else (x.lastWedge + 1) % 640
    acq := if d.valid then ((wedgeNumber f, d.track.toNat) :: x.acq).take 4 else []
    sampleOk := d.valid, ymeas := d.y }

/-- Four samples in a row with consecutive wedge numbers and track numbers within ±64 of one another (R343). -/
def acquired (l : List (Nat × Nat)) : Bool :=
  match l with
  | [p0, p1, p2, p3] =>
    decide (p0.1 = (p1.1 + 1) % 640) && decide (p1.1 = (p2.1 + 1) % 640) && decide (p2.1 = (p3.1 + 1) % 640)
      && decide (max (max p0.2 p1.2) (max p2.2 p3.2) ≤ min (min p0.2 p1.2) (min p2.2 p3.2) + 64)
  | _ => false

/-! ### Transfer to automatic control (R343, R345) -/

/-- The VCM code held in manual (R345): that of MANCUR in MANUAL; in LOAD that of one of the segments that the profile plays,
a free choice, since no time runs. -/
def heldCode (s : State) (a : Fin 16) : Int × State :=
  if (s.act a).st = .load then
    match (s.act a).profile with
    | [] => (0, s)
    | w :: l =>
      let d := draw s
      (code16 ((w :: l).getD (d.1.toNat % (l.length + 1)) w).toNat, d.2)
  else ((s.act a).vcode, s)

/-- r is set to the measured position and TARGET to its track; the first execution presets the law from the manual code. -/
def toAutomatic (s : State) (a : Fin 16) : State :=
  let x := s.act a
  let track := match x.acq with | p :: _ => p.2 | [] => 0
  let u := heldCode s a
  let s := rsetN u.2 (Reg.radTarget a) (track % 2 ^ 24)
  modAct s a fun x => { x with
    st := .settle, r := x.ymeas, goal := (track : Int) * 65536, v := 0, seeking := false, settle := 0, wok := 0, bad := 0
    execs := 0, coefPars := 0, bump := some u.1, profile := [], newBq := 0, stepRes := 0, revMax := 0, revN := 0 }

/-! ### Seek profile (R336) -/

/-- Distance to stop from `v`. -/
def brakeDist (v amax : Int) : Int := (v * (v - amax)).tdiv (2 * amax)

/-- Step of a sample with `rem` still to go. -/
def seekStep (amax vmax rem v : Int) : Int :=
  let vc := min (v + amax) vmax
  let vc := if rem - vc < brakeDist vc amax then v else vc
  let vc := if rem - vc < brakeDist vc amax then max (v - amax) amax else vc
  if rem ≤ vc then rem else vc

/-- One step of the trajectory in SEEK; answers the acceleration term. SETTLE is entered as r reaches the target. -/
def seekAdvance (s : State) (a : Fin 16) : Int × State :=
  let x := s.act a
  let rem : Int := ((x.goal - x.r).natAbs : Int)
  let vc := seekStep (rn s (Reg.radAmax a)) (rn s (Reg.radVmax a)) rem x.v
  let r := if x.r ≤ x.goal then x.r + vc else x.r - vc
  (vc - x.v, modAct s a fun x => { x with r := r, v := vc, st := if r = x.goal then .settle else .seek, settle := 0 })

/-! ### One execution of the law (R330, R331, R345) -/

/-- States in use and the integrator's number; none where there is none (R331). -/
def lawN (s : State) (a : Fin 16) : Nat := rf s (Reg.radLawcfg a) 0 4
def lawInt (s : State) (a : Fin 16) : Option Nat :=
  let i := rf s (Reg.radLawcfg a) 4 4
  if i < lawN s a then some i else none
/-- First word of the active set. -/
def lawBase (s : State) (a : Fin 16) : Nat := if rbit s (Reg.radLawcfg a) 8 then 0x0D8 else 0

/-- Output `o` of the core: C, D and the states. -/
def coreOut (s : State) (a : Fin 16) (o : Nat) (xs : List Int) (u0 u1 : Int) : Int × Bool :=
  let b := lawBase s a
  sop ((List.range (lawN s a)).map (fun j => (coef s a (b + 0xA8 + 12 * o + j), xs.getD j 0))
    ++ [(coef s a (b + 0xCC + 2 * o), u0), (coef s a (b + 0xCD + 2 * o), u1)])

/-- The next value of state `i`. -/
def coreNext (s : State) (a : Fin 16) (i : Nat) (xs : List Int) (u0 u1 : Int) : Int × Bool :=
  let b := lawBase s a
  sop ((List.range (lawN s a)).map (fun j => (coef s a (b + 12 * i + j), xs.getD j 0))
    ++ [(coef s a (b + 0x90 + 2 * i), u0), (coef s a (b + 0x91 + 2 * i), u1)])

/-- One biquad of direct form I: coefficients at word `c`, histories at state word `h`. `fresh` starts the histories at the
input (R335). -/
def biquad (s : State) (a : Fin 16) (c h : Nat) (fresh : Bool) (x : Int) : Int × Bool × State :=
  let i1 := if fresh then x else sword s a h
  let i2 := if fresh then x else sword s a (h + 1)
  let o1 := if fresh then x else sword s a (h + 2)
  let o2 := if fresh then x else sword s a (h + 3)
  let r := sop [(coef s a c, x), (coef s a (c + 1), i1), (coef s a (c + 2), i2), (-(coef s a (c + 3)), o1), (-(coef s a (c + 4)), o2)]
  (r.1, r.2, setSword (setSword (setSword (setSword s a (h + 1) i1) a h x) a (h + 3) o1) a (h + 2) r.1)

/-- The enabled biquads of a chain in ascending index: `en` the enables, `fr` those that start afresh. -/
def biquads (s : State) (a : Fin 16) (c h en fr b n : Nat) (x : Int) : Int × Bool × State :=
  match n with
  | 0 => (x, false, s)
  | n' + 1 =>
    if en.testBit b then
      let q := biquad s a (c + 5 * b) (h + 4 * b) (fr.testBit b) x
      let t := biquads q.2.2 a c h en fr (b + 1) n' q.1
      (t.1, q.2.1 || t.2.1, t.2.2)
    else biquads s a c h en fr (b + 1) n' x

/-- The histories and states with which a transfer from manual enters (R345). -/
def enterLaw (s : State) (a : Fin 16) (um : Int) : State :=
  let s := overList (List.range 12) s fun s j => setSword s a j 0
  let s := overList (List.range 32) s fun s j => setSword s a (16 + j) um
  overList (List.range 32) s fun s j => setSword s a (48 + j) 0

/-- One execution from y and e, with the acceleration of the trajectory. -/
def runLaw (s : State) (a : Fin 16) (y e accel : Int) : State :=
  let x := s.act a
  let n := lawN s a
  let u1 : Int := match x.bump with | some _ => 0 | none => x.mcode * 256
  let s := match x.bump with | some u => enterLaw s a (u * 256) | none => s
  let s := match x.bump, lawInt s a with
    | some u, some i =>
      let vc := (coreOut s a 0 ((List.range n).map fun j => sword s a j) e u1).1
      setSword s a i (sop [(coef s a (lawBase s a + 0xD2), u * 256 - vc)]).1
    | _, _ => s
  let xs := (List.range n).map fun j => sword s a j
  let vc := coreOut s a 0 xs e u1
  let mc := coreOut s a 1 xs e u1
  let yp := coreOut s a 2 xs e u1
  let xn := (List.range n).map fun i => coreNext s a i xs e u1
  let ff := sop [(sgn 24 (rn s (Reg.radFfgain a)), accel)]
  let w0 := vc.1 + ff.1
  let fresh := match x.bump with | some _ => 0 | none => x.newBq.toNat
  let w := biquads s a 0x1B0 16 (rf s (Reg.radLawcfg a) 16 8) (fresh % 256) 0 8 (sat32 w0)
  let m0 := mc.1 + x.stepRes * 256
  let m := biquads w.2.2 a 0x1D8 48 (rf s (Reg.radLawcfg a) 24 8) (fresh / 256) 0 8 (sat32 m0)
  let s := m.2.2
  let v := dacCode w.1 (rf s (Reg.radVcmlim a) 0 16)
  let c := dacCode m.1 (rf s (Reg.radVcmlim a) 16 16)
  let keep := match lawInt s a with | some i => fun j => v.2 && j = i | none => fun _ => false
  let s := overList (List.range n) s fun s j => if keep j then s else setSword s a j ((xn.getD j (0, false)).1)
  let s := setYpred s a (y + yp.1)
  let satL := vc.2 || mc.2 || yp.2 || xn.any (·.2) || ff.2 || sat32Over w0 || sat32Over m0 || w.2.1 || m.2.1
  modAct s a fun x => { x with
    vcode := v.1, mcode := c.1, satV := v.2, satM := c.2, satL := satL, e := e, y := y, execs := x.execs + 1
    bump := none, newBq := 0, stepRes := 0, coefPars := 0 }

/-- RAD cycles of one execution (R323). -/
def lawCycles (s : State) (a : Fin 16) : Nat :=
  let n := lawN s a
  let b := popcount 16 (rf s (Reg.radLawcfg a) 16 16)
  16 + (n * n + 5 * n + 6 + 5 * b + 1) / 2

/-! ### Write inhibit (R341) -/

/-- nSHOCK is active after its filter; a masked input counts as inactive (R545). -/
def shockActive (s : State) : Bool := (vget s.inputs 0).level && !(vget s.inputs 0).masked

/-- The tests of the present sample that do not depend on the sample itself: TRACK before its law, OFFSET zero, no shock. The
present sample counts in those since the shock, as the example of R546 has it. -/
def writeQuiet (s : State) (a : Fin 16) : Bool :=
  decide ((s.act a).st = .track) && decide (rf s (Reg.radOffset a) 0 16 = 0) && rbit s Reg.radGctl 0
    && !shockActive s && decide ((s.act a).shockLeft ≤ 1)

/-- The decision of a sample: SERVO becomes present at a failed test, and absent at the WOKN-th passed sample in a row. -/
def writeInhibit (s : State) (a : Fin 16) (pass : Bool) : State :=
  let track := decide ((s.act a).st = .track)
  let s := modAct s a fun x => { x with shockLeft := x.shockLeft - 1, wok := if pass then x.wok + 1 else 0 }
  let s := if !pass then wusAdd s a .servo
    else if rf s (Reg.radWinh a) 16 8 ≤ (s.act a).wok then wusRemove s a .servo else s
  if track && (vget s.links a).live.contains .servo then rcount s (Reg.radWinhcnt a) 1 else s

/-! ### One wedge -/

/-- The largest |e| of a revolution in TRACK goes to the event recorder (R551). -/
def trackRevolution (s : State) (a : Fin 16) : State :=
  let x := s.act a
  let m := max x.revMax x.e.natAbs
  if x.revN + 1 < 640 then modAct s a fun x => { x with revMax := m, revN := x.revN + 1 }
  else evrPushN (modAct s a fun x => { x with revMax := 0, revN := 0 }) (16 + a.val) m

/-- SETTLE ends in TRACK (R337). -/
def settleTest (s : State) (a : Fin 16) : State :=
  let x := s.act a
  let n := if x.e.natAbs ≤ rf s (Reg.radSettle a) 0 16 then x.settle + 1 else 0
  let s := modAct s a fun x => { x with settle := n }
  if rf s (Reg.radSettle a) 16 8 ≤ n then
    let s := if x.seeking then radIrq s a 0 else s
    modAct s a fun x => { x with st := .track, seeking := false, settle := 0, revMax := 0, revN := 0 }
  else s

/-- A sample of an actuator under automatic control (R324, R330, R333, R341, R348). The number is that of the RAD cycles its
law took. -/
def automaticSample (s : State) (a : Fin 16) (f : ServoSample) (d : Demod) : Nat × State :=
  let st0 := (s.act a).st
  let quiet := writeQuiet s a
  let p := ypred s a
  let plaus := !hasPrediction s a || decide ((d.y - p).natAbs ≤ rf s (Reg.radPlaus a) 0 24)
  let good := d.valid && plaus
  let y := if good then d.y else p
  let s := if good then modAct s a fun x => { x with bad := 0 }
    else rcount (modAct s a fun x => { x with bad := x.bad + 1 }) (Reg.radBadcnt a) 1
  let off := sgn 16 (rf s (Reg.radOffset a) 0 16)
  let e0 := sat32 ((s.act a).r + off - y)
  let s := writeInhibit s a (quiet && good && decide (e0.natAbs ≤ rf s (Reg.radWinh a) 0 16))
  if rf s (Reg.radPlaus a) 28 4 ≤ (s.act a).bad then
    (0, raise (retractEntry s a 1) .rad [a.val] Cap.none)
  else if f.coefPar then
    let n := (s.act a).coefPars + 1
    let s := modAct s a fun x => { x with coefPars := n }
    let s := if 2 ≤ n then retractEntry s a 3 else s
    (0, raise s .rad [32 + a.val] Cap.none)
  else
    let q := if st0 = .seek then seekAdvance s a else (0, s)
    let cyc := lawCycles q.2 a
    let s := runLaw q.2 a y (sat32 ((q.2.act a).r + off - y)) q.1
    let s := if st0 = .settle then settleTest s a else if st0 = .track then trackRevolution s a else s
    (cyc, s)

/-- What a front end counts of a servo field, which it samples in every wedge (R215, R216, R242). -/
def countServo (s : State) (a : Fin 16) (f : ServoSample) : State :=
  rcount (modAfe s a fun x => { x with ampA := f.ampA, ampB := f.ampB }) (Reg.afeSatcnt a) f.sat

/-- The sample of one actuator, whatever its state; answers the cycles of its law. -/
def actSample (s : State) (a : Fin 16) (f : ServoSample) : Nat × State :=
  if !actPresent s a then (0, s)
  else
    let s := countServo s a f
    match (s.act a).st with
    | .parked | .unload | .retract => (0, writeInhibit s a false)
    | .load =>
      let q := demodulate s a f
      let s := writeInhibit (noteSample q.2 a f q.1) a false
      (0, if acquired (s.act a).acq then radIrq (toAutomatic s a) a 1 else s)
    | .manual =>
      let q := demodulate s a f
      (0, writeInhibit (noteSample q.2 a f q.1) a false)
    | .seek | .settle | .track =>
      let q := demodulate s a f
      automaticSample (noteSample q.2 a f q.1) a f q.1

/-- A register that keeps the greatest value of a field. -/
def rmax (s : State) (a n : Nat) : State := if rn s a < n then rsetN s a n else s

/-- SERVO_WEDGE (R322, R324). `demod`: RAD cycles that the demodulation took. -/
def servoWedgeOp (s : State) (lane : Fin 8) (s0 s1 : ServoSample) (demod : Nat) : State :=
  let q0 := actSample s (act0 lane) s0
  let q1 := actSample q0.2 (act1 lane) s1
  let s := rmax (rmax q1.2 Reg.radCycmax q0.1) Reg.radCycmax q1.1
  let s := if q0.1 = 0 then s else rmax s Reg.radLatemax (min 0xFFF (demod + q0.1 + 9))
  if q1.1 = 0 then s else rmax s Reg.radLatemax (min 0xFFF (demod + q0.1 + q1.1 + 9))

def execServoWedge (lane : Fin 8) (s0 s1 : ServoSample) (demod : Nat) (s : State) : Host.Outcome State Fault Refusal :=
  settled (servoWedgeOp s lane s0 s1 demod)

/-! ### Commands (R342, R350) -/

def radIgnored (s : State) (a : Fin 16) : State := rcount s (Reg.radCmdign a) 1

/-- The command queue unit controls the slice that is connected to an actuator (R212, R350). -/
def cquControls (s : State) (a : Fin 16) : Bool :=
  match sliceOfAct s a with
  | none => false
  | some n => !rbit s (Reg.chdCtl n) 1

/-- A command reaches an actuator: it is declared present (R349); with GCTL.EN 0 it is ignored and counted (R628). -/
def radCommand (s : State) (a : Fin 16) (f : State → State) : State :=
  if !actPresent s a then s else if !rbit s Reg.radGctl 0 then radIgnored s a else f s

/-- A spindle is at speed (R360). -/
def atSpeed (s : State) (i : Fin 8) : Bool := (s.spn i).st = .run && (s.spn i).atspeed

/-- The load profile. -/
def loadSegs (s : State) (a : Fin 16) : List Word := playedSegs ((List.range 8).map fun i => BitVec.ofNat 32 (rn s (Reg.radLoadseg a i)))

def loadOp (s : State) (a : Fin 16) : State :=
  radCommand s a fun s =>
    if (s.act a).st = .parked && atSpeed s (spnOf a) then
      let l := loadSegs s a
      modAct s a fun x => { x with
        st := .load, profile := l, vcode := firstCode l, mcode := 0, acq := [], bad := 0, sampleOk := false }
    else radIgnored s a

def execLoad (a : Fin 16) (s : State) : Host.Outcome State Fault Refusal := settled (loadOp s a)

def unloadOp (s : State) (a : Fin 16) : State :=
  radCommand s a fun s =>
    match (s.act a).st with
    | .parked | .retract => radIgnored s a
    | .load | .manual | .seek | .settle | .track | .unload => unloadEntry s a

def execUnload (a : Fin 16) (s : State) : Host.Outcome State Fault Refusal := settled (unloadOp s a)

/-- SEEK (R336): v is 0 at the start of a seek and unchanged where one runs. -/
def seekOp (s : State) (a : Fin 16) (firmware : Bool) : State :=
  radCommand s a fun s =>
    if (firmware && cquControls s a) || !automatic (s.act a).st then radIgnored s a
    else
      modAct s a fun x => { x with
        st := .seek, goal := (rf s (Reg.radTarget a) 0 24 : Int) * 65536, v := if x.st = .seek then x.v else 0, seeking := true, settle := 0 }

def execSeek (a : Fin 16) (firmware : Bool) (s : State) : Host.Outcome State Fault Refusal := settled (seekOp s a firmware)

/-- MANUAL (R342): with KEEP, MANCUR takes the last code of the law that stops; in LOAD none runs. -/
def manualOp (s : State) (a : Fin 16) (keep : Bool) : State :=
  radCommand s a fun s =>
    match (s.act a).st with
    | .load | .seek | .settle | .track =>
      let s := if keep && automatic (s.act a).st then rsetN s (Reg.radMancur a) (unsgn 16 (s.act a).vcode) else s
      let s := modAct s a fun x => { x with
        st := .manual, vcode := code16 (rn s (Reg.radMancur a)), mcode := 0, seeking := false, v := 0, settle := 0, wok := 0
        execs := 0, stepRes := 0, bump := none, profile := [], revMax := 0, revN := 0 }
      notReadAct s a
    | .parked | .manual | .unload | .retract => radIgnored s a

def execManual (a : Fin 16) (keep : Bool) (s : State) : Host.Outcome State Fault Refusal := settled (manualOp s a keep)

def autoOp (s : State) (a : Fin 16) : State :=
  radCommand s a fun s =>
    if (s.act a).st = .manual && (s.act a).sampleOk then toAutomatic s a else radIgnored s a

def execAuto (a : Fin 16) (s : State) : Host.Outcome State Fault Refusal := settled (autoOp s a)

/-- The value of the MA table that is still being added when the next execution comes (R339), a free choice since no time
runs: one of TSTEP0 to TSTEP7, or none yet. -/
def stepResidual (s : State) (a : Fin 16) : Int × State :=
  let d := draw s
  (match fin8.find? fun i => i.val = d.1.toNat % 9 with
    | some i => code16 (rn s (Reg.radTstep a i))
    | none => 0, d.2)

/-- A track step (R338): r and the target move by one track. -/
def stepOp (s : State) (a : Fin 16) (forward firmware : Bool) : State :=
  radCommand s a fun s =>
    if firmware && cquControls s a then radIgnored s a
    else if (s.act a).st = .track then
      let d : Int := if forward then 1 else -1
      let t := rf s (Reg.radTarget a) 0 24
      let m := stepResidual s a
      let s := rfSet m.2 (Reg.radTarget a) 0 24 (unsgn 24 ((t : Int) + d))
      modAct s a fun x => { x with r := x.r + d * 65536, goal := x.goal + d * 65536, stepRes := d * m.1 }
    else rcount s (Reg.radStepign a) 1

def execStepPlus (a : Fin 16) (firmware : Bool) (s : State) : Host.Outcome State Fault Refusal := settled (stepOp s a true firmware)
def execStepMinus (a : Fin 16) (firmware : Bool) (s : State) : Host.Outcome State Fault Refusal := settled (stepOp s a false firmware)

/-- CMD (R350). -/
def radCmdWrite (s : State) (a : Fin 16) (v : Nat) : State :=
  match v % 16 with
  | 1 => loadOp s a
  | 2 => unloadOp s a
  | 3 => seekOp s a true
  | 4 => manualOp s a (v.testBit 4)
  | 5 => autoOp s a
  | 6 => stepOp s a true true
  | 7 => stepOp s a false true
  | _ => s

/-! ### Register writes -/

/-- A write to a register of an absent actuator is ignored (R349). -/
def radPresent (s : State) (a : Fin 16) (f : State → State) : State := when (actPresent s a) s f

/-- TARGET (R342). -/
def targetWriteOp (s : State) (a : Fin 16) (v : Word) : State :=
  radPresent s a fun s =>
    let s := fieldWrite32 s (Reg.radTarget a) v
    let g : Int := (rf s (Reg.radTarget a) 0 24 : Int) * 65536
    modAct s a fun x =>
      match x.st with
      | .track => { x with st := .settle, r := g, goal := g, settle := 0, seeking := false }
      | .settle => { x with r := g, goal := g, settle := 0 }
      | .seek => { x with goal := g }
      | .parked | .load | .manual | .unload | .retract => x

def execTargetWrite (a : Fin 16) (v : Word) (s : State) : Host.Outcome State Fault Refusal := settled (targetWriteOp s a v)

/-- OFFSET (R340): clamped to ±0x4000. -/
def offsetWriteOp (s : State) (a : Fin 16) (v : Word) : State :=
  radPresent s a fun s => rsetN s (Reg.radOffset a) (unsgn 16 (clampInt (-0x4000) 0x4000 (sgn 16 v.toNat)))

def execOffsetWrite (a : Fin 16) (v : Word) (s : State) : Host.Outcome State Fault Refusal := settled (offsetWriteOp s a v)

/-- LAWCFG (R334, R335, R352): a biquad that the write enables starts afresh at its first execution. -/
def lawcfgWriteOp (s : State) (a : Fin 16) (v : Word) : State :=
  radPresent s a fun s =>
    let old := rf s (Reg.radLawcfg a) 16 16
    let s := fieldWrite32 s (Reg.radLawcfg a) v
    let now := rf s (Reg.radLawcfg a) 16 16
    modAct s a fun x => { x with newBq := (x.newBq ||| ~~~(BitVec.ofNat 16 old)) &&& BitVec.ofNat 16 now }

def execLawcfgWrite (a : Fin 16) (v : Word) (s : State) : Host.Outcome State Fault Refusal := settled (lawcfgWriteOp s a v)

def coefficientWriteOp (s : State) (a : Fin 16) (w : Fin 512) (v : Word) : State :=
  radPresent s a fun s => fieldWrite32 s (coefAddr a w.val) v

def execCoefficientWrite (a : Fin 16) (w : Fin 512) (v : Word) (s : State) : Host.Outcome State Fault Refusal :=
  settled (coefficientWriteOp s a w v)

/-- State words (R332): ignored under automatic control. -/
def stateWordWriteOp (s : State) (a : Fin 16) (w : Fin 128) (v : Word) : State :=
  radPresent s a fun s => if automatic (s.act a).st then s else fieldWrite32 s (swordAddr a w.val) v

def execStateWordWrite (a : Fin 16) (w : Fin 128) (v : Word) (s : State) : Host.Outcome State Fault Refusal :=
  settled (stateWordWriteOp s a w v)

/-- UNLDSEGi (R347): the write reaches the copy of the AON domain. -/
def unldsegWriteOp (s : State) (a : Fin 16) (i : Fin 8) (v : Word) : State :=
  radPresent s a fun s =>
    let s := fieldWrite32 s (Reg.radUnldseg a i) v
    { s with pmu := { s.pmu with unldAon := tset 0 s.pmu.unldAon (8 * a.val + i.val) v } }

def execUnldsegWrite (a : Fin 16) (i : Fin 8) (v : Word) (s : State) : Host.Outcome State Fault Refusal :=
  settled (unldsegWriteOp s a i v)

/-- MANCUR: the code that MANUAL drives. -/
def mancurWrite (s : State) (a : Fin 16) (v : Word) : State :=
  radPresent s a fun s =>
    let s := fieldWrite32 s (Reg.radMancur a) v
    modAct s a fun x => if x.st = .manual then { x with vcode := code16 (rn s (Reg.radMancur a)) } else x

/-- VMAX: at least AMAX (R349). -/
def vmaxWrite (s : State) (a : Fin 16) (v : Word) : State :=
  radPresent s a fun s => rsetN s (Reg.radVmax a) (max v.toNat (rn s (Reg.radAmax a)))

/-! ### Profiles (R346, R347) -/

/-- LOAD_PROFILE_END: a load profile that ends before acquisition. -/
def loadProfileEndOp (s : State) (a : Fin 16) : State :=
  when ((s.act a).st = .load) s fun s => raise (retractEntry s a 2) .rad [16 + a.val] Cap.none

def execLoadProfileEnd (a : Fin 16) (s : State) : Host.Outcome State Fault Refusal := settled (loadProfileEndOp s a)

/-- The last head has come to rest: PFSTAT.UNLOADED in a power-fail sequence (R61), and the restart after a fault of rail 0
(R56). -/
def headsAtRest (s : State) : State :=
  if !allParked s then s
  else
    let s := if s.pf.active then rbitSet s Reg.pmuPfstat 1 true else s
    if s.rst.rail0 then
      { s with
        rst := { s.rst with rail0 := false }, boot := if s.pf.active then s.boot else .softStart
        pmu := { s.pmu with overRect := 0, overShort := s.pmu.overShort ||| s.pmu.overRect } }
    else s

/-- UNLOAD_PROFILE_END: the actuator is PARKED. -/
def unloadProfileEndOp (s : State) (a : Fin 16) : State :=
  when ((s.act a).st = .unload || (s.act a).st = .retract) s fun s =>
    let s := modAct s a fun x => { x with st := .parked, vcode := 0, mcode := 0, profile := [] }
    headsAtRest (if s.rst.rail0 then s else spindleParked (radIrq s a 2) (spnOf a))

def execUnloadProfileEnd (a : Fin 16) (s : State) : Host.Outcome State Fault Refusal := settled (unloadProfileEndOp s a)

/-! ### GCTL (R628) -/

/-- A write of GCTL with EN 0: every actuator that is not PARKED retracts with cause 7, and SERVO is present on every link. -/
def gctlWrite (s : State) (v : Word) : State :=
  let s := fieldWrite32 s Reg.radGctl v
  if rbit s Reg.radGctl 0 then s
  else overList fin16 (retractAll s 7) fun s a => wusAdd s a .servo

/-- GCTL_EN_CLEAR: `v` with EN 0. -/
def execGctlEnClear (v : Word) (s : State) : Host.Outcome State Fault Refusal := settled (gctlWrite s (v &&& ~~~1))

/-- GCTL_EN_SET: `v` with EN 1. -/
def execGctlEnSet (v : Word) (s : State) : Host.Outcome State Fault Refusal := settled (gctlWrite s (v ||| 1))

end Sys2Proof.Machine
end

