-- ==== Sys2Proof/Machine/Power.lean ====
section
/-! DEFINITION. Clocks, rails, power fail, resets and start-up (R19, R52–R82, R431, R438, R589, R599). -/

namespace Sys2Proof.Machine

/-! ### The tick (R19, R70) -/

/-- A rail's setpoint in force while it slews at 1 mV/µs (R56). -/
def railTarget (s : State) (r : Fin 6) : Nat :=
  let goal := rf s (Reg.pmuRailctl r) 0 12
  match vget s.pmu.slewFrom r with
  | none => goal
  | some (old, t0) =>
    let moved := (s.tick.toNat - t0) / 100
    if old ≤ goal then min goal (old + moved) else max goal (old - moved)

/-- Slews that have reached their setpoint end. -/
def endSlews (s : State) : State :=
  overList [0, 1, 2, 3, 4, 5] s fun s r =>
    if railTarget s r = rf s (Reg.pmuRailctl r) 0 12 then { s with pmu := { s.pmu with slewFrom := vset s.pmu.slewFrom r none } } else s

/-- CYCLE of each core that is not in reset advances by the 12 clocks of 1.2 GHz in a tick (R448). -/
def coreCycles (s : State) : State :=
  { s with cores := s.cores.map fun (k : CoreSt) => if k.run = .reset then k else { k with cycle := (k.cycle + 12) % 2 ^ 64 } }


/-! ### Holds (R52, R605, R622) -/

/-- Something holds the main die in its chip reset: clock loss, TEMPCRIT, nRESET low, or a test instruction that drives the
pins. -/
def resetHeld (s : State) : Bool :=
  s.rst.clkHold || s.rst.tempHold || s.rst.pinLow || (s.tap.active && drivesPins s.tap.instr)

/-- The chip reset ends where nothing holds it. -/
def releaseIfFree (s : State) : State :=
  if s.rst.inChipReset && !resetHeld s then { s with rst := { s.rst with inChipReset := false } } else s

/-- CLOCK_LOSS (R52): CLKLOSS is raised, the heads are unloaded, the main die is held. Which of crystal and PLL failed the
event does not tell: XTALOK is a free value. -/
def clockLossOp (s : State) : State :=
  let d := draw s
  let s := { d.2 with rst := { d.2.rst with xtalOk := d.1.toNat.testBit 0, pllLock := false, clkHold := true } }
  askReset (raiseCond s .sys 1) .clkloss

def execClockLoss (s : State) : Host.Outcome State Fault Refusal := settled (clockLossOp s)

/-- CLKLOSS_RELEASE (R52). -/
def clklossReleaseOp (s : State) : State :=
  when s.rst.clkHold s fun s =>
    let s := setLive { s with rst := { s.rst with clkHold := false, xtalOk := true, pllLock := true } } .sys 1 false
    releaseIfFree s

def execClklossRelease (s : State) : Host.Outcome State Fault Refusal := settled (clklossReleaseOp s)

/-- NRESET_ASSERT (R66). -/
def nresetAssertOp (s : State) : State := askReset { s with rst := { s.rst with pinLow := true } } .pin

def execNresetAssert (s : State) : Host.Outcome State Fault Refusal := settled (nresetAssertOp s)

/-- NRESET_RELEASE (R605). -/
def nresetReleaseOp (s : State) : State := releaseIfFree { s with rst := { s.rst with pinLow := false } }

def execNresetRelease (s : State) : Host.Outcome State Fault Refusal := settled (nresetReleaseOp s)

/-- A key stands in the upper half of a word. -/
def keyed (v : Word) : Bool := decide (v.toNat / 2 ^ 16 = 0xC4E5)

/-- RSTCTL_CHIP (R77). -/
def rstctlChipOp (s : State) (v : Word) : State := when (keyed v && v.toNat.testBit 0) s fun s => askReset s .soft

def execRstctlChip (v : Word) (s : State) : Host.Outcome State Fault Refusal := settled (rstctlChipOp s v)

/-- CHIP_RESET (R67): in effect when the last head rests on its ramp. -/
def chipResetEvent (s : State) : State :=
  let s := unloadForReset s
  when (s.rst.pending ≠ [] && allParked s) s fun s =>
    let t := chipResetOp s
    releaseIfFree { t with rst := { t.rst with inChipReset := true } }

def execChipReset (s : State) : Host.Outcome State Fault Refusal := settled (chipResetEvent s)

/-! ### Block resets (R68) -/

/-- The block, and the source bit of its instance, that a line number names; none where the write is ignored. -/
def blockOfLine (s : State) (n : Nat) : Option (Blk × Nat) :=
  if h : n < 8 then (if slicePresent s n then some (.chd ⟨n, h⟩, 0) else none)
  else if n < 24 then (if frontPresent s (n - 8) then some (.afe, n - 8) else none)
  else if n = 24 then some (.rad, 0)
  else if n < 33 then (if s.part.is4804 && 29 ≤ n then none else some (.spn, n - 25))
  else if n = 33 then some (.lat, 0) else if n = 34 then some (.fct, 0) else if n = 35 then some (.loc, 0)
  else if n = 36 then some (.cdc, 0) else if n = 37 then some (.cqu, 0) else if n = 38 then some (.hpa, 0)
  else if n = 39 then some (.hpb, 0) else if n = 40 then some (.buf, 0) else if n = 41 then some (.spd, 0)
  else if n = 42 then some (.dma, 0) else if n = 43 then some (.evr, 0) else if n = 44 then some (.cal, 0)
  else if n = 46 then some (.dtm, 0) else if n = 48 then some (.tst, 0) else if n = 50 then some (.mcs, 0)
  else if 64 ≤ n && n < 96 then some (.dma, 0)
  else none

/-- BLOCK_RESET (R68, R77). -/
def blockResetOp (s : State) (v : Word) : State :=
  if keyed v then
    match blockOfLine s (v.toNat % 256) with
    | none => s
    | some (b, bit) => unloadForReset (blockResetOf s b bit)
  else s

def execBlockReset (v : Word) (s : State) : Host.Outcome State Fault Refusal := settled (blockResetOp s v)

/-! ### Watchdog (R70) -/

/-- PERIOD in ticks. -/
def wdtTicks (s : State) : Nat := rf s Reg.sysWdtctl 0 16 * 100000

/-- WDTCTL_WRITE: a change of EN from 0 to 1 loads the count. -/
def wdtctlWriteOp (s : State) (v : Word) : State :=
  let was := rbit s Reg.sysWdtctl 31
  let s := fieldWrite32 s Reg.sysWdtctl v
  if !was && rbit s Reg.sysWdtctl 31 then { s with rst := { s.rst with wdtCount := wdtTicks s } } else s

def execWdtctlWrite (v : Word) (s : State) : Host.Outcome State Fault Refusal := settled (wdtctlWriteOp s v)

/-- WDTKICK. -/
def wdtkickOp (s : State) (v : Word) : State :=
  if v = 0x0000_A5C3 then { s with rst := { s.rst with wdtCount := wdtTicks s } } else s

def execWdtkick (v : Word) (s : State) : Host.Outcome State Fault Refusal := settled (wdtkickOp s v)

/-- WDT_EXPIRE: the count of the enabled watchdog is at zero; WDT and a fixed chip reset. -/
def wdtExpireOp (s : State) : State :=
  when (rbit s Reg.sysWdtctl 31 && decide (s.rst.wdtCount = 0)) s fun s => askReset (raise1 s .sys 2) .wdt

def execWdtExpire (s : State) : Host.Outcome State Fault Refusal := settled (wdtExpireOp s)

/-! ### Gates and rails (R54–R56, R215) -/

/-- GATE_WRITE: the bit of a front end whose actuator is loaded stays clear. -/
def gateWriteOp (s : State) (v : Word) : State :=
  let loaded := fin16.foldl (fun m a => if (s.act a).st = .parked then m else putBit m (8 + a.val) true) 0
  fieldWrite32 s Reg.pmuGate (v &&& ~~~(BitVec.ofNat 32 loaded))

def execGateWrite (v : Word) (s : State) : Host.Outcome State Fault Refusal := settled (gateWriteOp s v)

/-- Range of a rail's setpoint, mV (R55). -/
def railLo (r : Fin 6) : Nat := match r with | 0 => 728 | 1 => 850 | 2 => 1010 | 3 => 300 | 4 => 1140 | 5 => 2500
def railHi (r : Fin 6) : Nat := match r with | 0 => 772 | 1 => 950 | 2 => 1120 | 3 => 570 | 4 => 1260 | 5 => 3600

/-- A setpoint within its range, slewing from the target in force (R55, R56). -/
def setRail (s : State) (r : Fin 6) (mv : Nat) : State :=
  let from_ := railTarget s r
  let goal := clampNat (railLo r) (railHi r) mv
  let s := rsetN s (Reg.pmuRailctl r) goal
  { s with pmu := { s.pmu with slewFrom := vset s.pmu.slewFrom r (if from_ = goal then none else some (from_, s.tick.toNat)) } }

/-- RAILCTL_WRITE. -/
def railctlWriteOp (s : State) (r : Fin 6) (v : Word) : State := setRail s r (v.toNat % 2 ^ 12)

def execRailctlWrite (r : Fin 6) (v : Word) (s : State) : Host.Outcome State Fault Refusal := settled (railctlWriteOp s r v)

def setPgood (s : State) (r : Fin 6) (b : Bool) : State :=
  { s with pmu := { s.pmu with pgood := BitVec.ofNat 6 (putBit s.pmu.pgood.toNat r.val b) } }

/-- Actuators that were not PARKED go on with the retract sequencer of the AON domain while the main die is in power-on
reset (R56, R347). -/
def sequencerGoesOn (before after : State) : State :=
  overList fin16 after fun t a =>
    if (before.act a).st = .parked then t
    else modAct t a fun x => { x with st := .retract, profile := unldSegs before a, vcode := unldFirst before a }

/-- The reaction to a fault of rail 0 (R56): main-die power-on reset at once, the unload by the sequencer, and the restart as
the last head comes to rest. -/
def rail0Fault (s : State) : State :=
  let turns := turningMask s
  let t := sequencerGoesOn s (mainPorOp s false false)
  headsAtRest { t with
    rst := { t.rst with rail0 := true }
    pmu := { t.pmu with overRect := turns, overShort := 0 } }

/-- RAILFAULT. -/
def railfaultOp (s : State) (r : Fin 6) : State :=
  let s := raiseCond (setPgood s r false) .pmu r
  if r = 0 then rail0Fault s else s

def execRailfault (r : Fin 6) (s : State) : Host.Outcome State Fault Refusal := settled (railfaultOp s r)

/-- RAIL_RETURN. -/
def railReturnOp (s : State) (r : Fin 6) : State := setLive (setPgood s r true) .pmu r false

def execRailReturn (r : Fin 6) (s : State) : Host.Outcome State Fault Refusal := settled (railReturnOp s r)

/-! ### Power fail (R61, R64, R82, R377, R414, R627) -/

/-- A descriptor that has not started ends FLUSHED (R627). -/
def flushDesc (s : State) (addr : Nat) : State := writeCtl s masterCqu addr 6

/-- Every descriptor that waits in a queue of R473 ends FLUSHED. -/
def flushQueues (s : State) : State :=
  let qs := s.queues.toList.flatMap id ++ s.cqu.q17.map (·.1)
  let s := { s with queues := Vector.replicate 17 [], cqu := { s.cqu with q17 := [] } }
  overList qs s flushDesc

/-- The slice ends its operation (R627): a READ after the slots already read, with FLUSHED; a WRITE with ENDED, what it has
not written as NOTWRITTEN; a REPLAY runs on. -/
def pfEndOp (s : State) (n : Fin 8) : State :=
  match (s.slice n).op with
  | none => s
  | some o =>
    if o.ended then s
    else if o.d.kind = 1 then modOp s n fun o => { o with ended := true, opres := 6 }
    else if o.d.kind = 2 then
      modOp (endSlots s n o o.done (opSlots o - o.done) 9) n fun o => { o with done := opSlots o, ended := true, opres := 0 }
    else s

/-- POWER_FAIL_DETECT: steps 1 to 4. A further detection waits until step 7 has ended (R64): the input is down again. -/
def powerFailOp (s : State) : State :=
  if s.pf.railsOff then s
  else if s.pf.active then { s with pf := { s.pf with inputOk := false } }
  else
    let s := rbitSet { s with pf := { s.pf with active := true, step3 := true, inputOk := false } } Reg.pmuPfstat 0 true
    let s := countSaveNow (overList fin16 s fun s a => wusAdd s a .pwrfail)
    let s := { s with cqu := { s.cqu with stopped := true }, pmu := { s.pmu with waitQ := [] } }
    let s := overList fin8 (flushQueues s) pfEndOp
    headsAtRest (retractAll (rectifyAll s) 4)

def execPowerFailDetect (s : State) : Host.Outcome State Fault Refusal := settled (powerFailOp s)

/-- PF_FLUSH_DONE (R61): step 6; the power-fail record names the dirty set, which is empty where DIRTYCAP is 0 (R62, R416). -/
def pfFlushDoneOp (s : State) : State :=
  when s.pf.active s fun s =>
    let s := { s with
      obj := { s.obj with pfRecord := some (if rf s Reg.pmuPfctl 8 8 = 0 then [] else s.obj.chunks.filter fun e => e.2.staged) }
      fct := { s.fct with jFlash := s.fct.jseq } }
    rbitSet s Reg.pmuPfstat 2 true

def execPfFlushDone (s : State) : Host.Outcome State Fault Refusal := settled (pfFlushDoneOp s)

/-- PF_HOLDUP_EXPIRE (R61, R64): step 7. Every winding is shorted, every rail removed, the main die in power-on reset; what
was asked for during the sequence waits no longer. -/
def pfHoldupOp (s : State) : State :=
  when s.pf.active s fun s =>
    let back := s.pf.inputOk
    let t := sequencerGoesOn s (mainPorOp s false true)
    { t with
      boot := if back then .softStart else .off
      rst := { t.rst with pending := s.rst.deferred }
      pf := { PfSt.reset with railsOff := !back, inputOk := back }
      pmu := { t.pmu with overRect := 0, overShort := 0xFF, pgood := 0 } }

def execPfHoldupExpire (s : State) : Host.Outcome State Fault Refusal := settled (pfHoldupOp s)

/-- INPUT_RETURN (R64): RESTORED during the sequence; after step 7 start-up runs from step 2. -/
def inputReturnOp (s : State) : State :=
  if s.pf.active then rbitSet { s with pf := { s.pf with inputOk := true } } Reg.pmuPfstat 3 true
  else if s.pf.railsOff then { s with pf := { s.pf with railsOff := false, inputOk := true }, boot := .softStart }
  else { s with pf := { s.pf with inputOk := true } }

def execInputReturn (s : State) : Host.Outcome State Fault Refusal := settled (inputReturnOp s)

/-- MAIN_POR (R66): VDD low keeps the AON domain; VIO_A low does not. -/
def mainPorEvent (s : State) (vio : Bool) : State :=
  let t := mainPorOp s vio false
  if vio then { t with pmu := { t.pmu with pgood := 0 } }
  else { t with boot := if t.pf.active then .off else .softStart, pmu := { t.pmu with pgood := 0 } }

def execMainPor (vio : Bool) (s : State) : Host.Outcome State Fault Refusal := settled (mainPorEvent s vio)

/-! ### Start-up (R71–R79) -/

/-- POWER_ON: step 1 on. -/
def powerOnOp (s : State) : State :=
  when (s.boot = .off && !s.pf.railsOff) s fun s => { s with boot := .softStart }

def execPowerOn (s : State) : Host.Outcome State Fault Refusal := settled (powerOnOp s)

/-- The checkers of the scratchpad test themselves (R438): a failing bank raises STFAIL, drives nFAULT and stops the boot. -/
def spdSelfTest (s : State) (fail : BitVec 4) : State :=
  let s := rfSet s Reg.sysBootstat 0 8 7
  let s := { s with ms := { s.ms with spdTestDone := true, spdTestFail := fail }, boot := .resetReleased }
  if fail = 0 then s else { raise1 (rbitSet s (aFmask .spd) (8 + 3) true) .spd 3 with boot := .halted }

/-- RAILS_GOOD: steps 5 to 7; no rail is outside its band any more. After a chip reset start-up resumes with the self-test of step 7. -/
def railsGoodOp (s : State) (fail : BitVec 4) : State :=
  if s.boot = .softStart then
    let s := overList [0, 1, 2, 3, 4, 5] s fun s r => setLive s .pmu r false
    spdSelfTest { s with
      tick := 0, pmu := { s.pmu with pgood := 0x3F }, rst := { s.rst with xtalOk := true, pllLock := true }
      cores := vset s.cores 0 (CoreSt.reset .running) } fail
  else when (s.boot = .resetReleased && !s.ms.spdTestDone && !s.rst.inChipReset) s fun s => spdSelfTest s fail

def execRailsGood (fail : BitVec 4) (s : State) : Host.Outcome State Fault Refusal := settled (railsGoodOp s fail)

/-- BOOT_VERDICT (R72): slot A, else slot B; with both failing core 0 halts, SIGFAIL drives nFAULT and the ports go on
answering Request Retry Status. -/
def bootVerdictOp (s : State) (aOk bOk : Bool) : State :=
  when (s.boot = .resetReleased) s fun s =>
    let s := rfSet s Reg.sysBootstat 0 8 9
    let s := rbitSet s Reg.sysBootstat 9 (!aOk)
    let s := rbitSet s Reg.sysBootstat 8 (!aOk)
    let s := rbitSet s Reg.sysBootstat 10 (!aOk && !bOk)
    if aOk || bOk then { s with boot := .imageVerified }
    else
      let s := modCore s 0 fun k => { k with run := .halted }
      { raise1 s .sys 3 with boot := .halted }

def execBootVerdict (aOk bOk : Bool) (s : State) : Host.Outcome State Fault Refusal := settled (bootVerdictOp s aOk bOk)

/-! #### The configuration block (R73–R76) -/

/-- First logical byte of the configuration block in the Datum flash (R579): logical sector 1,024. -/
def cfgBase : Nat := 1024 * 4096

/-- The block as the Datum die holds it; flash that nothing has written reads 0xFF. -/
def cfgBytes (s : State) (off n : Nat) : List Byte := (List.range n).map fun i => tget (0xFF : Byte) s.datum.bytes (cfgBase + off + i)

def cfgNat (s : State) (off n : Nat) : Nat := ofBytes (cfgBytes s off n)

/-- LENGTH where the header is good, 0 where it is bad (R73). -/
def cfgLength (s : State) : Nat :=
  let l := cfgNat s 6 2
  if cfgNat s 0 4 = 0x4243_4841 && 0x36 ≤ l && l ≤ 0x1000 && crc32 (cfgBytes s 0xC (l - 0xC)) = cfgNat s 8 4 then l else 0

/-- A field as the block gives it: none beyond LENGTH (R74). -/
def cfgField (s : State) (len off n : Nat) : Option Nat := if off + n ≤ len then some (cfgNat s off n) else none

/-- A numeric field (R75), and whether it was changed or absent. -/
def numField (lo hi dflt : Nat) (v : Option Nat) : Nat × Bool :=
  match v with
  | none => (dflt, true)
  | some x => (clampNat lo hi x, decide (clampNat lo hi x ≠ x))

/-- An enumerated field of `n` codes. -/
def enumField (n dflt : Nat) (v : Option Nat) : Nat × Bool :=
  match v with
  | none => (dflt, true)
  | some x => if x < n then (x, false) else (dflt, true)

/-- A mask that may hold the bits of `allow`. -/
def maskField (allow dflt : Nat) (v : Option Nat) : Nat × Bool :=
  match v with
  | none => (dflt &&& allow, true)
  | some x => (x &&& allow, decide (x &&& allow ≠ x))

def dramField (v : Option Nat) : Nat × Bool :=
  match v with
  | none => (8, true)
  | some x =>
    let y := if 32 ≤ x then 32 else if 16 ≤ x then 16 else if 8 ≤ x then 8 else 4
    (y, decide (y ≠ x))

/-- PARITY as (k, m) for `n` spindles present (R75). -/
def parityField (is4804 : Bool) (n : Nat) (v : Option Nat) : (Nat × Nat) × Bool :=
  let d := if is4804 then (2, 2) else (6, 2)
  let dflt := if n = 0 then (0, 0) else if d.1 + d.2 ≤ n then d else (n - min 2 (n - 1), min 2 (n - 1))
  match v with
  | none => (dflt, true)
  | some x =>
    let k := x % 16
    let m := x / 16 % 16
    if 1 ≤ k && k ≤ 7 && m ≤ 2 && k + m ≤ n then ((k, m), false) else (dflt, true)

/-- Actuators of the spindles of a mask. -/
def actsOfSpindles (m : Nat) : Nat := (List.range 16).foldl (fun v a => if m.testBit (a / 2) then putBit v a true else v) 0

/-- The numeric fields of index 7 to 16, in order: offset, size, least, greatest, default. -/
def cfgNumbers (is4804 : Bool) : List (Nat × Nat × Nat × Nat × Nat) :=
  [(0x18, 2, 300, 4000, 1500), (0x1A, 2, 50, 1000, 400), (0x1C, 2, 50, 400, 240), (0x1E, 2, 20, 200, 90),
   (0x20, 1, 1, if is4804 then 4 else 8, 2), (0x21, 1, 10, 100, 30), (0x22, 2, 0, 192, 192), (0x24, 2, 900, 1140, 1020),
   (0x26, 2, 300, 1200, 600), (0x28, 1, 1, 30, 7)]

/-- The rails' default setpoints, mV. -/
def railDefault (r : Fin 6) : Nat := match r with | 0 => 750 | 1 => 900 | 2 => 1050 | 3 => 500 | 4 => 1200 | 5 => 3300

/-- What a load of the block gives: the configuration, the ten numbers, the six rails, the field report. -/
structure CfgLoad where
  conf : Conf
  nums : List (Nat × Bool)
  rails : List (Nat × Bool)
  report : List Bool
  bad : Bool

def cfgParse (s : State) : CfgLoad :=
  let is4 := s.part.is4804
  let len := cfgLength s
  let f := cfgField s len
  let sp := maskField (partSpindles s) (partSpindles s) (f 0x10 1)
  let rpm := enumField 2 1 (f 0x11 1)
  let ac := maskField (actsOfSpindles sp.1) (if is4 then 0x0055 else 0x5555) (f 0x12 2)
  let dr := dramField (f 0x14 1)
  let hc := enumField 2 0 (f 0x15 1)
  let mr := enumField 6 5 (f 0x16 1)
  let pa := parityField is4 (popcount 8 sp.1) (f 0x17 1)
  let nums := (cfgNumbers is4).map fun e => numField e.2.2.1 e.2.2.2.1 e.2.2.2.2 (f e.1 e.2.1)
  let rails := ([0, 1, 2, 3, 4, 5] : List (Fin 6)).map fun r => numField (railLo r) (railHi r) (railDefault r) (f (0x2A + 2 * r.val) 2)
  { conf := { spindles := BitVec.ofNat 8 sp.1, rpm7200 := decide (rpm.1 = 1), actuators := BitVec.ofNat 16 ac.1, dramGib := dr.1
              hostcfg1 := decide (hc.1 = 1), maxRate := mr.1, k := pa.1.1, m := pa.1.2
              handover := (nums.getD 8 (600, false)).1, patrolDays := (nums.getD 9 (7, false)).1 }
    nums := nums, rails := rails
    report := [sp.2, rpm.2, ac.2, dr.2, hc.2, mr.2, pa.2] ++ nums.map (·.2) ++ rails.map (·.2)
    bad := decide (len = 0) }

/-- CLAMPRPT of a report, and CLAMPINFO (R76, R79). -/
def clampRpt (l : List Bool) : Nat :=
  match l with
  | [] => 0
  | b :: rest => bit01 b + 2 * clampRpt rest
def clampFirst (l : List Bool) : Nat :=
  match l with
  | [] => 0
  | b :: rest => if b || !rest.any id then 0 else 1 + clampFirst rest
def clampInfo (l : List Bool) (bad : Bool) : Nat :=
  (l.filter id).length + clampFirst l * 256 + b2n bad 31

/-- The report stored in the voted CLAMP group by the loader (R435). -/
def storeClamp (s : State) (l : List Bool) (bad : Bool) : State :=
  (busWrite s masterConf 0x10_001F_FF00 (toBytes 8 (clampRpt l) ++ toBytes 4 (clampInfo l bad) ++ zeros 52)).2

/-- The PMU fields in force after a main-die power-on reset (R71, step 10). -/
def applyPmu (s : State) (c : CfgLoad) : State :=
  let n := fun i => (c.nums.getD i (0, false)).1
  let s := rsetN s Reg.pmuBudget (n 0)
  let s := rsetN s Reg.pmuBasew (n 1)
  let s := rsetN s Reg.pmuSpinpwr (n 2 + n 3 * 2 ^ 16)
  let s := rsetN s Reg.pmuMaxspinup (n 4)
  let s := rsetN s Reg.pmuPfctl (n 5 + n 6 * 2 ^ 8 + n 7 * 2 ^ 16)
  overList ([0, 1, 2, 3, 4, 5] : List (Fin 6)) s fun s r => setRail s r (c.rails.getD r.val (0, false)).1

/-- OPSEC and PCYC loaded after a main-die power-on reset (R552): those that a CFGREAD with FRESH has returned, else those that
the load's own request returns. -/
def loadCounters (s : State) : State :=
  let q : (Nat × Nat) × State :=
    match s.datum.cfgFresh with
    | some p => (p, { s with datum := { s.datum with cfgFresh := none } })
    | none =>
      let n := norDraw s
      freshCounters n.2 n.1
  { q.2 with evr := { q.2.evr with opsec := q.1.1, pcyc := q.1.2 } }

/-- CONFIG_LOAD (R71 step 10, R73–R76, R599): the counters are loaded after a main-die power-on reset and saved after a chip
reset. -/
def configLoadOp (s : State) : State :=
  when (s.boot = .imageVerified) s fun s =>
    let c := cfgParse s
    let s := writeWindows { s with conf := c.conf, boot := .configLoaded }
    let s := storeClamp (rfSet s Reg.sysBootstat 0 8 10) c.report c.bad
    if s.rst.fresh then { loadCounters (applyPmu s c) with rst := { s.rst with fresh := false } } else countSaveNow s

def execConfigLoad (s : State) : Host.Outcome State Fault Refusal := settled (configLoadOp s)

/-- DRAM_TRAINING_DONE (R75, R425, R438, R445): DRAMGIB is lowered to the capacity found; training that finds none has
not completed (TRAINFAIL); a checker that fails its test stops the boot. -/
def dramTrainingOp (s : State) (gib rate : Nat) (checkerOk : Bool) : State :=
  when (s.boot = .configLoaded) s fun s =>
    let s := rfSet s Reg.sysBootstat 0 8 11
    if gib = 0 then raise1 s .buf 2 else
    let s := { s with
      conf := { s.conf with dramGib := min s.conf.dramGib gib }
      ms := { s.ms with gib := gib, rate := rate, bufTestDone := true, bufTestFail := !checkerOk, init := checkerOk }
      boot := .trained }
    if checkerOk then s else { raise1 (rbitSet s (aFmask .buf) (8 + 1) true) .buf 1 with boot := .halted }

def execDramTrainingDone (gib rate : Nat) (checkerOk : Bool) (s : State) : Host.Outcome State Fault Refusal :=
  settled (dramTrainingOp s gib rate checkerOk)

/-- The buffer's bytes, all zero and free of errors (R427). -/
def zeroBuffer (s : State) : State :=
  { s with
    mem := s.mem.filter fun e => 0x10_0000_0000 ≤ e.1
    ms := { s.ms with ecc := s.ms.ecc.filter fun e => 0x1_0000_0000 ≤ e.1 } }

/-- BUF_INIT_DONE (R427). -/
def bufInitOp (s : State) : State :=
  when (s.boot = .trained) s fun s =>
    let s := zeroBuffer (rfSet s Reg.sysBootstat 0 8 12)
    { s with ms := { s.ms with ready := true, init := false }, boot := .bufferReady }

def execBufInitDone (s : State) : Host.Outcome State Fault Refusal := settled (bufInitOp s)

/-- HOSTRDY_SET (R69, R71). -/
def hostrdyOp (s : State) : State :=
  let s := rbitSet s Reg.sysBootctl 0 true
  if s.boot = .bufferReady then { rfSet s Reg.sysBootstat 0 8 14 with boot := .hostReady } else s

def execHostrdySet (s : State) : Host.Outcome State Fault Refusal := settled (hostrdyOp s)

end Sys2Proof.Machine
end

