-- ==== Sys2Proof/Machine/Datum.lean ====
section
/-! DEFINITION. The requests of the Datum die, its own events, its port and the mailbox (R567–R601). -/

namespace Sys2Proof.Machine

/-! ### Contents of the logical sectors (R586, R591, R594, R599) -/

/-- Bytes of the calibration row that the layout of R579 lists, beside its magic and its CRC. -/
def calListed (i : Nat) : Bool := (decide (4 ≤ i) && decide (i < 0xA)) || (decide (0x10 ≤ i) && decide (i ≤ 0x2A0))
/-- ASCII "CROW". -/
def calMagic : List Byte := [0x43, 0x52, 0x4F, 0x57]
/-- A byte before the CRC. -/
def calByte (i : Nat) : Byte := if i < 4 then calMagic.getD i 0 else if calListed i then Config.calRow i else 0

/-- The calibration row (R579): bytes not listed are zero and its CRC passes; a damaged one is as it is. -/
def calBytes : List Byte :=
  if Config.calRowOk then
    let b := (List.range 0x7FC).map calByte
    b ++ toBytes 4 (crc32c b)
  else (List.range 2048).map Config.calRow

/-- A rule record. -/
def ruleBytes (r : Rule) : List Byte :=
  [BitVec.ofNat 8 r.st, BitVec.ofNat 8 (bit01 r.nswide + 2 * bit01 r.hold), BitVec.ofNat 8 r.nsslot,
   (match r.window with | some n => BitVec.ofNat 8 n.val | none => 0xFF)] ++ zeros 4
    ++ toBytes 8 (r.handle % 2 ^ 40) ++ toBytes 8 r.first ++ toBytes 8 r.last ++ toBytes 8 r.until_ ++ toBytes 8 r.created
    ++ toBytes 8 r.cseq ++ zeros 8

/-- An entry of the chain. -/
def chainBytes (e : ChainEnt) : List Byte :=
  toBytes 8 e.seq ++ toBytes 8 e.time ++ [BitVec.ofNat 8 e.op, BitVec.ofNat 8 e.key.length, BitVec.ofNat 8 e.nsslot, 0]
    ++ toBytes 4 e.nsid ++ toBytes 8 (e.handle % 2 ^ 40 ) ++ toBytes 8 e.first ++ toBytes 8 e.last
    ++ (e.key ++ zeros 16).take 16

/-- H(0) of the chain: SHA-384 of "ALHORN LEDGER" joined with BRICKID. -/
def chainH0 : List Byte :=
  sha384 ([0x41, 0x4C, 0x48, 0x4F, 0x52, 0x4E, 0x20, 0x4C, 0x45, 0x44, 0x47, 0x45, 0x52] ++ brickId)

/-- The chain hash after a list of entries. -/
def chainHash (h : List Byte) (l : List ChainEnt) : List Byte := l.foldl (fun h e => sha384 (h ++ chainBytes e)) h

/-- The hash before the oldest entry held. -/
def chainStart (d : DatumSt) : List Byte := if d.chainBase = [] then chainH0 else d.chainBase

/-- Number of the chain sector of an entry, counted without end. -/
def chainSector (seq : Nat) : Nat := (seq - 1) / 63

/-- No chain sector has erased bytes for the next entry: the oldest of the 1,280 still holds an entry that nobody has
acknowledged, so it may not be erased (R594, R595). -/
def chainFull (d : DatumSt) : Bool := decide (1280 ≤ chainSector d.chainSeq - d.chainAck / 63)

/-- A counter record. -/
def counterBytes (r : Nat × Nat × Nat) : List Byte :=
  let b := toBytes 8 r.1 ++ toBytes 8 r.2.1 ++ toBytes 4 r.2.2 ++ zeros 8
  b ++ toBytes 4 (crc32c b)

/-- An entry of KEYS. -/
def keyBytes (k : MKey) : List Byte :=
  if k.draw = 0 then List.replicate 64 0xFF
  else [BitVec.ofNat 8 k.epoch, 1] ++ zeros 6 ++ (Config.wrapKey k.draw ++ zeros 40).take 40 ++ zeros 16

/-- Bytes brought to a sector's length with erased ones. -/
def padSector (b : List Byte) : List Byte := (b ++ List.replicate (4096 - b.length) 0xFF).take 4096

/-- The content of a logical sector. STATE and EVREC have no layout in the spec: their bytes are free. -/
def logicalContent (s : State) (l : Nat) : List Byte × State :=
  let d := s.datum
  if l = 1025 then (padSector ((List.range 64).flatMap fun i => keyBytes (tget MKey.none d.keys i)), s)
  else if l = 1027 then (padSector (d.counters.reverse.flatMap counterBytes), s)
  else if l = 1026 || l = 1028 then drawBytes s 4096
  else if 1536 ≤ l && l < 2560 then
    (padSector ((List.range 64).flatMap fun i => ruleBytes (tget Rule.free d.rules (64 * (l - 1536) + i))), s)
  else if 2560 ≤ l && l < 3840 then
    let es := d.chain.filter fun e => chainSector e.seq % 1280 = l - 2560
    match es with
    | [] => (padSector [], s)
    | e :: _ =>
      let h := chainHash (chainStart d) (d.chain.filter fun x => x.seq < e.seq || chainSector x.seq = chainSector e.seq)
      let body := es.flatMap chainBytes
      (body ++ List.replicate (0xFC0 - body.length) 0xFF ++ (h ++ zeros 48).take 48 ++ toBytes 8 e.seq ++ List.replicate 8 0xFF, s)
  else ((List.range 4096).map fun i => tget (0xFF : Byte) d.bytes (4096 * l + i), s)

/-- Plain bytes of logical sectors set. -/
def flashPut (m : SMap Byte) (a : Nat) (bs : List Byte) : SMap Byte :=
  match bs with
  | [] => m
  | b :: rest => flashPut (tset (0xFF : Byte) m a b) (a + 1) rest

/-! ### Mailbox (R596, R598, R601) -/

/-- Codes of R596. -/
def requestCodes : List Nat :=
  [0x01, 0x02, 0x03, 0x04, 0x10, 0x11, 0x12, 0x20, 0x21, 0x22, 0x30, 0x31, 0x32, 0x40, 0x41, 0x42, 0x43, 0x44, 0x50, 0x51, 0x52,
   0x60, 0x61, 0x62, 0x70, 0x71, 0x80]

/-- Those that the table allows at the port. -/
def portCodes : List Nat := [0x10, 0x12, 0x31, 0x32, 0x40, 0x41, 0x42, 0x43, 0x50, 0x52, 0x61, 0x71, 0x80, 0x90]

/-- MAILBOX_DOOR: ignored while BUSY; a code that the table does not list for the mailbox is answered BADCMD. -/
def mailboxDoorOp (s : State) (v : Word) : State :=
  when (keyed v && v.toNat.testBit 0 && !s.dtm.busy) s fun s =>
    let s := modDatum { s with dtm := { s.dtm with busy := true } } fun d => { d with mboxRes := none }
    if mailboxUp s && !requestCodes.contains (reqCmd s) then answer s .mailbox (reqCmd s) 1 [] else s

def execMailboxDoor (v : Word) (s : State) : Host.Outcome State Fault Refusal := settled (mailboxDoorOp s v)

/-- The response in RESP, 64 words. -/
def putResp (s : State) (f : List Byte) : State :=
  overList (List.range 64) s fun s i => rsetN s (Reg.dtmResp i) (ofBytes ((f.drop (4 * i)).take 4))

/-- A request of the mailbox ends: BUSY clears and DONE is set. -/
def endRequest (s : State) : State := rbitSet { s with dtm := { s.dtm with busy := false } } Reg.dtmIrqstat 0 true

/-- MAILBOX_RESPONSE. -/
def mailboxResponseOp (s : State) : State :=
  match s.datum.mboxRes with
  | none => s
  | some f =>
    if s.dtm.busy then
      let s := modDatum (putResp s f) fun d => { d with mboxRes := none }
      endRequest { s with dtm := { s.dtm with linkUp := true } }
    else s

def execMailboxResponse (s : State) : Host.Outcome State Fault Refusal := settled (mailboxResponseOp s)

/-- MAILBOX_TIMEOUT: result 0xFF, LINKLOST. -/
def mailboxTimeoutOp (s : State) : State :=
  when s.dtm.busy s fun s =>
    let s := modDatum (putResp s (respFrame (reqCmd s) 0xFF [])) fun d => { d with mboxRes := none }
    raise1 (endRequest { s with dtm := { s.dtm with linkUp := false } }) .dtm 0

def execMailboxTimeout (s : State) : Host.Outcome State Fault Refusal := settled (mailboxTimeoutOp s)

/-! ### Boot images and firmware slots (R588–R590) -/

/-- Judgement of a signed image against its floor (R588–R590): 0 good, 1 header wrong, 2 signature fails, 11 below the
floor. -/
def judge (img : ImageInfo) (floor : Nat) : Nat :=
  if !img.headerOk || img.length % 64 ≠ 0 || img.loadoff % 64 ≠ 0 || 0x1F_FE00 < img.loadoff + img.length
      || img.code.length ≠ img.length then 1
  else if img.build < floor then 11
  else if !img.sigOk then 2
  else 0

/-- A floor raised. -/
def raiseFloor (s : State) (k : Fin 3) (build : Nat) : State :=
  stateRewrite (modDatum s fun d => { d with floors := vmod d.floors k (Nat.max build) })

/-- The code of an image streamed into scratchpad bank 0 (R589). -/
def streamImage (s : State) (img : ImageInfo) : State :=
  if img.headerOk && img.loadoff + img.length ≤ 0x1F_FE00 then
    (busWrite s masterBoot (spdBase 0 + img.loadoff) (img.code.take img.length)).2
  else s

/-- BOOTREQ (R589): slot A, then slot B; the response gives the slot used and ENTRY. Of start-up it is step 8 (R71). -/
def bootreqOp (s : State) (a b : ImageInfo) : State :=
  serve s .mailbox 0x01 { port := false, write := false, ledger := false } fun s =>
    let s := if s.boot = .resetReleased then rfSet s Reg.sysBootstat 0 8 8 else s
    let floor := vget s.datum.floors 0
    let s := streamImage s a
    let used := fun (s : State) n => modDatum s fun d => { d with bootSlot := n }
    if judge a floor = 0 then (0, BitVec.ofNat 8 0 :: toBytes 4 a.entry, used s 1)
    else
      let s := streamImage s b
      if judge b floor = 0 then (0, BitVec.ofNat 8 1 :: toBytes 4 b.entry, used s 2)
      else (if judge b floor = 1 then 2 else judge b floor, [], s)

def execBootreq (a b : ImageInfo) (s : State) : Host.Outcome State Fault Refusal := settled (bootreqOp s a b)

/-- Verdict on a microcode image (R496, R590): kind 1 under the vendor key, kind 2 under the customer key; the status of
VERIFY. -/
def judgeMicrocode (s : State) (kind build : Nat) (sigOk : Bool) : Nat :=
  if kind = 2 && s.datum.cmc = none then 4
  else if !sigOk then 2
  else if build < vget s.datum.floors (if kind = 1 then 1 else 2) then 11
  else 0

/-- DATUM_VERIFY. -/
def datumVerifyOp (s : State) (kind build : Nat) (sigOk floor : Bool) : State :=
  serve s .mailbox 0x02 { port := false, write := floor, ledger := false } fun s =>
    if kind = 1 || kind = 2 then
      let r := judgeMicrocode s kind build sigOk
      (r, [], if r = 0 && floor then raiseFloor s (if kind = 1 then 1 else 2) build else s)
    else (1, [], s)

def execDatumVerify (kind build : Nat) (sigOk floor : Bool) (s : State) : Host.Outcome State Fault Refusal :=
  settled (datumVerifyOp s kind build sigOk floor)

/-- First byte of a firmware slot, of 512 logical sectors (R573). -/
def slotBase (slot : Nat) : Nat := slot * 512 * 4096

/-- A firmware slot erased: its sectors hold no copy any more. -/
def eraseSlot (s : State) (slot : Nat) : State :=
  modDatum s fun d =>
    { d with
      bytes := d.bytes.filter fun e => e.1 < slotBase slot || slotBase (slot + 1) ≤ e.1
      sectors := d.sectors.map fun e =>
        if e.2.st = .valid && e.2.logical / 512 = slot then (e.1, { e.2 with st := .erasing }) else e }

/-- Each sector of a span programmed, in a new copy where it holds none. -/
def programSpan (s : State) (l n : Nat) (e : NorEv) : State :=
  match n with
  | 0 => s
  | n' + 1 => programSpan (norAppend s l e) (l + 1) n' { e with fail := false, pulses := [] }

/-- What the die does for FWWRITE (R590): its result, and the state. -/
def writeSlot (s : State) (slot offset : Nat) (bytes : List Byte) (e : NorEv) : Nat × List Byte × State :=
  if 2 ≤ slot || 512 * 4096 < offset + bytes.length || bytes = [] then (10, [], s)
  else
    let s := if offset = 0 then eraseSlot s slot else s
    let a := slotBase slot + offset
    let s := programSpan s (a / 4096) ((a + bytes.length - 1) / 4096 - a / 4096 + 1) e
    (0, [], modDatum s fun d => { d with bytes := flashPut d.bytes a bytes })

/-- FWWRITE. -/
def fwwriteOp (s : State) (slot offset : Nat) (bytes : List Byte) (e : NorEv) : State :=
  serve s .mailbox 0x03 { port := false, write := true, ledger := false } fun s => writeSlot s slot offset bytes e

def execFwwrite (slot offset : Nat) (bytes : List Byte) (e : NorEv) (s : State) : Host.Outcome State Fault Refusal :=
  settled (fwwriteOp s slot offset bytes e)

/-- What the die does for FWCOMMIT (R590): a slot that fails stays as written. -/
def commitSlot (s : State) (slot : Nat) (floor : Bool) (img : ImageInfo) : Nat × List Byte × State :=
  if 2 ≤ slot then (10, [], s)
  else
    let j := judge img (vget s.datum.floors 0)
    if j = 0 then (0, [], if floor then raiseFloor s 0 img.build else s)
    else (if j = 1 then 2 else j, [], s)

/-- FWCOMMIT. -/
def fwcommitOp (s : State) (slot : Nat) (floor : Bool) (img : ImageInfo) : State :=
  serve s .mailbox 0x04 { port := false, write := floor, ledger := false } fun s => commitSlot s slot floor img

def execFwcommit (slot : Nat) (floor : Bool) (img : ImageInfo) (s : State) : Host.Outcome State Fault Refusal :=
  settled (fwcommitOp s slot floor img)

/-! ### Configuration and calibration (R579, R596, R599) -/

/-- CFGREAD: the block; with FRESH from the mailbox, OPSEC and PCYC + 1 before it, and the windows of rules still
SWEEPING are written first (R592). -/
def cfgreadOp (s : State) (src : ReqSrc) (fresh : Bool) : State :=
  serve s src 0x10 { port := true, write := false, ledger := false } fun s =>
    let blk := fun (t : State) => cfgBytes t 0 (if cfgLength t = 0 then 0x36 else cfgLength t)
    if src = .port then (0, blk s, s)
    else
      let s := writeWindows s
      if fresh then
        let n := norDraw s
        let q := freshCounters n.2 n.1
        (0, toBytes 8 q.1.1 ++ toBytes 4 q.1.2 ++ blk q.2, modDatum q.2 fun d => { d with cfgFresh := some q.1 })
      else (0, blk s, s)

def execCfgread (src : ReqSrc) (fresh : Bool) (s : State) : Host.Outcome State Fault Refusal := settled (cfgreadOp s src fresh)

/-- CFGWRITE: the block rewritten, effective at the next start-up. -/
def cfgwriteOp (s : State) (src : ReqSrc) (bytes : List Byte) (e : NorEv) : State :=
  serve s src 0x11 { port := false, write := true, ledger := false } fun s =>
    (0, [], modDatum (norRewrite s 1024 e) fun d => { d with bytes := flashPut d.bytes cfgBase (bytes.take 4096) })

def execCfgwrite (src : ReqSrc) (bytes : List Byte) (e : NorEv) (s : State) : Host.Outcome State Fault Refusal :=
  settled (cfgwriteOp s src bytes e)

/-- CALREAD: the calibration row. -/
def calreadOp (s : State) (src : ReqSrc) : State :=
  serve s src 0x12 { port := true, write := false, ledger := false } fun s => (0, calBytes, s)

def execCalread (src : ReqSrc) (s : State) : Host.Outcome State Fault Refusal := settled (calreadOp s src)

/-! ### Keys (R584, R586, R587) -/

/-- KEYLOAD: only the current epoch's key, over the key link. -/
def keyloadOp (s : State) (slot : Fin 64) (epoch : Nat) : State :=
  serve s .mailbox 0x20 { port := false, write := false, ledger := false } fun s =>
    let k := tget MKey.none s.datum.keys slot.val
    if k.draw = 0 || k.epoch ≠ epoch then (10, [], s)
    else (0, [], modDatum s fun d => { d with loaded := tset MKey.none d.loaded slot.val k })

def execKeyload (slot : Fin 64) (epoch : Nat) (s : State) : Host.Outcome State Fault Refusal := settled (keyloadOp s slot epoch)

/-- The epoch after `e` (R163). -/
def nextEpoch (e : Nat) : Nat := if 255 ≤ e then 1 else e + 1

/-- A new key for a slot from the generator's next draw. -/
def newKey (d : DatumSt) (slot : Nat) : DatumSt :=
  let k := tget MKey.none d.keys slot
  { d with keyDraws := d.keyDraws + 1, keys := tset MKey.none d.keys slot { epoch := nextEpoch k.epoch, draw := d.keyDraws + 1 } }

/-- KEYNEW (R587): the old copy of KEYS is zeroed before the answer. -/
def keynewOp (s : State) (slot : Fin 64) (e : NorEv) : State :=
  serve s .mailbox 0x21 { port := false, write := true, ledger := true } fun s =>
    (0, [], modDatum (norRewrite s 1025 e) fun d => newKey d slot.val)

def execKeynew (slot : Fin 64) (e : NorEv) (s : State) : Host.Outcome State Fault Refusal := settled (keynewOp s slot e)

/-- KEYALL (R587). -/
def keyallOp (s : State) (e : NorEv) : State :=
  serve s .mailbox 0x22 { port := false, write := true, ledger := true } fun s =>
    (0, [], modDatum (norRewrite s 1025 e) fun d => (List.range 64).foldl newKey d)

def execKeyall (e : NorEv) (s : State) : Host.Outcome State Fault Refusal := settled (keyallOp s e)

/-- PROVISION (R584): each key once. -/
def provisionOp (s : State) (src : ReqSrc) (which : Fin 3) (key : List Byte) : State :=
  serve s src 0x80 { port := true, write := true, ledger := false } fun s =>
    let held := if which = 0 then s.datum.cfw else if which = 1 then s.datum.cmc else s.datum.cust
    if held.isSome then (13, [], s)
    else
      (0, [], modDatum (stateRewrite s) fun d =>
        if which = 0 then { d with cfw := some key } else if which = 1 then { d with cmc := some key }
        else { d with cust := some key })

def execProvision (src : ReqSrc) (which : Fin 3) (key : List Byte) (s : State) : Host.Outcome State Fault Refusal :=
  settled (provisionOp s src which key)

/-! ### The chain (R594, R595) -/

/-- A rule covers part of the scope of an append: all ones in HANDLE name the whole slot, NSSLOT 0xFF every slot. -/
def scopeHeld (r : Rule) (nsslot handle first last : Nat) : Bool :=
  ruleInForce r && (nsslot = 0xFF ||
    (r.nsslot = nsslot && (r.nswide || handle % 2 ^ 40 = 2 ^ 40 - 1
      || (r.handle = handle && decide (r.first ≤ last) && decide (first ≤ r.last)))))

/-- What the die does to append an entry: RETAINED, FULL, or the entry with its SEQ. -/
def chainAppend (s : State) (op nsslot nsid handle first last : Nat) (key : List Byte) (e : NorEv) : Nat × List Byte × State :=
  if s.datum.rules.any fun r => scopeHeld r.2 nsslot handle first last then (5, [], s)
  else if chainFull s.datum then (6, [], s)
  else
    let q := s.datum.chainSeq
    let s := norAppend s (2560 + chainSector q % 1280) e
    let s := modDatum s fun d =>
      let ent := { seq := q, time := clockStamp d, op := op, nsslot := nsslot, nsid := nsid, handle := handle, first := first, last := last, key := key : ChainEnt }
      { d with chainSeq := q + 1, chain := d.chain ++ [ent] }
    (0, toBytes 8 q, s)

/-- CHAINAPPEND. -/
def chainappendOp (s : State) (op nsslot nsid handle first last : Nat) (key : List Byte) (e : NorEv) : State :=
  serve s .mailbox 0x30 { port := false, write := true, ledger := true } fun s => chainAppend s op nsslot nsid handle first last key e

def execChainappend (op nsslot nsid handle first last : Nat) (key : List Byte) (e : NorEv) (s : State) :
    Host.Outcome State Fault Refusal := settled (chainappendOp s op nsslot nsid handle first last key e)

/-- CHAINREAD: as many entries from a SEQ as a response holds. -/
def chainreadOp (s : State) (src : ReqSrc) (seq : Nat) : State :=
  serve s src 0x31 { port := true, write := false, ledger := false } fun s =>
    let es := (s.datum.chain.filter fun e => seq ≤ e.seq).take 3
    if es = [] then (10, [], s) else (0, es.flatMap chainBytes, s)

def execChainread (src : ReqSrc) (seq : Nat) (s : State) : Host.Outcome State Fault Refusal := settled (chainreadOp s src seq)

/-- Entries up to SEQ are acknowledged; the sectors whose last entry they include are erased. -/
def ackChain (s : State) (seq : Nat) : State :=
  let ack := Nat.max s.datum.chainAck (min seq (s.datum.chainSeq - 1))
  let gone := fun (e : ChainEnt) => decide (63 * (chainSector e.seq + 1) ≤ ack)
  modDatum s fun d =>
    { d with
      chainAck := ack
      chainBase := chainHash (chainStart d) (d.chain.filter gone)
      chain := d.chain.filter fun e => !gone e
      sectors := d.sectors.map fun x =>
        if x.2.st = .valid && d.chain.any fun e => gone e && 2560 + chainSector e.seq % 1280 = x.2.logical
        then (x.1, { x.2 with st := .erasing }) else x }

/-- CHAINACK. -/
def chainackOp (s : State) (src : ReqSrc) (sig : Sig) (seq : Nat) : State :=
  serve s src 0x32 { port := true, write := true, ledger := true } (signed sig fun s => (0, [], ackChain s seq))

def execChainack (src : ReqSrc) (sig : Sig) (seq : Nat) (s : State) : Host.Outcome State Fault Refusal :=
  settled (chainackOp s src sig seq)

/-! ### Rules (R591–R593) -/

/-- The lowest record in state 0 or 3, from `k` on. -/
def lowestFree (k : Nat) (rs : SMap Rule) : Nat :=
  match rs with
  | [] => k
  | (i, r) :: rest => if k < i then k else if r.st = 0 || r.st = 3 then i else lowestFree (i + 1) rest

/-- The lowest window that no SWEEPING rule holds. -/
def freeWindow (d : DatumSt) : Option (Fin 8) :=
  fin8.find? fun n => !(d.rules.any fun e => e.2.st = 1 && e.2.window = some n)

def ruleOf (s : State) (i : Nat) : Rule := tget Rule.free s.datum.rules i
def setRule (s : State) (i : Nat) (r : Rule) : State :=
  modDatum (norRewriteFree s (1536 + i / 64)) fun d => { d with rules := tset Rule.free d.rules i r }

/-- RULEADD. -/
def ruleaddOp (s : State) (src : ReqSrc) (sig : Sig) (nswide hold : Bool) (nsslot : Fin 64) (handle first last until_ : Nat) :
    State :=
  serve s src 0x40 { port := true, write := true, ledger := true } (signed sig fun s =>
    let i := lowestFree 0 s.datum.rules
    if 65536 ≤ i then (6, [], s)
    else
      match freeWindow s.datum with
      | none => (9, [], s)
      | some n =>
        let r := { st := 1, nswide := nswide, hold := hold, nsslot := nsslot.val, window := some n, handle := handle % 2 ^ 40, first := first, last := last, until_ := until_, created := clockStamp s.datum, cseq := sig.cseq : Rule }
        let s := setRule s i r
        let s := if mailboxUp s then writeWindow s n r else s
        (0, toBytes 2 i, postEvent s 1 i))

def execRuleadd (src : ReqSrc) (sig : Sig) (nswide hold : Bool) (nsslot : Fin 64) (handle first last until_ : Nat) (s : State) :
    Host.Outcome State Fault Refusal := settled (ruleaddOp s src sig nswide hold nsslot handle first last until_)

/-- RULEEXTEND (R593). -/
def ruleextendOp (s : State) (src : ReqSrc) (sig : Sig) (rule until_ : Nat) (hold : Bool) : State :=
  serve s src 0x41 { port := true, write := true, ledger := true } (signed sig fun s =>
    let r := ruleOf s rule
    if !ruleInForce r then (10, [], s)
    else if until_ < r.until_ then (5, [], s)
    else (0, [], setRule s rule { r with until_ := until_, hold := r.hold || hold, cseq := sig.cseq }))

def execRuleextend (src : ReqSrc) (sig : Sig) (rule until_ : Nat) (hold : Bool) (s : State) : Host.Outcome State Fault Refusal :=
  settled (ruleextendOp s src sig rule until_ hold)

/-- RULERELEASE (R593). -/
def rulereleaseOp (s : State) (src : ReqSrc) (sig : Sig) (rule : Nat) : State :=
  serve s src 0x42 { port := true, write := true, ledger := true } (signed sig fun s =>
    let r := ruleOf s rule
    if !ruleInForce r then (10, [], s) else (0, [], setRule s rule { r with hold := false, cseq := sig.cseq }))

def execRulerelease (src : ReqSrc) (sig : Sig) (rule : Nat) (s : State) : Host.Outcome State Fault Refusal :=
  settled (rulereleaseOp s src sig rule)

/-- RULEREAD: as many records as a response holds. -/
def rulereadOp (s : State) (src : ReqSrc) (rule : Nat) : State :=
  serve s src 0x43 { port := true, write := false, ledger := false } fun s =>
    if 65536 ≤ rule then (10, [], s)
    else (0, ([0, 1, 2].filter fun i => rule + i < 65536).flatMap fun i => ruleBytes (ruleOf s (rule + i)), s)

def execRuleread (src : ReqSrc) (rule : Nat) (s : State) : Host.Outcome State Fault Refusal := settled (rulereadOp s src rule)

/-- SWEEPDONE (R592): firmware has set RET over the scope. -/
def sweepdoneOp (s : State) (rule : Nat) : State :=
  serve s .mailbox 0x44 { port := false, write := true, ledger := true } fun s =>
    let r := ruleOf s rule
    if r.st ≠ 1 then (10, [], s)
    else
      let s := setRule (sweepScope s r) rule { r with st := 2, window := none }
      (0, [], match r.window with | some n => clearWindow s n | none => s)

def execSweepdone (rule : Nat) (s : State) : Host.Outcome State Fault Refusal := settled (sweepdoneOp s rule)

/-- RULE_RELEASE (R593). -/
def ruleReleaseOp (s : State) (rule : Nat) : State :=
  let r := ruleOf s rule
  when (ruleInForce r && s.datum.clkvalid && !r.hold && decide (r.until_ ≤ clockSec s.datum)) s fun s =>
    let s := setRule s rule { r with st := 3, window := none }
    let s := match r.window with
      | some n => if mailboxUp s then clearWindow s n else s
      | none => s
    datumSync (clearScope (postEvent s 2 rule) r)

def execRuleRelease (rule : Nat) (s : State) : Host.Outcome State Fault Refusal := settled (ruleReleaseOp s rule)

/-! ### Clock (R580–R583) -/

/-- TIMEGET. -/
def timegetOp (s : State) (src : ReqSrc) : State :=
  serve s src 0x50 { port := true, write := false, ledger := false } fun s => (0, toBytes 8 (clockStamp s.datum), s)

def execTimeget (src : ReqSrc) (s : State) : Host.Outcome State Fault Refusal := settled (timegetOp s src)

/-- CLKADJ: `delta` in 2^-15 s; a negative one withholds time, so that the clock never runs backward. -/
def clkadjOp (s : State) (delta : Int) : State :=
  serve s .mailbox 0x51 { port := false, write := true, ledger := false } fun s =>
    let day := clockSec s.datum / 86400
    let used := if s.datum.adjDay = day then s.datum.adj else 0
    if 32768 < used + delta || used + delta < -32768 then (12, [], s)
    else
      (0, [], modDatum (stateRewrite s) fun d =>
        { d with adj := used + delta, adjDay := day, clock := d.clock + delta.toNat, slewHold := d.slewHold + (-delta).toNat })

def execClkadj (delta : Int) (s : State) : Host.Outcome State Fault Refusal := settled (clkadjOp s delta)

/-- CLKSET: never below the present time. -/
def clksetOp (s : State) (src : ReqSrc) (sig : Sig) (time : Nat) : State :=
  serve s src 0x52 { port := true, write := true, ledger := false } (signed sig fun s =>
    if time < clockSec s.datum then (12, [], s)
    else
      (0, [], modDatum (stateRewrite s) fun d =>
        { d with clock := Nat.max d.clock (time * 2 ^ 15), slewHold := 0, clkvalid := true }))

def execClkset (src : ReqSrc) (sig : Sig) (time : Nat) (s : State) : Host.Outcome State Fault Refusal :=
  settled (clksetOp s src sig time)

/-- COUNTSAVE (R582, R599). -/
def countsaveOp (s : State) (opsec pcyc : Nat) (e : NorEv) : State :=
  serve s .mailbox 0x60 { port := false, write := true, ledger := true } fun s =>
    (0, [], counterAppend s (opsec % 2 ^ 64) (pcyc % 2 ^ 32) e)

def execCountsave (opsec pcyc : Nat) (e : NorEv) (s : State) : Host.Outcome State Fault Refusal := settled (countsaveOp s opsec pcyc e)

/-! ### Tier record, records, status, physical reads -/

/-- TIERREAD. -/
def tierreadOp (s : State) (src : ReqSrc) : State :=
  serve s src 0x61 { port := true, write := false, ledger := false } fun s => (0, s.datum.tier, s)

def execTierread (src : ReqSrc) (s : State) : Host.Outcome State Fault Refusal := settled (tierreadOp s src)

/-- TIERWRITE. -/
def tierwriteOp (s : State) (src : ReqSrc) (bytes : List Byte) (e : NorEv) : State :=
  serve s src 0x62 { port := false, write := true, ledger := false } fun s =>
    (0, [], modDatum (norRewrite s 1026 e) fun d => { d with tier := bytes })

def execTierwrite (src : ReqSrc) (bytes : List Byte) (e : NorEv) (s : State) : Host.Outcome State Fault Refusal :=
  settled (tierwriteOp s src bytes e)

/-- The oldest post that awaits the die leaves the queue when it is the one accepted (R554). -/
def takeForward (s : State) (ch : Nat) (v : BitVec 32) : State :=
  match s.evr.fwd with
  | [] => s
  | p :: rest => if p = (ch, v) then { s with evr := { s.evr with fwd := rest } } else s

/-- EVPOST: channels 90–95. -/
def evpostOp (s : State) (ch : Fin 96) (value : BitVec 32) : State :=
  serve s .mailbox 0x70 { port := false, write := false, ledger := false } fun s =>
    if 90 ≤ ch.val then (0, [], datumSample (takeForward s ch.val value) ch.val value) else (10, [], s)

def execEvpost (ch : Fin 96) (value : BitVec 32) (s : State) : Host.Outcome State Fault Refusal := settled (evpostOp s ch value)

/-- Highest erase count that the model has seen. -/
def maxErases (d : DatumSt) : Nat := d.sectors.foldl (fun m e => Nat.max m (eraseCount d e.1)) 0

/-- STATUS: wear, CLKVALID, floors, rotation pointer. -/
def statusOp (s : State) (src : ReqSrc) : State :=
  serve s src 0x71 { port := true, write := false, ledger := false } fun s =>
    (0, toBytes 2 (usableSectors s) ++ toBytes 4 (maxErases s.datum) ++ [BitVec.ofNat 8 (bit01 s.datum.clkvalid)]
      ++ (s.datum.floors.toList.flatMap (toBytes 4)) ++ toBytes 2 s.datum.rotation, s)

def execStatus (src : ReqSrc) (s : State) : Host.Outcome State Fault Refusal := settled (statusOp s src)

def secCode (st : SecState) : Nat :=
  match st with
  | .blank => 0xFE | .alloc => 0xFC | .valid => 0xF8 | .obsolete => 0xF0 | .erasing => 0xE0 | .suspended => 0xC0
  | .interrupted => 0x80 | .retired => 0x00

/-- The header of a physical sector (R572). -/
def secHeader (d : DatumSt) (p : Nat) : List Byte :=
  let x := secOf d p
  let lv := toBytes 2 x.logical ++ toBytes 4 x.version
  let ec := toBytes 4 (eraseCount d p)
  [BitVec.ofNat 8 (secCode x.st), 0xFF] ++ lv ++ ec ++ toBytes 2 (crc16 ec) ++ toBytes 2 (crc16 lv)

/-- Bytes of a physical sector: erased ones where it is BLANK, its logical content where it is the valid copy, else as the array
gives them (free). -/
def secContent (s : State) (p : Nat) : List Byte × State :=
  let x := secOf s.datum p
  if x.st = .blank then (List.replicate 4096 0xFF, s)
  else if x.st = .valid then logicalContent s x.logical
  else drawBytes s 4096

/-- PHYSREAD: INDET, header, bytes; at the port only. -/
def physreadOp (s : State) (src : ReqSrc) (sector : Fin 4096) : State :=
  match src with
  | .mailbox => if mailboxUp s then answer s .mailbox 0x90 1 [] else s
  | .port =>
    serve s .port 0x90 { port := true, write := false, ledger := false } fun s =>
      let c := secContent s sector.val
      (0, BitVec.ofNat 8 (bit01 ((secOf s.datum sector.val).st = .interrupted)) :: secHeader s.datum sector.val ++ c.1, c.2)

def execPhysread (src : ReqSrc) (sector : Fin 4096) (s : State) : Host.Outcome State Fault Refusal := settled (physreadOp s src sector)

/-! ### The die's own events -/

/-- INTERRUPTED_ERASE (R577): the lowest INTERRUPTED sector, while no request waits. -/
def interruptedEraseOp (s : State) (ok : Bool) : State :=
  when (s.datum.portReq = none) s fun s =>
    match firstSec s.datum (· = .interrupted) 0 4096 with
    | none => s
    | some p =>
      if ok then setSec s p { st := .blank, logical := 0xFFFF, version := 0, ecount := (secOf s.datum p).ecount + 1 }
      else datumSync (retireSec s p)

def execInterruptedErase (ok : Bool) (s : State) : Host.Outcome State Fault Refusal := settled (interruptedEraseOp s ok)

/-- DAILY_SAVE (R582, R600): at the next midnight the VBAT sample, the records into EVREC, the time into COUNTERS. -/
def dailySaveOp (s : State) (vbat : Int) (e : NorEv) : State :=
  let s := modDatum s fun d => { d with clock := (clockSec d / 86400 + 1) * 86400 * 2 ^ 15, slewHold := 0 }
  let s := datumSample s 89 (BitVec.ofInt 32 vbat)
  let s := modDatum (norRewrite s 1028 e) fun d => { d with recsSaved := d.recs }
  let l := lastCounters s.datum
  datumSync (counterAppend s l.1 l.2 { pulses := [], fail := false })

def execDailySave (vbat : Int) (e : NorEv) (s : State) : Host.Outcome State Fault Refusal := settled (dailySaveOp s vbat e)

/-- VBAT_LOW (R600). -/
def vbatLowOp (s : State) : State := postEvent s 7 0

def execVbatLow (s : State) : Host.Outcome State Fault Refusal := settled (vbatLowOp s)

/-- The scan at the die's start (R575, R576): a cut erase becomes INTERRUPTED, a copy in ALLOC OBSOLETE. -/
def scanSectors (m : SMap Sector) : SMap Sector :=
  m.map fun e =>
    if e.2.st = .erasing || e.2.st = .suspended then (e.1, { e.2 with st := .interrupted })
    else if e.2.st = .alloc then (e.1, { e.2 with st := .obsolete }) else e

/-- DATUM_POR (R66, R569, R583, R600): the clock resumes from the last saved time with CLKVALID 0, the samples since the last
save are lost, requests in progress are lost, CLKINVALID is posted once. -/
def datumPorOp (s : State) : State :=
  let s := modDatum s fun d =>
    { d with
      sectors := scanSectors d.sectors, clock := d.savedTime * 2 ^ 15, slewHold := 0, clkvalid := false, recs := d.recsSaved
      mboxRes := none, portRes := none, portReq := none, portOut := [], cfgFresh := none, evq := [] }
  datumSync (postEvent s 5 0)

def execDatumPor (s : State) : Host.Outcome State Fault Refusal := settled (datumPorOp s)

/-! ### The port (R597, R608) -/

/-- The port hears frames: no test instruction drives its pins. -/
def portHears (s : State) : Bool := !(s.tap.active && drivesPins s.tap.instr)

/-- PORT_REQUEST_FRAME: one request at a time; a code of no row is answered BADCMD, one that the port may not send PORTDENY. -/
def portRequestOp (s : State) (req : List Byte) : State :=
  when (portHears s && s.datum.portReq = none) s fun s =>
    let cmd := (req.headD 0).toNat
    let s := modDatum s fun d => { d with portReq := some req, portRes := none }
    if portCodes.contains cmd then s
    else answer s .port cmd (if requestCodes.contains cmd then 8 else 1) []

def execPortRequestFrame (req : List Byte) (s : State) : Host.Outcome State Fault Refusal := settled (portRequestOp s req)

/-- PORT_RESPONSE_READ: the response is shifted out; with none waiting nothing is. -/
def portResponseOp (s : State) : State :=
  when (portHears s) s fun s => modDatum s fun d => { d with portOut := d.portRes.getD [], portRes := none }

def execPortResponseRead (s : State) : Host.Outcome State Fault Refusal := settled (portResponseOp s)

/-- PORT_STATUS_READ: one byte, whose bits the spec does not give (free). -/
def portStatusOp (s : State) : State :=
  when (portHears s) s fun s =>
    let q := drawBytes s 1
    modDatum q.2 fun d => { d with portOut := q.1 }

def execPortStatusRead (s : State) : Host.Outcome State Fault Refusal := settled (portStatusOp s)

end Sys2Proof.Machine
end

