-- ==== Sys2Proof/Machine/HostMem.lean ====
section
/-! DEFINITION. A port's configuration registers (R90–R94), and host memory as the device writes it: the data pointers of commands
(R98, R122), Relaxed Ordering (R93), MSI-X messages and their coalescing (R91, R98, R142). -/

namespace Sys2Proof.Machine

/-! ### Configuration space (R88, R90–R94)

The spec names the capabilities; their contents are those of the PCI Express standard, and their offsets the model's (log entry 187). -/

/-- Offsets of the capabilities of R92. -/
def capPm : Nat := 0x40
def capMsix : Nat := 0x50
def capPcie : Nat := 0x60
def capAer : Nat := 0x100
def capSerial : Nat := 0x160
def capSecondary : Nat := 0x170
def cap16 : Nat := 0x190
def cap32 : Nat := 0x1C0
def cap64 : Nat := 0x1F0
def capFeature : Nat := 0x220
def capFlitLog : Nat := 0x230
def capL1ss : Nat := 0x280
def capMargin : Nat := 0x2A0

/-- Bits of a configuration register, by byte offset, that the host may set: Command; PMCSR's PME_En; the MSI-X mask and enable; Device,
Link, Device 2 and Link 2 Control; AER masks, severities and control; lane margining and L1 substate control. -/
def cfgRw (off : Nat) : Nat :=
  if off = 0x04 then 0x0542
  else if off = 0x3C then 0xFF
  else if off = capPm + 4 then 0x100
  else if off = capMsix then 0xC000_0000
  else if off = capPcie + 8 then 0x79FF
  else if off = capPcie + 0x10 then 0x1C3
  else if off = capPcie + 0x28 then 0x101F
  else if off = capPcie + 0x30 then 0xF
  else if off = capAer + 0x08 || off = capAer + 0x0C then 0x05F5_F030
  else if off = capAer + 0x14 then 0xF1C1
  else if off = capAer + 0x18 then 0x140
  else if off = capSecondary + 4 then 0x3
  else if off = capFlitLog + 8 then 0xFF
  else if off = capL1ss + 8 then 0xE3FF_FF0F
  else if off = capL1ss + 0xC then 0xFF
  else if capMargin + 8 ≤ off && off < capMargin + 0x18 then 0xFFFF
  else 0

/-- Bits that a write of 1 clears: the error bits of Status and Device Status, AER's status registers, Lane Error Status. -/
def cfgW1c (off : Nat) : Nat :=
  if off = 0x04 then 0xF900_0000
  else if off = capPm + 4 then 0x8000
  else if off = capPcie + 8 then 0xF_0000
  else if off = capAer + 0x04 then 0x05F5_F030
  else if off = capAer + 0x10 then 0xF1C1
  else if off = capSecondary + 8 then 0xF
  else 0

/-- Their values after a conventional reset: Relaxed Ordering, extended tags and No Snoop enabled, Max_Read_Request_Size 512 bytes; AER
severities and the mask of advisory errors. -/
def cfgInit (off : Nat) : Nat :=
  if off = capPcie + 8 then 0x2910
  else if off = capAer + 0x0C then 0x0046_2030
  else if off = capAer + 0x14 then 0xE000
  else 0

/-- Registers that a hot reset leaves as they are: the status, masks and severities of AER, and PME_En. -/
def cfgSticky (off : Nat) : Bool := off = capPm + 4 || (decide (capAer ≤ off) && decide (off < capSerial))

/-- What the host has written to a configuration register, and its status bits. -/
def cfgVar (x : PortSt) (off : Nat) : Nat := tget (cfgInit off) x.cfg (off / 4)
def cfgSet (x : PortSt) (off v : Nat) : PortSt := { x with cfg := tset (cfgInit off) x.cfg (off / 4) v }
def cfgBit (x : PortSt) (off bit : Nat) : Bool := (cfgVar x off).testBit bit

/-- A status bit set. -/
def cfgStatus (x : PortSt) (off bit : Nat) : PortSt := cfgSet x off (putBit (cfgVar x off) bit true)

/-- An uncorrectable error reported through Advanced Error Reporting (R94): its bit of the Uncorrectable Error Status register, and the
fatal or non-fatal bit of Device Status as its severity says. -/
def aerUnc (x : PortSt) (bit : Nat) : PortSt :=
  cfgStatus (cfgStatus x (capAer + 4) bit) (capPcie + 8) (if cfgBit x (capAer + 0xC) bit then 18 else 17)

/-- A correctable one. -/
def aerCor (x : PortSt) (bit : Nat) : PortSt := cfgStatus (cfgStatus x (capAer + 0x10) bit) (capPcie + 8) 16

/-- Configuration and controller registers of the function after a reset of the port's link; a cold one, by PERSTn, leaves nothing. -/
def cfgReset (x : PortSt) (cold : Bool) : PortSt :=
  { x with
    bar0 := 0, bme := false, mtab := [], pba := [], agg := [], cc := 0, aqa := 0, asq := 0, acq := 0
    cfg := if cold then [] else x.cfg.filter fun e => cfgSticky (4 * e.1) }

/-- Max_Read_Request_Size in bytes (R93): up to 4,096. -/
def readRequest (x : PortSt) : Nat := 128 * 2 ^ min 5 (fld (cfgVar x (capPcie + 8)) 12 3)

/-- Tag bits of the port's requests (R93). -/
def tagBits (x : PortSt) : Nat := if x.flit then 14 else 10

/-- Non-posted requests that may be outstanding: 512, and no more than there are tags (R93). -/
def maxRequests (x : PortSt) : Nat := min 512 (2 ^ tagBits x)

/-- The HOSTPHY lanes of a port are gated (R88). -/
def hostphyGated (x : PortSt) : Bool := x.pm = .l12 || x.dstate = 4

/-! ### Data pointers (R98) -/

/-- A piece of the host buffer: its address, none where the data are discarded (Bit Bucket), and its length. -/
abbrev Span := Option Nat × Nat

/-- Page size of a controller: CC.MPS, at most CAP.MPSMAX (R97). -/
def pageSize (x : PortSt) : Nat := 4096 * 2 ^ min 4 (fld x.cc 7 4)

/-- A little-endian number in host memory. -/
def hostNat (s : State) (a n : Nat) : Nat := ofBytes (hostReadBytes s a n)

/-- Pages of a PRP list from the entry at `a` on, for `len` bytes; the last entry of a page of the list leads to its next page where more
than one page of data is left. None where an entry has an offset. -/
def prpList (s : State) (page a len fuel : Nat) : Option (List Span) :=
  match fuel with
  | 0 => some []
  | fuel' + 1 =>
    if len = 0 then some []
    else
      let e := hostNat s a 8
      if e % page ≠ 0 then none
      else if (a + 8) % page = 0 && page < len then prpList s page e len fuel'
      else (prpList s page (a + 8) (len - page) fuel').map fun l => (some e, min page len) :: l

/-- The buffer that PRP1 and PRP2 name. -/
def prpSpans (s : State) (page p1 p2 len : Nat) : Option (List Span) :=
  let first := page - p1 % page
  if len ≤ first then some [(some p1, len)]
  else if len - first ≤ page then if p2 % page = 0 then some [(some p1, first), (some p2, len - first)] else none
  else (prpList s page p2 (len - first) (2 * (len / page) + 4)).map fun l => (some p1, first) :: l

/-- SGL descriptor type, of the identifier in its last byte: 0 Data Block, 1 Bit Bucket, 2 Segment, 3 Last Segment. -/
def sglType (hi : Nat) : Nat := hi / 2 ^ 60 % 16
def sglLen (hi : Nat) : Nat := hi % 2 ^ 32

/-- Why an SGL cannot be used: its status. -/
abbrev SglErr := Nat × Nat
def scSglSegment : Nat × Nat := (0, 0x0D)
def scSglLength : Nat × Nat := (0, 0x0F)
def scSglType : Nat × Nat := (0, 0x11)
def scPrpOffset : Nat × Nat := (0, 0x13)

/-- The descriptors of a segment from `a` on, `n` of them; `last`: it is the Last Segment. `toHost`: the command sends data to the host. -/
def sglWalk (s : State) (toHost : Bool) (a n : Nat) (last : Bool) (fuel : Nat) : Except SglErr (List Span) :=
  match fuel with
  | 0 => .error scSglLength
  | fuel' + 1 =>
    match n with
    | 0 => .ok []
    | n' + 1 =>
      let lo := hostNat s a 8
      let hi := hostNat s (a + 8) 8
      match sglType hi with
      | 0 => (sglWalk s toHost (a + 16) n' last fuel').map fun l => (some lo, sglLen hi) :: l
      | 1 => if toHost then (sglWalk s toHost (a + 16) n' last fuel').map fun l => (none, sglLen hi) :: l else .error scSglType
      | 2 => if last || n' ≠ 0 then .error scSglSegment else sglWalk s toHost lo (sglLen hi / 16) false fuel'
      | 3 => if last || n' ≠ 0 then .error scSglSegment else sglWalk s toHost lo (sglLen hi / 16) true fuel'
      | _ => .error scSglType

/-- Descriptors that one command's lists may hold. -/
def sglFuel : Nat := 65536

/-- The host buffer of a command for `len` bytes, as its data pointer names it; the status with which the command fails where it cannot
be used. -/
def spansOf (s : State) (p : Port) (c : HostCmd) (toHost : Bool) (len : Nat) : Except SglErr (List Span) :=
  if len = 0 then .ok []
  else if !c.sgl then
    match prpSpans s (pageSize (s.port p)) c.prp c.prp2 len with
    | some l => .ok l
    | none => .error scPrpOffset
  else
    let r : Except SglErr (List Span) := match sglType c.prp2 with
      | 0 => .ok [(some c.prp, sglLen c.prp2)]
      | 1 => if toHost then .ok [(none, sglLen c.prp2)] else .error scSglType
      | 2 => sglWalk s toHost c.prp (sglLen c.prp2 / 16) false sglFuel
      | 3 => sglWalk s toHost c.prp (sglLen c.prp2 / 16) true sglFuel
      | _ => .error scSglType
    match r with
    | .ok l => if (l.map (·.2)).sum < len then .error scSglLength else .ok l
    | .error e => .error e

/-- The buffer from byte `off` on. -/
def dropSpan (l : List Span) (off : Nat) : List Span :=
  match l with
  | [] => []
  | (a, n) :: rest => if off < n then (a.map (· + off), n - off) :: rest else dropSpan rest (off - n)

/-- Bytes laid over a buffer from its start. -/
def putSpans (m : Memory) (l : List Span) (bs : List Byte) : Memory :=
  match l with
  | [] => m
  | (a, n) :: rest =>
    let m := match a with
      | some a => hostWriteBytes m a (bs.take n)
      | none => m
    putSpans m rest (bs.drop n)

/-- Command data written to the buffer of a command from byte `off` on; with Relaxed Ordering where the host enables it (R93). -/
def hostPut (s : State) (p : Port) (c : HostCmd) (len off : Nat) (bs : List Byte) : State :=
  match spansOf s p c true len with
  | .error _ => s
  | .ok l =>
    let s := { s with hostMem := putSpans s.hostMem (dropSpan l off) bs }
    if bs = [] then s else modPort s p fun x => { x with posted := some (.data, cfgBit x (capPcie + 8) 4) }

/-! ### MSI-X (R91, R98, R142) -/

/-- A doubleword of the MSI-X table: every vector is masked until the host unmasks it. -/
def mtabInit (i : Nat) : Word := if i % 4 = 3 then 1 else 0
def mtabAt (x : PortSt) (i : Nat) : Word := tget (mtabInit i) x.mtab i

def msixOn (x : PortSt) : Bool := cfgBit x capMsix 31
def msixMasked (x : PortSt) (v : Nat) : Bool := cfgBit x capMsix 30 || (mtabAt x (4 * v + 3)).toNat.testBit 0

/-- A vector's message sent, without Relaxed Ordering; held in its pending bit while it is masked. -/
def sendMsix (x : PortSt) (v : Nat) : PortSt :=
  if !msixOn x then x
  else if msixMasked x v then { x with pba := if x.pba.contains v then x.pba else x.pba ++ [v] }
  else
    { x with
      msgs := tset 0 x.msgs v (tget 0 x.msgs v + 1), posted := some (.msix, false)
      lastMsg := some ((mtabAt x (4 * v)).toNat + (mtabAt x (4 * v + 1)).toNat * 2 ^ 32, mtabAt x (4 * v + 2)) }

/-- Messages held whose vectors are unmasked now. -/
def sendHeldMsix (x : PortSt) : PortSt :=
  let go := x.pba.filter fun v => msixOn x && !msixMasked x v
  go.foldl sendMsix { x with pba := x.pba.filter fun v => !go.contains v }

/-- Key of a vector's own configuration among the features (R113). -/
def vectorKey (v : Nat) : Nat := 0x10000 + v

/-- Interrupt Coalescing (R98, R113) holds back messages of a vector: threshold and time are not 0 and the vector is not excepted. Entries
of the admin queue are never coalesced. -/
def coalesces (x : PortSt) (qid v : Nat) : Bool :=
  qid ≠ 0 && decide (tget 0 x.features 8 % 256 ≠ 0) && decide (tget 0 x.features 8 / 256 % 256 ≠ 0)
    && !(tget 0 x.features (vectorKey v)).testBit 16

/-- An entry written to a completion queue signals its vector: at once, or with the entry that makes the threshold. -/
def signal (x : PortSt) (tick qid v : Nat) : PortSt :=
  if !coalesces x qid v then sendMsix { x with agg := tset (0, 0) x.agg v (0, 0) } v
  else
    let a := tget (0, 0) x.agg v
    if tget 0 x.features 8 % 256 ≤ a.1 then sendMsix { x with agg := tset (0, 0) x.agg v (0, 0) } v
    else { x with agg := tset (0, 0) x.agg v (a.1 + 1, if a.1 = 0 then tick else a.2) }

/-- Vectors whose aggregation time, in units of 100 µs, is over. -/
def signalDue (x : PortSt) (tick : Nat) : PortSt :=
  let due := x.agg.filter fun e => decide (e.2.1 ≠ 0) && decide (e.2.2 + 10000 * (tget 0 x.features 8 / 256 % 256) ≤ tick)
  due.foldl (fun x e => sendMsix { x with agg := tset (0, 0) x.agg e.1 (0, 0) } e.1) x

end Sys2Proof.Machine
end

