-- ==== Sys2Proof/Machine/Channel.lean ====
section
/-! DEFINITION. The read channel as functions of samples: the timing and gain loops (R217–R221), equalizers, combiner and
adaptation (R222–R224), the defect detector (R233, R234), the detector (R225), the decoder (R226, R227), and the sync marks
(R206, R207). -/

namespace Sys2Proof.Machine

/-! ### Timing and gain loops (R217–R221) -/

/-- What the loops of a slice are set to: gains of TIMCTL and AGCCTL, and whether the gain loop runs (R217). -/
structure LoopCfg where
  kpa : Nat
  kfa : Nat
  kpt : Nat
  kft : Nat
  kpr : Nat
  tgt : Nat
  fast : Nat
  slow : Nat
  agc : Bool

/-- The loops. Gains are in 2^-15 of a code; `run` and `runN` are the sum of |e| and the bits of the run under way. -/
structure Loops where
  freq : Int
  phase : Int
  fclamp : Bool
  lost : Bool
  lock : Bool
  acq : Bool
  run : Nat
  runN : Nat
  losses : Nat
  /-- a loss within the slot -/
  hit : Bool
  misses : Nat
  gainA : Int
  gainB : Int

/-- Greatest frequency: 2,000 ppm of the bit rate, in 2^-24. -/
def freqMax : Int := 33554

/-- One update of the timing loop (R218). -/
def timingStep (kp kf : Nat) (e : Int) (l : Loops) : Loops :=
  let f := l.freq + e / ((2 ^ kf : Nat) : Int)
  let g := clampInt (-freqMax) freqMax f
  { l with freq := g, fclamp := l.fclamp || decide (g ≠ f), phase := l.phase + g + e / ((2 ^ kp : Nat) : Int) }

/-- The 6 fractional bits of phase that the interpolator takes (R218). -/
def interpolatorTap (phase : Int) : Nat := (phase % 2 ^ 24).toNat / 2 ^ 18

/-- One update of the gain loop at gain 2^-k toward the target (R219). -/
def gainStep (c : LoopCfg) (k : Nat) (x : BitEv) (l : Loops) : Loops :=
  if c.agc then
    let g := fun (v : Int) (p : Nat) => clampInt 0 (255 * 2 ^ 15) (v + ((c.tgt : Int) - (p : Int)) * ((2 ^ (15 - k) : Nat) : Int))
    { l with gainA := g l.gainA x.pa, gainB := g l.gainB x.pb }
  else l

/-- Gains of tracking: those of acquisition while the lock is lost (R221). -/
def trackGains (c : LoopCfg) (l : Loops) : Nat × Nat := if l.lost then (c.kpa, c.kfa) else (c.kpt, c.kft)

/-- One bit of tracking added to the run of 256; an average above 0.25 bit loses the lock (R221). -/
def averageStep (e : Int) (l : Loops) : Loops :=
  if l.lost then l
  else
    let r := l.run + e.natAbs
    if l.runN + 1 < 256 then { l with run := r, runN := l.runN + 1 }
    else if 65536 < r then { l with run := 0, runN := 0, lost := true, lock := false, losses := l.losses + 1, hit := true }
    else { l with run := 0, runN := 0 }

/-- One payload bit at slot bit `p` (R219). `fresh`: the slot is the first of an operation or of a track. -/
def loopBit (c : LoopCfg) (fresh : Bool) (phase0 : Int) (p : Int) (x : BitEv) (l : Loops) : Loops :=
  if p < 0 then
    if fresh then l
    else let k := trackGains c l; gainStep c c.slow x (timingStep k.1 k.2 x.e l)
  else if l.acq && decide (p < 32) then gainStep c c.fast x l
  else if l.acq && decide (p < 176) then
    gainStep c c.fast x (timingStep c.kpa c.kfa x.e (if p = 32 then { l with phase := phase0 } else l))
  else
    let k := trackGains c l
    let l := gainStep c c.slow x (timingStep k.1 k.2 x.e l)
    if p < 288 then l else averageStep x.e { l with lock := l.lock || !l.lost }

/-- The servo field and the resync field before a wedge's payload (R205, R220): frequency kept and phase projected, no update on
bits 0–15, the 2T pattern on bits 16–111, the search for the mark. At its end a lost lock is found again (R221). -/
def loopResync (c : LoopCfg) (n : Nat) (p : Int) (g : SegEv) (l : Loops) : Loops :=
  let l := { l with phase := l.phase + l.freq * (servoBits n : Int), acq := l.acq && (decide (p ≤ 0) || decide (288 ≤ p)) }
  let l := g.rsErr.foldl (fun l e => timingStep c.kpr c.kft e l) l
  { l with misses := l.misses + bit01 (resyncMatch g.window).isNone, lock := l.lock || l.lost, lost := false }

/-- A bit that the samples do not give. -/
def BitEv.none : BitEv := { a := 0, b := 0, d := false, e := 0, pa := 0, pb := 0 }

/-- `n` bits of a list, made up where it is short. -/
def padBits (n : Nat) (l : List BitEv) : List BitEv := (l ++ List.replicate (n - l.length) BitEv.none).take n

/-- The payload bits of a piece: of a fresh one, from the bit after the best match of its mark on, else from the nominal position
(R205). -/
def pieceBits (p : Piece) (g : SegEv) : List BitEv :=
  if p.fresh then padBits p.len (g.bits.drop (8 + (resyncMatch g.window).getD 0).toNat) else padBits p.len g.bits

/-- A run that the event does not give. -/
def SegEv.none : SegEv := { window := [], rsErr := [], sat := 0, bits := [] }

/-- The loops over the bits of a piece from slot bit `p` on. -/
def loopBits (c : LoopCfg) (fresh : Bool) (phase0 : Int) (p : Int) (bits : List BitEv) (l : Loops) : Loops :=
  match bits with
  | [] => l
  | x :: rest => loopBits c fresh phase0 (p + 1) rest (loopBit c fresh phase0 p x l)

/-- The loops over the pieces of a slot from slot bit `p` on. -/
def loopSlot (c : LoopCfg) (n : Nat) (fresh : Bool) (phase0 : Int) (p : Int) (ps : List Piece) (gs : List SegEv) (l : Loops) : Loops :=
  match ps with
  | [] => l
  | q :: rest =>
    let g := gs.headD SegEv.none
    let l := if q.fresh then loopResync c n p g l else l
    loopSlot c n fresh phase0 (p + q.len) rest gs.tail (loopBits c fresh phase0 p (pieceBits q g) l)

/-- The payload bits of a slot, from slot bit −32 on. -/
def slotSamples (ps : List Piece) (gs : List SegEv) : List BitEv :=
  match ps with
  | [] => []
  | q :: rest => pieceBits q (gs.headD SegEv.none) ++ slotSamples rest gs.tail

/-! ### Equalizers and combiner (R222, R223) -/

/-- The active equalizer set: taps of both readers, weights. -/
structure EqSet where
  ha : List Int
  hb : List Int
  wa : Int
  wb : Int

/-- A quotient rounded to the nearest integer, half away from zero. -/
def roundAway (x : Int) (d : Nat) : Int := x.sign * (((2 * x.natAbs + d) / (2 * d) : Nat) : Int)

/-- Sum of products. -/
def dot (a b : List Int) : Int := (List.zipWith (· * ·) a b).foldl (· + ·) 0

/-- One output of an equalizer over the 32 samples x[k − 15] to x[k + 16]: tap i meets x[k + 16 − i]. -/
def firOut (h w : List Int) : Int := clampInt (-255) 255 (roundAway (dot h w.reverse) 128)

/-- Every run of 32 samples of a stream, one for each of its samples, zeroes beyond its ends. -/
def windowsFrom (xs : List Int) : List (List Int) :=
  match xs with
  | [] => []
  | x :: rest => (x :: rest).take 32 :: windowsFrom rest

def windows (xs : List Int) : List (List Int) := (windowsFrom (List.replicate 15 0 ++ xs ++ List.replicate 16 0)).take xs.length

/-- A stream delayed by whole samples. -/
def delayed {α : Type} (z : α) (n : Nat) (xs : List α) : List α := (List.replicate n z ++ xs).take xs.length

/-- Reader A's and reader B's stream after DELAYB (R222). -/
def delayPair {α : Type} (z : α) (d : Int) (a b : List α) : List α × List α :=
  if 0 ≤ d then (a, delayed z d.toNat b) else (delayed z d.natAbs a, b)

/-- The combiner (R223), and in its place the other reader's stream where one reader alone is abnormal (R234). -/
def combine (wa wb za zb : Int) (badA badB : Bool) : Int :=
  if badA && !badB then ((wa + wb) * zb).tdiv 64
  else if badB && !badA then ((wa + wb) * za).tdiv 64
  else (wa * za + wb * zb).tdiv 64

/-- The level of a channel bit: +1 for a one, −1 for a zero. -/
def bitLevel (b : Bool) : Int := if b then 1 else -1

/-- The ideal y for a bit and the four before it, nearest first (R223). -/
def yIdeal (g : List Int) (bits : List Bool) : Int := dot g (bits.map bitLevel)

/-! ### The defect detector (R233, R234) -/

/-- DEFCTL and AGCTGT as the detector takes them. -/
structure DefCfg where
  on : Bool
  win : Nat
  low : Nat
  high : Nat
  minRun : Nat
  extend : Nat
  tgt : Nat

/-- Sums of |x| over the last `w` samples. -/
def windowSums (w : Nat) (acc : Nat) (old xs : List Nat) : List Nat :=
  match xs with
  | [] => []
  | x :: rest =>
    let a := acc + x - old.headD 0
    a :: windowSums w a old.tail rest

/-- Length of the run of trues that ends at each place. -/
def runLens (n : Nat) (l : List Bool) : List Nat :=
  match l with
  | [] => []
  | b :: rest => let m := if b then n + 1 else 0; m :: runLens m rest

/-- Places within runs of at least `m` trues. -/
def longRuns (m : Nat) (l : List Bool) : List Bool :=
  let f := runLens 0 l
  let b := (runLens 0 l.reverse).reverse
  List.zipWith (fun x y => decide (0 < x) && decide (m ≤ x + y - 1)) f b

/-- Places at most `n` after a true. -/
def spread (n k : Nat) (l : List Bool) : List Bool :=
  match l with
  | [] => []
  | b :: rest => (b || decide (0 < k)) :: spread n (if b then n else k - 1) rest

/-- Runs extended by `n` places at each end. -/
def extendRuns (n : Nat) (l : List Bool) : List Bool :=
  List.zipWith (· || ·) (spread n 0 l) ((spread n 0 l.reverse).reverse)

/-- Where a reader is abnormal; the detector runs in tracking, from slot bit 288 on. -/
def abnormal (c : DefCfg) (xs : List Int) : List Bool :=
  if !c.on then xs.map fun _ => false
  else
    let m := xs.map Int.natAbs
    let sums := windowSums c.win 0 (List.replicate c.win 0 ++ m) m
    let inTrack := (List.range xs.length).map fun i => decide (320 ≤ i)
    let low := List.zipWith (fun t x => t && decide (32 * x < c.low * c.tgt * c.win)) inTrack sums
    let high := List.zipWith (fun t x => t && decide (c.high * c.tgt * c.win < 16 * x)) inTrack sums
    let k := max 1 (4 * c.minRun)
    extendRuns (4 * c.extend) (List.zipWith (· || ·) (longRuns k low) (longRuns k high))

/-! ### The equalized stream, and adaptation (R224) -/

/-- A coefficient after adaptation; the spec states no result outside its format: a free value. -/
def adaptValue (drawn : Nat) (x lo hi : Int) : Int × Nat :=
  if lo ≤ x && x ≤ hi then (x, drawn) else (lo + ((Config.free drawn).toNat : Int) % (hi - lo + 1), drawn + 1)

/-- Each value of a list adapted by its step. -/
def adaptList (lo hi : Int) (drawn : Nat) (hs steps : List Int) : List Int × Nat :=
  match hs with
  | [] => ([], drawn)
  | h :: rest =>
    let v := adaptValue drawn (h - steps.headD 0) lo hi
    let r := adaptList lo hi v.2 rest steps.tail
    (v.1 :: r.1, r.2)

/-- One step of least mean squares. -/
def adaptStep (mu : Nat) (err za zb : Int) (wa wb : List Int) (q : EqSet × Nat) : EqSet × Nat :=
  let step := fun x => err * x / ((2 ^ mu : Nat) : Int)
  let a := adaptList (-512) 511 q.2 q.1.ha (wa.reverse.map step)
  let b := adaptList (-512) 511 a.2 q.1.hb (wb.reverse.map step)
  let u := adaptValue b.2 (q.1.wa - err * za / ((2 ^ (mu + 4) : Nat) : Int)) 0 127
  let v := adaptValue u.2 (q.1.wb - err * zb / ((2 ^ (mu + 4) : Nat) : Int)) 0 127
  ({ ha := a.1, hb := b.1, wa := u.1, wb := v.1 }, v.2)

/-- One bit as the equalizers see it: the windows of both readers, where they are abnormal, the tentative decisions of the bit and the
four before it, and whether it is a codeword bit. -/
structure EqBit where
  wa : List Int
  wb : List Int
  badA : Bool
  badB : Bool
  bits : List Bool
  code : Bool

/-- The combined stream with the set that is left. `mu`: the shift where the set adapts (R224). -/
def equalize (g : List Int) (mu : Option Nat) (l : List EqBit) (q : EqSet × Nat) : List Int × EqSet × Nat :=
  match l with
  | [] => ([], q)
  | x :: rest =>
    let za := firOut q.1.ha x.wa
    let zb := firOut q.1.hb x.wb
    let y := combine q.1.wa q.1.wb za zb x.badA x.badB
    let q' := match mu with
      | some m => if x.code && !(x.badA && x.badB) then adaptStep m (y - yIdeal g x.bits) za zb x.wa x.wb q else q
      | none => q
    let r := equalize g mu rest q'
    (y :: r.1, r.2)

/-- Each bit of a list with the four before it. -/
def histories (prev bits : List Bool) : List (List Bool) :=
  match bits with
  | [] => []
  | b :: rest => (b :: prev) :: histories ((b :: prev).take 4) rest

/-- What a slot's samples give: the combined stream, the bits of it at which both readers are abnormal, the equalizer set after it. -/
structure Equalized where
  y : List Int
  gone : List Bool
  eq : EqSet
  drawn : Nat

/-- Slot bits are counted from −32; the codeword of the nominal anchor is slot bits 416 to 37,279. -/
def equalizeSlot (g : List Int) (c : DefCfg) (delayB : Int) (mu : Option Nat) (eq : EqSet) (drawn : Nat) (xa xb : List Int)
    (bits : List Bool) : Equalized :=
  let x := delayPair 0 delayB xa xb
  let bad := delayPair false delayB (abnormal c xa) (abnormal c xb)
  let rows := (windows x.1).zip ((windows x.2).zip (bad.1.zip (bad.2.zip (histories [false, false, false, false] bits))))
  let l := rows.zipIdx.map fun e =>
    { wa := e.1.1, wb := e.1.2.1, badA := e.1.2.2.1, badB := e.1.2.2.2.1, bits := e.1.2.2.2.2
      code := decide (448 ≤ e.2) && decide (e.2 < 37312) : EqBit }
  let r := equalize g mu l (eq, drawn)
  { y := r.1, gone := List.zipWith (· && ·) bad.1 bad.2, eq := r.2.1, drawn := r.2.2 }

/-! ### Sync marks (R206, R207) -/

/-- Differing bits of a mark at slot bit `p`, in decisions counted from slot bit −32. -/
def markDiff (bits mark : List Bool) (p : Int) : Nat :=
  let got := (bits.drop (32 + p).toNat).take 32
  if got.length = 32 then bitDiffs got mark else 32

/-- Score that the marks give the anchor at an offset from nominal: 32 less the differing bits, for each that matches at threshold `d`. -/
def anchorScore (d : Nat) (bits : List Bool) (o : Int) : Nat :=
  let s1 := markDiff bits (markBits 0x2F1B_9CD4) (288 + o)
  let s2 := markDiff bits (markBits 0x5B8E_1C73) (384 + o)
  (if s1 ≤ d then 32 - s1 else 0) + (if s2 ≤ d then 32 - s2 else 0)

/-- An anchor is proposed. -/
def anchorMatch (d : Nat) (bits : List Bool) (o : Int) : Bool :=
  decide (markDiff bits (markBits 0x2F1B_9CD4) (288 + o) ≤ d) || decide (markDiff bits (markBits 0x5B8E_1C73) (384 + o) ≤ d)

/-- A candidate put into a list ranked by score; the list was built in the order of R207's ties. -/
def rankCand (l : List Cand) (c : Cand) : List Cand :=
  match l with
  | [] => [c]
  | x :: rest => if x.score < c.score then c :: x :: rest else x :: rankCand rest c

/-- Every anchor proposed at a threshold, ranked. -/
def rankedAnchors (d : Nat) (bits : List Bool) : List Cand :=
  (((nearOffsets 24).filter (anchorMatch d bits)).map fun o => { off := o, score := anchorScore d bits o : Cand }).foldl rankCand []

/-- The three best. -/
def candidates (d : Nat) (bits : List Bool) : List Cand := (rankedAnchors d bits).take 3

/-! ### The detector (R225) -/

/-- A quotient in whole LLR units; where it is no integer it goes to one of its neighbours, which one is open. -/
def roundOpen (x : Int) (d : Nat) : Int :=
  let f := x / (d : Int)
  if x % (d : Int) = 0 then f else if Config.roundUp x d then f + 1 else f

/-- Saturation at ±127. -/
def sat127 (x : Int) : Int := clampInt (-127) 127 x

/-- Metric of a state that no path reaches. -/
def noPath : Int := -(2 ^ 60)

/-- The trellis state after a bit: bits 0 to 3 are a[k − 1] to a[k − 4]. -/
def trellisNext (st : Nat) (b : Bool) : Nat := bit01 b + 2 * (st % 8)

/-- The bits of a state, nearest first. -/
def stateBits (st : Nat) : List Bool := [st.testBit 0, st.testBit 1, st.testBit 2, st.testBit 3]

/-- One step of the trellis: y, the a-priori LLR, and the bit where it is known. -/
structure Branch where
  y : Int
  la : Int
  known : Option Bool

/-- Metric of a branch in 1/(2 SIGMA²) of a LLR unit: R225's metric, and half the a-priori LLR for the bit's value. -/
def branchMetric (ideal : List Int) (sigma : Nat) (x : Branch) (st : Nat) (b : Bool) : Int :=
  if x.known = some (!b) then noPath
  else
    let d := x.y - ideal.getD (2 * st + bit01 b) 0
    (if b then -x.la else x.la) * ((sigma * sigma : Nat) : Int) - 128 * d * d

/-- The ideal y of every state and bit. -/
def idealTable (g : List Int) : List Int :=
  (List.range 16).flatMap fun st => [yIdeal g (false :: stateBits st), yIdeal g (true :: stateBits st)]

/-- The greater of two metrics. -/
def best (a b : Int) : Int := if a < b then b else a

/-- Forward metrics after a step: state `2 m + b` (mod 16) is reached from states `m` and `m + 8`. -/
def forward (ideal : List Int) (sigma : Nat) (x : Branch) (al : List Int) : List Int :=
  (List.range 16).map fun t =>
    let b := decide (t % 2 = 1)
    best (al.getD (t / 2) noPath + branchMetric ideal sigma x (t / 2) b)
      (al.getD (t / 2 + 8) noPath + branchMetric ideal sigma x (t / 2 + 8) b)

/-- Backward metrics before a step. -/
def backward (ideal : List Int) (sigma : Nat) (x : Branch) (be : List Int) : List Int :=
  (List.range 16).map fun st =>
    best (be.getD (trellisNext st false) noPath + branchMetric ideal sigma x st false)
      (be.getD (trellisNext st true) noPath + branchMetric ideal sigma x st true)

/-- The best path metric through a step with a given bit. -/
def bestWith (ideal : List Int) (sigma : Nat) (x : Branch) (al be : List Int) (b : Bool) : Int :=
  (List.range 16).foldl (fun m st =>
    best m (al.getD st noPath + branchMetric ideal sigma x st b + be.getD (trellisNext st b) noPath)) (2 * noPath)

/-- Max-log MAP from forward metrics on: the backward metrics before the steps, and the difference of the best paths for each. -/
def mapRun (ideal : List Int) (sigma : Nat) (al : List Int) (l : List Branch) : List Int × List Int :=
  match l with
  | [] => (List.replicate 16 0, [])
  | x :: rest =>
    let r := mapRun ideal sigma (forward ideal sigma x al) rest
    (backward ideal sigma x r.1, (bestWith ideal sigma x al r.1 false - bestWith ideal sigma x al r.1 true) :: r.2)

/-- Forward metrics at the start: the last four bits of SM2 lie before the codeword. -/
def startMetrics : List Int := (List.range 16).map fun st => if st = 3 then 0 else noPath

/-- The detector over the codeword at an anchor: for each codeword bit the output and its extrinsic part. Four bits of the postamble
give the ending state. -/
def detect (g : List Int) (sigma : Nat) (ys las : List Int) : List (Int × Int) :=
  let sg := max 1 sigma
  let code := (List.range 36864).zip (ys.zip las) |>.map fun e => { y := e.2.1, la := e.2.2, known := none : Branch }
  let post := List.zipWith (fun y b => { y := y, la := 0, known := some b : Branch }) (ys.drop 36864) (twoT 4)
  let out := (mapRun (idealTable g) sg startMetrics (code ++ post)).2
  List.zipWith (fun x la => let v := roundOpen x (2 * sg * sg); (sat127 v, sat127 (v - la))) (out.take 36864) las

/-! ### The decoder (R209, R226, R227) -/

/-- Block columns of a layer with their shifts. -/
def layerEdges (i : Nat) : List (Nat × Nat) :=
  ((List.range 86).filter (ldpcRow i)).map (fun j => (j, ldpcShift i j))
    ++ (if i = 0 || i = 9 then [(86, 1)] else if i = 5 then [(86, 0)] else [])
    ++ ((List.range 9).filter fun t => t = i || t + 1 = i).map fun t => (87 + t, 0)

/-- Over the edges of a row: the least and the second least magnitude, and the parity of the signs. -/
structure RowMin where
  m1 : Nat
  m2 : Nat
  neg : Bool

def RowMin.add (r : RowMin) (q : Int) : RowMin :=
  let a := q.natAbs
  { m1 := min r.m1 a, m2 := if a < r.m1 then r.m1 else min r.m2 a, neg := r.neg != decide (q < 0) }

/-- The new message of an edge: the least magnitude of the others, scaled by NORM / 16, with the product of their signs. -/
def edgeMessage (norm : Nat) (r : RowMin) (q : Int) : Int :=
  let m := if q.natAbs = r.m1 then r.m2 else r.m1
  let v := roundOpen ((norm * m : Nat) : Int) 16
  if r.neg != decide (q < 0) then -v else v

/-- One layer: block LLRs and the layer's messages. -/
def layerStep (norm i : Nat) (bl : List (List Int)) (msgs : List (List Int)) : List (List Int) × List (List Int) :=
  let es := layerEdges i
  let qs := List.zipWith (fun (e : Nat × Nat) r => List.zipWith (fun l m => sat127 (l - m)) (circulant (bl.getD e.1 []) e.2) r) es msgs
  let rows := qs.foldl (fun acc q => List.zipWith RowMin.add acc q) (List.replicate 384 { m1 := 127, m2 := 127, neg := false })
  let new := qs.map fun q => List.zipWith (edgeMessage norm) rows q
  let upd := (es.zip (qs.zip new)).foldl (fun (b : List (List Int)) e =>
    b.set e.1.1 (circulant (List.zipWith (· + ·) e.2.1 e.2.2) (384 - e.1.2 % 384))) bl
  (upd, new)

/-- The LLRs of the bits in blocks, and the messages of the ten layers. -/
structure Decoder where
  blocks : List (List Int)
  msgs : List (List (List Int))

/-- One local iteration: the ten layers in order. -/
def localIter (norm : Nat) (d : Decoder) : Decoder :=
  let r := (List.range 10).foldl (fun (acc : List (List Int) × List (List (List Int))) i =>
    let w := layerStep norm i acc.1 (d.msgs.getD i [])
    (w.1, acc.2 ++ [w.2])) (d.blocks, [])
  { blocks := r.1, msgs := r.2 }

/-- Hard decisions on LLRs: a positive LLR favours 0. -/
def hard (l : List Int) : List Bool := l.map fun x => decide (x < 0)

/-- Parity checks that a word leaves unsatisfied (R209). -/
def unsatisfied (c : List Bool) : Nat :=
  ((List.range 10).map fun i =>
    ((layerEdges i).foldl (fun acc (e : Nat × Nat) => xorBits acc (circulant (block c e.1) e.2)) (List.replicate 384 false)
      |>.filter id).length).sum

/-- Local iterations until the syndrome is zero or they are used up (R227). -/
def localIters (norm k : Nat) (d : Decoder) : Decoder × Nat :=
  match k with
  | 0 => (d, unsatisfied (hard d.blocks.flatten))
  | k' + 1 =>
    let d := localIter norm d
    let u := unsatisfied (hard d.blocks.flatten)
    if u = 0 then (d, 0) else if k' = 0 then (d, u) else localIters norm k' d

/-- What detector and decoder are set to. -/
structure DecCfg where
  g : List Int
  sigma : Nat
  norm : Nat
  localMax : Nat
  globalMax : Nat
  erase : Bool

/-- How the decoding of a candidate ended: global iterations, unsatisfied checks, final decisions, channel LLRs. -/
structure CandEnd where
  giter : Nat
  unsat : Nat
  bits : List Bool
  lam : List Int

/-- Erased bits carry no evidence (R234). -/
def eraseMarked (on : Bool) (marks : List Bool) (l : List Int) : List Int :=
  if on then List.zipWith (fun m x => if m then 0 else x) marks l else l

/-- A list in blocks of 384. -/
def blocksOf (l : List Int) : List (List Int) := (List.range 96).map fun j => (l.drop (384 * j)).take 384

/-- The decoder before its first local iteration: no messages. -/
def freshDecoder (input : List Int) : Decoder :=
  { blocks := blocksOf input, msgs := (List.range 10).map fun i => (layerEdges i).map fun _ => List.replicate 384 0 }

/-- Global iterations `it` and on, `k` of them left (R226, R227). -/
def globalIters (c : DecCfg) (marks : List Bool) (rho ys : List Int) (k it : Nat) (apr : List Int) (lam : Option (List Int)) : CandEnd :=
  match k with
  | 0 => { giter := it, unsat := 3840, bits := [], lam := lam.getD [] }
  | k' + 1 =>
    let out := detect c.g c.sigma ys apr
    let lam := match lam with
      | some l => l
      | none => eraseMarked c.erase marks (out.map (·.1))
    let ext := eraseMarked c.erase marks (out.map (·.2))
    let input := List.zipWith (fun e r => sat127 (e + r)) ext rho
    let r := localIters c.norm c.localMax (freshDecoder input)
    let l := r.1.blocks.flatten
    let done : CandEnd := { giter := it + 1, unsat := r.2, bits := hard l, lam := lam }
    if r.2 = 0 || k' = 0 then done
    else globalIters c marks rho ys k' (it + 1) (List.zipWith (fun x i => sat127 (x - i)) l input) (some lam)

/-- The combined stream from the first codeword bit of an anchor on: the codeword and the four bits after it. -/
def anchorStream {α : Type} (off : Int) (l : List α) (n : Nat) : List α := (l.drop (448 + off).toNat).take n

/-- Codeword bits marked at an anchor. -/
def anchorMarks (off : Int) (gone : List Bool) : List Bool := anchorStream off gone 36864

/-- A candidate decoded. -/
def decodeCand (c : DecCfg) (y : List Int) (gone : List Bool) (rho : List Int) (off : Int) : CandEnd :=
  globalIters c (anchorMarks off gone) rho (anchorStream off y 36868) c.globalMax 0 (List.replicate 36864 0) none

/-- The byte of eight bits, most significant first. -/
def bitsByte (l : List Bool) : Byte := BitVec.ofNat 8 (l.foldl (fun v b => 2 * v + bit01 b) 0)

/-- `n` bytes from bits. -/
def bytesOfBits (n : Nat) (l : List Bool) : List Byte :=
  match n with
  | 0 => []
  | k + 1 => bitsByte (l.take 8) :: bytesOfBits k (l.drop 8)

/-- The information bytes of a codeword, descrambled (R203, R227). -/
def CandEnd.info (e : CandEnd) : List Byte := bytesOfBits 4128 (scrambleFrom 0x7FFF (e.bits.take 33024))

/-- Bits whose final decision differs from the sign of the channel LLR (R232). -/
def CandEnd.corr (e : CandEnd) : Nat := bitDiffs e.bits (hard e.lam)

end Sys2Proof.Machine
end

