-- ==== Sys2Proof/Machine/Aes.lean ====
section
/-! DEFINITION. XTS-AES-256 under IEEE 1619 (R162), with AES-256 of FIPS 197. A block is its 16 bytes in order. -/

namespace Sys2Proof.Machine

/-! ### The field of AES, polynomial 0x11B -/

def aesDouble (a : Nat) : Nat := if a < 128 then 2 * a else (2 * a) ^^^ 0x11B

/-- Product, over the lowest `n` bits of `b`. -/
def aesMulN (n a b : Nat) : Nat :=
  match n with
  | 0 => 0
  | n' + 1 => (if b % 2 = 1 then a else 0) ^^^ aesMulN n' (aesDouble a) (b / 2)
def aesMul (a b : Nat) : Nat := aesMulN 8 a b

/-- Inverse, a^254; 0 of 0. -/
def aesInv (a : Nat) : Nat :=
  let a2 := aesMul a a
  let a4 := aesMul a2 a2
  let a8 := aesMul a4 a4
  let a16 := aesMul a8 a8
  let a32 := aesMul a16 a16
  let a64 := aesMul a32 a32
  aesMul a2 (aesMul a4 (aesMul a8 (aesMul a16 (aesMul a32 (aesMul a64 (aesMul a64 a64))))))

/-- A byte rotated left. -/
def rotl8 (a k : Nat) : Nat := a * 2 ^ k % 256 + a / 2 ^ (8 - k)

/-- SubBytes and its inverse, on one byte. -/
def subByte (b : Byte) : Byte :=
  let x := aesInv b.toNat
  BitVec.ofNat 8 (x ^^^ rotl8 x 1 ^^^ rotl8 x 2 ^^^ rotl8 x 3 ^^^ rotl8 x 4 ^^^ 0x63)
def invSubByte (b : Byte) : Byte :=
  let x := b.toNat
  BitVec.ofNat 8 (aesInv (rotl8 x 1 ^^^ rotl8 x 3 ^^^ rotl8 x 6 ^^^ 0x05))

/-! ### Rounds: byte `r + 4c` is row `r` of column `c` -/

def byteAt (l : List Byte) (i : Nat) : Byte := l.getD i 0

def shiftRows (l : List Byte) : List Byte := (List.range 16).map fun i => byteAt l ((i + 4 * (i % 4)) % 16)
def invShiftRows (l : List Byte) : List Byte := (List.range 16).map fun i => byteAt l ((i + 12 * (i % 4)) % 16)

/-- Each column times a polynomial, its coefficients given for row 0. -/
def mixWith (k : List Nat) (l : List Byte) : List Byte :=
  (List.range 16).map fun i =>
    BitVec.ofNat 8 ((List.range 4).foldl (fun v j => v ^^^ aesMul (k.getD ((j + 4 - i % 4) % 4) 0) (byteAt l (4 * (i / 4) + j)).toNat) 0)
def mixColumns (l : List Byte) : List Byte := mixWith [2, 3, 1, 1] l
def invMixColumns (l : List Byte) : List Byte := mixWith [14, 11, 13, 9] l

/-! ### Key expansion -/

/-- Round constant of word 8i. -/
def rcon (i : Nat) : Nat := aesDouble^[i - 1] 1

/-- The next word of the schedule, number `i`, from the words before it, newest first. -/
def nextWord (i : Nat) (ws : List (List Byte)) : List Byte :=
  let prev := ws.headD []
  let t :=
    if i % 8 = 0 then xorBytes ((prev.drop 1 ++ prev.take 1).map subByte) [BitVec.ofNat 8 (rcon (i / 8)), 0, 0, 0]
    else if i % 8 = 4 then prev.map subByte else prev
  xorBytes (ws.getD 7 []) t

def expandFrom (n i : Nat) (ws : List (List Byte)) : List (List Byte) :=
  match n with
  | 0 => ws
  | n' + 1 => expandFrom n' (i + 1) (nextWord i ws :: ws)

/-- The 15 round keys of a key of 32 bytes. -/
def roundKeys (key : List Byte) : List (List Byte) :=
  let ws := (expandFrom 52 8 (((List.range 8).map fun i => (key.drop (4 * i)).take 4).reverse)).reverse.flatten
  (List.range 15).map fun r => (ws.drop (16 * r)).take 16

/-! ### The cipher -/

def encRound (b k : List Byte) : List Byte := xorBytes (mixColumns (shiftRows (b.map subByte))) k
def decRound (b k : List Byte) : List Byte := invMixColumns (xorBytes ((invShiftRows b).map invSubByte) k)

/-- One block under round keys. -/
def aesEnc (ks : List (List Byte)) (b : List Byte) : List Byte :=
  let b := ((ks.drop 1).take 13).foldl encRound (xorBytes b (ks.getD 0 []))
  xorBytes (shiftRows (b.map subByte)) (ks.getD 14 [])
def aesDec (ks : List (List Byte)) (b : List Byte) : List Byte :=
  let b := ((ks.drop 1).take 13).reverse.foldl decRound (xorBytes b (ks.getD 14 []))
  xorBytes ((invShiftRows b).map invSubByte) (ks.getD 0 [])

/-! ### XTS -/

/-- The tweak of the block that follows. -/
def nextTweak (t : Nat) : Nat := if t < 2 ^ 127 then 2 * t else (2 * t % 2 ^ 128) ^^^ 0x87

/-- The blocks of a data unit, each with its tweak. -/
def xtsBlocks (f : List Byte → List Byte) (n t : Nat) (bs : List Byte) : List Byte :=
  match n with
  | 0 => []
  | n' + 1 =>
    let m := toBytes 16 t
    xorBytes (f (xorBytes (bs.take 16) m)) m ++ xtsBlocks f n' (nextTweak t) (bs.drop 16)

/-- A data unit of whole blocks encrypted under a key of 64 bytes: the data key and then the tweak key. -/
def xtsEnc (key : List Byte) (tweak : BitVec 128) (bs : List Byte) : List Byte :=
  xtsBlocks (aesEnc (roundKeys (key.take 32))) (bs.length / 16) (ofBytes (aesEnc (roundKeys (key.drop 32)) (toBytes 16 tweak.toNat))) bs
def xtsDec (key : List Byte) (tweak : BitVec 128) (bs : List Byte) : List Byte :=
  xtsBlocks (aesDec (roundKeys (key.take 32))) (bs.length / 16) (ofBytes (aesEnc (roundKeys (key.drop 32)) (toBytes 16 tweak.toNat))) bs

/-- The media key that a draw of the Datum die's generator made (R586). -/
def mediaKey (draw : Nat) : List Byte := (List.range 64).map (Config.keyByte draw)

end Sys2Proof.Machine
end

