-- ==== Sys2Proof/Machine/Flash.lean ====
section
/-! DEFINITION. The flash tier beneath the commands of Facet: geometry (R384, R385, R387, R390), superblocks and slots (R389,
R391), mapping entries (R392–R394), the journal (R396, R397), the reserve and room (R399, R400, R418). -/

namespace Sys2Proof.Machine

/-! ### Geometry -/

def fBlocks (g : Nat) : Nat := fld g 32 14
def fPages (g : Nat) : Nat := fld g 16 13
def fLuns (g : Nat) : Nat := fld g 6 2 + 1
def fPlanes (g : Nat) : Nat := fld g 4 2 + 1
def fCells (g : Nat) : Nat := fld g 2 2 + 1
/-- SPP of R387. -/
def fSpp (g : Nat) : Nat := if g.testBit 1 then 8 else 4
/-- Slots of a die page: those planes are programmed together. -/
def fDie (g : Nat) : Nat := fPlanes g * fSpp g

/-- D of R390. -/
def fctDpg (s : State) : Nat := clampNat 1 4 (rf s Reg.fctGeomcfg 0 3)

def dieFailed (s : State) (d : Nat) : Bool := rbit s (Reg.fctDiefail (d / 32)) (d % 32)

/-- Members of die group `g`: by channel, then by index (R390), without the dies that have failed (R405). -/
def groupDies (s : State) (g : Nat) : List Nat :=
  (List.range 8).flatMap fun c =>
    ((List.range (fctDpg s)).map fun i => 32 * c + g * fctDpg s + i).filter fun d => s.fct.dies.contains d && !dieFailed s d && !s.fct.omitted.contains d
      && decide (d / 32 = c)

/-- Die groups of which superblocks can be formed: W in 3 to 32. -/
def dieGroups (s : State) : List Nat :=
  (List.range 32).filter fun g => decide (3 ≤ (groupDies s g).length) && decide ((groupDies s g).length ≤ 32)

/-- Superblocks of a die group: block 0 is kept for root pages (R398), the last blocks for spares (R415). -/
def sbsPerGroup (s : State) : Nat := fBlocks s.fct.geom - s.fct.sparePer - 1

/-- Numbers of the superblocks that can be opened. -/
def sbNumber (g i : Nat) : Nat := g * 16384 + i + 1
def sbTotal (s : State) : Nat := (dieGroups s).length * sbsPerGroup s

def sbAt (s : State) (n : Nat) : Sb := tget Sb.erased s.fct.sbs n
def modFct (s : State) (f : FctSt → FctSt) : State := { s with fct := f s.fct }
def setSb (s : State) (n : Nat) (x : Sb) : State := modFct s fun f => { f with sbs := tset Sb.erased f.sbs n x }
def modSb (s : State) (n : Nat) (f : Sb → Sb) : State := setSb s n (f (sbAt s n))

/-- Pages of a superblock in its mode (R399), its stripe in slots, and its slots in all. -/
def sbPages (s : State) (native : Bool) : Nat := if native then fPages s.fct.geom else fPages s.fct.geom / fCells s.fct.geom
def sbStripe (s : State) (x : Sb) : Nat := x.members.length * fDie s.fct.geom
def sbSlots (s : State) (x : Sb) : Nat := sbPages s x.native * sbStripe s x

/-- Data slots of a superblock of `w` members: without XOR slots and headers. -/
def dataSlotsOf (s : State) (native : Bool) (w : Nat) : Nat :=
  sbPages s native * (w - 1) * fDie s.fct.geom - (w - 1) * fPlanes s.fct.geom

/-- Where slot `n` of a superblock lies: page, member position, plane, slot of the page. A stripe's data die pages are programmed in
the order of the members, its XOR die page last. -/
def slotPlace (s : State) (x : Sb) (n : Nat) : Nat × Nat × Nat × Nat :=
  let d := fDie s.fct.geom
  let w := x.members.length
  let p := n / d / w
  let j := n / d % w
  let m := if j + 1 = w then p % w else if j < p % w then j else j + 1
  (p, m, n % d / fSpp s.fct.geom, n % fSpp s.fct.geom)

/-- The slot that lies at a page, member position, plane and slot; none on an XOR die page. -/
def slotOf (s : State) (x : Sb) (p m plane i : Nat) : Option Nat :=
  let w := x.members.length
  if m = p % w then none
  else some (((p * w + (if m < p % w then m else m - 1)) * fPlanes s.fct.geom + plane) * fSpp s.fct.geom + i)

/-- What a slot that belongs to no FLA is listed as. -/
def noFla : Nat := 2 ^ 40

/-- FLA of slot `n`, as programmed. -/
def slotFla (x : Sb) (n : Nat) : Nat := x.slots.getD (x.slots.length - 1 - n) noFla

/-! ### Mapping (R392, R393) -/

def flaSpace (f : Nat) : Nat := fld f 36 4
def flaIndex (f : Nat) : Nat := fld f 0 36
def flaValid (s : State) (f : Nat) : Bool :=
  decide (f < 2 ^ 40) && decide (flaSpace f ≤ 4) && decide (flaIndex f < rn s (Reg.fctSpacelim (flaSpace f)) % 2 ^ 36)

/-- Key of a slot in `FctSt.data`. -/
def slotRef (n i : Nat) : Nat := n * 2 ^ 24 + i
def flashAt (s : State) (f : Nat) : Option Nat :=
  match tget 0 s.fct.map f with
  | 0 => none
  | k + 1 => some k

/-! ### Codewords (R386, R388, R389, R391) -/

/-- The scrambler's seed of a slot (R386). -/
def flashSeed (die page plane i : Nat) : Nat := 1 + ((die * 8192 + page) * 32 + plane * 8 + i) % 32767

/-- Seed of slot `i` of a superblock. -/
def slotSeed (s : State) (n i : Nat) : Nat :=
  let x := sbAt s n
  let p := slotPlace s x i
  flashSeed (x.members.getD p.2.1 0) p.1 p.2.2.1 p.2.2.2

/-- The 4,608 bytes of a codeword: 4,128 information bytes scrambled from a seed, and 480 bytes of parity over the scrambled bits. -/
def flashCodeword (seed : Nat) (info : List Byte) : List Byte :=
  let c := scrambleFrom seed ((fitBytes 4128 info).flatMap byteBits)
  bytesOfBits 4608 (c ++ ldpcParity c)

/-- The information bytes of a codeword. -/
def codewordInfo (seed : Nat) (cw : List Byte) : List Byte := bytesOfBits 4128 (scrambleFrom seed ((cw.take 4128).flatMap byteBits))

/-- LLRs of a hard read: each bit at the one magnitude that a hard read gives. -/
def hardLlrs (bits : List Bool) : List Int :=
  let m : Int := ((1 + Config.flashLlr % 127 : Nat) : Int)
  bits.map fun b => if b then -m else m

/-- LLRs of the three reads of step 3: +96, +24, −24 or −96 as 3, 2, 1 or 0 of them return 0 (R402). -/
def softLlrs (a b c : List Bool) : List Int :=
  List.zipWith (fun (n : Nat) (z : Bool) =>
      match n + bit01 (!z) with
      | 3 => 96
      | 2 => 24
      | 1 => -24
      | _ => -96)
    (List.zipWith (fun x y => bit01 (!x) + bit01 (!y)) a b) c

/-- Iterations that the decoder used, and the bits on which its syndrome is zero; none where ITMAX iterations do not reach it (R402). -/
def flashIters (k used : Nat) (d : Decoder) : Option (Nat × List Bool) :=
  match k with
  | 0 => none
  | k' + 1 =>
    let d := localIter 12 d
    let c := hard d.blocks.flatten
    if unsatisfied c = 0 then some (used + 1, c) else flashIters k' (used + 1) d

/-- One decoding of a codeword: zero syndrome, and for a tagged unit TCRC and DCRC (R402). -/
def flashTry (itmax seed : Nat) (tagged : Bool) (llrs : List Int) : Option (Nat × List Bool) :=
  (flashIters itmax 0 (freshDecoder llrs)).filter fun r =>
    let info := codewordInfo seed (bytesOfBits 4608 r.2)
    !tagged || (tcrcOk info && dcrcOk info)

/-- The first of some reads that decodes, with its bits. -/
def firstTry (itmax seed : Nat) (tagged : Bool) (reads : List (List Bool)) : Option (Nat × List Bool × List Bool) :=
  match reads with
  | [] => none
  | h :: rest =>
    match flashTry itmax seed tagged (hardLlrs h) with
    | some (i, c) => some (i, h, c)
    | none => firstTry itmax seed tagged rest

/-- The read that leaves the fewest checks unsatisfied, the first of several. -/
def bestRead (best : List Bool) (reads : List (List Bool)) : List Bool :=
  match reads with
  | [] => best
  | h :: rest => bestRead (if unsatisfied h < unsatisfied best then h else best) rest

/-- How a codeword ends in R402: the step at which it decodes, 4 where its stripe is rebuilt, 5 where it is unrecoverable; the
iterations used, and the bits corrected of the read that decoded. -/
structure FlashEnd where
  step : Nat
  iters : Nat
  bits : Nat
  deriving DecidableEq, Repr

/-- The steps of R402 on the reads of a codeword. `rebuilt`: its stripe can be rebuilt (R403). -/
def flashEnd (s : State) (seed : Nat) (tagged rebuilt : Bool) (r : FlashReads) : FlashEnd :=
  let itmax := max 1 (rf s Reg.fctDecctl 0 6)
  let h := r.hard.flatMap byteBits
  let levels := (r.levels.take (rf s Reg.fctDecctl 8 4)).map fun l => l.flatMap byteBits
  match firstTry itmax seed tagged [h] with
  | some (i, x, c) => { step := 1, iters := i, bits := bitDiffs x c }
  | none =>
    match firstTry itmax seed tagged levels with
    | some (i, x, c) => { step := 2, iters := i, bits := bitDiffs x c }
    | none =>
      let best := bestRead h levels
      match flashTry itmax seed tagged (softLlrs best (r.below.flatMap byteBits) (r.above.flatMap byteBits)) with
      | some (i, c) => { step := 3, iters := i, bits := bitDiffs best c }
      | none => { step := if rebuilt && r.others then 4 else 5, iters := itmax, bits := 0 }

/-- The information bytes of the slot that an FLA names; an unmapped one reads as zeroes (R393). -/
def flashBytes (s : State) (f : Nat) : List Byte :=
  match flashAt s f with
  | none => zeros 4128
  | some k => codewordInfo (slotSeed s (k / 2 ^ 24) (k % 2 ^ 24)) (tget [] s.fct.data k)

/-- An internal page (R388). -/
def internalPage (kind stream seq fla : Nat) (payload : List Byte) : List Byte :=
  let pay := fitBytes 4096 payload
  let front := asciiBytes "FCTI" ++ toBytes 1 kind ++ toBytes 1 stream ++ zeros 2 ++ toBytes 8 seq ++ toBytes 5 fla ++ zeros 3
    ++ toBytes 4 (crc32c pay) ++ zeros 2
  front ++ toBytesBe 2 (crc16 front ^^^ 0xFFFF) ++ pay

/-- The block header of member position `pos` of a superblock (R389). -/
def blockHeader (n : Nat) (x : Sb) (pos : Nat) : List Byte :=
  internalPage 1 x.stream x.bseq 0
    (toBytes 4 n ++ toBytes 1 (bit01 x.native) ++ toBytes 1 x.members.length ++ toBytes 1 pos ++ zeros 1 ++ toBytes 4 (2 ^ x.members.length - 1)
      ++ toBytes 4 x.pec ++ toBytes 8 x.opened)

/-- The mapping entry of a slot in the format of R393. -/
def mapEntry (s : State) (n i : Nat) : Nat :=
  let x := sbAt s n
  let p := slotPlace s x i
  2 ^ 63 + 2 ^ 62 * bit01 (!x.native) + 2 ^ 50 * (x.members.getD p.2.1 0) + 2 ^ 48 * p.2.2.1 + 2 ^ 34 * (n % 16384) + 2 ^ 21 * p.1
    + 2 ^ 18 * p.2.2.2

/-! ### Journal (R396, R397) -/

/-- Entries appended to the journal; a page of 256 entries is programmed as it fills. -/
def appendJournal (s : State) (l : List JEntry) : State :=
  modFct s fun f =>
    let j := f.jseq + l.length
    { f with journal := f.journal ++ l, jseq := j, jFlash := max f.jFlash (j / 256 * 256) }

/-- The journal's last page is programmed as it stands. -/
def flushJournal (s : State) : State := modFct s fun f => { f with jFlash := f.jseq }

/-- The blocks of a superblock. -/
def sbBlocks (s : State) (n : Nat) : List Nat :=
  (sbAt s n).members.flatMap fun d => (List.range (fPlanes s.fct.geom)).map fun pl => (d * 4 + pl) * 16384 + n % 16384

/-- One entry of a kind for each block of a superblock. -/
def journalBlocks (s : State) (n op : Nat) : State :=
  appendJournal s ((sbBlocks s n).map fun b =>
    { key := b, op := op, arg := 0, value := 2 ^ 50 * (b / 65536) + 2 ^ 48 * (b / 16384 % 4) + 2 ^ 34 * (b % 16384) })

/-- Map changes as the journal replays them (R398). -/
def replayEntry (m : SMap Nat) (n : Nat × JEntry) : SMap Nat :=
  if n.2.op = 1 then tset 0 m n.2.key n.1 else if n.2.op = 2 then tset 0 m n.2.key 0 else m

/-! ### Room -/

def sbUsed (s : State) : List (Nat × Sb) := s.fct.sbs.filter fun e => e.2.st ≠ .erased
def freeSbs (s : State) : Nat := sbTotal s - (sbUsed s).length
def slcInUse (s : State) : Nat := ((sbUsed s).filter fun e => !e.2.native).length

/-- Superblocks that may be in SLC mode at once (R399). -/
def slcLimit (s : State) : Nat := sbTotal s * clampNat 1 50 (rf s Reg.fctSlccfg 0 8) / 100

/-- Free superblocks that may serve in SLC mode. -/
def freeSlc (s : State) : Nat := min (freeSbs s) (slcLimit s - slcInUse s)

/-- Data slots of an SLC superblock of the widest die group. -/
def slcSlots (s : State) : Nat := (dieGroups s).foldl (fun m g => max m (dataSlotsOf s false (groupDies s g).length)) 0

/-- Bytes of the reserve beside the dirty set: journal, manifest and record, and the padding of every open stripe (R400). -/
def reserveOther (s : State) : Nat :=
  8 * 2 ^ 20 + (((sbUsed s).filter fun e => e.2.st = .open_).map fun e => sbStripe s e.2).sum * 4096

/-- The power-fail reserve that is due, in superblocks (R400). -/
def pfReserve (s : State) : Nat :=
  let bytes := rf s Reg.pmuPfctl 8 8 * 2 ^ 20 + reserveOther s
  let per := slcSlots s * 4096
  if per = 0 then 0 else (bytes + per - 1) / per + 1

/-- The reserve that the free superblocks give, in superblocks, and the bytes of a dirty set that it holds: DIRTYCAP where it does not
fall short (R400). -/
def pfHeld (s : State) : Nat := min (pfReserve s) (freeSlc s)
def reserveHolds (s : State) : Nat :=
  if pfHeld s = pfReserve s then rf s Reg.pmuPfctl 8 8 * 2 ^ 20 else (pfHeld s - 1) * (slcSlots s * 4096) - reserveOther s

/-- Units of the flash tier that live chunk data may fill (R418): outside the reserve and above FREECRIT; none once host data no
longer enter the tier (R416). -/
def flashUnits (s : State) : Nat :=
  if !s.fct.ready || s.fct.mode ≠ .normal then 0
  else
    let per := (dieGroups s).foldl (fun m g => max m (dataSlotsOf s true (groupDies s g).length)) 0
    (sbTotal s - pfReserve s - rf s Reg.fctFreeth 16 16) * per

/-! ### Spares (R415) -/

/-- Spares left in a plane, and in the tier. -/
def sparesLeft (s : State) (d plane : Nat) : Nat :=
  s.fct.sparePer - (s.fct.retired.filter fun b => b / 16384 = d * 4 + plane).length
def sparesReserved (s : State) : Nat := s.fct.dies.length * fPlanes s.fct.geom * s.fct.sparePer
def sparesTotal (s : State) : Nat :=
  (s.fct.dies.map fun d => ((List.range (fPlanes s.fct.geom)).map fun p => sparesLeft s d p).sum).sum

/-! ### Views (R420, R421) -/

def modeCode (m : TierMode) : Nat := match m with | .normal => 0 | .writethru => 1 | .retired => 2

/-- Mean and highest erase count of the native superblocks. -/
def pecAvg (s : State) : Nat :=
  let l := (s.fct.sbs.filter fun e => e.2.native).map fun e => e.2.pec
  if l.length = 0 then 0 else min 0xFFFF (l.sum / l.length) + 2 ^ 16 * min 0xFFFF (l.foldl max 0)

def viewFct (s : State) (off : Nat) : Option Nat :=
  let f := s.fct
  if off = 0x04 then
    some (2 ^ 31 * bit01 f.ready + 2 ^ 29 * bit01 (f.victim.isSome && !f.folding) + 2 ^ 28 * bit01 f.folding
      + 2 ^ 27 * bit01 (f.ready && rbit s Reg.fctCtl 1) + 2 ^ 16 * ((f.dies.length - 1) % 256) + 2 ^ 8 * modeCode f.mode
      + (f.dies.foldl (fun m d => putBit m (d / 32) true) 0) % 256)
  else if off = 0x10 then some (if f.ready then f.geom else 0)
  else if off = 0x20 then some (min 0xFFFF (slcInUse s) + 2 ^ 16 * min 0xFFFF (pfHeld s))
  else if off = 0xA0 then some (min 0xFFFF (sparesTotal s) + 2 ^ 16 * min 0xFFFF (sparesReserved s / 4))
  else if off = 0xA4 then some (freeSbs s % 2 ^ 20)
  else if off = 0xB0 then some (pecAvg s)
  else if off = 0xD4 then some (min 0xFFFF_FFFF f.retired.length)
  else if off = 0xE0 then some f.jseq
  else none

end Sys2Proof.Machine
end

