-- ==== Sys2Proof/Machine/Inflate.lean ====
section
/-! DEFINITION. Inflation of a raw DEFLATE stream under RFC 1951 (R159, R164): bits come least significant first, and the output is kept
newest byte first. -/

namespace Sys2Proof.Machine

/-- Bits of a byte, least significant first. -/
def lsbBits (b : Byte) : List Bool := (List.range 8).map b.toNat.testBit

/-- A number of `n` bits, least significant first. -/
def takeBits (n : Nat) (l : List Bool) : Option (Nat × List Bool) :=
  match n, l with
  | 0, l => some (0, l)
  | _ + 1, [] => none
  | n' + 1, b :: rest => (takeBits n' rest).map fun r => (bit01 b + 2 * r.1, r.2)

/-- Symbols of a code whose length is `k`, in order. -/
def symsOf (lens : List Nat) (k : Nat) : List Nat := (List.range lens.length).filter fun i => lens.getD i 0 = k

/-- A symbol of the canonical code of given lengths: `code` and `first` are the code read so far and the first code of its length. -/
def huffSym (lens : List Nat) (n k code first : Nat) (l : List Bool) : Option (Nat × List Bool) :=
  match n, l with
  | 0, _ | _, [] => none
  | n' + 1, b :: rest =>
    let code := 2 * code + bit01 b
    let first := 2 * first
    let syms := symsOf lens k
    if code < first + syms.length then (syms[code - first]?).map fun x => (x, rest)
    else huffSym lens n' (k + 1) code (first + syms.length) rest

def nextSym (lens : List Nat) (l : List Bool) : Option (Nat × List Bool) := huffSym lens 15 1 0 0 l

/-- Codes that lengths use, in units of 2^-15: a complete code uses 2^15. -/
def codeSpace (lens : List Nat) : Nat := ((lens.filter fun k => k ≠ 0).map fun k => 2 ^ (15 - k)).sum

/-- Lengths that form a complete code. -/
def codeFull (lens : List Nat) : Bool := codeSpace lens = 2 ^ 15
/-- Lengths of a distance code: complete, or one code of one bit, or none. -/
def distFull (lens : List Nat) : Bool :=
  codeFull lens || decide ((lens.filter fun k => k ≠ 0) = [1]) || (lens.all fun k => k = 0)

/-- Base and extra bits of a length symbol, by its number from 257 on. -/
def lenBase (s : Nat) : Nat × Nat :=
  if s < 8 then (s + 3, 0) else if s < 28 then ((4 + s % 4) * 2 ^ (s / 4 - 1) + 3, s / 4 - 1) else (258, 0)
/-- Base and extra bits of a distance symbol. -/
def distBase (d : Nat) : Nat × Nat := if d < 4 then (d + 1, 0) else ((2 + d % 2) * 2 ^ (d / 2 - 1) + 1, d / 2 - 1)

/-- `n` bytes from distance `d` back copied to the output. -/
def copyBack (d n : Nat) (out : List Byte) : List Byte :=
  match n with
  | 0 => out
  | n' + 1 => copyBack d n' (out.getD (d - 1) 0 :: out)

/-- A length and a distance read, and the copy made; it reaches no byte before the stream's first. -/
def matchCopy (dist : List Nat) (sym : Nat) (l : List Bool) (out : List Byte) : Option (List Bool × List Byte) :=
  if 285 < sym then none
  else do
    let lb := lenBase (sym - 257)
    let (x, l) ← takeBits lb.2 l
    let (ds, l) ← nextSym dist l
    if 29 < ds then none
    else
      let db := distBase ds
      let (y, l) ← takeBits db.2 l
      let d := db.1 + y
      if out.length < d then none else some (l, copyBack d (lb.1 + x) out)

/-- The symbols of a block, up to its end. -/
def inflateSyms (fuel : Nat) (lit dist : List Nat) (l : List Bool) (out : List Byte) : Option (List Bool × List Byte) :=
  match fuel with
  | 0 => none
  | fuel' + 1 => do
    let (sym, l) ← nextSym lit l
    if sym < 256 then inflateSyms fuel' lit dist l (BitVec.ofNat 8 sym :: out)
    else if sym = 256 then some (l, out)
    else
      let (l, out) ← matchCopy dist sym l out
      inflateSyms fuel' lit dist l out

/-- The fixed code. -/
def fixedLit : List Nat := List.replicate 144 8 ++ List.replicate 112 9 ++ List.replicate 24 7 ++ List.replicate 8 8
def fixedDist : List Nat := List.replicate 32 5

/-- Bits up to the next byte boundary dropped. -/
def toByte (l : List Bool) : List Bool := l.drop (l.length % 8)

/-- Bytes of bits that start on a byte boundary. -/
def bitsBytes (fuel : Nat) (l : List Bool) : List Byte :=
  match fuel, l with
  | 0, _ | _, [] => []
  | fuel' + 1, l => BitVec.ofNat 8 (((l.take 8).foldr (fun b v => bit01 b + 2 * v) 0)) :: bitsBytes fuel' (l.drop 8)

/-- A stored block. -/
def storedBlock (l : List Bool) (out : List Byte) : Option (List Bool × List Byte) := do
  let (n, l) ← takeBits 16 (toByte l)
  let (m, l) ← takeBits 16 l
  if n + m ≠ 0xFFFF || l.length < 8 * n then none
  else some (l.drop (8 * n), (bitsBytes n (l.take (8 * n))).reverse ++ out)

/-- The order in which the lengths of the code-length code stand. -/
def lengthOrder : List Nat := [16, 17, 18, 0, 8, 7, 9, 6, 10, 5, 11, 4, 12, 3, 13, 2, 14, 1, 15]

def takeLens (n : Nat) (l : List Bool) : Option (List Nat × List Bool) :=
  match n with
  | 0 => some ([], l)
  | n' + 1 => do
    let (x, l) ← takeBits 3 l
    let (xs, l) ← takeLens n' l
    some (x :: xs, l)

/-- The code lengths of a dynamic block, newest first. -/
def readLens (fuel total : Nat) (code : List Nat) (l : List Bool) (acc : List Nat) : Option (List Nat × List Bool) :=
  match fuel with
  | 0 => none
  | fuel' + 1 =>
    if acc.length = total then some (acc, l)
    else if total < acc.length then none
    else do
      let (sym, l) ← nextSym code l
      if sym < 16 then readLens fuel' total code l (sym :: acc)
      else if sym = 16 then
        if acc = [] then none
        else
          let (x, l) ← takeBits 2 l
          readLens fuel' total code l (List.replicate (3 + x) (acc.headD 0) ++ acc)
      else if sym = 17 then
        let (x, l) ← takeBits 3 l
        readLens fuel' total code l (List.replicate (3 + x) 0 ++ acc)
      else
        let (x, l) ← takeBits 7 l
        readLens fuel' total code l (List.replicate (11 + x) 0 ++ acc)

/-- A block with dynamic codes. -/
def dynamicBlock (l : List Bool) (out : List Byte) : Option (List Bool × List Byte) := do
  let (hlit, l) ← takeBits 5 l
  let (hdist, l) ← takeBits 5 l
  let (hclen, l) ← takeBits 4 l
  let (cl, l) ← takeLens (hclen + 4) l
  let code := (List.range 19).map fun s => cl.getD ((lengthOrder.findIdx fun x => x = s)) 0
  if 29 < hlit || 29 < hdist || !codeFull code then none
  else
    let total := hlit + 257 + hdist + 1
    let (acc, l) ← readLens (total + 1) total code l []
    let lens := acc.reverse
    let lit := lens.take (hlit + 257)
    let dist := lens.drop (hlit + 257)
    if lit.getD 256 0 = 0 || !codeFull lit || !distFull dist then none else inflateSyms (l.length + 1) lit dist l out

/-- The blocks of a stream, up to the one with BFINAL. -/
def inflateBlocks (fuel : Nat) (l : List Bool) (out : List Byte) : Option (List Bool × List Byte) :=
  match fuel with
  | 0 => none
  | fuel' + 1 => do
    let (final, l) ← takeBits 1 l
    let (ty, l) ← takeBits 2 l
    let (l, out) ←
      if ty = 0 then storedBlock l out
      else if ty = 1 then inflateSyms (l.length + 1) fixedLit fixedDist l out
      else if ty = 2 then dynamicBlock l out
      else none
    if final = 1 then some (l, out) else inflateBlocks fuel' l out

/-- A stream inflated: its output, and the bytes after its end; none where the stream is not valid. -/
def inflate (bs : List Byte) : Option (List Byte × List Byte) :=
  let bits := bs.flatMap lsbBits
  (inflateBlocks (bits.length + 1) bits []).map fun r => (r.2.reverse, bitsBytes bs.length (toByte r.1))

end Sys2Proof.Machine
end

