-- ==== Sys2Proof/Machine/Store.lean ====
section
/-! DEFINITION. Chunks beneath the host commands: locations (R177), the units of a version as they are written (R158–R169),
what a location holds, poisoning (R118), and the list of retry ladders (R264, R269). -/

namespace Sys2Proof.Machine

/-! ### Locations (R177) -/

/-- LOC of TIER 0: media address bits [42:40], [36:16] and [15:0], packed. -/
def locOfMaddr (a : Nat) : Nat := maddrSpindle a * 2 ^ 37 + maddrBand a * 2 ^ 16 + maddrUnit a
def maddrOfLoc (l : Nat) : Nat := maddrOf (fld l 37 3) (fld l 16 21) (fld l 0 16)

def chunkAt (s : State) (key : Nat) : Chunk := tget Chunk.absent s.obj.chunks key
def putChunk (s : State) (key : Nat) (c : Chunk) : State :=
  { s with obj := { s.obj with chunks := tset Chunk.absent s.obj.chunks key c } }

/-- Handle and chunk index of a key. -/
def keyHandle (key : Nat) : Nat := key / 2 ^ 40
def keyChunk (key : Nat) : Nat := key % 2 ^ 40

/-- The version of a chunk that lies on media or flash: the live one, or the one before it while the live one is staged. -/
def placedAt (s : State) (key : Nat) : Chunk :=
  let c := chunkAt s key
  if c.staged then tget Chunk.absent s.obj.durable key else c

/-- A version has a unit at a LOC of a tier. -/
def covers (c : Chunk) (tier loc : Nat) : Bool :=
  decide (c.tier = tier) && decide (c.loc ≤ loc) && decide (loc < c.loc + c.count)

/-- The chunk whose live version on media holds a unit at a media address. -/
def ownerOf (s : State) (maddr : Nat) : Option Nat :=
  (s.obj.chunks.find? fun e => covers (placedAt s e.1) 0 (locOfMaddr maddr)).map (·.1)

/-- Chunks whose live version lies in a band. -/
def chunksInBand (s : State) (spindle band : Nat) : List Nat :=
  (s.obj.chunks.filter fun e =>
    !e.2.staged && e.2.tier = 0 && e.2.count ≠ 0 && e.2.loc / 2 ^ 16 = spindle * 2 ^ 21 + band).map (·.1)

/-! ### Units of a version (R158–R169) -/

/-- Key of a namespace slot as the codec holds it (R163). -/
def slotDraw (s : State) (slot : Nat) : Nat := (tget MKey.none s.datum.loaded slot).draw

/-- Tweak of R162. -/
def tweakOf (handle chunk unit : Nat) : BitVec 128 := BitVec.ofNat 128 (handle * 2 ^ 48 + chunk * 2 ^ 8 + unit)

/-- Bytes `4096 u` to `4096 u + 4095` of a stream, padded with zeroes (R159, R161). -/
def unitSlice (bs : List Byte) (u : Nat) : List Byte :=
  let b := (bs.drop (4096 * u)).take 4096
  b ++ zeros (4096 - b.length)

/-- The stored stream of a version: its bytes where it is raw, else its compressed stream (R159). -/
def storedStream (c : Chunk) : List Byte := if c.raw then c.data else c.stream

/-- A namespace record's key (R174). -/
def isNsRecord (key : Nat) : Bool := decide (keyHandle key % 2 ^ 34 = 0x3_FFFF_FFFE)

/-- FLAGS of a version's units (R167, R172, R174). -/
def chunkFlags (key : Nat) (c : Chunk) : Nat :=
  if isNsRecord key then 0xD0 else 128 * bit01 c.raw + (if keyChunk key = objRecordChunk then 16 else 0)

/-- The 4,128 information bytes of unit `u` of a version (R162, R166, R169). -/
def chunkUnit (key : Nat) (c : Chunk) (u : Nat) : List Byte :=
  let handle := keyHandle key
  let chunk := keyChunk key
  let plain := unitSlice (storedStream c) u
  let body := if isNsRecord key then plain else xtsEnc (mediaKey c.kdraw) (tweakOf handle chunk u) plain
  unitInfo
    { handle := handle, chunk := chunk, unit := u, units := c.count, flags := chunkFlags key c, gen := c.gen
      wseq := c.wseq + u, keyep := c.keyep, clenm1 := c.clen - 1 } body

/-- Units of a length. -/
def unitsOf (n : Nat) : Nat := (n + 4095) / 4096

/-- What the encoder makes of a chunk at the present LEVEL (R159), where that is a stream that inflates to exactly the chunk; LEVEL 0
makes none. -/
def encoded (s : State) (data : List Byte) : Option (List Byte) :=
  let level := rf s Reg.cdcCtl 0 2
  let z := Config.deflate s.part.stepB0 level data
  if level ≠ 0 && inflate z = some (data, []) then some z else none

/-- Whether a chunk of these bytes is stored raw, and its count of units (R160, LEVEL 0). -/
def packing (s : State) (data : List Byte) : Bool × Nat :=
  let nRaw := unitsOf data.length
  match encoded s data with
  | some z => if 4096 < data.length && unitsOf z.length ≤ nRaw - 1 then (false, unitsOf z.length) else (true, nRaw)
  | none => (true, nRaw)

/-- The compressed stream of a chunk that is not stored raw. -/
def packed (s : State) (data : List Byte) : List Byte := if (packing s data).1 then [] else (encoded s data).getD []

/-- Information bytes that the media hold at a slot of a band, at the place that the zone tables give it. -/
def mediaSlot (s : State) (spindle band slot : Nat) : Option (List Byte) := (bandPlace s spindle band slot).bind (placeAt s)

/-- The information bytes of unit `u` of a version as its tier holds them. -/
def unitHeld (s : State) (c : Chunk) (u : Nat) : Option (List Byte) :=
  if c.tier = 0 then
    let m := maddrOfLoc (c.loc + u)
    mediaSlot s (maddrSpindle m) (maddrBand m) (maddrUnit m)
  else (flashAt s (c.loc + u)).map fun _ => flashBytes s (c.loc + u)

/-- The body of a tombstone's unit, and the unit (R173). -/
def tombUnit (t : Tomb) : List Byte :=
  unitInfo { handle := t.handle, chunk := t.first, unit := 0, units := 1, flags := 0xE0, gen := 0, wseq := t.wseq, keyep := t.keyep, clenm1 := 0xFFF }
    (toBytes 8 t.last ++ toBytes 1 t.cause)

/-- A slot of a band written at its place. -/
def setMediaSlot (s : State) (spindle band slot : Nat) (info : List Byte) : State :=
  match bandPlace s spindle band slot with
  | some p => setPlace s p info
  | none => s

/-! ### Poison (R118) -/

def poisonChunk (s : State) (key : Nat) : State :=
  let c := chunkAt s key
  if c.count = 0 then s else putChunk s key { c with poison := true, dirty := true }

/-! ### Ladders (R264, R269) -/

def ladderAt (s : State) (maddr : Nat) : Option Ladder := s.ladders.find? fun l => l.maddr = maddr
def modLadder (s : State) (maddr : Nat) (f : Ladder → Ladder) : State :=
  { s with ladders := lmodFirst (fun l => l.maddr = maddr) f s.ladders }

/-- Ladders that run; the others wait for one of the 64 places. -/
def laddersRunning (s : State) : Nat := (s.ladders.filter fun l => !l.waiting).length

/-- A unit enters recovery at a step; a unit already in a ladder joins it (R269). `cause`: 1 host read, 2 patrol, 4 rebuild. -/
def enterLadder (s : State) (maddr step cause : Nat) (tag recIdx : Option Nat) : State :=
  match ladderAt s maddr with
  | some _ => modLadder s maddr fun l => { l with tags := l.tags ++ tag.toList }
  | none =>
    { s with ladders := s.ladders ++ [
        { maddr := maddr, step := step, cause := cause, tags := tag.toList, recIdx := recIdx
          background := tag.isNone, waiting := decide (64 ≤ laddersRunning s) }] }

/-- A ladder ends; the oldest that waits takes its place. -/
def endLadder (s : State) (maddr : Nat) : State :=
  let s := { s with ladders := s.ladders.filter fun l => l.maddr ≠ maddr }
  if laddersRunning s < 64 then
    { s with ladders := lmodFirst (fun l => l.waiting) (fun l => { l with waiting := false }) s.ladders }
  else s

end Sys2Proof.Machine
end

