-- ==== Sys2Proof/Machine/Slices.lean ====
section
/-! DEFINITION. The read side of the Chord slices: assignment (R211–R213), synthesizers (R214), slots (R217–R224, R230,
R233–R235), the end of a unit (R225–R228, R231, R232, R237, R264, R265), and the start of a media operation. -/

namespace Sys2Proof.Machine

/-! ### Assignment -/

/-- Another slice is connected to the actuator. -/
def takenByOther (s : State) (n : Fin 8) (a : Fin 16) : Bool :=
  fin8.any fun m => m ≠ n && (s.slice m).valid && (s.slice m).act = a

/-- The slice's media operation is over: its last status entry is written. -/
def sliceIdle (s : State) (n : Fin 8) : Bool := (s.slice n).op.isNone && (s.slice n).bufs.isEmpty

/-- A connection comes into force; FORCE of the links follows it (R256). -/
def connect (s : State) (n : Fin 8) (v d : Bool) (a : Fin 16) : State :=
  syncForce (modSlice s n fun x => { x with valid := v, dir := d, act := a, pend := none })

/-- ASSIGN_WRITE (R211–R213): by firmware or by the command queue unit, as ASSIGNSRC lets it. -/
def assignWriteOp (s : State) (n : Fin 8) (firmware : Bool) (v : Word) : State :=
  let a := Fin.ofNat 16 (v.toNat % 16)
  let valid := v.toNat.testBit 31
  if !slicePresent s n || firmware ≠ rbit s (Reg.chdCtl n) 1 then s
  else if valid && (takenByOther s n a || !actPresent s a) then raise1 s (.chd n) 2
  else if sliceIdle s n then connect s n valid (v.toNat.testBit 8) a
  else modSlice s n fun x => { x with pend := some (valid, v.toNat.testBit 8, a) }

def execAssignWrite (n : Fin 8) (firmware : Bool) (v : Word) (s : State) : Host.Outcome State Fault Refusal :=
  settled (assignWriteOp s n firmware v)

/-- ASSIGN_TAKE_EFFECT (R213); a front end taken in the meantime is refused as at a write (R211). -/
def assignTakeEffectOp (s : State) (n : Fin 8) : State :=
  match (s.slice n).pend with
  | none => s
  | some (v, d, a) =>
    when (sliceIdle s n) s fun s =>
      if v && takenByOther s n a then raise1 (modSlice s n fun x => { x with pend := none }) (.chd n) 2
      else connect s n v d a

def execAssignTakeEffect (n : Fin 8) (s : State) : Host.Outcome State Fault Refusal := settled (assignTakeEffectOp s n)

/-! ### Synthesizers -/

/-- FREQ for a zone of N wedge bits (R214). -/
def synthFreq (s : State) (n : Nat) : Nat :=
  (2 * (n * (if s.conf.rpm7200 then 76800 else 57600) * 2 ^ 24) + 4800000000) / (2 * 4800000000)

/-- A synthesizer is given a frequency; one equal to the present FREQ causes no settling (R50, R214). -/
def setSynth (s : State) (a : Fin 16) (f : Nat) : State :=
  if rn s (Reg.afeSynth a) = f then s
  else modAfe (rsetN s (Reg.afeSynth a) f) a fun x => { x with lock := false, settling := true }

/-- AFE_SYNTH_WRITE: ignored while a slice is connected; clamped (R214, R242). -/
def afeSynthWriteOp (s : State) (a : Fin 16) (v : Word) : State :=
  if (sliceOfAct s a).isSome || !frontPresent s a then s
  else setSynth s a (clampNat 3495253 23767722 (v.toNat % 2 ^ 25))

def execAfeSynthWrite (a : Fin 16) (v : Word) (s : State) : Host.Outcome State Fault Refusal := settled (afeSynthWriteOp s a v)

/-- SYNTH_SETTLED (R50). -/
def synthSettledOp (s : State) (a : Fin 16) : State :=
  when (vget s.afes a).settling s fun s => modAfe s a fun x => { x with lock := true, settling := false }

def execSynthSettled (a : Fin 16) (s : State) : Host.Outcome State Fault Refusal := settled (synthSettledOp s a)

/-- SYNTHUNLOCK (R242): a lock lost while the actuator is loaded or DATAEN is 1. -/
def synthunlockOp (s : State) (a : Fin 16) : State :=
  when (vget s.afes a).lock s fun s =>
    let watched := (s.act a).st ≠ .parked || rbit s (Reg.afeCtl a) 0
    let s := modAfe s a fun x => { x with lock := false, settling := true }
    if watched then raise1 s .afe a else s

def execSynthunlock (a : Fin 16) (s : State) : Host.Outcome State Fault Refusal := settled (synthunlockOp s a)

/-! ### Equalizers (R224) -/

/-- Active registers of the shadowed set: EQA taps, EQB taps, COMB. -/
def eqReg (n : Fin 8) (k : Nat) : Nat :=
  if k < 32 then Reg.chdEqa n k else if k < 64 then Reg.chdEqb n (k - 32) else Reg.chdComb n

/-- What the shadow holds at an index; unwritten, the reset value of the register. -/
def shadowAt (s : State) (n : Fin 8) (k : Nat) : Word :=
  tget ((regReset (eqReg n k)).truncate 32) (s.slice n).shadow k

def setShadow (s : State) (n : Fin 8) (k : Nat) (v : Word) : State :=
  modSlice s n fun x => { x with shadow := tset ((regReset (eqReg n k)).truncate 32) x.shadow k v }

/-- The shadow set becomes the active one. -/
def copyShadow (s : State) (n : Fin 8) : State :=
  let s := overList (List.range 65) s fun s k => rsetN s (eqReg n k) (shadowAt s n k).toNat
  modSlice s n fun x => { x with loadPend := false }

/-- EQ_LOAD (R224), ignored by an absent slice (R2). -/
def eqLoadOp (s : State) (n : Fin 8) : State :=
  if !slicePresent s n then s
  else if (s.slice n).op.isNone then copyShadow s n else modSlice s n fun x => { x with loadPend := true }

def execEqLoad (n : Fin 8) (s : State) : Host.Outcome State Fault Refusal := settled (eqLoadOp s n)

/-! ### Retention records (R235–R237, R442) -/

def recBase (r : Nat) : Nat := 0x10_0080_0000 + r * 0x4000

/-- Retention is off for a slice: SRCTL.EN 0, or bank 3 retired. -/
def retentionOff (s : State) (n : Fin 8) : Bool := !rbit s (Reg.chdSrctl n) 0 || s.ms.bankRet.toNat.testBit 3

/-- OWNER returned to 0. -/
def releaseRec (s : State) (n : Fin 8) (r : Nat) : State := (busWriteNat s (masterChd n) (recBase r) 4 0).2

/-- Outcome of a claim: the record held and whether it starts afresh; or busy; or of another address. -/
structure Claim where
  idx : Option Nat
  busy : Bool
  mism : Bool
  fresh : Bool

/-- RMODE of a slot entry; the reserved code 3 acts as an unpredictable one of NONE, CREATE and COMBINE (R18, R234). -/
def slotRmode (s : State) (e : SlotEntry) : Nat × State :=
  if 2 < e.rmode then (let d := draw s; (d.1.toNat % 3, d.2)) else (e.rmode, s)

/-- The claim of a record for a unit (R235). A record that answers with an error is not used. -/
def claimRec (s : State) (n : Fin 8) (e : SlotEntry) (maddr : Nat) : Claim × State :=
  let no : Claim := { idx := none, busy := false, mism := false, fresh := false }
  let md := slotRmode s e
  let s := md.2
  if md.1 = 0 || retentionOff s n then (no, s)
  else
    match busAtomic s (masterChd n) (recBase e.ret) 4 false (0x8000_0000 + n.val * 0x100 + 1) with
    | (none, s) => (no, s)
    | (some 0, s) =>
      match busReadNat s (masterChd n) (recBase e.ret + 4) 10 with
      | (none, s) => (no, releaseRec s n e.ret)
      | (some h, s) =>
        let fresh := md.1 = 1 || h % 256 = 0
        if !fresh && h / 2 ^ 32 % 2 ^ 48 ≠ maddr then ({ no with mism := true }, releaseRec s n e.ret)
        else ({ idx := some e.ret, busy := false, mism := false, fresh := fresh }, s)
    | (some _, s) => ({ no with busy := true }, s)

/-- The eight 3-bit codes of each 24-bit value. -/
def unpackCodes (bs : List Byte) : List Nat :=
  match bs with
  | a :: b :: c :: rest =>
    let v := a.toNat + 256 * b.toNat + 65536 * c.toNat
    [v % 8, v / 8 % 8, v / 64 % 8, v / 512 % 8, v / 4096 % 8, v / 32768 % 8, v / 262144 % 8, v / 2097152 % 8] ++ unpackCodes rest
  | _ => []

def packCodes (qs : List Nat) : List Byte :=
  match qs with
  | a :: b :: c :: d :: e :: f :: g :: h :: rest =>
    toBytes 3 (a % 8 + 8 * (b % 8) + 64 * (c % 8) + 512 * (d % 8) + 4096 * (e % 8) + 32768 * (f % 8) + 262144 * (g % 8)
      + 2097152 * (h % 8)) ++ packCodes rest
  | _ => []

/-- The code of one bit after an update (R237): `code` is the one held, 4 the erasure code. -/
def newCode (count step code : Nat) (erased : Bool) (lam : Int) : Nat :=
  if erased && (code = 4 || count = 0) then 4
  else
    let d := min 15 (count + 1) * step
    let rho : Int := if code = 4 || count = 0 then 0 else sgn 3 code * (count : Int) * (step : Int)
    let x := rho + lam
    let m := min 3 ((2 * x.natAbs + d) / (2 * d))
    unsgn 3 (if 0 ≤ x then (m : Int) else -(m : Int))

/-- The codes after an update, bit by bit; `marks` names the marked bits. -/
def newCodes (count step : Nat) (erase : Bool) (marks : List Bool) (codes : List Nat) (lam : List Int) : List Nat :=
  match codes with
  | [] => []
  | q :: rest =>
    let gone := erase && marks.headD false
    newCode count step q gone (if gone then 0 else lam.headD 0) :: newCodes count step erase marks.tail rest lam.tail

/-- A failing unit's evidence added to its record; OWNER is written last. -/
def updateRec (s : State) (n : Fin 8) (maddr : Nat) (b : CwBuf) (off : Int) (lam : List Int) : State :=
  match b.recIdx with
  | none => s
  | some r =>
    let m := masterChd n
    match busRead s m (recBase r) 0x3640 none with
    | (none, s) => releaseRec s n r
    | (some rec, s) =>
      let count := if b.recNew then 0 else (rec.getD 4 0).toNat % 16
      let step := if b.recNew then rf s (Reg.chdSrctl n) 8 8 else (rec.getD 5 0).toNat
      let qs := newCodes count step (rbit s (Reg.chdDefctl n) 1) (anchorMarks off b.gone)
        (if b.recNew then List.replicate 36864 0 else unpackCodes (rec.drop 0x40)) lam
      let head := toBytes 1 (min 15 (count + 1)) ++ toBytes 1 step ++ toBytes 1 (unsgn 8 off)
        ++ toBytes 1 (bit01 (qs.contains 4)) ++ toBytes 6 maddr ++ toBytes 2 0 ++ toBytes 8 s.tick.toNat ++ zeros 40
      let s := (busWrite s m (recBase r + 0x40) (packCodes qs ++ zeros 0x9C0)).2
      let s := (busWrite s m (recBase r + 4) head).2
      releaseRec s n r

/-- The retained evidence of a unit's record, bit by bit (R236); zeroes where it has none. -/
def evidence (s : State) (n : Fin 8) (b : CwBuf) : List Int × State :=
  let zero : List Int := List.replicate 36864 0
  match b.recIdx with
  | none => (zero, s)
  | some r =>
    if b.recNew then (zero, s)
    else
      match busRead s (masterChd n) (recBase r) 0x3640 none with
      | (none, s) => (zero, s)
      | (some rec, s) =>
        let k := ((rec.getD 4 0).toNat % 16 * (rec.getD 5 0).toNat : Nat)
        ((unpackCodes (rec.drop 0x40)).map fun q => if q = 4 then 0 else sgn 3 q * (k : Int), s)

/-- A passing unit empties its record. -/
def emptyRec (s : State) (n : Fin 8) (r : Nat) : State :=
  releaseRec (busWriteNat s (masterChd n) (recBase r + 4) 1 0).2 n r

/-! ### Sample records (R231) -/

/-- The bytes of the mark map: bit i of byte i / 8 is 1 for a marked bit. -/
def mapBytes (n : Nat) (marks : List Bool) : List Byte :=
  match n with
  | 0 => []
  | k + 1 => BitVec.ofNat 8 ((marks.take 8).foldr (fun m v => 2 * v + bit01 m) 0) :: mapBytes k (marks.drop 8)

/-- Samples as signed bytes. -/
def sampleBytes (xs : List Int) : List Byte := fitBytes 37376 (xs.map fun x => BitVec.ofInt 8 x)

/-- The sample record of a unit: both readers' samples, and the marks at candidate 0. -/
def writeSample (s : State) (n : Fin 8) (r : Nat) (b : CwBuf) : State :=
  (busWrite s (masterChd n) (rf s (Reg.chdSampbase n) 16 20 * 2 ^ 16 + r * 0x1_4000)
    (sampleBytes b.xa ++ sampleBytes b.xb
      ++ mapBytes 4608 (match b.cands with | c :: _ => anchorMarks c.off b.gone | [] => []) ++ zeros 2560)).2

/-! ### Units of an operation -/

/-- Media address of the unit in a slot of an operation's band. -/
def opMaddr (o : MediaOp) (slot : Nat) : Nat := o.d.band + slot

def opEntry (s : State) (o : MediaOp) (i : Nat) : SlotEntry :=
  match o.src with
  | .tag _ => { rmode := 0, sampv := false, ret := 0, samp := 0 }
  | .queue _ _ => slotEntry s.mem o.d.aux i

/-- Command that an operation serves. -/
def opTag (o : MediaOp) : Option Nat := match o.src with | .tag t => some t | .queue _ _ => none

/-- A unit of the band enters recovery (R264); a parity slot is no unit of a media address. -/
def unitRecovery (s : State) (o : MediaOp) (slot step : Nat) (r : Option Nat) : State :=
  if dataSlots ≤ slot then s else enterLadder s (opMaddr o slot) step (if (opTag o).isSome then 1 else 2) (opTag o) r

/-- Codeword bits marked at an anchor. -/
def markedAt (b : CwBuf) (off : Int) : Nat := ((anchorMarks off b.gone).filter id).length

/-- What the status entry of a unit says of its buffer, and CHDn.MARKED (R232, R234). -/
def noteUnit (s : State) (n : Fin 8) (b : CwBuf) (off : Option Int) (recv : Bool) (r : ReadStatus) : ReadStatus × State :=
  let m := match off with
    | some o => markedAt b o
    | none => 0
  ({ r with recv := recv, ret := b.recIdx.getD 0, marked := m, recmism := b.recMism, recbusy := b.recBusy, lockloss := b.lockLoss
            rsmiss := b.rsMiss }, rcount s (Reg.chdMarked n) m)

/-- A unit leaves its codeword buffer. -/
def freeBuf (s : State) (n : Fin 8) (b : CwBuf) : State :=
  modSlice s n fun x => { x with bufs := x.bufs.filter fun c => c.idx ≠ b.idx }

/-- A unit that fails at an anchor: its record, its sample record, its status, its recovery. -/
def failUnit (s : State) (n : Fin 8) (o : MediaOp) (b : CwBuf) (off : Option Int) (lam : Option (List Int)) (r : ReadStatus) : State :=
  let e := opEntry s o b.idx
  let recv := b.recIdx.isSome && lam.isSome
  let s := match lam, b.recIdx with
    | some l, some _ => updateRec s n (opMaddr o b.slot) b (off.getD 0) l
    | none, some k => releaseRec s n k
    | _, none => s
  let s := if rbit s (Reg.chdCtl n) 2 && e.sampv && o.d.kind = 1 then writeSample s n e.samp b else s
  let q := noteUnit (freeBuf s n b) n b off recv r
  let s := endUnit q.2 n o b.idx q.1
  if o.d.kind = 1 then unitRecovery s o b.slot 1 b.recIdx else s

/-- Detector and decoder as the registers of a slice set them. -/
def decCfg (s : State) (n : Fin 8) (gmax : Nat) : DecCfg :=
  let t := rn s (Reg.chdTarget n)
  { g := [sgn 8 t, sgn 8 (t / 2 ^ 8), sgn 8 (t / 2 ^ 16), sgn 8 (t / 2 ^ 24), sgn 8 (rn s (Reg.chdTarget4 n))]
    sigma := rf s (Reg.chdDetctl n) 0 8, norm := rf s (Reg.chdIterctl n) 8 5, localMax := rf s (Reg.chdIterctl n) 4 4
    globalMax := gmax, erase := rbit s (Reg.chdDefctl n) 1 }

/-- Global iterations that an operation allows a candidate (R227, R266). -/
def globalMax (s : State) (n : Fin 8) (o : MediaOp) : Nat := if o.d.kind = 3 then 12 else rf s (Reg.chdIterctl n) 0 4

/-- BUDGET of the unit that has held its buffer longest (R230). Whether a detector pass was complete, at which candidate, and after
how many global iterations, is the hardware's timing: free values within their ranges. -/
def budgetUnit (s : State) (n : Fin 8) (o : MediaOp) (b : CwBuf) : State :=
  let d := draw s
  let v := d.1.toNat
  let k := min (rf s (Reg.chdSyncctl n) 16 2) b.cands.length
  if v.testBit 0 && decide (k ≠ 0) then
    let i := v / 2 % k
    let off := (b.cands.getD i { off := 0, score := 0 }).off
    let g := 1 + v / 2 ^ 8 % max 1 (globalMax s n o)
    let rho := evidence d.2 n b
    let e := decodeCand (decCfg s n g) b.y b.gone rho.1 off
    failUnit rho.2 n o b (some off) (some e.lam) { ReadStatus.none 3 with cand := i, giter := e.giter, corr := e.corr }
  else failUnit d.2 n o b none none (ReadStatus.none 3)

/-! ### SLOT_START -/

/-- The slice reads a slot: its operation is a read under way, its actuator in TRACK, its clock settled. -/
def readsNow (s : State) (n : Fin 8) (o : MediaOp) : Bool :=
  let x := s.slice n
  o.d.kind = 1 && !o.ended && !o.cfgErr && decide (o.done < o.d.count) && x.valid && !x.dir
    && (s.act x.act).st = .track && !(vget s.afes x.act).settling

/-- The loop settings of a slice and of its front end (R217, R239). -/
def loopCfg (s : State) (n : Fin 8) : LoopCfg :=
  let t := fun lsb => rf s (Reg.chdTimctl n) lsb 4
  { kpa := t 0, kfa := t 4, kpt := t 8, kft := t 12, kpr := t 16, tgt := rf s (Reg.chdAgcctl n) 0 8, fast := rf s (Reg.chdAgcctl n) 8 4
    slow := rf s (Reg.chdAgcctl n) 12 4, agc := !rbit s (Reg.afeCtl (s.slice n).act) 1 }

/-- The loops as a slot finds them: frequency 0 on the first slot of an operation and after a track switch (R218). -/
def startLoops (s : State) (n : Fin 8) (fresh : Bool) : Loops :=
  let x := s.slice n
  { freq := if fresh then 0 else x.freq, phase := x.phase, fclamp := !fresh && x.fclamp, lost := x.lost, lock := x.lock, acq := true
    run := 0, runN := 0, losses := 0, hit := false, misses := 0
    gainA := ((rf s (Reg.afeGaina x.act) 0 8 * 2 ^ 15 : Nat) : Int), gainB := ((rf s (Reg.afeGainb x.act) 0 8 * 2 ^ 15 : Nat) : Int) }

/-- What the loops leave in the slice, in its front end and in the counters. -/
def keepLoops (s : State) (n : Fin 8) (l : Loops) : State :=
  let a := (s.slice n).act
  let agc := (loopCfg s n).agc
  let s := modSlice s n fun x => { x with freq := l.freq, phase := l.phase, fclamp := l.fclamp, lost := l.lost, lock := l.lock }
  let s := if agc then rfSet (rfSet s (Reg.afeGaina a) 0 8 (l.gainA / 2 ^ 15).toNat) (Reg.afeGainb a) 0 8 (l.gainB / 2 ^ 15).toNat else s
  let s := rcount s (Reg.chdRsmiss n) l.misses
  if l.losses = 0 then s else chdIrq (rcount s (Reg.chdLockloss n) l.losses) n 2

/-- A sample at the end of the converter's range (R216). -/
def fullScale (x : Int) : Nat := bit01 (x = -64 || x = 63)

/-- Mean of the absolute value over the last 256 samples (R242). -/
def meanAbs (xs : List Int) : Nat := ((xs.reverse.take 256).map Int.natAbs).sum / 256

/-- What a front end counts of a slot's samples (R216, R242). -/
def countSamples (s : State) (a : Fin 16) (e : SlotEv) (xs : List BitEv) : State :=
  let sat := (e.segs.map fun g => g.sat + (g.bits.map fun b => fullScale b.a + fullScale b.b).sum).sum
  rcount (modAfe s a fun f => { f with ampA := meanAbs (xs.map (·.a)), ampB := meanAbs (xs.map (·.b)) }) (Reg.afeSatcnt a) sat

/-- The active equalizer set, and the set written back. -/
def eqSet (s : State) (n : Fin 8) : EqSet :=
  { ha := (List.range 32).map fun k => sgn 10 (rn s (eqReg n k)), hb := (List.range 32).map fun k => sgn 10 (rn s (eqReg n (32 + k)))
    wa := (rf s (Reg.chdComb n) 0 7 : Int), wb := (rf s (Reg.chdComb n) 8 7 : Int) }

def putEqSet (s : State) (n : Fin 8) (q : EqSet) : State :=
  let s := overList (List.range 64) s fun s k => rsetN s (eqReg n k) (unsgn 10 ((q.ha ++ q.hb).getD k 0))
  rfSet (rfSet s (Reg.chdComb n) 0 7 (unsgn 7 q.wa)) (Reg.chdComb n) 8 7 (unsgn 7 q.wb)

/-- The defect detector as DEFCTL and AGCCTL set it (R233). -/
def defCfg (s : State) (n : Fin 8) : DefCfg :=
  let r := Reg.chdDefctl n
  { on := rbit s r 0, win := 8 * 2 ^ rf s r 2 2, low := rf s r 8 5, high := rf s r 16 7, minRun := rf s r 24 4, extend := rf s r 28 4
    tgt := rf s (Reg.chdAgcctl n) 0 8 }

/-- Stages 4 and 5 over a slot's samples (R222–R224, R233, R234), with the set that adaptation leaves. -/
def equalizeNow (s : State) (n : Fin 8) (adapt : Bool) (xa xb : List Int) (bits : List Bool) : Equalized :=
  let mu := if adapt && rbit s (Reg.chdEqctl n) 0 then some (rf s (Reg.chdEqctl n) 4 4) else none
  equalizeSlot (decCfg s n 0).g (defCfg s n) (sgn 6 (rf s (Reg.chdComb n) 16 6)) mu (eqSet s n) s.drawn xa xb bits

/-- What reaches the slice of a slot: nothing while DATAEN is 0 (R215). -/
def switched (s : State) (n : Fin 8) (e : SlotEv) : SlotEv :=
  if rbit s (Reg.afeCtl (s.slice n).act) 0 then e else { e with segs := [] }

/-- A slot's samples pass the loops, the equalizers and the search for its marks, and stand in a codeword buffer (R210, R230). -/
def takeSlot (s : State) (n : Fin 8) (o : MediaOp) (slot : Nat) (e : SlotEv) : State :=
  let fresh := o.done = 0 || (o.d.slots ≠ 0 && slot % o.d.slots = 0)
  let ps := readPieces o.d.wedgebits (if o.d.slots = 0 then slot else slot % o.d.slots)
  let s := countSamples s (s.slice n).act e (slotSamples ps e.segs)
  let e := switched s n e
  let l := loopSlot (loopCfg s n) o.d.wedgebits fresh e.phase0 (-32) ps e.segs (startLoops s n fresh)
  let s := keepLoops s n l
  let s := if (s.slice n).loadPend then copyShadow s n else s
  let xs := (slotSamples ps e.segs).take 37376
  let q := equalizeNow s n true (xs.map (·.a)) (xs.map (·.b)) (xs.map (·.d))
  let s := if rbit s (Reg.chdEqctl n) 0 then { putEqSet s n q.eq with drawn := q.drawn } else s
  let cl := claimRec s n (opEntry s o o.done) (opMaddr o slot)
  let s := cl.2
  let cands := if e.segs = [] then [] else candidates (rf s (Reg.chdSyncctl n) 0 3) (xs.map (·.d))
  let buf : CwBuf :=
    { slot := slot, idx := o.done, cands := cands, xa := xs.map (·.a), xb := xs.map (·.b), y := q.y, gone := q.gone, rsMiss := l.misses
      lockLoss := l.hit, recIdx := cl.1.idx, recBusy := cl.1.busy, recMism := cl.1.mism, recNew := cl.1.fresh }
  modSlice s n fun x => { x with bufs := x.bufs ++ [buf] }

/-- SLOT_START (R230): with all eight buffers held, the oldest unit stops with BUDGET. -/
def slotStartOp (s : State) (n : Fin 8) (e : SlotEv) : State :=
  match (s.slice n).op with
  | none => s
  | some o =>
    when (readsNow s n o) s fun s =>
      let s := match (s.slice n).bufs with
        | b :: rest => if 7 ≤ rest.length then budgetUnit s n o b else s
        | [] => s
      let slot := o.d.slot + o.done
      let s := takeSlot s n o slot e
      let last := o.done + 1 = o.d.count
      let s := modOp s n fun o => { o with done := o.done + 1, ended := last }
      if !last && o.d.slots ≠ 0 && (slot + 1) % o.d.slots = 0 then stepOp s (s.slice n).act true false else s

def execSlotStart (n : Fin 8) (e : SlotEv) (s : State) : Host.Outcome State Fault Refusal := settled (slotStartOp s n e)

/-! ### UNIT_DECODE_DONE -/

/-- A candidate passes (R227, R198, R208): zero syndrome, and TCRC of the descrambled tag where the slot carries one. -/
def candPass (o : MediaOp) (slot : Nat) (e : CandEnd) : Bool :=
  decide (e.unsat = 0) && (o.d.notag || decide (dataSlots ≤ slot) || tcrcOk e.info)

/-- The first candidate that passes, with its rank. -/
def firstPass (o : MediaOp) (slot : Nat) (l : List CandEnd) (i : Nat) : Option (Nat × CandEnd) :=
  match l with
  | [] => none
  | c :: rest => if candPass o slot c then some (i, c) else firstPass o slot rest (i + 1)

/-- The candidate of fewest unsatisfied checks, with its rank. -/
def leastUnsat (l : List CandEnd) (i : Nat) : Option (Nat × CandEnd) :=
  match l with
  | [] => none
  | c :: rest =>
    match leastUnsat rest (i + 1) with
    | none => some (i, c)
    | some (j, d) => if d.unsat < c.unsat then some (j, d) else some (i, c)

/-- Padding of a raw version's stored stream is zero (R164, check 5). -/
def padZero (c : Chunk) (stored : List Byte) : Bool := (stored.drop c.clen).all fun b => b = 0

/-- The stored units of a version as its tier holds them, decrypted (R164, check 4); none where one is not held. -/
def decryptUnits (s : State) (key : Nat) (c : Chunk) (u n : Nat) : Option (List Byte) :=
  match n with
  | 0 => some []
  | n' + 1 =>
    match unitHeld s c u with
    | none => none
    | some info =>
      let body := info.drop 32
      let plain := if (parseTag info).flags / 64 % 2 = 1 then body
        else xtsDec (mediaKey c.kdraw) (tweakOf (keyHandle key) (keyChunk key) u) body
      (decryptUnits s key c (u + 1) n').map fun rest => plain ++ rest

/-- Inflation to exactly CLEN bytes, or for a raw version the length, and zero padding (R164, check 5). -/
def inflatesOk (c : Chunk) (stored : List Byte) : Bool :=
  if c.raw then padZero c stored
  else match inflate stored with
    | some (out, rest) => decide (out.length = c.clen) && rest.all fun b => b = 0
    | none => false

/-- Check 5 of R164 at the last unit of a version: a version that fails it is unrecoverable and is poisoned (R118). -/
def inflateCheck (s : State) (key : Nat) (c : Chunk) : State :=
  match decryptUnits s key c 0 c.count with
  | none => s
  | some stored => if inflatesOk c stored then s else poisonChunk (rcount s Reg.cdcInflerr 1) key

/-- Check 2 of R164: HANDLE, CHUNK and UNIT against the request, GENLO against the entry. -/
def tagMatches (t : UnitTag) (key : Nat) (c : Chunk) (u : Nat) : Bool :=
  t.handle = keyHandle key && t.chunk = keyChunk key && t.unit = u && t.gen % 4096 = c.gen % 4096

/-- Checks 2, 3 and 5 of R164 on a unit read for a host command, and the reconciliation of R265. -/
def codecCheck (s : State) (o : MediaOp) (slot : Nat) (info : List Byte) (r : Option Nat) : State :=
  let maddr := opMaddr o slot
  match ownerOf s maddr with
  | none => s
  | some key =>
    let c := placedAt s key
    let t := parseTag info
    let u := locOfMaddr maddr - c.loc
    if !tagMatches t key c u then
      let s := rcount s Reg.cdcTagmism 1
      if dcrcOk info then
        let k := chunkKey t.handle t.chunk
        let d := chunkAt s k
        if k ≠ key && d.count ≠ 0 && d.gen = t.gen then
          putChunk s k { d with loc := locOfMaddr maddr - t.unit, tier := 0, dirty := true }
        else unitRecovery s o slot 6 r
      else unitRecovery s o slot 1 r
    else if !dcrcOk info then unitRecovery (rcount s Reg.cdcDcrcerr 1) o slot 1 r
    else if u + 1 = c.count then inflateCheck s key c
    else s

/-- A unit passes: its bytes go to the buffer, its record is emptied, its status entry is written (R228, R232, R237). -/
def passUnit (s : State) (n : Fin 8) (o : MediaOp) (b : CwBuf) (rank : Nat) (c : CandEnd) (info : List Byte) : State :=
  let bytes := fitBytes 4128 info
  let s := (busWrite s (masterChd n) (o.d.data + 4128 * b.idx) bytes).2
  let s := match b.recIdx with
    | some r => emptyRec s n r
    | none => s
  let q := noteUnit (freeBuf s n b) n b (some (b.cands.getD rank { off := 0, score := 0 }).off) b.recIdx.isSome
    { ReadStatus.none 0 with corr := c.corr, giter := c.giter, cand := rank }
  let s := endUnit q.2 n o b.idx q.1
  if (opTag o).isSome && b.slot < dataSlots then codecCheck s o b.slot bytes b.recIdx else s

/-- Candidates that the slice tries (R228); a replay decodes the first three of its list (R271). -/
def tries (s : State) (n : Fin 8) (o : MediaOp) (b : CwBuf) : Nat :=
  if o.d.kind = 3 then b.cands.length else min (rf s (Reg.chdSyncctl n) 16 2) b.cands.length

/-! ### Replay (R271) -/

/-- Bits of a mark map. -/
def mapMarks (bs : List Byte) : List Bool := bs.flatMap fun b => (List.range 8).map fun k => b.toNat.testBit k

/-- A position put into a list by the checks that the hard decisions at it leave unsatisfied; the list was built nearest first. -/
def rankUnsat (l : List (Int × Nat)) (c : Int × Nat) : List (Int × Nat) :=
  match l with
  | [] => [c]
  | x :: rest => if c.2 < x.2 then c :: x :: rest else x :: rankUnsat rest c

/-- The anchors that a replay tries: those of the relaxed threshold that were no candidates of the first read, then the other positions
by syndrome weight. -/
def replayAnchors (d drelax : Nat) (bits : List Bool) : List Cand :=
  let tried := (candidates d bits).map (·.off)
  let relaxed := (rankedAnchors drelax bits).filter fun c => !tried.contains c.off
  let rest := (nearOffsets 24).filter fun o => !tried.contains o && !(relaxed.map (·.off)).contains o
  let ranked := if 3 ≤ relaxed.length then []
    else (rest.map fun o => (o, unsatisfied (anchorStream o bits 36864))).foldl rankUnsat []
  (relaxed ++ ranked.map fun e => { off := e.1, score := 0 : Cand }).take 3

/-- A unit of a replay takes its sample record and three anchors; a record that cannot be read gives none. -/
def replayUnit (s : State) (n : Fin 8) (o : MediaOp) : State :=
  let e := opEntry s o o.done
  let a := rf s (Reg.chdSampbase n) 16 20 * 2 ^ 16 + e.samp * 0x1_4000
  let r := busRead s (masterChd n) a 0x1_3600 none
  let s := r.2
  let bs := r.1.getD []
  let xa := (bs.take 37376).map BitVec.toInt
  let xb := ((bs.drop 37376).take 37376).map BitVec.toInt
  let q := equalizeNow s n false xa xb (xa.map fun _ => false)
  let bits := Config.hardBits q.y (decCfg s n 0).g
  let d := rf s (Reg.chdSyncctl n) 0 3
  let off0 := ((candidates d bits).map (·.off)).headD 0
  let buf : CwBuf :=
    { slot := o.d.slot + o.done, idx := o.done
      cands := if r.1.isSome then replayAnchors d (rf s (Reg.chdSyncctl n) 8 3) bits else []
      xa := xa, xb := xb, y := q.y
      gone := List.replicate (448 + off0).toNat false ++ mapMarks ((bs.drop 0x1_2400).take 4608), rsMiss := 0
      lockLoss := false, recIdx := none, recBusy := false, recMism := false, recNew := false }
  let s := modSlice s n fun x => { x with bufs := x.bufs ++ [buf] }
  modOp s n fun o => { o with done := o.done + 1, ended := decide (o.d.count ≤ o.done + 1) }

/-- The next unit of a replay, once one has ended. -/
def replayNext (s : State) (n : Fin 8) : State :=
  match (s.slice n).op with
  | some o => if o.d.kind = 3 && !o.ended && (s.slice n).bufs.isEmpty then replayUnit s n o else s
  | none => s

/-- The information bytes that the device has written where an operation reads; a candidate that passes is correct (R208). -/
def written (s : State) (o : MediaOp) (slot : Nat) : Option (List Byte) :=
  if o.d.kind = 3 then mediaSlot s (maddrSpindle o.d.band) (maddrBand o.d.band) slot else placeAt s (descPlace o.d slot)

/-- The candidates of a unit, decoded (R225–R228). -/
def decodeUnit (s : State) (n : Fin 8) (o : MediaOp) (b : CwBuf) : List CandEnd × State :=
  let rho := evidence s n b
  ((b.cands.take (tries s n o b)).map fun c => decodeCand (decCfg s n (globalMax s n o)) b.y b.gone rho.1 c.off, rho.2)

/-- The decoding of a unit ends at a candidate, or its candidates run out (R227, R228, R234). -/
def endDecode (s : State) (n : Fin 8) (o : MediaOp) (b : CwBuf) : State :=
  match b.cands with
  | [] => failUnit s n o b none none (ReadStatus.none 2)
  | c0 :: _ =>
    if rbit s (Reg.chdDefctl n) 1 && 3840 < markedAt b c0.off then
      let rho := evidence s n b
      failUnit rho.2 n o b (some c0.off) (some (decodeCand (decCfg s n 1) b.y b.gone rho.1 c0.off).lam) (ReadStatus.none 1)
    else
      let q := decodeUnit s n o b
      match firstPass o b.slot q.1 0 with
      | some (i, c) => passUnit q.2 n o b i c ((written s o b.slot).getD c.info)
      | none =>
        match leastUnsat q.1 0 with
        | none => failUnit q.2 n o b none none (ReadStatus.none 1)
        | some (i, c) =>
          failUnit q.2 n o b (some (b.cands.getD i c0).off) (some c.lam)
            { ReadStatus.none 1 with cand := i, giter := c.giter, corr := c.corr }

/-- Units of a slice that a parity error ends with DECFAIL (R239). -/
def endBad (s : State) (n : Fin 8) (bufs : List (Fin 8)) : State :=
  let held := bufs.filterMap fun k => (s.slice n).bufs[k.val]?
  overList held s fun s b =>
    match (s.slice n).op with
    | some o => failUnit s n o b none none (ReadStatus.none 1)
    | none => s

/-- UNIT_DECODE_DONE: of the unit in buffer `k`, oldest first. A parity error ends it and the units of the buffers that the error
concerns besides, and is reported as DECPAR; an overflow of the sample path is reported as SAMPOVF (R239). -/
def unitDecodeDoneOp (s : State) (n k : Fin 8) (par : Option (List (Fin 8))) (ovf : Bool) : State :=
  match (s.slice n).op, (s.slice n).bufs[k.val]? with
  | some o, some b =>
    let s := match par with
      | none => endDecode s n o b
      | some l => endBad s n (k :: l).eraseDups
    let s := replayNext s n
    let bits := (if par.isSome then [0] else []) ++ if ovf then [1] else []
    if bits = [] then s else raise s (.chd n) bits Cap.none
  | _, _ => s

def execUnitDecodeDone (n b : Fin 8) (par : Option (List (Fin 8))) (ovf : Bool) (s : State) : Host.Outcome State Fault Refusal :=
  settled (unitDecodeDoneOp s n b par ovf)

/-! ### The start of a media operation (R54, R214, R223, R255, R473) -/

/-- The five taps of the target are all zero. -/
def targetZero (s : State) (n : Fin 8) : Bool := rn s (Reg.chdTarget n) = 0 && rn s (Reg.chdTarget4 n) = 0

/-- The command queue unit's SEEK to the track of a slot. -/
def cquSeek (s : State) (a : Fin 16) (track : Nat) : State := seekOp (rfSet s (Reg.radTarget a) 0 24 track) a false

/-- An operation of a slice, nothing of it done. -/
def MediaOp.start (src : OpSrc) (d : Desc) : MediaOp :=
  { src := src, d := d, done := 0, writing := false, opres := 0, ended := false, cfgErr := false, first := 0, units := d.count, vdone := 0
    ok := 0 }

/-- An operation that its slice refuses for its target: CFGERR for each unit (R223). -/
def refuseTarget (s : State) (n : Fin 8) (o : MediaOp) : State :=
  let s := endUnits s n o 0 o.d.count 4
  modSlice s n fun x => { x with cfgErr := true, op := some { o with done := o.d.count, ended := true, cfgErr := true } }

/-- A read or write operation starts on a slice: gates, clock, head-select frame, seek. -/
def startOp (s : State) (n : Fin 8) (src : OpSrc) (d : Desc) : State :=
  let a := Fin.ofNat 16 d.act
  let o := MediaOp.start src d
  let s := modSlice s n fun x => { x with op := some o, freq := 0, lost := false }
  if d.kind = 1 && targetZero s n then refuseTarget s n o
  else
    let s := headSelect (setSynth (ungate s n a) a (synthFreq s d.wedgebits)) n d.head
    cquSeek s a (d.firstTrack + (if d.slots = 0 then 0 else d.slot / d.slots))

end Sys2Proof.Machine
end

