-- ==== Sys2Proof/Machine/Cqu.lean ====
section
/-! DEFINITION. The command queue unit beneath the commands: tags, range locks (R128–R133), completions (R141, R142, R144,
R147), the retention check (R107, R144, R183), asynchronous events (R116), new versions of chunks (R157–R169), and tombstones
(R173). -/

namespace Sys2Proof.Machine

/-! ### Status codes (R121 and NVMe 2.0) -/

def scOk : Nat × Nat := (0, 0)
def scOpcode : Nat × Nat := (0, 0x01)
def scField : Nat × Nat := (0, 0x02)
def scTransfer : Nat × Nat := (0, 0x04)
def scInternal : Nat × Nat := (0, 0x06)
def scAbort : Nat × Nat := (0, 0x07)
def scNamespace : Nat × Nat := (0, 0x0B)
def scSequence : Nat × Nat := (0, 0x0C)
def scSanitizing : Nat × Nat := (0, 0x1D)
def scRange : Nat × Nat := (0, 0x80)
def scCapacity : Nat × Nat := (0, 0x81)
def scValueSize : Nat × Nat := (0, 0x85)
def scKeySize : Nat × Nat := (0, 0x86)
def scNoKey : Nat × Nat := (0, 0x87)
def scKeyExists : Nat × Nat := (0, 0x89)
def scUnrecovered : Nat × Nat := (2, 0x81)
def scCompare : Nat × Nat := (2, 0x85)
def scRetention : Nat × Nat := (7, 0)
def scDatum : Nat × Nat := (7, 1)
def scBudget : Nat × Nat := (7, 2)
def scAddress : Nat × Nat := (7, 3)
def scOutOfService : Nat × Nat := (7, 4)

/-! ### Tags -/

def setTag (s : State) (t : Nat) (x : Tag) : State := { s with cqu := { s.cqu with tags := tset Tag.free s.cqu.tags t x } }
def modTag (s : State) (t : Nat) (f : Tag → Tag) : State := setTag s t (f (tagAt s t))

/-- The lowest free tag. -/
def freeTag (s : State) : Option Nat := (List.range 4096).find? fun t => (tagAt s t).st = .free

def Ns.slot (n : Ns) : Nat := n.nsid - 1
def nsOf (s : State) (nsid : Nat) : Option Ns := s.obj.nss.find? fun n => n.nsid = nsid
def modNs (s : State) (nsid : Nat) (f : Ns → Ns) : State :=
  { s with obj := { s.obj with nss := lmodFirst (fun n => n.nsid = nsid) f s.obj.nss } }
def Ns.attached (n : Ns) (p : Port) : Bool := match p with | .a => n.attA | .b => n.attB

/-! ### Range locks (R128–R133) -/

/-- An entry before it has an owner: object, first chunk, last chunk, write. -/
abbrev LockReq := Nat × Nat × Nat × Bool

def lbaLock (nsid slba nlb : Nat) (write : Bool) : LockReq := (nsid, slba / 16, (slba + nlb - 1) / 16, write)
def wholeLock (obj : Nat) (write : Bool) : LockReq := (obj, 0, 2 ^ 40 - 1, write)

/-- Entries of a command (R129); `lba` is the first LBA assigned to a Zone Append. -/
def lockReqs (s : State) (c : HostCmd) (lba : Nat) : List LockReq :=
  match c.op with
  | .read | .compare | .verify => [lbaLock c.nsid c.slba c.nlb false]
  | .write | .writeZeroes => [lbaLock c.nsid c.slba c.nlb true]
  | .dsm => c.ranges.map fun r => lbaLock c.nsid r.1 r.2 true
  | .copy => (c.ranges.map fun r => lbaLock c.nsid r.1 r.2 false) ++ [lbaLock c.nsid c.slba ((c.ranges.map (·.2)).sum) true]
  | .zoneAppend => [lbaLock c.nsid lba c.nlb true]
  | .zoneReset | .zoneFinish => [(c.nsid, c.slba / 65536 * 4096, c.slba / 65536 * 4096 + 4095, true)]
  | .kvStore | .kvDelete => [wholeLock (Config.kvHash c.nsid c.key) true]
  | .kvRetrieve | .kvExist => [wholeLock (Config.kvHash c.nsid c.key) false]
  | .adminFormat | .adminNsDelete => [wholeLock c.nsid true]
  | .adminSanitize => s.obj.nss.map fun n => wholeLock n.nsid true
  | .flush | .zoneRecv | .kvList | .zoneOpen | .zoneClose | .adminOther | .unsupported => []

def lockOf (t aseq : Nat) (r : LockReq) : Lock :=
  { obj := r.1, first := r.2.1, last := r.2.2.1, write := r.2.2.2, aseq := aseq, tag := t }

/-- Two entries conflict (R130). -/
def conflicts (a b : Lock) : Bool :=
  a.obj = b.obj && decide (a.first ≤ b.last) && decide (b.first ≤ a.last) && (a.write || b.write)

/-- An entry of the tag conflicts with one of lower ASEQ (R132). -/
def blocked (s : State) (t : Nat) : Bool :=
  s.cqu.locks.any fun a => a.tag = t && s.cqu.locks.any fun b => decide (b.aseq < a.aseq) && conflicts a b

def dropLocks (s : State) (t : Nat) (keep : Lock → Bool) : State :=
  { s with cqu := { s.cqu with locks := s.cqu.locks.filter fun l => l.tag ≠ t || keep l } }

/-- Entries inserted in the cycle of the arrival; LOCKHWM follows (R131, R153). -/
def insertLocks (s : State) (t aseq : Nat) (rs : List LockReq) : State :=
  let s := { s with cqu := { s.cqu with locks := s.cqu.locks ++ rs.map (lockOf t aseq) } }
  if rn s Reg.cquLockhwm < s.cqu.locks.length then rsetN s Reg.cquLockhwm s.cqu.locks.length else s

/-! ### The retention check (R107, R144, R183) -/

/-- A chunk lies in a valid rule window. -/
def inWindow (s : State) (handle chunk : Nat) : Bool :=
  fin8.any fun n =>
    let w := rn s (Reg.locRwhandle n)
    w.testBit 63 &&
      (if w.testBit 62 then decide (fld w 34 6 = handleSlot handle)
       else decide (w % 2 ^ 40 = handle) && decide (rn s (Reg.locRwfirst n) ≤ chunk) && decide (chunk ≤ rn s (Reg.locRwlast n)))

def retained (s : State) (key : Nat) : Bool := (chunkAt s key).ret || inWindow s (keyHandle key) (keyChunk key)

/-- Chunks from `c` on, `n` of them, of one object. -/
def chunkKeys (handle c n : Nat) : List Nat := (List.range n).map fun i => chunkKey handle (c + i)

/-- Keys of the chunks of an LBA range of an NVM or Zoned namespace (R101). -/
def lbaKeys (slot slba nlb : Nat) : List Nat :=
  if nlb = 0 then [] else chunkKeys (nsObject slot) (slba / 16) ((slba + nlb - 1) / 16 - slba / 16 + 1)

/-- Every key of the map with a live version. -/
def liveKeys (s : State) : List Nat := (s.obj.chunks.filter fun e => e.2.count ≠ 0).map (·.1)
def slotKeys (s : State) (slot : Nat) : List Nat := (liveKeys s).filter fun k => handleSlot (keyHandle k) = slot
def objectKeys (s : State) (handle : Nat) : List Nat := (liveKeys s).filter fun k => keyHandle k = handle

/-- LBAs of a range that lie in chunk `c`, a bit each. -/
def lbaBits (c slba nlb : Nat) : Nat :=
  let lo := max slba (16 * c)
  let hi := min (slba + nlb) (16 * c + 16)
  (2 ^ (hi - lo) - 1) * 2 ^ (lo - 16 * c)

/-- Chunks of a range in which the host has written an LBA of the range (R107). -/
def writtenKeys (s : State) (slot slba nlb : Nat) : List Nat :=
  (lbaKeys slot slba nlb).filter fun k =>
    (chunkAt s k).count ≠ 0 && decide ((chunkAt s k).wr &&& lbaBits (keyChunk k) slba nlb ≠ 0)

/-- LBAs noted as written by the host, in the chunks listed. -/
def noteWritten (s : State) (keys : List Nat) (slba nlb : Nat) : State :=
  overList keys s fun s k =>
    let c := chunkAt s k
    putChunk s k { c with wr := c.wr ||| lbaBits (keyChunk k) slba nlb }

/-- The object of a key. -/
def kvFind (n : Ns) (key : List Byte) : Option KvObj := n.objs.find? fun o => o.key = key

/-- Chunks that a destructive operation names (R107), none for a command that is not destructive. -/
def destroys (s : State) (c : HostCmd) : List Nat :=
  match nsOf s c.nsid with
  | none => if c.op = .adminSanitize then liveKeys s else []
  | some n =>
    match c.op with
    | .write | .writeZeroes => writtenKeys s n.slot c.slba c.nlb
    | .copy => writtenKeys s n.slot c.slba ((c.ranges.map (·.2)).sum)
    | .dsm => c.ranges.flatMap fun r => lbaKeys n.slot r.1 r.2
    | .zoneReset => chunkKeys (nsObject n.slot) (c.slba / 65536 * 4096) 4096
    | .kvStore | .kvDelete =>
      match kvFind n c.key with
      | some o => chunkKey o.handle objRecordChunk :: objectKeys s o.handle
      | none => []
    | .adminFormat | .adminNsDelete => slotKeys s n.slot
    | .adminSanitize => liveKeys s
    | _ => []

/-- A destructive command (R107): one of the kinds that always are, or one that names chunks already written. -/
def destructive (s : State) (c : HostCmd) : Bool :=
  match c.op with
  | .dsm | .zoneReset | .adminFormat | .adminSanitize | .adminNsDelete => true
  | _ => !(destroys s c).isEmpty

/-- A rule window or a retention bit covers part of what the command destroys; a whole-namespace scope meets every window of
its slot. -/
def retentionHit (s : State) (c : HostCmd) : Bool :=
  (destroys s c).any (retained s) ||
    (match c.op, nsOf s c.nsid with
      | .adminFormat, some n | .adminNsDelete, some n =>
        fin8.any fun i => rbit s (Reg.locRwhandle i) 63 && decide (rf s (Reg.locRwhandle i) 34 6 = n.slot)
      | .adminSanitize, _ => fin8.any fun i => rbit s (Reg.locRwhandle i) 63
      | _, _ => false)

/-! ### New versions of chunks (R157–R169) -/

/-- Next write sequence, and the state with `n` values reserved (R169). -/
def takeWseq (s : State) (n : Nat) : Nat × State := (rn s Reg.cdcWseq, rsetN s Reg.cdcWseq ((rn s Reg.cdcWseq + n) % 2 ^ 56))

/-- The generation that follows (R169). -/
def nextGen (g : Nat) : Nat := if g = 0 || g = 0xFFFF_FFFF then 1 else g + 1

/-- A new version of a chunk in the dirty set: durable (R99), with the version before it kept until its units are placed. A chunk
written for the first time within the scope of a rule in force is retained (R183). -/
def storeChunk (s : State) (key keyep : Nat) (data : List Byte) : State :=
  let old := chunkAt s key
  let pk := packing s data
  let w := takeWseq s pk.2
  let s := w.2
  let s := if pk.1 then rcount s Reg.cdcChunksr 1
    else rcount (rcount s Reg.cdcChunksc 1) Reg.cdcSaved (unitsOf data.length - pk.2)
  let s := if old.staged || old.count = 0 then s
    else { s with obj := { s.obj with durable := tset Chunk.absent s.obj.durable key old } }
  putChunk s key
    { wr := old.wr, gen := nextGen old.gen, wseq := w.1, keyep := keyep, kdraw := slotDraw s (handleSlot (keyHandle key)), stream := packed s data
      clen := data.length, raw := pk.1, count := pk.2, tier := 0, loc := 0
      ret := old.ret || s.datum.rules.any fun r => ruleCovers r.2 (keyHandle key) (keyChunk key), poison := false, dirty := true, staged := true, data := data }

/-- A chunk loses its live version; its generation and its retention bit stay (R173, R183). -/
def dropChunk (s : State) (key : Nat) : State :=
  let c := chunkAt s key
  let s := { s with obj := { s.obj with durable := tset Chunk.absent s.obj.durable key Chunk.absent } }
  putChunk s key { Chunk.absent with gen := c.gen, ret := c.ret }

/-- LBAs from `lo` to before `hi` of a namespace read as zeroes: chunks with a live version that gives data get a version with
those LBAs zeroed. -/
def zeroLbas (s : State) (n : Ns) (lo hi : Nat) : State :=
  overList (lbaKeys n.slot lo (hi - lo)) s fun s k =>
    let c := chunkAt s k
    if c.count = 0 || c.poison then s
    else
      let old := c.data ++ zeros (65536 - c.data.length)
      let a := 4096 * (max lo (16 * keyChunk k) - 16 * keyChunk k)
      let b := 4096 * (min hi (16 * keyChunk k + 16) - 16 * keyChunk k)
      storeChunk s k n.keyep (old.take a ++ zeros (b - a) ++ old.drop b)

/-- A Zone Append that has its LBAs and fails: they read as zeroes, and the write pointer stays past them (R135). A chunk that is
poisoned stays so: its other LBAs are lost (R118). -/
def zeroAppend (s : State) (t : Nat) : State :=
  let x := tagAt s t
  if !(x.assigned && x.cmd.op = .zoneAppend) then s
  else match nsOf s x.cmd.nsid with
    | none => s
    | some n => zeroLbas s n x.zlba (x.zlba + x.cmd.nlb)

/-- A tombstone (R173): cause 1 deallocate, 2 Delete, 3 Zone Reset, 4 Namespace Delete. -/
def addTomb (s : State) (handle first last cause : Nat) : State :=
  let w := takeWseq s 1
  let s := w.2
  let ep := ((nsOf s (handleSlot handle + 1)).map (·.keyep)).getD 0
  let t : Tomb := { handle := handle, first := first, last := last, cause := cause, wseq := w.1, keyep := ep, loc := none }
  { s with obj := { s.obj with tombs := s.obj.tombs ++ [t] } }

/-! ### Completions (R141, R142, R144, R147) -/

/-- A completion queue has room for an entry. -/
def cqRoom (q : Cq) : Bool := decide ((q.tail + 1) % q.size ≠ q.head)

/-- The completion queue of a submission queue. -/
def cqOfSq (x : PortSt) (sqid : Nat) : Option Cq :=
  match x.sqs.find? fun q => q.qid = sqid with
  | none => none
  | some q => x.cqs.find? fun c => c.qid = q.cqid

/-- A tag returns to FREE; an Abort that waited for it waits no longer. -/
def freeTagNow (s : State) (t : Nat) : State :=
  let s := setTag s t Tag.free
  { s with cqu := { s.cqu with
      compq := s.cqu.compq.filter fun u => u ≠ t
      tags := s.cqu.tags.map fun e => if e.2.waits = some t then (e.1, { e.2 with waits := none }) else e } }

/-- An entry of the Error Information log (R114): the last 64 are kept. -/
def logErr (p : PortSt) (sqid cid : Nat) (r : Nat × Nat) (lba nsid : Nat) : PortSt :=
  let e : ErrEnt := { num := p.errNum + 1, sqid := sqid, cid := cid, sct := r.1, sc := r.2, lba := lba, nsid := nsid }
  { p with errs := (e :: p.errs).take 64, errNum := p.errNum + 1 }

/-- The completion entry of a tag (R142), sent without Relaxed Ordering; a command that failed enters the error log. -/
def putCqe (p : PortSt) (x : Tag) (q : Cq) : PortSt :=
  let e : Cqe := { sqid := x.sqid, cid := x.cmd.cid, sct := x.sct, sc := x.sc, dw0 := x.dw0 }
  let p := { p with
    posted := some (.cqe, false)
    cqs := lmodFirst (fun c => c.qid = q.qid) (fun c => { c with tail := (c.tail + 1) % c.size, entries := e :: c.entries }) p.cqs }
  if (x.sct, x.sc) = scOk then p else logErr p x.sqid x.cmd.cid (x.sct, x.sc) x.cmd.slba x.cmd.nsid

/-- The completion entry of a tag and, after it, its message (R142). -/
def writeCqe (s : State) (t : Nat) (x : Tag) (q : Cq) : State :=
  freeTagNow (modPort s x.port fun p => signal (putCqe p x q) s.tick.toNat q.qid q.vector) t

/-- One tag of the completion order: its entry written where its queue has room and nothing holds it back. An Abort whose entry
waits holds its queue, so that entries keep the order in which their commands entered COMPLETING (R141, R147). -/
def postOne (s : State) (held : List (Port × Nat)) (t : Nat) : List (Port × Nat) × State :=
  let x := tagAt s t
  match cqOfSq (s.port x.port) x.sqid with
  | none => (held, s)
  | some q =>
    if x.waits.isSome || held.contains (x.port, q.qid) || !cqRoom q || q.stopped then ((x.port, q.qid) :: held, s)
    else (held, writeCqe s t x q)

/-- Entries are written to each queue in the order in which the commands entered COMPLETING. -/
def postAll (s : State) (held : List (Port × Nat)) (l : List Nat) : State :=
  match l with
  | [] => s
  | t :: rest =>
    let r := postOne s held t
    postAll r.2 r.1 rest

/-- Twice, so that an Abort whose command was ahead of it in another queue follows at once. Once the unit has stopped at step 3 of
the power-fail sequence it writes none (R61). -/
def postCompletions (s : State) : State :=
  if s.cqu.stopped then s
  else
    let s := postAll s [] s.cqu.compq
    postAll s [] s.cqu.compq

/-- The namespace that a command names was deleted while the command waited. -/
def orphan (s : State) (c : HostCmd) : Bool :=
  (nsOf s c.nsid).isNone && c.op ≠ .adminSanitize && c.op ≠ .adminOther && c.op ≠ .unsupported

/-- A command that has done nothing yet enters COMPLETING with an error. -/
def failEarly (s : State) (t : Nat) (r : Nat × Nat) : State :=
  let s := zeroAppend s t
  let s := dropLocks (modTag s t fun x => { x with st := .completing, sct := r.1, sc := r.2 }) t fun _ => false
  { s with cqu := { s.cqu with compq := s.cqu.compq ++ [t] } }

/-- A command leaves FETCHED or LOCKWAIT toward media work (R143, R144). -/
def proceed (s : State) (t : Nat) : State :=
  let x := tagAt s t
  if orphan s x.cmd then failEarly s t scNamespace
  else if retentionHit s x.cmd then failEarly s t scRetention
  else
    let d := destructive s x.cmd
    modTag s t fun y => { y with st := if d then .ledger else .active, destr := d }

/-- Tags in LOCKWAIT, in arrival order. -/
def insertAseq (e : Nat × Nat) (l : List (Nat × Nat)) : List (Nat × Nat) :=
  match l with
  | [] => [e]
  | f :: rest => if e.2 ≤ f.2 then e :: f :: rest else f :: insertAseq e rest
def waiters (s : State) : List Nat :=
  (((s.cqu.tags.filter fun e => e.2.st = .lockwait).map fun e => (e.1, e.2.aseq)).foldl (fun l e => insertAseq e l) []).map (·.1)

/-- Commands in LOCKWAIT that no entry of lower ASEQ blocks any more leave it (R132). -/
def releaseWaiters (s : State) : State := overList (waiters s) s fun s t => if blocked s t then s else proceed s t

/-- As a command that leaves LOCKWAIT with a failed check releases its own entries, those behind it are looked at again. -/
def locksChanged (s : State) : State := postCompletions (releaseWaiters (releaseWaiters s))

/-- CSTS.RDY of a disabled controller becomes 0 once the media work of its commands has ended (R100). -/
def settleRdy (s : State) (p : Port) : State :=
  if !(s.port p).en && s.cqu.tags.all fun e => e.2.port ≠ p then modPort s p fun x => { x with rdy := false } else s

/-- A command enters COMPLETING with a result: its entries are released (R133). A command ended by a reset posts nothing: its
tag is free once its media work has ended (R144). -/
def complete (s : State) (t : Nat) (r : Nat × Nat) (dw0 : Nat) : State :=
  let x := tagAt s t
  let s := if r = scOk then s else zeroAppend s t
  let s := dropLocks s t fun _ => false
  if x.dead then settleRdy (locksChanged (if x.mops = 0 then freeTagNow s t else s)) x.port
  else
    let s := setTag s t { x with st := .completing, sct := r.1, sc := r.2, dw0 := dw0 }
    locksChanged { s with cqu := { s.cqu with compq := s.cqu.compq ++ [t] } }

/-- A command ends before its work is done: its waiting operations are dropped, it leaves its ladders, and it starts no further
operation; it completes once those already started have ended (R26, R94, R146). -/
def endWith (s : State) (t : Nat) (r : Nat × Nat) : State :=
  let s := dropWaits s fun w => w.tag = t
  let s := { s with ladders := s.ladders.map fun l => { l with tags := l.tags.filter fun u => u ≠ t } }
  if (tagAt s t).mops = 0 then complete s t r 0 else modTag s t fun x => { x with aborted := true, sct := r.1, sc := r.2 }

/-- Destructive commands that take no data from the host: past the ledger they take effect even where a reset of their port ends
them (R145). -/
def runsOn (op : HostOp) : Bool :=
  match op with
  | .dsm | .zoneReset | .kvDelete | .adminFormat | .adminNsDelete | .adminSanitize => true
  | _ => false

/-- A step of the entry to PS3 is under way and has not reached its safe point: no command proceeds (R150, R151). -/
def psHolds (s : State) : Bool := s.cqu.psStep ≠ 0 && !s.cqu.psUndo

/-- The command of a tag is in ACTIVE with nothing of its media work outstanding, and nothing holds commands: not the entry to PS3
(R151), not step 3 of the power-fail sequence (R61), not a block reset that ends it (R68). -/
def ready (s : State) (t : Nat) (op : HostOp) : Bool :=
  let x := tagAt s t
  x.st = .active && x.cmd.op = op && x.mops = 0 && !psHolds s && !s.cqu.stopped && !s.cqu.wiped
    && !s.cqu.cut.contains x.port && !(s.cqu.waitOps.any fun w => w.tag = t)
    && !(s.ladders.any fun l => l.tags.contains t) && (!x.dead || runsOn op)

/-- An admin command handed to firmware. -/
def readyAdmin (s : State) (t : Nat) (op : HostOp) : Bool := (tagAt s t).admin && ready s t op

/-! ### Asynchronous events (R116, R89) -/

/-- A request takes an event. -/
def giveAen (s : State) (p : Port) (t : Nat) (e : Aen) : State :=
  let s := modPort s p fun x => { x with
    aers := x.aers.drop 1, events := e :: x.events, maskedTypes := e.ty :: x.maskedTypes }
  complete s t scOk (e.ty % 8 + e.info % 256 * 2 ^ 8 + e.log % 256 * 2 ^ 16)

/-- An event on one controller: given to the oldest request where its type is not masked, else held, at most one of each type
and information value. -/
def postAen (s : State) (p : Port) (e : Aen) : State :=
  let x := s.port p
  let s := if e.ty = 7 && x.dstate = 4 then modPort s p fun x => { x with wake := true } else s
  match x.aers with
  | t :: _ =>
    if x.maskedTypes.contains e.ty then
      modPort s p fun x => if x.held.any fun h => h.ty = e.ty && h.info = e.info then x else { x with held := x.held ++ [e] }
    else giveAen s p t e
  | [] => modPort s p fun x => if x.held.any fun h => h.ty = e.ty && h.info = e.info then x else { x with held := x.held ++ [e] }

/-- A held event whose type is not masked goes to the oldest request. -/
def serveHeld (s : State) (p : Port) : State :=
  let x := s.port p
  match x.aers, x.held.find? fun h => !x.maskedTypes.contains h.ty with
  | t :: _, some e => giveAen (modPort s p fun x => { x with held := x.held.filter fun h => h ≠ e }) p t e
  | _, _ => s

/-- An event that goes to both controllers; to one where the subsystem has one (R84, R116). -/
def postBoth (s : State) (e : Aen) : State :=
  let s := postAen s .a e
  if s.conf.hostcfg1 then s else postAen s .b e

/-- Temperature Threshold (R113), by its type: 0 over, 1 under; until the host sets it, WCTEMP and 0 K. -/
def thresholdKey (ty : Nat) : Nat := 0x2_0000 + ty
def threshold (x : PortSt) (ty : Nat) : Nat :=
  let v := tget 0 x.features (thresholdKey ty)
  if v < 2 ^ 32 then if ty = 0 then 378 else 0 else v % 2 ^ 16

/-- A SMART / Health event (type 1) on a controller whose Asynchronous Event Configuration enables its Critical Warning bit (R113, R115,
R116). -/
def smartOn (s : State) (p : Port) (bit info : Nat) : State :=
  if (tget 0 (s.port p).features 0xB).testBit bit then postAen s p { ty := 1, info := info, log := 2 } else s

/-- On every controller: 0 reliability, 1 temperature, 2 spare blocks. -/
def smartEvent (s : State) (bit info : Nat) : State :=
  let s := smartOn s .a bit info
  if s.conf.hostcfg1 then s else smartOn s .b bit info

/-- A Critical Warning bit set, with its event as it becomes 1. -/
def setWarning (s : State) (bit : Fin 5) (info : Nat) : State :=
  if s.obj.critWarn.getLsbD bit then s
  else smartEvent { s with obj := { s.obj with critWarn := s.obj.critWarn ||| (1 <<< bit.val) } } bit.val info

/-- An event of a namespace goes to the controllers it is attached to. -/
def postNs (s : State) (n : Ns) (e : Aen) : State :=
  let s := if n.attA then postAen s .a e else s
  if n.attB && !s.conf.hostcfg1 then postAen s .b e else s

/-! ### Room (R62, R103) -/

/-- Units that the live versions occupy on each tier and in the dirty set. -/
def unitsUsed (s : State) : Nat := (s.obj.chunks.map fun e => e.2.count).sum

/-- The dirty set, in bytes (R62): units staged, tombstones too, and the map state that Locus stages in the buffer, 16 bytes for each
DIRTY entry.
Lattice stages nothing there: its windows lie in bank 2, and a flush commits to flash (R302, R303). -/
def dirtyBytes (s : State) : Nat :=
  (s.obj.chunks.map fun e => (if e.2.staged then 4128 * e.2.count else 0) + (if e.2.dirty then 16 else 0)).sum
    + 4128 * (s.obj.tombs.filter fun t => t.loc.isNone).length

/-- Write data that would exceed DIRTYCAP, or what the power-fail reserve holds, is held back (R62, R400). -/
def dirtyFits (s : State) (bytes : Nat) : Bool :=
  decide (dirtyBytes s + bytes ≤ min (rf s Reg.pmuPfctl 8 8 * 2 ^ 20) (reserveHolds s))

/-- With DIRTYCAP 0, as a retired flash tier leaves it, no data are durable in the buffer: they stand there on their way to media, and
their write completes once they are on media (R99, R416). -/
def writesThrough (s : State) : Bool := rf s Reg.pmuPfctl 8 8 = 0

/-- The buffer takes the data of a write. -/
def takesData (s : State) (bytes : Nat) : Bool := writesThrough s || dirtyFits s bytes

/-- The data that a command has staged are durable (R99). -/
def durable (s : State) (x : Tag) : Bool := !writesThrough s || x.keys.all fun k => !(chunkAt s k).staged

/-- Data units of the disk tier: k bands of each group that is not RESERVED; every band where m is 0. -/
def diskUnits (s : State) : Nat :=
  (groupCount s - (s.lat.groups.filter fun e => e.2.st = .reserved).length) * s.conf.k * 65536

end Sys2Proof.Machine
end

