-- ==== Sys2Proof/Machine/Groups.lean ====
section
/-! DEFINITION. Parity groups beneath the commands of Lattice: admission of writes (R301), windows and images (R302–R304),
sealing (R300), reconstruction of a slot (R298, R307), release of bands (R314). -/

namespace Sys2Proof.Machine

def modGroup (s : State) (g : Nat) (f : Group → Group) : State :=
  { s with lat := { s.lat with groups := tset Group.free s.lat.groups g (f (groupAt s g)) } }

/-- A bit of a mask of members. -/
def setMem8 (m : BitVec 8) (j : Nat) (b : Bool) : BitVec 8 := BitVec.ofNat 8 (putBit m.toNat j b)
def mem8 (m : BitVec 8) (j : Nat) : Bool := m.toNat.testBit j

/-- Members of a group. -/
def members (s : State) : List Nat := List.range (groupW s)
def dataMembers (s : State) (g : Nat) : List Nat := (members s).filter fun j => isDataMember s g j
def parityMembers (s : State) (g : Nat) : List Nat := (members s).filter fun j => !isDataMember s g j

/-- Service state of a spindle; one that is not present is absent. -/
def svcOf (s : State) (spindle : Nat) : SpinService :=
  if spindlePresent s spindle then vget s.lat.svc (Fin.ofNat 8 spindle) else .absent
/-- The spindle is in service, or rejoining: new writes land on it (R310, R312). -/
def serves (s : State) (spindle : Nat) : Bool :=
  match svcOf s spindle with
  | .inService | .rejoin => true
  | .absent | .outOfService => false

/-- Lattice keeps groups (R299, R320). -/
def latticeOn (s : State) : Bool := s.conf.m ≠ 0 && rbit s Reg.latCtl 0

/-! ### Images (R303) -/

def imgKey (g part q : Nat) : Nat := (2 * g + part) * 2 ^ 17 + q
/-- A slot of an image. -/
def imageAt (s : State) (g part q : Nat) : List Byte :=
  match tget [] s.lat.images (imgKey g part q) with
  | [] => zeros 4128
  | b :: r => b :: r
/-- Bytes added into a slot of an image. -/
def addImage (s : State) (g part q : Nat) (bs : List Byte) : State :=
  { s with lat := { s.lat with images := tset [] s.lat.images (imgKey g part q) (xorBytes (imageAt s g part q) bs) } }
/-- The images of a group released. -/
def dropImages (s : State) (g : Nat) : State :=
  { s with lat := { s.lat with images := s.lat.images.filter fun e => e.1 / 2 ^ 18 ≠ g } }

/-! ### Windows (R302–R304) -/

def winBase (n : Fin 8) : Nat := 0x10_0050_0000 + n.val * 0x4_0800

/-- Bytes of a window entry of a part. -/
def winAddr (n : Fin 8) (part i : Nat) : Nat := winBase n + part * 32 * 4128 + i * 4128

/-- One slot of a window added into its image, and the window's bytes cleared. -/
def flushSlot (s : State) (n : Fin 8) (g part q i : Nat) : State :=
  match busRead s masterLat (winAddr n part i) 4128 none with
  | (none, s) => raise1 s .lat 2
  | (some bs, s) => (busWrite (addImage s g part q bs) masterLat (winAddr n part i) (zeros 4128)).2

/-- A data member is sealed (R300). -/
def sealMember (s : State) (g j : Nat) : State := modGroup s g fun x => { x with sealed_ := setMem8 x.sealed_ j true }

/-- The flush of a slice's window (R303): images and FILL are committed together. -/
def flushWindow (s : State) (n : Fin 8) : State :=
  match (s.slice n).win with
  | none => s
  | some (bk, first, held) =>
    let s := modSlice s n fun x => { x with win := none }
    match groupOf s (bk / 2 ^ 21) (bk % 2 ^ 21) with
    | none => s
    | some (g, j) =>
      let s := overList (List.range held) s fun s i =>
        overList (List.range s.conf.m) s fun s part => flushSlot s n g part (first + i) i
      let s := modGroup s g fun x => { x with fill := vset x.fill (Fin.ofNat 8 j) (first + held) }
      if bandSlots ≤ first + held then sealMember s g j else s

/-- Windows of the slices that write a band flushed. -/
def flushBand (s : State) (bk : Nat) : State :=
  overList fin8 s fun s n => if ((s.slice n).win.map (·.1)) = some bk then flushWindow s n else s

/-- Bytes added to an entry of a window; false where the window's words are uncorrectable. -/
def addWindow (s : State) (n : Fin 8) (part i : Nat) (bs : List Byte) : Bool × State :=
  match busRead s masterLat (winAddr n part i) 4128 none with
  | (none, s) => (false, raise1 s .lat 2)
  | (some old, s) => busWrite s masterLat (winAddr n part i) (xorBytes old bs)

/-- A slot of a data member that ended OK, added to the window of its slice (R302); false for WINPAR (R320). -/
def accumulateSlot (s : State) (n : Fin 8) (spindle band slot : Nat) (info : List Byte) : Bool × State :=
  match groupOf s spindle band with
  | none => (true, s)
  | some (g, j) =>
    if !latticeOn s || !isDataMember s g j || (groupAt s g).st = .reserved then (true, s)
    else
      let bk := bandKey spindle band
      let s := match (s.slice n).win with
        | some (b, f, h) => if b = bk && f + h = slot && h < 32 then s else flushWindow s n
        | none => s
      let w := ((s.slice n).win).getD (bk, slot, 0)
      let i := w.2.2
      let p := addWindow s n 0 i info
      let q := if s.conf.m = 2 then addWindow p.2 n 1 i (gfScale (gfPow (roleOf s g j)) info) else (true, p.2)
      (p.1 && q.1, modSlice q.2 n fun x => { x with win := some (w.1, w.2.1, i + 1) })

/-! ### Admission (R301) -/

/-- What Lattice answers to a write operation. -/
inductive Admission | pass | order | wait | opens (g : Nat)
  deriving DecidableEq

def admission (s : State) (d : Desc) : Admission :=
  if !latticeOn s then .pass
  else
    match groupOf s (maddrSpindle d.band) (maddrBand d.band) with
    | none => .order
    | some (g, j) =>
      let x := groupAt s g
      match x.st with
      | .reserved => if d.notag then .pass else .order
      | .open_ => if isDataMember s g j && !mem8 x.sealed_ j then .pass else .order
      | .free =>
        if !isDataMember s g j || !serves s (maddrSpindle d.band) then .order
        else if openCount s < rf s Reg.latOpenmax 0 7 then .opens g else .wait
      | .closing | .closed | .pending | .rebuild => .order

/-- A group opens: members on spindles out of service are sealed, since no band of theirs is allocated (R310). -/
def openGroup (s : State) (g : Nat) : State :=
  let out := (dataMembers s g).filter fun j => !serves s (memberOf s g j).1
  modGroup s g fun _ => { Group.free with st := .open_, sealed_ := out.foldl (fun m j => setMem8 m j true) 0 }

/-! ### Reconstruction (R297, R298, R307) -/

/-- The image of a parity member stands in flash: the group is OPEN, CLOSING or PENDING and its images are good. -/
def fromImage (s : State) (g j : Nat) : Bool :=
  let x := groupAt s g
  !isDataMember s g j && x.imgOk && (x.st = .open_ || x.st = .closing || x.st = .pending)

/-- A data member that counts as zero at a slot. -/
def countsZero (s : State) (g j q : Nat) : Bool := isDataMember s g j && decide (vget (groupAt s g).fill (Fin.ofNat 8 j) ≤ q)

/-- The bytes of a member at a slot; none where it is lost. -/
def memberBytes (s : State) (failed : List Nat) (g j q : Nat) : Option (List Byte) :=
  let m := memberOf s g j
  if countsZero s g j q then some (zeros 4128)
  else if fromImage s g j then some (imageAt s g (roleOf s g j - s.conf.k) q)
  else if failed.contains j || !serves s m.1 || mem8 (groupAt s g).stale j then none
  else if !isDataMember s g j && !mem8 (groupAt s g).parDone j then none
  else mediaSlot s m.1 m.2 q

/-- Rank of a source in the order of R307. -/
def sourceRank (s : State) (g j q : Nat) : Nat :=
  let sp := (memberOf s g j).1
  (if countsZero s g j q then 0 else if fromImage s g j then 1
    else if turning s (Fin.ofNat 8 sp) then 2 else 3) * 8 + sp

def insertRank (s : State) (g q j : Nat) (l : List Nat) : List Nat :=
  match l with
  | [] => [j]
  | i :: rest => if sourceRank s g j q < sourceRank s g i q then j :: i :: rest else i :: insertRank s g q j rest

/-- The k sources for member `t` at a slot, fewer where fewer are left. -/
def sources (s : State) (failed : List Nat) (g t q : Nat) : List Nat :=
  ((((members s).filter fun j => j ≠ t && (memberBytes s failed g j q).isSome).foldl
    (fun l j => insertRank s g q j l) [])).take s.conf.k

/-- Bytes of a role among the chosen sources. -/
def roleBytes (s : State) (failed src : List Nat) (g q r : Nat) : Option (List Byte) :=
  let j := memberOfRole s g r
  if src.contains j then memberBytes s failed g j q else none

/-- Sum of the data roles that are at hand, each times α^(e × role). -/
def sumRoles (s : State) (v : Nat → Option (List Byte)) (e : Nat) : List Byte :=
  (List.range s.conf.k).foldl (fun acc i =>
    match v i with
    | some b => xorBytes acc (gfScale (gfPow (e * i)) b)
    | none => acc) (zeros 4128)

/-- Lost data roles among the sources. -/
def lostRoles (s : State) (v : Nat → Option (List Byte)) : List Nat := (List.range s.conf.k).filter fun i => (v i).isNone

/-- Data role `a` from what is at hand (R298). -/
def solveData (s : State) (v : Nat → Option (List Byte)) (a : Nat) : Option (List Byte) :=
  match v a with
  | some b => some b
  | none =>
    let p := if s.conf.m = 0 then none else v s.conf.k
    let q := if s.conf.m = 2 then v (s.conf.k + 1) else none
    let px := p.map fun p => xorBytes p (sumRoles s v 0)
    let qx := q.map fun q => xorBytes q (sumRoles s v 1)
    match (lostRoles s v).filter fun i => i ≠ a, px, qx with
    | [], some px, _ => some px
    | [], none, some qx => some (gfScale (gfInv (gfPow a)) qx)
    | [b], some px, some qx => some (gfScale (gfInv (gfPow a ^^^ gfPow b)) (xorBytes qx (gfScale (gfPow b) px)))
    | _, _, _ => none

/-- The bytes of member `t` of a group at a slot, reconstructed; none where too many members are lost. -/
def reconstructSlot (s : State) (failed : List Nat) (g t q : Nat) : Option (List Byte) :=
  let src := sources s failed g t q
  let v := roleBytes s failed src g q
  let r := roleOf s g t
  if src.length < s.conf.k then none
  else if r < s.conf.k then solveData s v r
  else
    let full := (List.range s.conf.k).map (solveData s v)
    if full.any (·.isNone) then none
    else some (sumRoles s (fun i => (full.getD i none)) (r - s.conf.k))

/-! ### Release (R313, R314) -/

/-- A band is returned: when the last data member of its group is released, the group is FREE with no stale mark. -/
def releaseBand (s : State) (spindle band : Nat) : State :=
  match groupOf s spindle band with
  | none => s
  | some (g, j) =>
    if !isDataMember s g j || s.conf.m = 0 then s
    else
      let s := modGroup s g fun x => { x with released := setMem8 x.released j true }
      if (dataMembers s g).all fun i => mem8 (groupAt s g).released i then dropImages (modGroup s g fun _ => Group.free) g else s

/-- A live version is copied to the dirty set, tags and data unchanged (R170, R280); the version on media stays until the copy is
placed. -/
def relocateToBuffer (s : State) (key : Nat) : State :=
  let c := chunkAt s key
  if c.count = 0 then s
  else
    let s := if c.staged then s else { s with obj := { s.obj with durable := tset Chunk.absent s.obj.durable key c } }
    putChunk s key { c with staged := true, dirty := true }

end Sys2Proof.Machine
end

