-- ==== Sys2Proof/Machine/Write.lean ====
section
/-! DEFINITION. The write side of the Chord slices: the start of a write operation (R245–R250, R259, R301), slots (R243, R244,
R249, R261), the laser loop (R253), the preamplifier link (R254–R259), and the outer-code decoder (R272–R276, R291, R292). -/

namespace Sys2Proof.Machine

/-! ### The start of a write operation -/

/-- Buffer address of a band's write-pointer word (R246). -/
def wptrAddr (s : State) (n : Fin 8) (spindle band : Nat) : Nat :=
  rf s (Reg.chdWptrbase n) 26 10 * 2 ^ 26 + 4 * bandKey spindle band

/-- Address of a write profile (R250). -/
def profAddr (s : State) (n : Fin 8) (i : Nat) : Nat := rf s (Reg.chdWpbase n) 6 30 * 64 + 64 * i

/-- A number of a profile. -/
def profNat (p : List Byte) (off k : Nat) : Nat := ofBytes ((p.drop off).take k)
def profLaserw (p : List Byte) : Nat := profNat p 0x08 2 % 1024

/-- Every unit of a write ends with one RESULT and nothing is written. -/
def refuseWrite (s : State) (n : Fin 8) (o : MediaOp) (result : Nat) : State :=
  modOp (endSlots s n o 0 (opSlots o) result) n fun o => { o with done := opSlots o, ended := true }

/-- The serial frames of a profile (R250, R255). -/
def profFrames (s : State) (n : Fin 8) (p : List Byte) : State :=
  overList (List.range (min 8 (profNat p 0x14 1))) s fun s i => sendFrame s n (profNat p (0x18 + 2 * i) 2)

/-- The operation begins: profile, frames, laser at write level, loop cleared (R252, R253). -/
def beginWrite (s : State) (n : Fin 8) (prof : List Byte) (opens : Option Nat) : State :=
  let s := match opens with
    | some g => openGroup s g
    | none => s
  let s := profFrames s n prof
  let s := modSlice s n fun x => { x with
    prof := prof, code := profLaserw prof, acc := 0, trim := 0, devs := 0, mon := 0, monSum := 0, monN := 0 }
  modOp s n fun o => { o with writing := true }

/-- Profile and write pointer are read and compared (R247, R250). -/
def checkWrite (s : State) (n : Fin 8) (o : MediaOp) (opens : Option Nat) : State :=
  let m := masterChd n
  match busRead s m (profAddr s n o.d.profile) 64 none with
  | (none, s) => refuseWrite s n o 10
  | (some prof, s) =>
    match busReadNat s m (wptrAddr s n (maddrSpindle o.d.band) (maddrBand o.d.band)) 4 with
    | (none, s) => refuseWrite s n o 10
    | (some q, s) => if q = o.d.slot then beginWrite s n prof opens else refuseWrite s n o 6

/-- The slice may start to write: actuator in TRACK on a settled clock, every write-unsafe source absent for WUSHOLD (R259). -/
def writeReady (s : State) (n : Fin 8) : Bool :=
  let x := s.slice n
  let l := vget s.links x.act
  x.valid && x.dir && (s.act x.act).st = .track && !(vget s.afes x.act).settling && l.live.isEmpty && !l.holding

/-- WRITE_OP_START. -/
def writeOpStartOp (s : State) (n : Fin 8) : State :=
  match (s.slice n).op with
  | none => s
  | some o =>
    when (o.d.kind = 2 && !o.writing && !o.ended && o.done = 0 && writeReady s n) s fun s =>
      if o.d.close && o.d.slot + o.d.count ≠ dataSlots then refuseWrite s n o 6
      else
        match admission s o.d with
        | .pass => checkWrite s n o none
        | .opens g => checkWrite s n o (some g)
        | .order => refuseWrite s n o 6
        | .wait => s

def execWriteOpStart (n : Fin 8) (s : State) : Host.Outcome State Fault Refusal := settled (writeOpStartOp s n)

/-! ### Slots -/

/-- The units of a command's staged chunks, in order. -/
def tagUnits (s : State) (t : Nat) : List (Nat × Nat) :=
  (tagAt s t).keys.flatMap fun k => (List.range (chunkAt s k).count).map fun u => (k, u)

/-- Accumulator entry of an outer-code group: part 0 holds d0, part 1 holds d1 (R244, R273). -/
def accAddr (o : MediaOp) (part g : Nat) : Nat := o.d.aux + (1058 * part + g) * 4128

/-- The parity slot of a CLOSE from the accumulator (R245, R273). -/
def paritySlot (s : State) (n : Fin 8) (o : MediaOp) (slot : Nat) : Option (List Byte) × State :=
  let g := outerGroup slot
  match busRead s (masterChd n) (accAddr o 0 g) 4128 none with
  | (none, s) => (none, s)
  | (some d0, s) =>
    match busRead s (masterChd n) (accAddr o 1 g) 4128 none with
    | (none, s) => (none, s)
    | (some d1, s) =>
      let p := gfScale (gfInv 3) (xorBytes d0 d1)
      (some (if outerRow slot = 62 then p else xorBytes d0 p), s)

/-- The information bytes of slot `i` of a write (R243); none where they could not be read. -/
def slotInfo (s : State) (n : Fin 8) (o : MediaOp) (i : Nat) : Option (List Byte) × State :=
  if o.d.count ≤ i then paritySlot s n o (o.d.slot + i)
  else
    match o.src with
    | .queue _ _ => busRead s (masterChd n) (o.d.data + 4128 * i) 4128 none
    | .tag t =>
      match if i < o.units then (tagUnits s t)[o.first + i]? else none with
      | some (k, u) => (some (chunkUnit k (chunkAt s k) u), s)
      | none =>
        let w := takeWseq s 1
        (some (padUnit w.1), w.2)

/-- A slot added into the outer-code accumulator, where the operation names one (R244, R273). -/
def accumulateOuter (s : State) (n : Fin 8) (o : MediaOp) (slot : Nat) (info : List Byte) : State :=
  if o.d.aux = 0 || dataSlots ≤ slot then s
  else
    let g := outerGroup slot
    let add := fun (s : State) (part : Nat) (bs : List Byte) => (
      match busRead s (masterChd n) (accAddr o part g) 4128 none with
      | (none, s) => s
      | (some old, s) => (busWrite s (masterChd n) (accAddr o part g) (xorBytes old bs)).2 : State)
    let s : State := add s 0 info
    add s 1 (gfScale (gfPow (63 - outerRow slot)) info)

/-- Entries of a verification (R261), in reading order; each that is not OK counts in VERIFYFAIL. -/
def verifySlots (s : State) (n : Fin 8) (o : MediaOp) (k : Nat) (results : List Nat) : State :=
  match k with
  | 0 => s
  | k' + 1 =>
    let r := if targetZero s n then 4 else results.headD 0
    let vd := match (s.slice n).op with
      | some p => p.vdone
      | none => 0
    let s := match o.src with
      | .queue _ _ => (busWriteNat s (masterChd n) (o.d.vstatus + 8 * vd) 8 (readStatusWord (ReadStatus.none r))).2
      | .tag _ => s
    let s := if r = 0 then s else rcount s (Reg.chdVerifyfail n) 1
    verifySlots (modOp s n fun p => { p with vdone := p.vdone + 1 }) n o k' results.tail

/-- Slots that verification reads after a slot (R261). -/
def verifyCount (s : State) (n : Fin 8) (o : MediaOp) (i : Nat) : Nat :=
  let mode := rf s (Reg.chdWctl n) 4 2
  let slot := o.d.slot + i
  let last := i + 1 = opSlots o
  if mode = 1 then
    if o.d.slots ≠ 0 && o.d.slots ≤ slot && (last || (slot + 1) % o.d.slots = 0) then o.d.slots else 0
  else if mode = 2 then (if last && o.d.close then bandSlots else 0)
  else 0

/-- What the link carries over slot `i` of an operation (R204, R251, R252). -/
def driveSlot (s : State) (n : Fin 8) (o : MediaOp) (i : Nat) (info : List Byte) : State :=
  let x := s.slice n
  let slot := o.d.slot + i
  let pos := if o.d.slots = 0 then slot else slot % o.d.slots
  let pc := (List.range 8).map fun c => profNat x.prof c 1 % 32
  modLink s x.act fun l => { l with
    wd := slotWave o.d.wedgebits pos info pc x.code (profNat x.prof 0x0A 2 % 1024) (profNat x.prof 0x0C 1) (profNat x.prof 0x0D 1)
      (decide (i = 0)) (decide (i + 1 = opSlots o)) }

/-- After a slot that ended OK: link, media, accumulators, write pointer, counts, verification. -/
def slotWritten (s : State) (n : Fin 8) (o : MediaOp) (i : Nat) (info : List Byte) (verify : List Nat) : State :=
  let slot := o.d.slot + i
  let sp := maddrSpindle o.d.band
  let bd := maddrBand o.d.band
  let sl := s.slice n
  let lmon := if sl.monN = 0 then 0 else sl.monSum / sl.monN
  let s := endSlot s n o i lmon 0 0
  let s := modSlice s n fun x => { x with monSum := 0, monN := 0 }
  let s := setPlace (driveSlot s n o i info) (descPlace o.d slot) info
  let s := accumulateOuter s n o slot info
  let acc := accumulateSlot s n sp bd slot info
  let p := busWriteNat acc.2 (masterChd n) (wptrAddr s n sp bd) 4 (slot + 1)
  let s := modOp p.2 n fun o => { o with done := i + 1, ok := o.ok + 1 }
  let s := verifySlots s n o (verifyCount s n o i) verify
  let last := i + 1 = opSlots o
  let rest := opSlots o - (i + 1)
  if last || !p.1 || !acc.1 then
    let s := endSlots s n o (i + 1) rest (if !p.1 then 10 else 6)
    let s := modOp s n fun o => { o with done := opSlots o, ended := true, writing := false }
    modSlice s n fun x => { x with code := 0 }
  else if o.d.slots ≠ 0 && (slot + 1) % o.d.slots = 0 then stepOp s sl.act true false
  else s

/-- SLOT_WRITE. `encoded`: the slot's data were encoded 1 µs before it starts (R249); data that could not be read never are.
`verify`: RESULTs of the verification reads that follow the slot. -/
def slotWriteOp (s : State) (n : Fin 8) (encoded : Bool) (verify : List Nat) : State :=
  match (s.slice n).op with
  | none => s
  | some o =>
    when (o.d.kind = 2 && o.writing && !o.ended && decide (o.done < opSlots o) && (s.act (s.slice n).act).st = .track) s fun s =>
      let r := if encoded then slotInfo s n o o.done else (none, s)
      match r with
      | (some info, s) => slotWritten s n o o.done info verify
      | (none, s) =>
        let s := rcount (endSlot s n o o.done 0 0 7) (Reg.chdUnderrun n) 1
        let s := requeue (endSlots s n o (o.done + 1) (opSlots o - o.done - 1) 9) o o.done
        let s := modOp s n fun o => { o with done := opSlots o, ended := true, writing := false }
        modSlice s n fun x => { x with code := 0, monSum := 0, monN := 0 }

def execSlotWrite (n : Fin 8) (encoded : Bool) (verify : List Nat) (s : State) : Host.Outcome State Fault Refusal :=
  settled (slotWriteOp s n encoded verify)

/-! ### The laser loop (R253) -/

/-- LASER_LOOP_UPDATE. -/
def laserLoopOp (s : State) (n : Fin 8) (mon : Nat) : State :=
  let x := s.slice n
  when (writingNow x) s fun s =>
    let p := x.prof
    let gain := profNat p 0x0F 1 % 16
    let err : Int := (profNat p 0x10 1 : Int) - (mon % 256 : Nat)
    let lim : Int := (profNat p 0x12 2 % 1024 * 2 ^ gain : Nat)
    let acc := clampInt (-lim) lim (x.acc + err)
    let trim := acc / ((2 ^ gain : Nat) : Int)
    let code := (clampInt 0 1023 ((profLaserw p : Int) + trim)).toNat
    let devs := if profNat p 0x11 1 < err.natAbs then x.devs + 1 else 0
    let s := modSlice s n fun x => { x with
      acc := acc, trim := trim, code := code, devs := devs, mon := mon % 256, monSum := x.monSum + mon % 256, monN := x.monN + 1 }
    if devs < 4 then s
    else modSlice (rcount (abandonWrite s n 0 8) (Reg.chdLaserdev n) 1) n fun x => { x with devs := 0 }

def execLaserLoopUpdate (n : Fin 8) (mon : Nat) (s : State) : Host.Outcome State Fault Refusal := settled (laserLoopOp s n mon)

/-! ### The preamplifier link (R254–R259) -/

/-- PSCMD_WRITE: ignored while BUSY, and by an absent slice (R2). -/
def pscmdWriteOp (s : State) (n : Fin 8) (v : Word) : State :=
  if !slicePresent s n || (s.slice n).psBusy then s
  else modSlice s n fun x => { x with psBusy := true, psDone := x.psDone && !v.toNat.testBit 30, psFrame := v.truncate 16 }

def execPscmdWrite (n : Fin 8) (v : Word) (s : State) : Host.Outcome State Fault Refusal := settled (pscmdWriteOp s n v)

/-- PS_FRAME_DONE: a firmware frame ends; it waits while a media operation is under way on the link. -/
def psFrameDoneOp (s : State) (n : Fin 8) (data : Byte) : State :=
  let x := s.slice n
  when (x.psBusy && x.valid && x.op.isNone) s fun s =>
    let s := sendFrame s n x.psFrame.toNat
    let s := modSlice s n fun x => { x with psBusy := false, psDone := true }
    if x.psFrame.toNat.testBit 15 then rsetN s (Reg.chdPsresp n) data.toNat else s

def execPsFrameDone (n : Fin 8) (data : Byte) (s : State) : Host.Outcome State Fault Refusal := settled (psFrameDoneOp s n data)

/-- WRITE_UNSAFE: the pin falls. The other sources follow the state of the power-fail sequence, of Radius and of WCTL. -/
def writeUnsafeOp (s : State) (link : Fin 16) (src : WusSrc) : State := when (src = .pin) s fun s => wusAdd s link .pin

def execWriteUnsafe (link : Fin 16) (src : WusSrc) (s : State) : Host.Outcome State Fault Refusal := settled (writeUnsafeOp s link src)

/-- WRITE_UNSAFE_ABSENT: the pin rises. -/
def writeUnsafeAbsentOp (s : State) (link : Fin 16) (src : WusSrc) : State := when (src = .pin) s fun s => wusRemove s link .pin

def execWriteUnsafeAbsent (link : Fin 16) (src : WusSrc) (s : State) : Host.Outcome State Fault Refusal :=
  settled (writeUnsafeAbsentOp s link src)

/-- WUSHOLD_EXPIRE (R259). -/
def wusholdExpireOp (s : State) (link : Fin 16) : State :=
  when ((vget s.links link).live.isEmpty) s fun s => modLink s link fun l => { l with holding := false }

def execWusholdExpire (link : Fin 16) (s : State) : Host.Outcome State Fault Refusal := settled (wusholdExpireOp s link)

/-! ### The outer-code decoder (R272–R276, R291, R292) -/

/-- OC_DECODE_START: the write of OCCTL, ignored by an absent slice (R2). The PMU ungates the slice for the job (R54). -/
def ocDecodeStartOp (s : State) (n : Fin 8) (v : Word) : State :=
  when (slicePresent s n) s fun s =>
    let s := fieldWrite32 s (Reg.chdOcctl n) v
    if v.toNat.testBit 0 && !(s.slice n).oc then
      modSlice (rbitSet s Reg.pmuGate n false) n fun x => { x with oc := true, ocSingle := v.toNat.testBit 1 }
    else s

def execOcDecodeStart (n : Fin 8) (v : Word) (s : State) : Host.Outcome State Fault Refusal := settled (ocDecodeStartOp s n v)

/-- A row of a job: its index, buffer address, whether it is unwritten and whether it is erased. -/
structure OcRow where
  r : Nat
  addr : Nat
  unwritten : Bool
  erased : Bool

/-- The row table (R291). -/
def ocRows (table : List Byte) (erase : Nat) : List OcRow :=
  (List.range 64).map fun r =>
    let v := ofBytes ((table.drop (8 * r)).take 8)
    { r := r, addr := v % 2 ^ 36, unwritten := v.testBit 63, erased := erase.testBit r }

/-- The syndromes over the rows read: s0, s1; none where a read met an error. -/
def ocSyndromes (s : State) (n : Fin 8) (rows : List OcRow) (s0 s1 : List Byte) : Option (List Byte × List Byte) × State :=
  match rows with
  | [] => (some (s0, s1), s)
  | w :: rest =>
    if w.unwritten || w.erased then ocSyndromes s n rest s0 s1
    else
      match busRead s (masterChd n) w.addr 4128 none with
      | (none, s) => (none, s)
      | (some bs, s) => ocSyndromes s n rest (xorBytes s0 bs) (xorBytes s1 (gfScale (gfPow (63 - w.r)) bs))

/-- What a job decides: the rows it writes with the bytes, or failure. -/
inductive OcVerdict
  | clean
  | rows (l : List (OcRow × List Byte)) (single : Bool)
  | failed

/-- The row that a column of SINGLE mode names: the written row whose locator is s1 / s0. -/
def ocLocate (rows : List OcRow) (a b : Byte) : Option OcRow :=
  rows.find? fun w => !w.unwritten && gfMul a.toNat (gfPow (63 - w.r)) = b.toNat

/-- SINGLE mode over the columns: the one row that every non-zero column names. -/
def ocSingleRow (rows : List OcRow) (cols : List (Byte × Byte)) (found : Option OcRow) : Option (Option OcRow) :=
  match cols with
  | [] => some found
  | (a, b) :: rest =>
    if a = 0 then (if b = 0 then ocSingleRow rows rest found else none)
    else
      match ocLocate rows a b, found with
      | none, _ => none
      | some w, none => ocSingleRow rows rest (some w)
      | some w, some u => if w.r = u.r then ocSingleRow rows rest found else none

def ocDecide (rows : List OcRow) (single : Bool) (s0 s1 : List Byte) : OcVerdict :=
  match rows.filter (·.erased) with
  | [] =>
    if single then
      match ocSingleRow rows (s0.zip s1) none with
      | none => .failed
      | some none => .clean
      | some (some w) => .rows [(w, s0)] true
    else if s0.any (· ≠ 0) || s1.any (· ≠ 0) then .failed else .clean
  | [a] => if s1 = gfScale (gfPow (63 - a.r)) s0 then .rows [(a, s0)] false else .failed
  | [a, b] =>
    let pa := gfPow (63 - a.r)
    let pb := gfPow (63 - b.r)
    let ea := gfScale (gfInv (pa ^^^ pb)) (xorBytes s1 (gfScale pb s0))
    .rows [(a, ea), (b, xorBytes s0 ea)] false
  | _ => .failed

/-- Columns in which a symbol written is not zero. -/
def ocCols (l : List (OcRow × List Byte)) : Nat :=
  ((l.foldl (fun (acc : List Bool) e => List.zipWith (· || ·) acc (e.2.map (· ≠ 0))) (List.replicate 4128 false)).filter id).length

/-- Rows written back; in SINGLE mode the correction is added to the row's copy. False where an access met an error. -/
def ocWrite (s : State) (n : Fin 8) (single : Bool) (l : List (OcRow × List Byte)) : Bool × State :=
  match l with
  | [] => (true, s)
  | (w, bs) :: rest =>
    let old := if single then busRead s (masterChd n) w.addr 4128 none else (some (zeros 4128), s)
    match old with
    | (none, s) => (false, s)
    | (some o, s) =>
      let r := busWrite s (masterChd n) w.addr (xorBytes o bs)
      if r.1 then ocWrite r.2 n single rest else (false, r.2)

/-- OCSTAT at the end of a job. -/
def ocReport (s : State) (n : Fin 8) (result row cols : Nat) : State :=
  let s := modSlice s n fun x => { x with oc := false }
  let s := rsetN s (Reg.chdOcstat n) (2 ^ 30 + result * 2 ^ 28 + row % 64 * 2 ^ 16 + cols)
  if result = 1 then rcount s (Reg.chdOccorr n) 1 else if result = 2 then rcount s (Reg.chdOcfail n) 1 else s

/-- OC_DECODE_DONE. -/
def ocDecodeDoneOp (s : State) (n : Fin 8) : State :=
  when (s.slice n).oc s fun s =>
    match busRead s (masterChd n) (rf s (Reg.chdOcrows n) 9 27 * 512) 512 none with
    | (none, s) => ocReport s n 2 0 0
    | (some table, s) =>
      let rows := ocRows table (rn s (Reg.chdOcerase n))
      if rows.any fun w => w.unwritten && w.erased then ocReport s n 2 0 0
      else
        match ocSyndromes s n rows (zeros 4128) (zeros 4128) with
        | (none, s) => ocReport s n 2 0 0
        | (some (s0, s1), s) =>
          match ocDecide rows (s.slice n).ocSingle s0 s1 with
          | .failed => ocReport s n 2 0 0
          | .clean => ocReport s n 0 0 0
          | .rows l single =>
            let w := ocWrite s n single l
            if w.1 then ocReport w.2 n 1 (if single then (l.map fun e => e.1.r).headD 0 else 0) (ocCols l) else ocReport w.2 n 2 0 0

def execOcDecodeDone (n : Fin 8) (s : State) : Host.Outcome State Fault Refusal := settled (ocDecodeDoneOp s n)

end Sys2Proof.Machine
end

