-- ==== Sys2Proof/Machine/Recovery.lean ====
section
/-! DEFINITION. Recovery and patrol (09): the retry ladder (R264–R270, R277–R283, R289), relocation (R280), patrol (R284–R288),
and refresh (R287). -/

namespace Sys2Proof.Machine

/-! ### The Unrecoverable Object log (R117, R281, R283) -/

/-- KEY of an entry: the key of a Key Value object, the NGUID of another namespace. -/
def objectKey (n : Ns) (handle : Nat) : List Byte :=
  match n.objs.find? fun o => o.handle = handle with
  | some o => o.key
  | none => n.nguid

/-- An entry for a chunk of a namespace slot, with its event. -/
def addUnrec (s : State) (slot : Nat) (handle cause chunk unit maddr : Nat) : State :=
  match nsOf s (slot + 1) with
  | none => s
  | some n =>
    let e : UnrecEntry :=
      { seq := s.obj.unrecNext, nsid := n.nsid, cause := cause, key := objectKey n handle, chunk := chunk, unit := unit
        maddr := maddr, time := clockSec s.datum }
    let s := { s with obj := { s.obj with unrec := (e :: s.obj.unrec).take 1024, unrecNext := s.obj.unrecNext + 1 } }
    postNs (setWarning s 2 0) n { ty := 7, info := 0, log := 0xC0 }

/-- A band is to be refreshed within some days. -/
def markRefresh (s : State) (bk days : Nat) : State :=
  let b := tget BandNote.none s.bands bk
  let d := match b.refreshDays with
    | some x => min x days
    | none => days
  { s with bands := tset BandNote.none s.bands bk { b with refreshDays := some d } }

/-- Step 8 (R281): a live version that owns the unit is poisoned and logged; else the band is marked for refresh. -/
def declareUnrec (s : State) (maddr cause : Nat) : State :=
  let bk := bandKey (maddrSpindle maddr) (maddrBand maddr)
  match ownerOf s maddr with
  | none => markRefresh { s with obj := { s.obj with unowned := s.obj.unowned + 1 } } bk 30
  | some key =>
    let c := chunkAt s key
    if c.staged then s
    else
      let again := c.poison
      addUnrec (poisonChunk s key) (handleSlot (keyHandle key)) (keyHandle key) cause (keyChunk key)
        (if again then 0xFFFF else locOfMaddr maddr - c.loc) (if again then maddrOfLoc c.loc else maddr)

/-! ### The ladder -/

/-- A ladder's record returned to the pool: COUNT 0 while OWNER is 0 (R270). -/
def returnRec (s : State) (l : Ladder) : State :=
  match l.recIdx with
  | none => s
  | some r =>
    match busReadNat s 0 (recBase r) 4 with
    | (some 0, s) => (busWriteNat s 0 (recBase r + 4) 1 0).2
    | (_, s) => s

/-- A ladder's commands are given a result for the chunk of its unit, and it goes on in the background (R268, R279). -/
def giveUp (s : State) (l : Ladder) (r : Nat × Nat) : State :=
  let bad := (ownerOf s l.maddr).toList
  let s := overList l.tags s fun s t =>
    modTag s t fun x => { x with bad := x.bad ++ bad, sct := if x.sc = 0 then r.1 else x.sct, sc := if x.sc = 0 then r.2 else x.sc }
  modLadder s l.maddr fun l => { l with tags := [], background := true }

/-- The unit of a ladder was rewritten or dropped while the ladder ran (R282, R289). -/
def ladderMoot (s : State) (l : Ladder) : Bool :=
  match ownerOf s l.maddr with
  | none => false
  | some key => (chunkAt s key).staged

/-- The last step that a ladder has: without parity step 7 passes at once to step 8 (R299). -/
def lastStep (s : State) : Nat := if s.conf.m = 0 then 6 else 7

/-- A rebuilt unit is recovered: TCRC and DCRC pass, and the tag names the unit that the map places there (R275, R278). -/
def recoveredOk (s : State) (maddr : Nat) (info : List Byte) : Bool :=
  tcrcOk info && dcrcOk info &&
    match ownerOf s maddr with
    | none => true
    | some key => tagMatches (parseTag info) key (placedAt s key) (locOfMaddr maddr - (placedAt s key).loc)

/-- A ladder ends with its unit recovered. -/
def ladderRecovered (s : State) (l : Ladder) : State :=
  let s := returnRec s l
  endLadder (if 6 ≤ l.step then markRefresh s (bandKey (maddrSpindle l.maddr) (maddrBand l.maddr)) 0 else s) l.maddr

/-- A step of a ladder fails: the next one, or the unit is declared unrecoverable. -/
def ladderFailed (s : State) (l : Ladder) : State :=
  if l.step < lastStep s then
    let s := if l.step = 5 then returnRec s l else s
    modLadder s l.maddr fun l => { l with step := l.step + 1, recIdx := if l.step = 5 then none else l.recIdx }
  else endLadder (if ladderMoot s l then s else declareUnrec s l.maddr l.cause) l.maddr

/-- LADDER_STEP (R266): the step of a unit's ladder ends. -/
def ladderStepOp (s : State) (maddr : Nat) (e : LadderEnd) : State :=
  match ladderAt s maddr with
  | none => s
  | some l =>
    when (!l.waiting) s fun s =>
      match e with
      | .passed => if l.step ≤ 5 then ladderRecovered s l else s
      | .rebuilt info => if l.step ≤ 5 then s else if recoveredOk s maddr info then ladderRecovered s l else ladderFailed s l
      | .failed => ladderFailed s l
      | .lacksMembers budget =>
        if l.step = 7 then giveUp s l (if budget then scBudget else scOutOfService) else s

def execLadderStep (maddr : Nat) (e : LadderEnd) (s : State) : Host.Outcome State Fault Refusal := settled (ladderStepOp s maddr e)

/-- TLER of the port's Error Recovery feature (R268), in 100 ms. -/
def tlerOf (s : State) (t : Nat) : Nat := tget 0 (s.port (tagAt s t).port).features 5 % 2 ^ 16

/-- TLER_EXPIRE: the command's ladders at steps 1 to 5 stop for it and go on in the background. -/
def tlerExpireOp (s : State) (t : Nat) : State :=
  when (tlerOf s t ≠ 0) s fun s =>
    overList (s.ladders.filter fun l => l.tags.contains t && decide (l.step ≤ 5)) s fun s l => giveUp s l scUnrecovered

def execTlerExpire (tag : Nat) (s : State) : Host.Outcome State Fault Refusal := settled (tlerExpireOp s tag)

/-! ### Relocation (R170, R180, R181, R280) -/

/-- One unit written at a slot of a band beneath the commands: media, write pointer, image and FILL. -/
def placeUnit (s : State) (spindle band slot : Nat) (info : List Byte) : State :=
  let s := setMediaSlot s spindle band slot info
  let s := (busWriteNat s (masterChd 0) (wptrAddr s 0 spindle band) 4 (slot + 1)).2
  if !latticeOn s then s
  else
    match groupOf s spindle band with
    | none => s
    | some (g, j) =>
      let s := addImage s g 0 slot info
      let s := if s.conf.m = 2 then addImage s g 1 slot (gfScale (gfPow (roleOf s g j)) info) else s
      modGroup s g fun x => { x with fill := vset x.fill (Fin.ofNat 8 j) (slot + 1) }

/-- The next slot to be written of a band: FILL of its member, or the write pointer where no group counts. -/
def nextSlot (s : State) (spindle band : Nat) : Nat :=
  match groupOf s spindle band with
  | some (g, j) => if latticeOn s then vget (groupAt s g).fill (Fin.ofNat 8 j) else readNat s.mem (wptrAddr s 0 spindle band) 4
  | none => readNat s.mem (wptrAddr s 0 spindle band) 4

/-- A band takes `n` units from a slot on: admitted by Lattice, next in order, within the data slots (R140, R171, R301). -/
def bandTakes (s : State) (maddr n : Nat) : Bool :=
  let d : Desc :=
    { kind := 2, act := 0, notag := false, close := false, profile := 0, count := n, band := maddr, slot := maddrUnit maddr
      wedgebits := 0, firstTrack := 0, slots := 0, head := 0, data := 0, status := 0, aux := 0, vstatus := 0, clean := true }
  maddrValid s maddr && (admission s d ≠ .order) && (admission s d ≠ .wait) && decide (maddrUnit maddr + n ≤ dataSlots)
    && decide (nextSlot s (maddrSpindle maddr) (maddrBand maddr) = maddrUnit maddr)

/-- The group of a band opened where the write opens it. -/
def openFor (s : State) (maddr : Nat) : State :=
  match groupOf s (maddrSpindle maddr) (maddrBand maddr) with
  | some (g, _) => if latticeOn s && (groupAt s g).st = .free then openGroup s g else s
  | none => s

/-- A unit of a version as it stands where it is placed, else as it is encoded. -/
def unitBytes (s : State) (key : Nat) (c : Chunk) (u : Nat) : List Byte :=
  if c.staged then chunkUnit key c u else (unitHeld s c u).getD (chunkUnit key c u)

/-- A version placed at a media address: its units written, its entry updated, its former place dead. -/
def placeChunk (s : State) (key maddr : Nat) : State :=
  let c := chunkAt s key
  let infos := (List.range c.count).map (unitBytes s key c)
  let s := openFor s maddr
  let s := overList (List.range c.count) s fun s u =>
    placeUnit s (maddrSpindle maddr) (maddrBand maddr) (maddrUnit maddr + u) (infos.getD u [])
  let s := { s with obj := { s.obj with durable := tset Chunk.absent s.obj.durable key Chunk.absent } }
  putChunk s key { c with tier := 0, loc := locOfMaddr maddr, staged := false, dirty := true }

/-- Pad units from a media address to the end of its band's data slots, each with its own WSEQ (R171). -/
def padBand (s : State) (maddr : Nat) : State :=
  let q := maddrUnit maddr
  overList (List.range (dataSlots - q)) (openFor s maddr) fun s i =>
    let w := takeWseq s 1
    placeUnit w.2 (maddrSpindle maddr) (maddrBand maddr) (q + i) (padUnit w.1)

/-- Units brought to a place in a band: where they do not fit in what remains of it, the remainder is padded and they stay where they
are, for another band (R171). -/
def bringTo (s : State) (maddr n : Nat) (place : State → State) : State :=
  if maddrUnit maddr + n ≤ dataSlots then when (bandTakes s maddr n) s place
  else when (bandTakes s maddr (dataSlots - maddrUnit maddr)) s fun s => padBand s maddr

/-- A tombstone of the dirty set that names a first chunk. -/
def tombAt (s : State) (handle chunk : Nat) : Option Tomb :=
  s.obj.tombs.find? fun t => t.handle = handle && t.first = chunk && t.loc.isNone

/-- A tombstone's unit written at a media address; it leaves the dirty set (R173). -/
def placeTomb (s : State) (t : Tomb) (maddr : Nat) : State :=
  let s := placeUnit (openFor s maddr) (maddrSpindle maddr) (maddrBand maddr) (maddrUnit maddr) (tombUnit t)
  { s with obj := { s.obj with tombs := lmodFirst (fun u => u = t) (fun u => { u with loc := some (locOfMaddr maddr) }) s.obj.tombs } }

/-- RELOCATE_CHUNK (R280): a version that the host has overwritten in the meantime is left alone and counted (R181); a tombstone of the
dirty set that stands for the chunk is written. -/
def relocateChunkOp (s : State) (handle chunk newMaddr : Nat) : State :=
  let key := chunkKey handle chunk
  let c := chunkAt s key
  if c.count = 0 || c.staged then
    match tombAt s handle chunk with
    | some t => bringTo s newMaddr 1 fun s => placeTomb s t newMaddr
    | none => rcount s Reg.locCasfail 1
  else bringTo s newMaddr c.count fun s => placeChunk s key newMaddr

def execRelocateChunk (handle chunk newMaddr : Nat) (s : State) : Host.Outcome State Fault Refusal :=
  settled (relocateChunkOp s handle chunk newMaddr)

/-! ### Patrol (R284–R288) -/

/-- Key of the note on an Origin band: surface `u` of a spindle. -/
def originKey (spindle u : Nat) : Nat := 8 * 2 ^ 21 + 32 * spindle + u

/-- Readable copies of the worst chunk of a surface's Origin band. -/
def originReadable (s : State) (u : Surface) : Nat :=
  min (originCopies s u 0).length (min (originCopies s u 1).length (originCopies s u 2).length)

/-- PATROL_BAND: what a pass found. `deep`: a unit recovered at step 6 or 7, or a group with two HARD units. A band number
of 2^21 or more names the Origin band of a surface, and `hard` the copies of its worst chunk that the pass could not read; with fewer
than 32 left the band is rewritten in full (R175, R288). -/
def patrolBandOp (s : State) (i : Fin 8) (band hard soft years : Nat) (deep : Bool) : State :=
  when (!s.lat.mig.active && atSpeed s i) s fun s =>
    if 2 ^ 21 ≤ band then
      match (s.fmt.surfaces.filter fun u => u.spindle = i.val)[band - 2 ^ 21]? with
      | none => s
      | some u =>
        let few := decide (originReadable s u - hard < 32)
        let note : BandNote := { BandNote.none with hard := if few then 0 else hard }
        let s := { s with bands := tset BandNote.none s.bands (originKey i (band - 2 ^ 21)) note }
        if few then writeOrigin s u else s
    else
      let bk := bandKey i band
      let b := tget BandNote.none s.bands bk
      let s := { s with bands := tset BandNote.none s.bands bk { b with hard := hard, soft := soft } }
      if deep then markRefresh s bk 0
      else if 8 ≤ hard || 2048 ≤ soft then markRefresh s bk 7
      else if 8 ≤ years then markRefresh s bk 30
      else s

def execPatrolBand (i : Fin 8) (band hard soft years : Nat) (deep : Bool) (s : State) : Host.Outcome State Fault Refusal :=
  settled (patrolBandOp s i band hard soft years deep)

/-- PATROL_SPINUP (R284): more than 7 days behind, and no request waiting for a grant. -/
def patrolSpinupOp (s : State) (i : Fin 8) (behind : Nat) : State :=
  when (decide (7 < behind) && s.pmu.waitQ.isEmpty && (s.spn i).st = .stopped && !s.lat.mig.active) s fun s => spnStartOp s i

def execPatrolSpinup (i : Fin 8) (behind : Nat) (s : State) : Host.Outcome State Fault Refusal := settled (patrolSpinupOp s i behind)

/-- BAND_REFRESH (R285, R287): waits for the band's readers and for a rebuild of its group; every live version is relocated and
the band returned. -/
def bandRefreshOp (s : State) (i : Fin 8) (band : Nat) : State :=
  let busy := match groupOf s i band with
    | some (g, _) => (groupAt s g).st = .rebuild
    | none => false
  let keys := chunksInBand s i band
  when (!s.obj.readers.contains (i.val, band) && !busy && dirtyFits s ((keys.map fun k => 4128 * (chunkAt s k).count).sum)) s fun s =>
    let s := overList keys s relocateToBuffer
    let s := { s with bands := tset BandNote.none s.bands (bandKey i band) BandNote.none }
    releaseBand s i band

def execBandRefresh (i : Fin 8) (band : Nat) (s : State) : Host.Outcome State Fault Refusal := settled (bandRefreshOp s i band)

/-! ### Start-up -/

/-- Firmware loads its roots and replays the record: step 13 of start-up (R71). -/
def rootStage (s : State) : State := if s.boot = .bufferReady then rfSet s Reg.sysBootstat 0 8 13 else s

end Sys2Proof.Machine
end

