-- ==== Sys2Proof/Machine/PowerStates.lean ====
section
/-! DEFINITION. Power states of the controllers (R119, R120) and the entry to PS3 with its reversal (R148–R151). -/

namespace Sys2Proof.Machine

/-- Streams that a power state allows (R119). -/
def psStreams (s : State) (ps : Nat) : Nat :=
  match ps with
  | 0 => if s.part.is4804 then 4 else 8
  | 1 => 4
  | 2 => 1
  | _ => 0

/-- Streams that may run at once: the least that an enabled controller allows. -/
def streamLimit (s : State) : Nat :=
  let a := s.port .a
  let b := s.port .b
  let n := psStreams s 0
  let n := if a.en then min n (psStreams s a.ps) else n
  if b.en then min n (psStreams s b.ps) else n

/-- Slices beyond the limit are gated, each once its operation has ended (R148); an operation ungates its slice (R54). -/
def trimSlices (s : State) : State :=
  let open_ := fin8.filter fun (n : Fin 8) => slicePresent s n && !rbit s Reg.pmuGate n
  let idle := open_.reverse.filter fun n => (s.slice n).op.isNone
  overList (idle.take (open_.length - streamLimit s)) s fun s n => rbitSet s Reg.pmuGate n true

/-- A write under way is cut at its next slot; the slots left are queued again (R149). -/
def cutWrite (s : State) (n : Fin 8) : State :=
  match (s.slice n).op with
  | none => s
  | some o =>
    if o.d.kind = 2 && !o.ended then
      let s := requeue (endSlots s n o o.done (opSlots o - o.done) 9) o o.done
      let s := modOp s n fun o => { o with done := opSlots o, ended := true, writing := false }
      modSlice s n fun x => { x with code := 0, monSum := 0, monN := 0 }
    else s

/-- Step 1 of R149: each running operation is cut at its next unit boundary. -/
def cutOps (s : State) : State := overList fin8 s fun s n => cutWrite (notRead s n) n

/-- Entry to PS3 is decided for a controller: step 1 begins. A second controller that decides it while the entry is under way
enters PS3 with the first. -/
def decidePs3 (s : State) (p : Port) : State :=
  if (s.port p).ps = 3 then s
  else if s.cqu.psStep ≠ 0 && !s.cqu.psUndo then
    if s.cqu.reversing || s.cqu.psPort = p || s.cqu.psBoth then s
    else modPort { s with cqu := { s.cqu with psBoth := true } } p fun x => { x with lastOpPs := x.ps }
  else
    let s := modPort s p fun x => { x with lastOpPs := x.ps }
    cutOps { s with cqu := { s.cqu with psStep := 1, psTarget := 3, psPort := p, psBoth := false, psUndo := false, reversing := false } }

/-- AUTONOMOUS_PS3 (R120): where the controller's feature enables it and no command is in flight. -/
def autonomousPs3Op (s : State) (p : Port) : State :=
  when ((s.port p).rdy && (tget 0 (s.port p).features 0x0C).testBit 0 && s.cqu.tags.all fun e => e.2.port ≠ p || (s.port p).aers.contains e.1)
    s fun s => decidePs3 s p

def execAutonomousPs3 (p : Port) (s : State) : Host.Outcome State Fault Refusal := settled (autonomousPs3Op s p)

/-- The controller in PS3 that a submission on a port brings back: the port's own, else the other one, whose entry has braked the
spindles and gated the slices of both. -/
def ps3Port (s : State) (p : Port) : Option Port :=
  let o := if p = .a then .b else .a
  if (s.port p).ps = 3 then some p else if (s.port o).ps = 3 then some o else none

/-- A command that arrives during the entry, or a submission in PS3, reverses it (R120, R150). -/
def ps3Reverse (s : State) (p : Port) : State :=
  if s.cqu.psStep ≠ 0 then
    if s.cqu.psTarget = 3 then { s with cqu := { s.cqu with reversing := true, psTarget := (s.port s.cqu.psPort).lastOpPs } } else s
  else match ps3Port s p with
    | none => s
    | some q =>
      { s with cqu := { s.cqu with
          psStep := 4, psPort := q, psBoth := (s.port .a).ps = 3 && (s.port .b).ps = 3, psUndo := false, reversing := true
          psTarget := (s.port q).lastOpPs } }

/-- Slices gated or ungated (R54). -/
def gateSlices (s : State) (g : Bool) : State :=
  overList fin8 s fun s n => if slicePresent s n then rbitSet s Reg.pmuGate n g else s

/-- Every loaded actuator is unloaded (step 2 of R149). -/
def unloadLoaded (s : State) : State :=
  overList fin16 s fun s a => if (s.act a).st = .parked then s else unloadOp s a

/-- The reversal ends: actuators of spindles at speed are loaded where the entry had unloaded them, and the controllers are in
their last operational states. -/
def endReversal (s : State) (loads : Bool) : State :=
  let s := if loads then
      overList fin16 s fun s a => if (s.act a).st = .parked && (s.spn (spnOf a)).atspeed then loadOp s a else s
    else s
  let s := modPort s s.cqu.psPort fun x => { x with ps := x.lastOpPs }
  let s := if s.cqu.psBoth then modPort s (if s.cqu.psPort = .a then .b else .a) fun x => { x with ps := x.lastOpPs } else s
  { s with cqu := { s.cqu with psStep := 0, reversing := false, psUndo := false, psBoth := false } }

/-- The steps done are undone in reverse order (R150): slices ungated and spindles that still brake caught; once these are at
speed, actuators loaded. -/
def undoPs3 (s : State) : State :=
  let k := s.cqu.psStep
  let s := { s with ms := { s.ms with selfref := s.ms.selfref && !s.ms.ready } }
  if 3 ≤ k then
    let s := overList fin8 (gateSlices s false) fun s i => if (s.spn i).st = .brake then spnStartOp s i else s
    { s with cqu := { s.cqu with psStep := 2, psUndo := true } }
  else endReversal s (decide (k = 2))

/-- A spindle is on its way to speed. -/
def spinsUp (s : State) (i : Fin 8) : Bool :=
  match (s.spn i).st with
  | .listen | .locate | .ramp | .accel => true
  | .stopped | .waitgrant | .run | .brake | .coast | .rectify | .stopping => false

/-- PS3_ENTRY (R149): the step under way reaches its safe point, and the next one begins or the reversal is carried out. In PS3 the
buffer is in self-refresh, contents kept (R425). -/
def ps3EntryOp (s : State) : State :=
  let k := s.cqu.psStep
  let safe := if k = 1 then fin8.all fun n => sliceIdle s n || (match (s.slice n).op with | some o => o.ended | none => true)
    else if k = 2 then allParked s else decide (k ≠ 0)
  if s.cqu.psUndo then (if fin8.any (spinsUp s) then s else endReversal s true)
  else when safe s fun s =>
    if s.cqu.reversing then undoPs3 s
    else if k = 1 then unloadLoaded { s with cqu := { s.cqu with psStep := 2 } }
    else if k = 2 then
      let s := overList fin8 s fun s i => if turning s i then spnStopOp s i true else s
      gateSlices { s with cqu := { s.cqu with psStep := 3 } } true
    else if k = 3 then
      let s := modPort { s with cqu := { s.cqu with psStep := 4 }, ms := { s.ms with selfref := true } } s.cqu.psPort fun x => { x with ps := 3 }
      if s.cqu.psBoth then modPort s (if s.cqu.psPort = .a then .b else .a) fun x => { x with ps := 3 } else s
    else if turningMask s = 0 then { s with cqu := { s.cqu with psStep := 0 } } else s

def execPs3Entry (s : State) : Host.Outcome State Fault Refusal := settled (ps3EntryOp s)

end Sys2Proof.Machine
end

