-- ==== Sys2Proof/Machine/Objects.lean ====
section
/-! DEFINITION. The I/O commands: arrival (R98, R104–R106, R125–R131, R135, R136), locks and ledger (R108, R133), the NVM, Zoned
and Key Value commands (R99–R106, R117, R118, R135–R137, R157, R160, R172, R173), and what a port reset leaves of them (R95). -/

namespace Sys2Proof.Machine

/-! ### Keys and versions -/

/-- The key of a namespace at its current epoch is in the codec: that very key, not one of an earlier namespace of the slot (R163). -/
def keyLoaded (s : State) (n : Ns) : Bool :=
  let k := tget MKey.none s.datum.loaded n.slot
  decide (k ≠ MKey.none) && decide (k = { epoch := n.keyep, draw := n.keyDraw })

/-- The namespace of a command; of one deleted after the command copied its chunks into its staging space, what is left is the
identifier. -/
def nsFor (s : State) (x : Tag) : Option Ns :=
  match nsOf s x.cmd.nsid with
  | some n => some n
  | none =>
    if x.copy.isSome then
      some { nsid := x.cmd.nsid, cmdset := 0, nguid := [], size := 0, attA := false, attB := false, keyep := 0, keyDraw := 0, created := 0
             recGen := 0, nextSerial := 0, zones := [], objs := [] }
    else none



/-- Chunks that a command reads (R129). -/
def readKeys (n : Ns) (c : HostCmd) : List Nat :=
  match c.op with
  | .read | .compare | .verify => lbaKeys n.slot c.slba c.nlb
  | .copy => c.ranges.flatMap fun r => lbaKeys n.slot r.1 r.2
  | .kvRetrieve =>
    match kvFind n c.key with
    | some o => chunkKey o.handle objRecordChunk :: chunkKeys o.handle 0 ((o.vallen + 65535) / 65536)
    | none => []
  | .kvExist =>
    match kvFind n c.key with
    | some o => [chunkKey o.handle objRecordChunk]
    | none => []
  | _ => []

/-- The versions that a command reads: those copied into its staging space, else the live ones. -/
def versions (s : State) (n : Ns) (x : Tag) : List (Nat × Chunk) :=
  match x.copy with
  | some l => l
  | none => (readKeys n x.cmd).map fun k => (k, chunkAt s k)

def versionOf (l : List (Nat × Chunk)) (key : Nat) : Chunk :=
  match l.find? fun e => e.1 = key with
  | some e => e.2
  | none => Chunk.absent

/-- A version gives no data: it is poisoned (R118), or recovery has given it up for this command (R268). -/
def lost (x : Tag) (key : Nat) (c : Chunk) : Bool := c.poison || x.bad.contains key

/-- LBA ranges that a command reads. -/
def readRanges (c : HostCmd) : List (Nat × Nat) :=
  match c.op with
  | .read | .compare | .verify => [(c.slba, c.nlb)]
  | .copy => c.ranges
  | _ => []

/-- Units of a version that a command reads (R161): of a raw chunk of LBAs those that hold an LBA of its ranges, else every one. -/
def neededUnits (x : Tag) (key : Nat) (c : Chunk) : List Nat :=
  let rs := readRanges x.cmd
  (List.range c.count).filter fun u =>
    !c.raw || rs = [] || rs.any fun r => decide (r.1 ≤ 16 * keyChunk key + u) && decide (16 * keyChunk key + u < r.1 + r.2)

/-- Units on the disk tier that a command still has to read, as the map places them (R138): key, unit, location. A lost version is
not read (R118). -/
def needs (s : State) (n : Ns) (x : Tag) : List (Nat × Nat × Nat) :=
  (readKeys n x.cmd).flatMap fun k =>
    let c := chunkAt s k
    if c.count = 0 || c.staged || c.tier ≠ 0 || lost x k c then []
    else ((neededUnits x k c).filter fun u => !x.got.contains (16 * k + u)).map fun u => (k, u, c.loc + u)

/-- Versions in the flash tier are passed to Facet, which must have been brought up (R138, R420). -/
def flashServes (s : State) (n : Ns) (x : Tag) : Bool :=
  s.fct.ready || (readKeys n x.cmd).all fun k => (chunkAt s k).count = 0 || (chunkAt s k).staged || (chunkAt s k).tier = 0

/-- The data that a command reads stand in the buffer: every unit has been read by a media operation or by Facet (R138). -/
def dataRead (s : State) (n : Ns) (x : Tag) : Bool := (needs s n x).isEmpty && flashServes s n x

/-- The data that a command reads can be had in clear: they stand in its staging space (R133), or they have been read and the key
is loaded. -/
def readable (s : State) (n : Ns) (x : Tag) : Bool := x.copy.isSome || (keyLoaded s n && dataRead s n x)

/-- The bytes of a chunk of an NVM or Zoned namespace; zeroes where it has no live version (R173). -/
def chunkBytes (c : Chunk) : List Byte := if c.count = 0 then zeros 65536 else c.data ++ zeros (65536 - c.data.length)

/-- The 4,096 bytes of an LBA in a chunk. -/
def lbaBytes (c : Chunk) (lba : Nat) : List Byte := ((chunkBytes c).drop (lba % 16 * 4096)).take 4096

/-- The bytes of an LBA range; none where an LBA lies in a lost version. -/
def rangeBytes (x : Tag) (l : List (Nat × Chunk)) (slot lba n : Nat) : Option (List Byte) :=
  match n with
  | 0 => some []
  | n' + 1 =>
    let key := chunkKey (nsObject slot) (lba / 16)
    let c := versionOf l key
    if lost x key c then none else (rangeBytes x l slot (lba + 1) n').map fun rest => lbaBytes c lba ++ rest

/-- The LBAs of a range written to the host buffer from byte `off` on; those of a lost version give no data (R118). -/
def sendRange (s : State) (x : Tag) (l : List (Nat × Chunk)) (slot lba n off : Nat) : State :=
  match n with
  | 0 => s
  | n' + 1 =>
    let key := chunkKey (nsObject slot) (lba / 16)
    let c := versionOf l key
    let s := if lost x key c then s else hostPut s x.port x.cmd (4096 * x.cmd.nlb) off (lbaBytes c lba)
    sendRange s x l slot (lba + 1) n' (off + 4096)

/-- Bytes written to the command's host buffer from its start, as far as it reaches. -/
def sendHost (s : State) (x : Tag) (bs : List Byte) : State := hostPut s x.port x.cmd x.cmd.hostLen 0 (bs.take x.cmd.hostLen)

/-- The result of a command whose data are good: what recovery left with the tag, else success. -/
def tagResult (x : Tag) : Nat × Nat := if x.sc = 0 then scOk else (x.sct, x.sc)

/-- The result of a command that met a lost version. -/
def lostResult (x : Tag) : Nat × Nat := if x.sc = 0 then scUnrecovered else (x.sct, x.sc)

/-! ### Reads -/

/-- READ: every LBA whose version gives data goes to the host; a lost one makes the command fail (R118). -/
def readOp (s : State) (t : Nat) : State :=
  let x := tagAt s t
  match nsFor s x with
  | none => s
  | some n =>
    when (ready s t .read && readable s n x) s fun s =>
      let l := versions s n x
      let s := sendRange s x l n.slot x.cmd.slba x.cmd.nlb 0
      complete s t (if (rangeBytes x l n.slot x.cmd.slba x.cmd.nlb).isSome then tagResult x else lostResult x) 0

def execRead (tag : Nat) (s : State) : Host.Outcome State Fault Refusal := settled (readOp s tag)

/-- VERIFY: read and checked without transfer. -/
def verifyOp (s : State) (t : Nat) : State :=
  let x := tagAt s t
  match nsFor s x with
  | none => s
  | some n =>
    when (ready s t .verify && readable s n x) s fun s =>
      complete s t (if (rangeBytes x (versions s n x) n.slot x.cmd.slba x.cmd.nlb).isSome then tagResult x else lostResult x) 0

def execVerify (tag : Nat) (s : State) : Host.Outcome State Fault Refusal := settled (verifyOp s tag)

/-- The host's data for `n` LBAs have been fetched in full. -/
def dataIn (x : Tag) (n : Nat) : Bool := decide (4096 * n ≤ x.cmd.data.length)

/-- COMPARE. -/
def compareOp (s : State) (t : Nat) : State :=
  let x := tagAt s t
  match nsFor s x with
  | none => s
  | some n =>
    when (ready s t .compare && readable s n x && dataIn x x.cmd.nlb) s fun s =>
      match rangeBytes x (versions s n x) n.slot x.cmd.slba x.cmd.nlb with
      | none => complete s t (lostResult x) 0
      | some bs => complete s t (if bs = x.cmd.data.take (4096 * x.cmd.nlb) then tagResult x else scCompare) 0

def execCompare (tag : Nat) (s : State) : Host.Outcome State Fault Refusal := settled (compareOp s tag)

/-- READ_ENTRY_RELEASE (R133): the chunks of the read entries are copied into the staging space, and the entries released. -/
def readEntryReleaseOp (s : State) (t : Nat) : State :=
  let x := tagAt s t
  match nsOf s x.cmd.nsid with
  | none => s
  | some n =>
    when (ready s t x.cmd.op && keyLoaded s n && dataRead s n x && x.copy = none && s.cqu.locks.any fun l => l.tag = t && !l.write) s fun s =>
      let s := modTag s t fun y => { y with copy := some (versions s n x) }
      locksChanged (dropLocks s t fun l => l.write)

def execReadEntryRelease (tag : Nat) (s : State) : Host.Outcome State Fault Refusal := settled (readEntryReleaseOp s tag)

/-! ### Writes (R95, R99, R103, R157, R418) -/

/-- The bytes of chunk `c` after `data` is written at LBA `slba`, `nlb` LBAs. -/
def mergeChunk (old : List Byte) (c slba nlb : Nat) (data : List Byte) : List Byte :=
  let lo := max slba (16 * c)
  let hi := min (slba + nlb) (16 * c + 16)
  old.take ((lo - 16 * c) * 4096) ++ (data.drop ((lo - slba) * 4096)).take ((hi - lo) * 4096) ++ old.drop ((hi - 16 * c) * 4096)

/-- The new contents of the chunks of a write, in chunk order. -/
def writeSet (s : State) (slot slba nlb : Nat) (data : List Byte) : List (Nat × List Byte) :=
  (lbaKeys slot slba nlb).map fun k => (k, mergeChunk (chunkBytes (chunkAt s k)) (keyChunk k) slba nlb data)

/-- A chunk is covered by a range in full. -/
def wholeChunk (c slba nlb : Nat) : Bool := decide (slba ≤ 16 * c) && decide (16 * c + 16 ≤ slba + nlb)

/-- A poisoned chunk of the range of which only a part is written. -/
def mergesPoison (s : State) (slot slba nlb : Nat) : Bool :=
  (lbaKeys slot slba nlb).any fun k => (chunkAt s k).poison && !wholeChunk (keyChunk k) slba nlb

/-- Units that new contents take. -/
def setUnits (s : State) (l : List (Nat × List Byte)) : Nat := (l.map fun e => (packing s e.2).2).sum

/-- Units of the two tiers for live data: on disk, and in the flash tier above its reserve. -/
def capacityUnits (s : State) : Nat := diskUnits s + flashUnits s

/-- Live units would fill both tiers (R103, R418). -/
def overCapacity (s : State) (l : List (Nat × List Byte)) : Bool :=
  decide (capacityUnits s < unitsUsed s - (l.map fun e => (chunkAt s e.1).count).sum + setUnits s l)

/-- New contents staged in the dirty set for a command. -/
def stageChunks (s : State) (t keyep : Nat) (l : List (Nat × List Byte)) : State :=
  let s := overList l s fun s e => storeChunk s e.1 keyep e.2
  modTag s t fun x => { x with keys := x.keys ++ l.map (·.1) }

/-- The new contents of a command staged, and then `k`; data that would exceed DIRTYCAP wait (R62), as does a key not loaded; a
command without room fails and writes nothing (R103). A command that has staged its contents is not staged again. -/
def stageFor (s : State) (t : Nat) (n : Ns) (poison : Bool) (l : List (Nat × List Byte)) (k : State → State) : State :=
  if (tagAt s t).keys ≠ [] then k s
  else if poison then complete s t scUnrecovered 0
  else if overCapacity s l then complete s t scCapacity 0
  else if !takesData s (4128 * setUnits s l) || !keyLoaded s n then s
  else k (stageChunks s t n.keyep l)

/-- First LBA of a write: of a Zone Append, the one assigned at arrival (R135). -/
def writeLba (x : Tag) : Nat := if x.cmd.op = .zoneAppend then x.zlba else x.cmd.slba

/-- The data of a write of LBAs. -/
def writeData (x : Tag) : List Byte := if x.cmd.op = .writeZeroes then zeros (4096 * x.cmd.nlb) else x.cmd.data

/-- The staging of a write, a Zone Append or a Write Zeroes. -/
def stageWrite (s : State) (t : Nat) (k : State → State) : State :=
  let x := tagAt s t
  match nsOf s x.cmd.nsid with
  | none => s
  | some n =>
    let lba := writeLba x
    stageFor s t n (mergesPoison s n.slot lba x.cmd.nlb) (writeSet s n.slot lba x.cmd.nlb (writeData x)) fun s =>
      k (noteWritten s (lbaKeys n.slot lba x.cmd.nlb) lba x.cmd.nlb)

/-- A write of LBAs. -/
def isLbaWrite (op : HostOp) : Bool := op = .write || op = .writeZeroes || op = .zoneAppend

/-! ### A write that a reset of its port has ended (R95, R144) -/

/-- Chunks of a write whose data were fetched in full; a poisoned chunk that the write covers in part cannot be merged (R118). -/
def fetchedSet (s : State) (n : Ns) (x : Tag) : List (Nat × List Byte) :=
  let lba := writeLba x
  (writeSet s n.slot lba x.cmd.nlb (writeData x)).filter fun e =>
    decide (4096 * (min (lba + x.cmd.nlb) (16 * keyChunk e.1 + 16) - lba) ≤ (writeData x).length)
      && !((chunkAt s e.1).poison && !wholeChunk (keyChunk e.1) lba x.cmd.nlb)

/-- A dead command leaves: its entries are released, and its tag is free once its media work has ended. -/
def leaveDead (s : State) (t : Nat) : State :=
  let s := dropWaits s fun w => w.tag = t
  let s : State := { s with
    cqu := { s.cqu with compq := s.cqu.compq.filter fun u => u ≠ t }
    ladders := s.ladders.map fun l => { l with tags := l.tags.filter fun u => u ≠ t } }
  let s := dropLocks s t fun _ => false
  if (tagAt s t).mops = 0 then freeTagNow s t else modTag s t fun x => { x with dead := true }

/-- The chunks of a dead write stored: at once where the dirty set and the key let them, else the command waits, dead, with its
entries (R37, R62, R95). -/
def storeFetched (s : State) (t : Nat) : State :=
  let x := tagAt s t
  match nsOf s x.cmd.nsid with
  | none => leaveDead s t
  | some n =>
    let l := if x.st = .active && isLbaWrite x.cmd.op && x.keys = [] then fetchedSet s n x else []
    if l = [] || overCapacity s l then leaveDead s t
    else if takesData s (4128 * setUnits s l) && keyLoaded s n then
      leaveDead (noteWritten (stageChunks s t n.keyep l) (l.map (·.1)) (writeLba x) x.cmd.nlb) t
    else modTag s t fun x => { x with dead := true }

/-- A dead write that waited is stored now. -/
def deadWriteOp (s : State) (t : Nat) : State :=
  let x := tagAt s t
  when (x.dead && x.st = .active && isLbaWrite x.cmd.op && decide (x.mops = 0) && x.keys = []) s fun s =>
    settleRdy (locksChanged (storeFetched s t)) x.port

/-- The success of a command that has staged data, once they are durable (R99). -/
def completeDurable (s : State) (t dw0 : Nat) : State :=
  when (durable s (tagAt s t)) s fun s => complete s t (tagResult (tagAt s t)) dw0

/-- WRITE: durable in the dirty set or on media, the write completes (R99). -/
def writeOp (s : State) (t : Nat) : State :=
  let x := tagAt s t
  if x.dead then deadWriteOp s t else
  when (ready s t .write && dataIn x x.cmd.nlb) s fun s => stageWrite s t fun s => completeDurable s t 0

def execWrite (tag : Nat) (s : State) : Host.Outcome State Fault Refusal := settled (writeOp s tag)

/-- WRITE_ZEROES. -/
def writeZeroesOp (s : State) (t : Nat) : State :=
  let x := tagAt s t
  if x.dead then deadWriteOp s t else
  when (ready s t .writeZeroes) s fun s => stageWrite s t fun s => completeDurable s t 0

def execWriteZeroes (tag : Nat) (s : State) : Host.Outcome State Fault Refusal := settled (writeZeroesOp s tag)

/-- ZONE_APPEND (R135): the completion carries the LBA. A failed one leaves its LBAs as the reset of the zone left them: they
read as zeroes. -/
def zoneAppendOp (s : State) (t : Nat) : State :=
  let x := tagAt s t
  if x.dead then deadWriteOp s t else
  when (ready s t .zoneAppend && dataIn x x.cmd.nlb) s fun s => stageWrite s t fun s => completeDurable s t x.zlba

def execZoneAppend (tag : Nat) (s : State) : Host.Outcome State Fault Refusal := settled (zoneAppendOp s tag)

/-- The bytes of the source ranges of a Copy, one after another. -/
def copyBytes (x : Tag) (l : List (Nat × Chunk)) (slot : Nat) (ranges : List (Nat × Nat)) : Option (List Byte) :=
  match ranges with
  | [] => some []
  | r :: rest =>
    match rangeBytes x l slot r.1 r.2 with
    | none => none
    | some bs => (copyBytes x l slot rest).map fun more => bs ++ more

/-- COPY. -/
def copyOp (s : State) (t : Nat) : State :=
  let x := tagAt s t
  match nsOf s x.cmd.nsid with
  | none => s
  | some n =>
    when (ready s t .copy && keyLoaded s n && readable s n x) s fun s =>
      match copyBytes x (versions s n x) n.slot x.cmd.ranges with
      | none => complete s t (lostResult x) 0
      | some bs =>
        let nlb := (x.cmd.ranges.map (·.2)).sum
        stageFor s t n (mergesPoison s n.slot x.cmd.slba nlb) (writeSet s n.slot x.cmd.slba nlb bs) fun s =>
          completeDurable (noteWritten s (lbaKeys n.slot x.cmd.slba nlb) x.cmd.slba nlb) t 0

def execCopy (tag : Nat) (s : State) : Host.Outcome State Fault Refusal := settled (copyOp s tag)

/-- FLUSH (R99, R137): every write before it is durable once it has completed. -/
def flushOp (s : State) (t : Nat) : State := when (ready s t .flush) s fun s => complete s t scOk 0

def execFlush (tag : Nat) (s : State) : Host.Outcome State Fault Refusal := settled (flushOp s tag)

/-! ### Deallocation -/

/-- Chunks that lie in a range of LBAs in full: the first one and one past the last. -/
def wholeChunks (slba nlb : Nat) : Nat × Nat := ((slba + 15) / 16, (slba + nlb) / 16)

/-- One deallocated range (R173): the chunks that it covers in full have no live version, and one tombstone names them. The tombstone
of a range that covers none names an empty run of chunks; log entry 190. -/
def deallocate (s : State) (slot slba nlb : Nat) : State :=
  let w := wholeChunks slba nlb
  if w.2 ≤ w.1 then addTomb s (nsObject slot) (w.1 + 1) w.1 1
  else addTomb (overList (chunkKeys (nsObject slot) w.1 (w.2 - w.1)) s dropChunk) (nsObject slot) w.1 (w.2 - 1) 1

/-- DATASET_MANAGEMENT with deallocate. -/
def datasetManagementOp (s : State) (t : Nat) : State :=
  let x := tagAt s t
  match nsOf s x.cmd.nsid with
  | none => s
  | some n =>
    when (ready s t .dsm) s fun s =>
      complete (overList x.cmd.ranges s fun s r => deallocate s n.slot r.1 r.2) t scOk 0

def execDatasetManagement (tag : Nat) (s : State) : Host.Outcome State Fault Refusal := settled (datasetManagementOp s tag)

/-! ### Zones (R105) -/

/-- Statuses of the Zoned Namespace command set, SCT 1. -/
def scZoneBoundary : Nat × Nat := (1, 0xB8)
def scZoneFull : Nat × Nat := (1, 0xB9)
def scZoneWrite : Nat × Nat := (1, 0xBC)
def scZoneActive : Nat × Nat := (1, 0xBD)
def scZoneOpen : Nat × Nat := (1, 0xBE)
def scZoneState : Nat × Nat := (1, 0xBF)

def Zone.empty : Zone := { st := .empty, wp := 0 }
def zoneAt (n : Ns) (z : Nat) : Zone := tget Zone.empty n.zones z
def setZone (s : State) (nsid z : Nat) (x : Zone) : State := modNs s nsid fun n => { n with zones := tset Zone.empty n.zones z x }

def zoneIsOpen (z : Zone) : Bool := z.st = .implOpen || z.st = .explOpen
def zoneIsActive (z : Zone) : Bool := zoneIsOpen z || z.st = .closed

def zonesOpen (n : Ns) : Nat := (n.zones.filter fun e => zoneIsOpen e.2).length
def zonesActive (n : Ns) : Nat := (n.zones.filter fun e => zoneIsActive e.2).length
def zonesActiveAll (s : State) : Nat := (s.obj.nss.map zonesActive).sum

/-- Room for one more open zone: an implicitly opened one is closed where there are 256. -/
def makeOpenRoom (s : State) (n : Ns) : Option State :=
  if zonesOpen n < 256 then some s
  else (n.zones.find? fun e => e.2.st = .implOpen).map fun e => setZone s n.nsid e.1 { e.2 with st := .closed }

/-- A zone opened as `st`: the error, or the state. -/
def openZone (s : State) (n : Ns) (z : Nat) (st : ZoneState) : (Nat × Nat) × State :=
  let x := zoneAt n z
  match x.st with
  | .full => (scZoneState, s)
  | .implOpen | .explOpen => (scOk, setZone s n.nsid z { x with st := if st = .explOpen then st else x.st })
  | .empty | .closed =>
    if x.st = .empty && (1024 ≤ zonesActive n || 1024 ≤ zonesActiveAll s) then (scZoneActive, s)
    else
      match makeOpenRoom s n with
      | none => (scZoneOpen, s)
      | some s => (scOk, setZone s n.nsid z { x with st := st })

/-- A write of `nlb` LBAs of a Zoned namespace arrives (R135): the error, its first LBA, and the state with the write pointer
moved past it. -/
def zoneArrive (s : State) (n : Ns) (c : HostCmd) : (Nat × Nat) × Nat × State :=
  let z := c.slba / 65536
  let x := zoneAt n z
  let lba := if c.op = .zoneAppend then 65536 * z + x.wp else c.slba
  if x.st = .full then (scZoneFull, lba, s)
  else if 65536 * z + 65536 < lba + c.nlb then (scZoneBoundary, lba, s)
  else if lba ≠ 65536 * z + x.wp then (scZoneWrite, lba, s)
  else
    let r := openZone s n z .implOpen
    if r.1 ≠ scOk then (r.1, lba, s)
    else
      let wp := x.wp + c.nlb
      let st := if wp = 65536 then .full else if x.st = .explOpen then .explOpen else .implOpen
      (scOk, lba, setZone r.2 n.nsid z { st := st, wp := wp })

/-- ZONE_RESET (R173): a tombstone over the chunks of the zone. -/
def zoneResetOp (s : State) (t : Nat) : State :=
  let x := tagAt s t
  match nsOf s x.cmd.nsid with
  | none => s
  | some n =>
    when (ready s t .zoneReset) s fun s =>
      let z := x.cmd.slba / 65536
      let h := nsObject n.slot
      let s := overList ((objectKeys s h).filter fun k => keyChunk k / 4096 = z) s dropChunk
      let s := addTomb s h (4096 * z) (4096 * z + 4095) 3
      complete (setZone s n.nsid z Zone.empty) t scOk 0

def execZoneReset (tag : Nat) (s : State) : Host.Outcome State Fault Refusal := settled (zoneResetOp s tag)

/-- ZONE_FINISH: from every state but Full, in which it changes nothing. -/
def zoneFinishOp (s : State) (t : Nat) : State :=
  let x := tagAt s t
  match nsOf s x.cmd.nsid with
  | none => s
  | some n =>
    when (ready s t .zoneFinish) s fun s =>
      complete (setZone s n.nsid (x.cmd.slba / 65536) { st := .full, wp := 65536 }) t scOk 0

def execZoneFinish (tag : Nat) (s : State) : Host.Outcome State Fault Refusal := settled (zoneFinishOp s tag)

/-- A command without range-lock entries whose namespace has been deleted. -/
def goneNs (s : State) (t : Nat) (op : HostOp) : State := when (ready s t op) s fun s => complete s t scNamespace 0

/-- ZONE_OPEN. -/
def zoneOpenOp (s : State) (t : Nat) : State :=
  let x := tagAt s t
  match nsOf s x.cmd.nsid with
  | none => goneNs s t .zoneOpen
  | some n =>
    when (ready s t .zoneOpen) s fun s =>
      let r := openZone s n (x.cmd.slba / 65536) .explOpen
      complete r.2 t r.1 0

def execZoneOpen (tag : Nat) (s : State) : Host.Outcome State Fault Refusal := settled (zoneOpenOp s tag)

/-- ZONE_CLOSE: an open zone becomes Closed, a Closed one stays; the other states allow no such transition. -/
def zoneCloseOp (s : State) (t : Nat) : State :=
  let x := tagAt s t
  match nsOf s x.cmd.nsid with
  | none => goneNs s t .zoneClose
  | some n =>
    when (ready s t .zoneClose) s fun s =>
      let z := zoneAt n (x.cmd.slba / 65536)
      if zoneIsActive z then complete (setZone s n.nsid (x.cmd.slba / 65536) { z with st := .closed }) t scOk 0
      else complete s t scZoneState 0

def execZoneClose (tag : Nat) (s : State) : Host.Outcome State Fault Refusal := settled (zoneCloseOp s tag)

def zoneCode (st : ZoneState) : Nat :=
  match st with | .empty => 1 | .implOpen => 2 | .explOpen => 3 | .closed => 4 | .full => 0xE

/-- A zone descriptor of 64 bytes. -/
def zoneDescriptor (n : Ns) (z : Nat) : List Byte :=
  let x := zoneAt n z
  toBytes 8 (2 + zoneCode x.st * 2 ^ 12) ++ toBytes 8 65536 ++ toBytes 8 (65536 * z) ++ toBytes 8 (65536 * z + x.wp) ++ zeros 32

/-- ZONE_MANAGEMENT_RECEIVE: the descriptors from the zone named on, cut at the length of the host buffer. -/
def zoneReceiveOp (s : State) (t : Nat) : State :=
  let x := tagAt s t
  match nsOf s x.cmd.nsid with
  | none => goneNs s t .zoneRecv
  | some n =>
    when (ready s t .zoneRecv) s fun s =>
      let z := x.cmd.slba / 65536
      let count := n.size / 65536 - z
      let shown := min count ((x.cmd.hostLen - 64) / 64)
      let bs := toBytes 8 count ++ zeros 56 ++ (List.range shown).flatMap fun i => zoneDescriptor n (z + i)
      complete (sendHost s x bs) t scOk 0

def execZoneManagementReceive (tag : Nat) (s : State) : Host.Outcome State Fault Refusal := settled (zoneReceiveOp s tag)

/-! ### Key Value (R106, R136, R157, R172, R173) -/

/-- Body of an object record. -/
def objectRecord (key : List Byte) (vallen time : Nat) : List Byte :=
  toBytes 8 key.length ++ (key ++ zeros (16 - key.length)).take 16 ++ toBytes 8 vallen ++ toBytes 8 time ++ zeros 4056

/-- The chunks of a value, 65,536 bytes each but the last. -/
def valueChunks (handle c n : Nat) (value : List Byte) : List (Nat × List Byte) :=
  match n with
  | 0 => []
  | n' + 1 => (chunkKey handle c, value.take 65536) :: valueChunks handle (c + 1) n' (value.drop 65536)

/-- The Key Value object of a key after a Store. -/
def kvPut (n : Ns) (o : KvObj) : Ns :=
  { n with
    objs := if n.objs.any fun p => p.key = o.key then n.objs.map fun p => if p.key = o.key then o else p else n.objs ++ [o]
    nextSerial := if n.nextSerial ≤ o.handle % 2 ^ 34 then o.handle % 2 ^ 34 + 1 else n.nextSerial }

/-- The last serial that names an object (R155). -/
def lastSerial : Nat := 0x3_FFFF_FFFD

/-- KV_STORE (R172): every value chunk first, the object record last; chunks of a longer value before are dropped. A namespace whose
serials are used up takes no further object: Capacity Exceeded (DESIGN CHOICE, log entry 190). -/
def kvStoreOp (s : State) (t : Nat) : State :=
  let x := tagAt s t
  let c := x.cmd
  match nsOf s c.nsid with
  | none => s
  | some n =>
    when (ready s t .kvStore && decide (c.hostLen ≤ c.data.length)) s fun s =>
      let old := kvFind n c.key
      if x.keys = [] && c.opts.testBit 0 && old.isSome then complete s t scKeyExists 0
      else if c.opts.testBit 1 && old.isNone then complete s t scNoKey 0
      else if old.isNone && decide (lastSerial < n.nextSerial) then complete s t scCapacity 0
      else
        let handle := match old with
          | some o => o.handle
          | none => handleOf n.slot n.nextSerial
        let value := c.data.take c.hostLen
        let chunks := (c.hostLen + 65535) / 65536
        let rec_ := objectRecord c.key c.hostLen (clockSec s.datum)
        let l := valueChunks handle 0 chunks value ++ [(chunkKey handle objRecordChunk, rec_)]
        let gone := (objectKeys s handle).filter fun k => decide (chunks ≤ keyChunk k) && keyChunk k ≠ objRecordChunk
        stageFor s t n false l fun s =>
          let s := modNs (overList gone s dropChunk) n.nsid fun n => kvPut n { key := c.key, handle := handle, vallen := c.hostLen }
          completeDurable s t 0

def execKvStore (tag : Nat) (s : State) : Host.Outcome State Fault Refusal := settled (kvStoreOp s tag)

/-- The bytes of a value from its chunks; none for a chunk that is lost. -/
def valueParts (x : Tag) (l : List (Nat × Chunk)) (handle c n : Nat) : List (Option (List Byte)) :=
  match n with
  | 0 => []
  | n' + 1 =>
    let key := chunkKey handle c
    let v := versionOf l key
    (if lost x key v then none else some (v.data.take 65536)) :: valueParts x l handle (c + 1) n'

/-- The parts of a value written to the host buffer, each at its place, up to the buffer's end. -/
def sendParts (s : State) (x : Tag) (parts : List (Option (List Byte))) (off : Nat) : State :=
  match parts with
  | [] => s
  | p :: rest =>
    let s := match p with
      | some bs => hostPut s x.port x.cmd x.cmd.hostLen off (bs.take (x.cmd.hostLen - off))
      | none => s
    sendParts s x rest (off + 65536)

/-- KV_RETRIEVE: the value from its start up to the host buffer's length; Dword 0 has the full length. -/
def kvRetrieveOp (s : State) (t : Nat) : State :=
  let x := tagAt s t
  match nsFor s x with
  | none => s
  | some n =>
    when (ready s t .kvRetrieve && readable s n x) s fun s =>
      let l := versions s n x
      match l.find? fun e => keyChunk e.1 = objRecordChunk with
      | none => complete s t scNoKey 0
      | some e =>
        if lost x e.1 e.2 then complete s t (lostResult x) 0
        else
          let vallen := ofBytes ((e.2.data.drop 0x18).take 8)
          let wanted := (min vallen x.cmd.hostLen + 65535) / 65536
          let parts := valueParts x l (keyHandle e.1) 0 wanted
          let s := sendParts s x parts 0
          complete s t (if parts.any (·.isNone) then lostResult x else tagResult x) vallen

def execKvRetrieve (tag : Nat) (s : State) : Host.Outcome State Fault Refusal := settled (kvRetrieveOp s tag)

/-- KV_DELETE (R173). -/
def kvDeleteOp (s : State) (t : Nat) : State :=
  let x := tagAt s t
  match nsOf s x.cmd.nsid with
  | none => s
  | some n =>
    when (ready s t .kvDelete) s fun s =>
      match kvFind n x.cmd.key with
      | none => complete s t scNoKey 0
      | some o =>
        let s := addTomb (overList (objectKeys s o.handle) s dropChunk) o.handle 0 objRecordChunk 2
        complete (modNs s n.nsid fun n => { n with objs := n.objs.filter fun p => p.key ≠ o.key }) t scOk 0

def execKvDelete (tag : Nat) (s : State) : Host.Outcome State Fault Refusal := settled (kvDeleteOp s tag)

/-- KV_EXIST: of a command whose read entry was released, as the key stood then (R133, R134). -/
def kvExistOp (s : State) (t : Nat) : State :=
  let x := tagAt s t
  match nsFor s x with
  | none => s
  | some n =>
    when (ready s t .kvExist) s fun s =>
      let there := match x.copy with
        | some l => l.any fun e => keyChunk e.1 = objRecordChunk
        | none => (kvFind n x.cmd.key).isSome
      complete s t (if there then scOk else scNoKey) 0

def execKvExist (tag : Nat) (s : State) : Host.Outcome State Fault Refusal := settled (kvExistOp s tag)

/-- Increasing unsigned byte order, a shorter key before a longer one that it prefixes (R106). -/
def keyBefore (a b : List Byte) : Bool :=
  match a, b with
  | [], _ => true
  | _ :: _, [] => false
  | x :: a', y :: b' => if x = y then keyBefore a' b' else decide (x.toNat < y.toNat)

def insertKey (k : List Byte) (l : List (List Byte)) : List (List Byte) :=
  match l with
  | [] => [k]
  | x :: rest => if keyBefore k x then k :: x :: rest else x :: insertKey k rest

def sortKeys (l : List (List Byte)) : List (List Byte) := l.foldl (fun acc k => insertKey k acc) []

/-- A key as List returns it: its length in two bytes, the key, and padding to four bytes. -/
def listEntry (k : List Byte) : List Byte := toBytes 2 k.length ++ k ++ zeros ((4 - (k.length + 2) % 4) % 4)

/-- Entries that fit. -/
def fitEntries (room : Nat) (l : List (List Byte)) : List (List Byte) :=
  match l with
  | [] => []
  | e :: rest => if e.length ≤ room then e :: fitEntries (room - e.length) rest else []

/-- KV_LIST (R106, R136): keys from the one named on, as they were at the command's arrival. -/
def kvListOp (s : State) (t : Nat) : State :=
  let x := tagAt s t
  when (ready s t .kvList) s fun s =>
    let l := ((sortKeys x.snap).filter fun k => keyBefore x.cmd.key k).map listEntry
    let es := fitEntries (x.cmd.hostLen - 4) l
    let bs := toBytes 4 es.length ++ es.flatten
    complete (sendHost s x bs) t scOk 0

def execKvList (tag : Nat) (s : State) : Host.Outcome State Fault Refusal := settled (kvListOp s tag)

/-! ### Ledger and key (R108, R163) -/

/-- Bytes 0x10–0x3F of an entry of the chain (R594): OP, NSSLOT, NSID, HANDLE, FIRST, LAST and KEY. -/
structure LedgerEnt where
  op : Nat
  nsslot : Nat
  nsid : Nat
  handle : Nat
  first : Nat
  last : Nat
  key : List Byte
  deriving DecidableEq, Repr

/-- All ones in HANDLE name the whole slot. -/
def allHandles : Nat := 2 ^ 40 - 1

/-- The records of a destructive command (R107, R108, R594): one, or one for each range of a Dataset Management command. -/
def ledgerEnts (s : State) (c : HostCmd) : List LedgerEnt :=
  match nsOf s c.nsid with
  | none => if c.op = .adminSanitize then [⟨7, 0xFF, c.nsid, allHandles, 0, 2 ^ 40 - 1, []⟩] else []
  | some n =>
    let range := fun op slba nlb => LedgerEnt.mk op n.slot c.nsid (nsObject n.slot) (slba / 16) ((slba + nlb - 1) / 16) []
    let object := fun op => match kvFind n c.key with
      | some o => [LedgerEnt.mk op n.slot c.nsid o.handle 0 (2 ^ 40 - 1) c.key]
      | none => []
    match c.op with
    | .write | .writeZeroes => [range 1 c.slba c.nlb]
    | .copy => [range 1 c.slba ((c.ranges.map (·.2)).sum)]
    | .dsm => c.ranges.map fun r => range 2 r.1 r.2
    | .zoneReset => [range 3 (c.slba / 65536 * 65536) 65536]
    | .kvStore => object 4
    | .kvDelete => object 5
    | .adminFormat => [⟨6, n.slot, c.nsid, allHandles, 0, 2 ^ 40 - 1, []⟩]
    | .adminSanitize => [⟨7, 0xFF, c.nsid, allHandles, 0, 2 ^ 40 - 1, []⟩]
    | .adminNsDelete => [⟨8, n.slot, c.nsid, allHandles, 0, 2 ^ 40 - 1, []⟩]
    | _ => []

/-- The records appended to the chain; none where the die refuses one (R595). -/
def appendAll (s : State) (l : List LedgerEnt) : Option State :=
  match l with
  | [] => some s
  | e :: rest =>
    let q := norDraw s
    let r := chainAppend q.2 e.op e.nsslot e.nsid e.handle e.first e.last e.key q.1
    if r.1 = 0 then appendAll r.2.2 rest else none

/-- The Datum die serves requests of the ledger class (R578). -/
def ledgerServes (s : State) : Bool := mailboxUp s && decide (3334 ≤ usableSectors s)

/-- LEDGER_ACCEPT: the die has appended the records of the command to its chain, which takes effect from now on. A refused append has not
been accepted (R595). -/
def ledgerAcceptOp (s : State) (t : Nat) : State :=
  when ((tagAt s t).st = .ledger && ledgerServes s) s fun s =>
    match appendAll s (ledgerEnts s (tagAt s t).cmd) with
    | some s => modTag (datumSync s) t fun x => { x with st := .active }
    | none => s

def execLedgerAccept (tag : Nat) (s : State) : Host.Outcome State Fault Refusal := settled (ledgerAcceptOp s tag)

/-- LEDGER_TIMEOUT: Datum Unavailable, and nothing changes. -/
def ledgerTimeoutOp (s : State) (t : Nat) : State := when ((tagAt s t).st = .ledger) s fun s => complete s t scDatum 0

def execLedgerTimeout (tag : Nat) (s : State) : Host.Outcome State Fault Refusal := settled (ledgerTimeoutOp s tag)

/-- A command that waits for the key of its namespace to be loaded. -/
def needsKey (x : Tag) : Bool :=
  match x.cmd.op with
  | .read | .verify | .compare | .kvRetrieve => x.copy = none
  | .write | .writeZeroes | .zoneAppend | .copy | .kvStore => true
  | _ => false

/-- KEY_LOAD_TIMEOUT (R163). -/
def keyLoadTimeoutOp (s : State) (t : Nat) (slot : Fin 64) : State :=
  let x := tagAt s t
  match nsOf s x.cmd.nsid with
  | none => s
  | some n =>
    when (ready s t x.cmd.op && decide (n.slot = slot.val) && !keyLoaded s n && needsKey x) s fun s =>
      complete (raise1 s .cdc 0) t scDatum 0

def execKeyLoadTimeout (tag : Nat) (slot : Fin 64) (s : State) : Host.Outcome State Fault Refusal :=
  settled (keyLoadTimeoutOp s tag slot)

/-- The end of a command whose media work has ended. -/
def finishCommand (s : State) (t : Nat) : State :=
  match (tagAt s t).cmd.op with
  | .read => readOp s t
  | .verify => verifyOp s t
  | .compare => compareOp s t
  | .write => writeOp s t
  | .writeZeroes => writeZeroesOp s t
  | .zoneAppend => zoneAppendOp s t
  | .copy => copyOp s t
  | .kvStore => kvStoreOp s t
  | .kvRetrieve => kvRetrieveOp s t
  | .flush | .dsm | .zoneReset | .zoneFinish | .zoneOpen | .zoneClose | .zoneRecv | .kvDelete | .kvExist | .kvList
  | .adminFormat | .adminSanitize | .adminNsDelete | .adminOther | .unsupported => s

/-! ### Arrival (R104–R106, R125–R131) -/

/-- Admin commands arrive on the admin queue alone. -/
def isAdminOp (op : HostOp) : Bool :=
  match op with | .adminFormat | .adminSanitize | .adminNsDelete | .adminOther => true | _ => false

/-- The command set of a namespace has the command (R104). -/
def setHas (cmdset : Nat) (op : HostOp) : Bool :=
  match op with
  | .read | .write | .writeZeroes | .compare | .verify | .dsm => decide (cmdset = 0 || cmdset = 2)
  | .copy => decide (cmdset = 0)
  | .zoneAppend | .zoneReset | .zoneFinish | .zoneOpen | .zoneClose | .zoneRecv => decide (cmdset = 2)
  | .kvStore | .kvRetrieve | .kvDelete | .kvExist | .kvList => decide (cmdset = 1)
  | .flush => true
  | .adminFormat | .adminSanitize | .adminNsDelete | .adminOther | .unsupported => false

/-- A range of LBAs of a namespace. -/
def inRange (n : Ns) (slba nlb : Nat) : Bool := decide (1 ≤ nlb) && decide (slba + nlb ≤ n.size)

/-- The fields of an I/O command (R98, R105, R106, R129): the failure, or success. -/
def fieldCheck (n : Ns) (c : HostCmd) : Nat × Nat :=
  let zone := if c.slba % 65536 ≠ 0 then scField else if n.size ≤ c.slba then scRange else scOk
  let key := if c.key.length = 0 || 16 < c.key.length then scKeySize else scOk
  match c.op with
  | .read | .write | .compare => if 512 < c.nlb then scField else if inRange n c.slba c.nlb then scOk else scRange
  | .writeZeroes | .verify => if 65536 < c.nlb then scField else if inRange n c.slba c.nlb then scOk else scRange
  | .dsm => if 256 < c.ranges.length then scField else if c.ranges.all fun r => inRange n r.1 r.2 then scOk else scRange
  | .copy =>
    if 128 < c.ranges.length || c.ranges = [] then scField
    else if (c.ranges.all fun r => inRange n r.1 r.2) && inRange n c.slba ((c.ranges.map (·.2)).sum) then scOk else scRange
  | .zoneAppend => if 256 < c.nlb || c.nlb = 0 then scField else zone
  | .zoneReset | .zoneFinish | .zoneOpen | .zoneClose | .zoneRecv => zone
  | .kvStore => if 4294963200 < c.hostLen then scValueSize else key
  | .kvRetrieve | .kvDelete | .kvExist => key
  | .kvList | .flush | .adminFormat | .adminSanitize | .adminNsDelete | .adminOther | .unsupported => scOk

/-- Bytes of the host buffer of a command, and whether data go to the host (R98). -/
def dataLen (c : HostCmd) : Nat :=
  match c.op with
  | .read | .write | .zoneAppend | .compare => 4096 * c.nlb
  | .dsm => 16 * c.ranges.length
  | .copy => 32 * c.ranges.length
  | .kvStore | .kvRetrieve | .kvList | .zoneRecv | .adminOther => c.hostLen
  | _ => 0
def dataToHost (c : HostCmd) : Bool :=
  match c.op with
  | .read | .kvRetrieve | .kvList | .zoneRecv | .adminOther => true
  | _ => false

/-- The data pointer of a command can be used (R98). -/
def pointerCheck (s : State) (p : Port) (c : HostCmd) : Nat × Nat :=
  match spansOf s p c (dataToHost c) (dataLen c) with
  | .ok _ => scOk
  | .error e => e

/-- The check at arrival (R127). -/
def arrivalCheck (s : State) (p : Port) (sqid : Nat) (c : HostCmd) : Nat × Nat :=
  if decide (sqid = 0) != isAdminOp c.op || c.op = .unsupported then scOpcode
  else if sqid = 0 then
    match c.op with
    | .adminFormat | .adminNsDelete => if (nsOf s c.nsid).isSome then scOk else scNamespace
    | _ => pointerCheck s p c
  else if s.obj.sanitizing then scSanitizing
  else
    match nsOf s c.nsid with
    | none => scNamespace
    | some n =>
      if !n.attached p then scNamespace
      else if !setHas n.cmdset c.op then scOpcode
      else if fieldCheck n c ≠ scOk then fieldCheck n c
      else pointerCheck s p c

/-- Commands whose LBAs a zone gives or checks at arrival. -/
def zoneWrites (n : Ns) (c : HostCmd) : Bool := n.cmdset = 2 && (c.op = .write || c.op = .writeZeroes || c.op = .zoneAppend)

/-- What the zone says at arrival: the failure, the first LBA, and the state. -/
def arriveZone (s : State) (c : HostCmd) : (Nat × Nat) × Nat × State :=
  match nsOf s c.nsid with
  | none => (scOk, 0, s)
  | some n => if zoneWrites n c then zoneArrive s n c else (scOk, 0, s)

/-- The new tag of a command that has arrived; `ok`: it passed its checks. -/
def newTag (s : State) (p : Port) (sqid lba : Nat) (c : HostCmd) (ok : Bool) : Tag :=
  let keys := match nsOf s c.nsid with
    | some n => if c.op = .kvList then n.objs.map (·.key) else []
    | none => []
  { Tag.free with st := .fetched, port := p, sqid := sqid, aseq := s.cqu.aseq, cmd := c, admin := sqid = 0, zlba := lba, snap := keys
                  assigned := ok && c.op = .zoneAppend }

/-- The head of a submission queue moves past an entry. -/
def fetchEntry (s : State) (p : Port) (sqid : Nat) : State :=
  modPort s p fun x => { x with sqs := lmodFirst (fun q => q.qid = sqid) (fun q => { q with head := (q.head + 1) % q.size }) x.sqs }

/-! Arbitration (R126) -/

/-- Queues of an enabled controller with an entry pending. -/
def pendingSqs (x : PortSt) : List Nat :=
  if x.en && x.rdy then (x.sqs.filter fun q => decide (q.head ≠ q.tail) && !q.stopped).map (·.qid) else []

/-- Entries that one burst takes: 2^AB, without limit where AB is 7 (R113, R126). -/
def burstMax (x : PortSt) (taken : Nat) : Bool :=
  let ab := tget 0 x.features 1 % 8
  ab = 7 || decide (taken < 2 ^ ab)

def least (l : List Nat) : Option Nat := l.foldl (fun b x => match b with | none => some x | some y => some (min x y)) none

/-- The queue after the one served last, in rotation. -/
def rotate (l : List Nat) (last : Nat) : Option Nat :=
  match least (l.filter fun q => last < q) with
  | some q => some q
  | none => least l

/-- The burst of a port goes on. -/
def burstRuns (s : State) (p : Port) : Bool :=
  let t := vget s.cqu.turns (portIx p)
  decide (0 < t.taken) && burstMax (s.port p) t.taken && (pendingSqs (s.port p)).contains t.qid

/-- The queue that a port's rotation serves next. -/
def portTurn (s : State) (p : Port) : Option (Port × Nat) :=
  let t := vget s.cqu.turns (portIx p)
  if burstRuns s p then some (p, t.qid) else (rotate (pendingSqs (s.port p)) t.qid).map fun q => (p, q)

/-- The queue whose entry is fetched next: the one whose command found too little room in the range-lock table (R131); else the
burst that runs; else the ports alternate where there are two, and each takes its queues in rotation (R126). -/
def nextFetch (s : State) : Option (Port × Nat) :=
  let p := s.cqu.turnPort
  let o := if p = .a then .b else .a
  let held := s.cqu.stalled.filter fun e => (pendingSqs (s.port e.1)).contains e.2
  if held.isSome then held
  else if burstRuns s p then portTurn s p
  else if (vget s.cqu.turns (portIx p)).taken ≠ 0 then (portTurn s o).or (portTurn s p)
  else (portTurn s p).or (portTurn s o)

/-- An entry taken from a queue: the burst of the other port has ended. -/
def noteFetch (s : State) (p : Port) (sqid : Nat) : State :=
  let o := if p = .a then .b else .a
  let t := vget s.cqu.turns (portIx p)
  let n := if burstRuns s p && t.qid = sqid then t.taken + 1 else 1
  { s with cqu := { s.cqu with
      turns := vmod (vset s.cqu.turns (portIx p) { qid := sqid, taken := n }) (portIx o) fun u => { u with taken := 0 }
      turnPort := p, stalled := none } }

/-- The command queue unit fetches from a submission queue: its turn, the unit not stopped or just reset, the range-lock table not
full (R37). -/
def canFetch (s : State) (p : Port) (sqid : Nat) : Bool :=
  !s.cqu.stopped && !s.cqu.wiped && decide (s.cqu.locks.length < 1024) && nextFetch s = some (p, sqid)

/-- COMMAND_ARRIVAL. The operand is the entry as fetched. Fetch stops while 4,096 commands are in flight or the range-lock table is
full (R37), and where the table has too few free entries for the command it stops until they suffice (R131). -/
def commandArrivalOp (s : State) (p : Port) (sqid : Nat) (c : HostCmd) : State :=
  match freeTag s with
  | none => s
  | some t =>
    when (canFetch s p sqid) s fun s =>
      let r := arrivalCheck s p sqid c
      let z := if r = scOk then arriveZone s c else (r, 0, s)
      let reqs := if z.1 = scOk then lockReqs s c z.2.1 else []
      if 1024 < s.cqu.locks.length + reqs.length then { s with cqu := { s.cqu with stalled := some (p, sqid) } }
      else
        let s := noteFetch (fetchEntry z.2.2 p sqid) p sqid
        let s := setTag s t (newTag s p sqid z.2.1 c (z.1 = scOk))
        let a := s.cqu.aseq
        let s := { s with cqu := { s.cqu with aseq := (a + 1) % 2 ^ 64 } }
        let s := ps3Reverse s p
        if z.1 ≠ scOk then complete s t z.1 0
        else
          let s := insertLocks s t a reqs
          if blocked s t then modTag s t fun x => { x with st := .lockwait } else postCompletions (proceed s t)

def execCommandArrival (p : Port) (sqid : Nat) (cmd : HostCmd) (s : State) : Host.Outcome State Fault Refusal :=
  settled (commandArrivalOp s p sqid cmd)

/-! ### Port reset (R95, R144) -/

/-- A command of the port ends without completion: a write in ACTIVE stores the chunks fetched in full; the rest is discarded. Its
tag is free once its media work has ended. One whose record has gone to the ledger and that takes no data from the host runs to
its end (R145), without completion. -/
def endByReset (s : State) (t : Nat) : State :=
  let x := tagAt s t
  if (x.st = .ledger || x.st = .active) && runsOn x.cmd.op then modTag s t fun x => { x with dead := true } else storeFetched s t

/-- Controller state after a reset of the controller (R95, R100): queues, requests and held events are gone. -/
def resetController (s : State) (p : Port) : State :=
  let tags := (s.cqu.tags.filter fun e => e.2.port = p && !e.2.dead).map (·.1)
  let s := overList tags s endByReset
  let s := modPort s p fun x =>
    { x with
      en := false, shn := 0, shst := 0, ps := 0, lastOpPs := 0, sqs := [], cqs := [], held := [], maskedTypes := []
      aers := [], features := [] }
  settleRdy (locksChanged s) p

/-! ### Commands that a block reset has cut (R68) -/

/-- Tags of commands under way, in arrival order. -/
def liveTags (s : State) : List Nat :=
  (((s.cqu.tags.filter fun e => e.2.st ≠ .free && e.2.st ≠ .completing && !e.2.dead).map fun e => (e.1, e.2.aseq)).foldl
    (fun l e => insertAseq e l) []).map (·.1)

/-- The commands of a reset command queue unit end with Internal Error; those of a reset host port as by a port reset. -/
def endCut (s : State) : State :=
  let ps := s.cqu.cut
  let s := if s.cqu.wiped then
      overList (liveTags s) { s with cqu := { s.cqu with wiped := false } } fun s t => endWith s t scInternal
    else s
  overList ps { s with cqu := { s.cqu with cut := [] } } fun s p => resetController s p

end Sys2Proof.Machine
end

