-- ==== Sys2Proof/Machine/MediaOps.lean ====
section
/-! DEFINITION. Media operations: those of host commands (R36, R138–R141, R182), posted descriptors (R271, R472–R476, R626, R627),
and the map of Locus (R178–R181, R185, R187). -/

namespace Sys2Proof.Machine

/-! ### Operations of host commands -/

/-- Slices that stream. -/
def streams (s : State) : Nat := (fin8.filter fun n => (s.slice n).op.isSome).length

/-- The slice takes operations from the command queue unit: present, CTL.EN 1, ASSIGNSRC 0, idle, nothing pending (R212, R213). -/
def cquSlice (s : State) (n : Fin 8) : Bool :=
  slicePresent s n && rbit s (Reg.chdCtl n) 0 && !rbit s (Reg.chdCtl n) 1 && sliceIdle s n && (s.slice n).pend.isNone

/-- The command queue unit starts operations: not stopped, no entry to PS3 under way, within the limit on streams (R119, R149). -/
def cquStarts (s : State) : Bool :=
  !s.cqu.stopped && s.cqu.psStep = 0 && decide (streams s < streamLimit s)

/-- Media operations in flight (R36): those that run for the command queue unit, and those queued on their actuators (R138). -/
def inFlight (s : State) : Nat := s.cqu.mops + s.cqu.waitOps.length

/-- A new operation is admitted: one beyond 1,024 stays queued in its command (R37), as does a read beyond the 1,024 entries of the
band-reader table (R182). -/
def opAdmitted (s : State) (d : Desc) : Bool :=
  decide (inFlight s < 1024) && (d.kind ≠ 1 || decide (s.obj.readers.length < 1024))

/-- An operation starts on a slice, which the command queue unit assigns. -/
def runOp (s : State) (n : Fin 8) (src : OpSrc) (d : Desc) (first units : Nat) : State :=
  let s := connect s n true (d.kind = 2) (Fin.ofNat 16 d.act)
  let s := { s with cqu := { s.cqu with mops := s.cqu.mops + 1 } }
  modOp (startOp s n src d) n fun o => { o with first := first, units := units }

/-- A waiting operation of a command runs; its entry of the band-reader table stays. -/
def runTagOp (s : State) (n : Fin 8) (w : WaitOp) : State :=
  let s := { s with cqu := { s.cqu with waitOps := s.cqu.waitOps.erase w } }
  runOp (modTag s w.tag fun x => { x with mops := x.mops + 1 }) n (.tag w.tag) w.d w.first w.units

/-- The actuator of an operation is ready and no other slice is connected to it. -/
def opReady (s : State) (n : Fin 8) (d : Desc) : Bool :=
  descCheck s d 0 = 0 && !takenByOther s n (Fin.ofNat 16 d.act)

/-- Posted descriptors of queue 17, which are scheduled with the operations of commands (R473): address, tick of the POST, content. -/
def posted17 (s : State) : List (Nat × Nat × Desc) := s.cqu.q17.map fun e => (e.1, e.2, descAt s.mem e.1)

/-- Nothing that waits writes the band of a write below its first slot: writes of one band run in increasing UNIT order, whatever
command or descriptor they belong to (R140). -/
def inBandOrder (s : State) (d : Desc) : Bool :=
  let below := fun (v : Desc) => v.kind = 2 && decide (v.band = d.band) && decide (v.slot < d.slot)
  d.kind ≠ 2 || !((s.cqu.waitOps.any fun v => below v.d) || (posted17 s).any fun e => below e.2.2)

/-- An operation is queued on its actuator; a stopped spindle is asked to start (R138). -/
def queueOp (s : State) (w : WaitOp) : State :=
  let s := addWait s w
  let i := Fin.ofNat 8 (w.d.act / 2)
  if (s.spn i).st = .stopped then spnStartOp s i else s

/-- The start of an operation's spindle has been refused for the power budget (R59, R121). -/
def budgetRefused (s : State) (d : Desc) : Bool :=
  (s.spn (Fin.ofNat 8 (d.act / 2))).st = .stopped && s.pmu.refused.toNat.testBit (d.act / 2)

/-- A band whose units reads take by reconstruction: stale, or on a spindle out of service (R310, R313). -/
def bandAway (s : State) (maddr : Nat) : Bool :=
  latticeOn s &&
    match groupOf s (maddrSpindle maddr) (maddrBand maddr) with
    | none => false
    | some (g, j) => mem8 (groupAt s g).stale j || svcOf s (maddrSpindle maddr) = .outOfService

/-- Units of a command's read pass to reconstruction, step 7 of the ladder (R264, R310, R313). -/
def toReconstruction (s : State) (t : Nat) (d : Desc) : State :=
  overList (List.range d.count) s fun s i => enterLadder s (d.band + d.slot + i) 7 1 (some t) none

/-! ### The order in which operations run (R139) -/

/-- Present track of an actuator, and the distance of an operation's first track from it. The spec gives no formula for the
estimated access time: the model takes that distance (DESIGN CHOICE, log entry 186). -/
def trackDist (s : State) (d : Desc) : Nat :=
  let a := Fin.ofNat 16 d.act
  let goal : Int := (d.firstTrack + (if d.slots = 0 then 0 else d.slot / d.slots) : Nat)
  (goal - (s.act a).r / 65536).natAbs

/-- An operation that the command queue unit schedules: of a command, or a posted descriptor. -/
inductive Queued
  | cmd (w : WaitOp)
  | desc (addr tick : Nat) (d : Desc)
  deriving DecidableEq, Repr

def Queued.d (q : Queued) : Desc := match q with | .cmd w => w.d | .desc _ _ d => d
def Queued.tick (q : Queued) : Nat := match q with | .cmd w => w.tick | .desc _ t _ => t

/-- The checks of a descriptor of queue 17, as its slice makes them (R474). -/
def check17 (s : State) (n : Fin 8) (d : Desc) : Nat :=
  if d.kind = 3 then 5 else descCheck s d (rf s (Reg.chdWctl n) 4 2)

/-- Operations that a slice could start: of commands, and descriptors; one that fails its checks is ready to be refused. -/
def readyOps (s : State) (n : Fin 8) : List Queued :=
  ((s.cqu.waitOps.filter fun w => opReady s n w.d && inBandOrder s w.d).map Queued.cmd)
    ++ ((posted17 s).filter fun e => check17 s n e.2.2 ≠ 0
          || (!takenByOther s n (Fin.ofNat 16 e.2.2.act) && inBandOrder s e.2.2 && (e.2.2.kind ≠ 1 || decide (s.obj.readers.length < 1024)))).map
        fun e => Queued.desc e.1 e.2.1 e.2.2

def oldest (l : List Queued) (w : Queued) : Queued :=
  match l with
  | [] => w
  | v :: rest => oldest rest (if v.tick < w.tick then v else w)

def nearest (s : State) (l : List Queued) (w : Queued) : Queued :=
  match l with
  | [] => w
  | v :: rest => nearest s rest (if trackDist s v.d < trackDist s w.d then v else w)

/-- The operation that a freed slice runs next (R139): the oldest of those that have waited AGE ms or more; else, of the
actuator whose oldest ready operation has waited longest, the one nearest to the head. -/
def nextOp (s : State) (n : Fin 8) : Option Queued :=
  let age := max 1 (rf s Reg.cquSched 0 16) * 100000
  match readyOps s n with
  | [] => none
  | w :: rest =>
    let o := oldest rest w
    if o.tick + age ≤ s.tick.toNat then some o
    else some (nearest s ((w :: rest).filter fun v => v.d.act = o.d.act) o)

/-- A descriptor of queue 17 starts on a slice, or ends with the check that it fails (R474). -/
def runPosted (s : State) (n : Fin 8) (a tick : Nat) : State :=
  let s := { s with cqu := { s.cqu with q17 := s.cqu.q17.erase (a, tick) } }
  match busRead s (masterChd n) a 64 none with
  | (none, s) => chdIrq (writeCtl s (masterChd n) a 5) n 1
  | (some _, s) =>
    let d := descAt s.mem a
    let c := check17 s n d
    if c ≠ 0 then chdIrq (writeCtl s (masterChd n) a c) n 1
    else runOp (addReader s d) n (.queue 17 a) d 0 d.count

/-- A free slice takes the operation that runs next. -/
def assignNext (s : State) (n : Fin 8) : State :=
  if !cquSlice s n || !cquStarts s then s
  else
    match nextOp s n with
    | none => s
    | some (.cmd w) => runTagOp s n w
    | some (.desc a t _) => runPosted s n a t

/-! ### MEDIA_OP_START (R138) -/

/-- The descriptor's place is the one that the zone tables give its band (R193, R201). -/
def descPlaced (s : State) (d : Desc) : Bool :=
  match locateBand s (maddrSpindle d.band) (maddrBand d.band) with
  | none => false
  | some (u, z, first) =>
    d.act = u.act && d.head = u.head && d.firstTrack = first && d.wedgebits = z.n && d.slots = z.s

/-- The units that a read operation names, where each is one that the command still has to read, as Locus places it (R138). -/
def readUnits (s : State) (x : Tag) (d : Desc) : Option (List Nat) :=
  match nsOf s x.cmd.nsid with
  | none => none
  | some n =>
    let l := needs s n x
    let hit := fun (i : Nat) => (l.find? fun e => decide (e.2.2 = locOfMaddr d.band + d.slot + i)).map fun e => 16 * e.1 + e.2.1
    let us := (List.range d.count).filterMap hit
    if us.length = d.count then some us else none

/-- Units of the chunks that a command has staged and not yet handed to a write operation, chunk by chunk. -/
def chunkRuns (s : State) (x : Tag) : List Nat := x.keys.map fun k => (chunkAt s k).count

/-- Least total of whole chunks, from unit `from` of the command on, that reaches as far as `room` allows: no chunk straddles two
bands (R171). -/
def wholeUpTo (runs : List Nat) (skip room acc : Nat) : Nat :=
  match runs with
  | [] => acc
  | c :: rest => if c ≤ skip then wholeUpTo rest (skip - c) room acc
    else if acc + c ≤ room then wholeUpTo rest 0 room (acc + c) else acc

/-- Units of the command in a write operation of `count` slots: whole chunks; slots left over are pads, which stand only at the end
of a band whose remainder the next chunk does not fit (R171). None where the operation is cut otherwise. -/
def writeUnits (s : State) (x : Tag) (d : Desc) : Option Nat :=
  let u := wholeUpTo (chunkRuns s x) x.wunits d.count 0
  if u = d.count then some u
  else if u < (chunkRuns s x).sum - x.wunits && d.slot + d.count = dataSlots then some u
  else none

/-- A new operation of a command is queued on its actuator; the slice, where it is free, takes what runs next (R138, R139). -/
def newOp (s : State) (t : Nat) (n : Fin 8) (d : Desc) : State :=
  let x := tagAt s t
  let queue := fun (s : State) (units : Nat) =>
    assignNext (queueOp s { tag := t, first := x.wunits, units := units, tick := s.tick.toNat, d := d }) n
  if d.kind = 1 then
    match readUnits s x d with
    | none => s
    | some us =>
      let s := modTag s t fun y => { y with got := y.got ++ us }
      if bandAway s d.band then toReconstruction s t d else when (opAdmitted s d) s fun s => queue s 0
  else
    match writeUnits s x d with
    | none => s
    | some u => when (opAdmitted s d) s fun s => queue (modTag s t fun y => { y with wunits := y.wunits + u }) u

/-- MEDIA_OP_START. An operation of a command that waits starts where it is the one that the slice runs next; one whose spindle
is refused for the budget ends its command (R121). A new one reads the units that the command still needs, or writes units that the
command has staged, at the place that the zone tables give; one that names an invalid media address ends its command (R26). -/
def mediaOpStartOp (s : State) (t : Nat) (n : Fin 8) (d : Desc) : State :=
  let x := tagAt s t
  when (x.st = .active && !x.dead && !x.aborted && !s.cqu.stopped && s.cqu.psStep = 0) s fun s =>
    match s.cqu.waitOps.find? fun w => w.tag = t && w.d = d with
    | some w => if budgetRefused s d then endWith s t scBudget else when (nextOp s n = some (.cmd w)) s fun s => assignNext s n
    | none =>
      let c := descCheck s d 0
      if c = 1 then endWith s t scAddress
      else when ((c = 0 || c = 4) && descPlaced s d) s fun s =>
        if d.kind = 1 then newOp s t n d
        else if d.kind = 2 && isLbaWrite x.cmd.op && (x.cmd.op = .writeZeroes || dataIn x x.cmd.nlb) then
          stageWrite s t fun s => newOp s t n d
        else when (d.kind = 2 && x.keys ≠ []) s fun s => newOp s t n d

def execMediaOpStart (tag : Nat) (n : Fin 8) (d : Desc) (s : State) : Host.Outcome State Fault Refusal :=
  settled (mediaOpStartOp s tag n d)

/-! ### The end of a command's operation -/

/-- Chunks of a command whose last unit the operation has written: their entries point at the new units (R171, R180). -/
def placeWritten (s : State) (o : MediaOp) (keys : List Nat) (j : Nat) : State :=
  match keys with
  | [] => s
  | k :: rest =>
    let c := chunkAt s k
    let last := j + c.count - 1
    let s := if c.staged && c.count ≠ 0 && decide (o.first ≤ last) && decide (last < o.first + min o.units o.ok) then
        let s := { s with obj := { s.obj with durable := tset Chunk.absent s.obj.durable k Chunk.absent } }
        putChunk s k { c with tier := 0, loc := locOfMaddr o.d.band + o.d.slot + j - o.first, staged := false, dirty := true }
      else s
    placeWritten s o rest (j + c.count)

/-- MEDIA_OP_DONE: the command enters COMPLETING when all its work has ended. -/
def mediaOpDoneOp (s : State) (t : Nat) (n : Fin 8) : State :=
  match (s.slice n).op with
  | none => s
  | some o =>
    when (o.src = .tag t && o.ended && (s.slice n).bufs.isEmpty) s fun s =>
      let s := if o.d.kind = 2 then flushWindow s n else s
      let s := dropReader (finishOp s n 0) o.d
      let s := { s with cqu := { s.cqu with mops := s.cqu.mops - 1 } }
      let s := modTag s t fun x => { x with mops := x.mops - 1 }
      let s := if o.d.kind = 2 then placeWritten s o (tagAt s t).keys 0 else s
      let s := trimSlices (assignNext s n)
      let x := tagAt s t
      if x.mops ≠ 0 then s
      else if x.dead then settleRdy (locksChanged (freeTagNow s t)) x.port
      else if x.aborted then complete s t (x.sct, x.sc) 0
      else finishCommand s t

def execMediaOpDone (tag : Nat) (n : Fin 8) (s : State) : Host.Outcome State Fault Refusal := settled (mediaOpDoneOp s tag n)

/-! ### Posted descriptors (R473–R476) -/

/-- The oldest posted descriptor of the actuator that a slice with ASSIGNSRC 1 is connected to. -/
def queueHead (s : State) (n : Fin 8) : Option Nat :=
  if (s.slice n).valid then (s.queues[(s.slice n).act.val]?).bind List.head? else none

def popQueue (s : State) (q : Nat) : State := { s with queues := vmod s.queues (Fin.ofNat 17 q) fun l => l.drop 1 }

/-- The check of a descriptor as its slice makes it (R474): an actuator's queue holds descriptors of that actuator alone. -/
def slotCheck (s : State) (n : Fin 8) (q : Nat) (d : Desc) : Nat :=
  let c := check17 s n d
  if c = 5 || c = 1 || c = 2 then c else if d.act ≠ q then 3 else c

/-- A descriptor that fails its checks: CTL with DONE and OPRES, and OPDONE; no status entry. -/
def refuseDesc (s : State) (n : Fin 8) (a opres : Nat) : State := chdIrq (writeCtl s (masterChd n) a opres) n 1

/-- A descriptor of an actuator's queue waits for its slice: DIR does not match KIND (R473); a write below it in its band waits
(R140); a read finds the band-reader table full (R182). -/
def descWaits (s : State) (n : Fin 8) (d : Desc) : Bool :=
  (d.kind = 1 && ((s.slice n).dir || decide (1024 ≤ s.obj.readers.length))) || (d.kind = 2 && (!(s.slice n).dir || !inBandOrder s d))

/-- A slice may start a posted descriptor: present, CTL.EN 1, idle, no connection pending (R213), no entry to PS3 under way (R149),
not past step 3 of the power-fail sequence (R627). -/
def sliceServes (s : State) (n : Fin 8) : Bool :=
  slicePresent s n && rbit s (Reg.chdCtl n) 0 && sliceIdle s n && (s.slice n).pend.isNone && s.cqu.psStep = 0 && !s.pf.step3

/-- A slice with ASSIGNSRC 1 serves the queue of its actuator. -/
def serveActuator (s : State) (n : Fin 8) : State :=
  match queueHead s n with
  | none => s
  | some a =>
    let q := (s.slice n).act.val
    match busRead s (masterChd n) a 64 none with
    | (none, s) => refuseDesc (popQueue s q) n a 5
    | (some _, s) =>
      let d := descAt s.mem a
      let c := slotCheck s n q d
      if descWaits s n d then s
      else if c ≠ 0 then refuseDesc (popQueue s q) n a c
      else startOp (addReader (popQueue s q) d) n (.queue q a) d

/-- DESCRIPTOR_START: of the actuator's queue where ASSIGNSRC is 1, else of queue 17, where a descriptor is what the slice runs next
(R139, R473). -/
def descriptorStartOp (s : State) (n : Fin 8) : State :=
  when (sliceServes s n) s fun s =>
    if rbit s (Reg.chdCtl n) 1 then serveActuator s n
    else
      match nextOp s n with
      | some (.desc _ _ _) => assignNext s n
      | _ => s

def execDescriptorStart (n : Fin 8) (s : State) : Host.Outcome State Fault Refusal := settled (descriptorStartOp s n)

/-- REPLAY (R271): the first free slice takes the head of queue 16; it needs no actuator. The PMU ungates the slice (R54). A per-slot entry that is not as a
replay requires is FORMAT (R475). -/
def replayOp (s : State) (n : Fin 8) : State :=
  match (vget s.queues 16).head? with
  | none => s
  | some a =>
    when (sliceServes s n) s fun s =>
      let s := rbitSet (popQueue s 16) Reg.pmuGate n false
      match busRead s (masterChd n) a 64 none with
      | (none, s) => refuseDesc s n a 5
      | (some _, s) =>
        let d := descAt s.mem a
        let bad := (List.range d.count).any fun i =>
          let e := slotEntry s.mem d.aux i
          decide (e.rmode ≠ 0) || !e.sampv
        let c := descCheck s d 0
        if d.kind ≠ 3 then refuseDesc s n a 5
        else if c ≠ 0 then refuseDesc s n a c
        else if bad then refuseDesc s n a 5
        else
          let o := MediaOp.start (.queue 16 a) d
          let s := modSlice s n fun x => { x with op := some o }
          if targetZero s n then refuseTarget s n o else replayUnit s n o

def execReplay (n : Fin 8) (s : State) : Host.Outcome State Fault Refusal := settled (replayOp s n)

/-- DESCRIPTOR_DONE (R476): the status entries are written; CTL and OPDONE follow. -/
def descriptorDoneOp (s : State) (n : Fin 8) : State :=
  match (s.slice n).op with
  | none => s
  | some o =>
    match o.src with
    | .tag _ => s
    | .queue q _ =>
      when (o.ended && (s.slice n).bufs.isEmpty) s fun s =>
        let s := if o.d.kind = 2 then flushWindow s n else s
        let s := dropReader (finishOp s n o.opres) o.d
        let s := if q = 17 then assignNext { s with cqu := { s.cqu with mops := s.cqu.mops - 1 } } n else s
        trimSlices s

def execDescriptorDone (n : Fin 8) (s : State) : Host.Outcome State Fault Refusal := settled (descriptorDoneOp s n)

/-! ### Locus (R178–R181, R185, R187) -/

/-- WSEQ_WRITE: a value below the present one is ignored. -/
def wseqWriteOp (s : State) (v : DWord) : State :=
  if v.toNat % 2 ^ 56 < rn s Reg.cdcWseq then s else rsetN s Reg.cdcWseq (v.toNat % 2 ^ 56)

def execWseqWrite (v : DWord) (s : State) : Host.Outcome State Fault Refusal := settled (wseqWriteOp s v)

def keySet (key : Nat) : Nat := locusSet (keyHandle key) (keyChunk key)

/-- A DIRTY entry is written back to its map page. -/
def writeBackEntry (s : State) (key : Nat) : State :=
  let c := chunkAt s key
  if c.dirty then putChunk s key { c with dirty := false } else s

/-- A way for a new entry: a free one of the set, else that of the least recently used entry, which is written back and leaves. -/
def locusWay (s : State) (set : Nat) : Nat × State :=
  let inSet := s.obj.cache.filter fun e => keySet e.1 = set
  match (List.range 16).find? fun w => !(inSet.any fun e => e.2 = w) with
  | some w => (w, s)
  | none =>
    match inSet.getLast? with
    | none => (0, s)
    | some (k, w) =>
      let s := writeBackEntry s k
      (w, { s with obj := { s.obj with cache := s.obj.cache.filter fun e => e.1 ≠ k } })

/-- LOCUS_LOOKUP (R178, R179): the answer is bits [63:0] of the entry, 0 where the chunk has no live version. -/
def locusLookupOp (s : State) (handle chunk : Nat) : State :=
  when (rbit s Reg.locCtl 0) s fun s =>
    let key := chunkKey handle chunk
    let c := chunkAt s key
    let answer := fun (s : State) => { s with resp := { data := BitVec.ofNat 64 (if c.count = 0 then 0 else locusEntry key c), err := false, busy := false } }
    match s.obj.cache.find? fun e => e.1 = key with
    | some e =>
      let s := rcount s Reg.locHits 1
      answer { s with obj := { s.obj with cache := e :: s.obj.cache.filter fun f => f.1 ≠ key } }
    | none =>
      let s := rcount s Reg.locMisses 1
      if c.count = 0 then answer s
      else
        let w := locusWay s (keySet key)
        let s := w.2
        answer { s with obj := { s.obj with cache := (key, w.1) :: s.obj.cache } }

def execLocusLookup (handle chunk : Nat) (s : State) : Host.Outcome State Fault Refusal := settled (locusLookupOp s handle chunk)

/-- RELOCATION_UPDATE (R181): only where LOC and GENLO are unchanged; else dropped and counted. -/
def relocationUpdateOp (s : State) (handle chunk oldLoc oldGenlo newTier newLoc : Nat) : State :=
  let key := chunkKey handle chunk
  let c := chunkAt s key
  if c.count ≠ 0 && c.loc = oldLoc && decide (c.gen % 4096 = oldGenlo % 4096) then
    let s := { s with obj := { s.obj with durable := tset Chunk.absent s.obj.durable key Chunk.absent } }
    putChunk s key { c with tier := newTier % 2, loc := newLoc % 2 ^ 40, staged := false, dirty := true }
  else rcount s Reg.locCasfail 1

def execRelocationUpdate (handle chunk oldLoc oldGenlo newTier newLoc : Nat) (s : State) : Host.Outcome State Fault Refusal :=
  settled (relocationUpdateOp s handle chunk oldLoc oldGenlo newTier newLoc)

/-- LOCUS_FLUSH: every DIRTY entry of the cache is written back (R187). -/
def locusFlushOp (s : State) : State := overList (s.obj.cache.map (·.1)) s writeBackEntry

def execLocusFlush (s : State) : Host.Outcome State Fault Refusal := settled (locusFlushOp s)

end Sys2Proof.Machine
end

