-- ==== Sys2Proof/Machine/Lattice.lean ====
section
/-! DEFINITION. The commands of Lattice (10): windows, sealing and closing of groups (R300–R306), reconstruction (R307), rebuild
(R308, R309), spindles out of and back in service (R310–R313), and migration (R315–R318). -/

namespace Sys2Proof.Machine

/-- WINDOW_FLUSH (R303). -/
def execWindowFlush (n : Fin 8) (s : State) : Host.Outcome State Fault Refusal := settled (flushWindow s n)

/-- A write of LAT.SEAL (R300, R320): the windows of the band are flushed, then the data member is sealed. -/
def latSealOp (s : State) (v : Word) : State :=
  let i := fld v.toNat 29 3
  let band := fld v.toNat 0 21
  match groupOf s i band with
  | none => s
  | some (g, j) =>
    when (isDataMember s g j && (groupAt s g).st = .open_) s fun s => sealMember (flushBand s (bandKey i band)) g j

def execLatSeal (v : Word) (s : State) : Host.Outcome State Fault Refusal := settled (latSealOp s v)

/-! ### Closing a group (R305, R311) -/

/-- A band enters the band-dirty log of its spindle; a log that would overflow is discarded (R311). -/
def logDirty (s : State) (i : Fin 8) (band : Nat) : State :=
  let l := vget s.lat.dirty i
  if mem8 s.lat.ovf i || l.contains band then s
  else if 65536 ≤ l.length then
    { s with lat := { s.lat with dirty := vset s.lat.dirty i [], ovf := setMem8 s.lat.ovf i true } }
  else { s with lat := { s.lat with dirty := vset s.lat.dirty i (l ++ [band]) } }

/-- Parity members whose band has not been written. -/
def parityToDo (s : State) (g : Nat) : List Nat := (parityMembers s g).filter fun j => !mem8 (groupAt s g).parDone j

/-- A CLOSING group becomes CLOSED once every parity band is written, and PENDING where those left are on spindles out of
service. -/
def settleClosing (s : State) (g : Nat) : State :=
  if (groupAt s g).st ≠ .closing then s
  else
    let todo := parityToDo s g
    if todo = [] then dropImages (modGroup s g fun x => { x with st := .closed }) g
    else if todo.all fun j => !serves s (memberOf s g j).1 then
      let s := overList todo s fun s j => logDirty s (Fin.ofNat 8 (memberOf s g j).1) (memberOf s g j).2
      modGroup s g fun x => { x with st := .pending }
    else s

/-- GROUP_CLOSE: every data member of an OPEN group is sealed. -/
def groupCloseOp (s : State) (g : Nat) : State :=
  when (latticeOn s && (groupAt s g).st = .open_ && (dataMembers s g).all fun j => mem8 (groupAt s g).sealed_ j) s fun s =>
    settleClosing (modGroup s g fun x => { x with st := .closing }) g

def execGroupClose (g : Nat) (s : State) : Host.Outcome State Fault Refusal := settled (groupCloseOp s g)

/-- Slots written from `q` on. -/
def writeFrom (s : State) (i band q : Nat) (infos : List (List Byte)) : State :=
  match infos with
  | [] => s
  | b :: rest => writeFrom (setMediaSlot s i band q b) i band (q + 1) rest

/-- A band written from its start (R248): its slots in order, its write pointer after them. -/
def writeBand (s : State) (i band : Nat) (infos : List (List Byte)) : State :=
  (busWriteNat (writeFrom s i band 0 infos) (masterChd 0) (wptrAddr s 0 i band) 4 infos.length).2

/-- The slots of a parity band as its image has them. -/
def imageSlots (s : State) (g j : Nat) : List (List Byte) :=
  (List.range bandSlots).map fun q => imageAt s g (roleOf s g j - s.conf.k) q

/-- A parity member's band is written and current. -/
def parityWritten (s : State) (g j : Nat) : State :=
  modGroup s g fun x => { x with parDone := setMem8 x.parDone j true, stale := setMem8 x.stale j false }

/-- PARITY_BAND_DONE: the band of parity member `j` has ended with every slot OK. -/
def parityBandDoneOp (s : State) (g j : Nat) : State :=
  let m := memberOf s g j
  when (latticeOn s && (groupAt s g).st = .closing && (groupAt s g).imgOk && (parityToDo s g).contains j && serves s m.1) s fun s =>
    settleClosing (parityWritten (writeBand s m.1 m.2 (imageSlots s g j)) g j) g

def execParityBandDone (g j : Nat) (s : State) : Host.Outcome State Fault Refusal := settled (parityBandDoneOp s g j)

/-! ### Lost images (R306) -/

/-- Bytes of every data member at a slot; none where one is lost. -/
def dataBytes (s : State) (g q : Nat) : Option (List (Nat × List Byte)) :=
  (dataMembers s g).foldl (fun acc j =>
    match acc, memberBytes s [] g j q with
    | some l, some b => some ((roleOf s g j, b) :: l)
    | _, _ => none) (some [])

/-- P (part 0) or Q (part 1) of R297. -/
def parityOf (part : Nat) (l : List (Nat × List Byte)) : List Byte :=
  l.foldl (fun acc e => xorBytes acc (gfScale (gfPow (part * e.1)) e.2)) (zeros 4128)

def setImage (s : State) (g part q : Nat) (bs : List Byte) : State :=
  { s with lat := { s.lat with images := tset [] s.lat.images (imgKey g part q) bs } }

/-- Most leading slots that any data member counts. -/
def maxFill (s : State) (g : Nat) : Nat :=
  (dataMembers s g).foldl (fun m j => max m (vget (groupAt s g).fill (Fin.ofNat 8 j))) 0

/-- The images of a group rebuilt from its data members; false where a slot cannot be read. -/
def rebuildImages (s : State) (g : Nat) : Bool × State :=
  let slots := (List.range (maxFill s g)).map fun q => (q, dataBytes s g q)
  if slots.any fun e => e.2.isNone then (false, s)
  else
    (true, overList slots (dropImages s g) fun s e =>
      overList (List.range s.conf.m) s fun s part => setImage s g part e.1 (parityOf part (e.2.getD [])))

/-- IMGLOST: the images of a group are rebuilt; until that succeeds the group has none. -/
def imglostOp (s : State) (g : Nat) : State :=
  let st := (groupAt s g).st
  when (latticeOn s && (st = .open_ || st = .closing || st = .pending)) s fun s =>
    let r := rebuildImages (raise1 s .lat 1) g
    modGroup r.2 g fun x => { x with imgOk := r.1 }

def execImglost (g : Nat) (s : State) : Host.Outcome State Fault Refusal := settled (imglostOp s g)

/-! ### Reconstruction (R307) -/

/-- Slots that reconstruction gave, and slots that it failed on, counted (R320). -/
def countRecon (s : State) (ok failed : Nat) : State :=
  let s := rcount s Reg.latRecon ok
  if failed = 0 then s else rbitSet (rcount s Reg.latReconfail failed) Reg.latIrqstat 2 true

/-- RECONSTRUCT: a slot of the member on a spindle, the sources in `failed` (member numbers) having failed too. -/
def reconstructOp (s : State) (i : Fin 8) (band slot : Nat) (failed : List Nat) : State :=
  match groupOf s i band with
  | none => s
  | some (g, j) =>
    let st := (groupAt s g).st
    when (latticeOn s && decide (slot < bandSlots) && st ≠ .free && st ≠ .reserved) s fun s =>
      match reconstructSlot s failed g j slot with
      | some b => countRecon { s with lat := { s.lat with out := b } } 1 0
      | none => countRecon s 0 1

def execReconstruct (i : Fin 8) (band slot : Nat) (failed : List Nat) (s : State) : Host.Outcome State Fault Refusal :=
  settled (reconstructOp s i band slot failed)

/-! ### Rebuild (R308, R309) -/

/-- The member of a group on a spindle. -/
def memberOn (s : State) (g : Nat) (i : Fin 8) : Option Nat := (members s).find? fun j => (memberOf s g j).1 = i.val

/-- Bands of a spindle that a rebuild takes: in place, those marked stale but for FREE and RESERVED groups; by relocation, those
with a live version. -/
def rebuildBands (s : State) (i : Fin 8) (inPlace : Bool) : List Nat :=
  if inPlace then
    s.lat.groups.filterMap fun e =>
      match memberOn s e.1 i with
      | some j => if mem8 e.2.stale j && e.2.st ≠ .free && e.2.st ≠ .reserved then some (memberOf s e.1 j).2 else none
      | none => none
  else
    s.obj.chunks.filterMap fun e =>
      if e.2.count ≠ 0 && !e.2.staged && e.2.tier = 0 && maddrSpindle (maddrOfLoc e.2.loc) = i.val then some (maddrBand (maddrOfLoc e.2.loc))
      else none

/-- The least number of a list that is not below `lo`. -/
def leastFrom (lo : Nat) (l : List Nat) : Option Nat :=
  l.foldl (fun m b => if b < lo then m else match m with | none => some b | some x => some (min x b)) none

def setRb (s : State) (r : Option Rebuild) : State := { s with lat := { s.lat with rb := r } }

/-- The group of a band under rebuild: CLOSED becomes REBUILD. -/
def claimBand (s : State) (i : Fin 8) (inPlace : Bool) (band : Nat) : State :=
  let s := setRb s (some { spindle := i, inPlace := inPlace, band := band, paused := false })
  match groupOf s i band with
  | none => s
  | some (g, _) => if inPlace && (groupAt s g).st = .closed then modGroup s g fun x => { x with st := .rebuild } else s

def setSvc (s : State) (i : Fin 8) (v : SpinService) : State := { s with lat := { s.lat with svc := vset s.lat.svc i v } }

/-- Event 0x7 / 0x01 (R116). -/
def serviceEvent (s : State) : State := postBoth s { ty := 7, info := 1, log := 0xC1 }

/-- A rejoining spindle with no stale band left is in service (R312). -/
def rejoined (s : State) (i : Fin 8) : State :=
  if svcOf s i = .rejoin && (rebuildBands s i true).isEmpty then serviceEvent (setSvc s i .inService) else s

/-- A rebuild goes on from a band, or ends where there is none. -/
def rebuildFrom (s : State) (i : Fin 8) (inPlace : Bool) (lo : Nat) : State :=
  match leastFrom lo (rebuildBands s i inPlace) with
  | some b => claimBand s i inPlace b
  | none => let s := setRb s none; if inPlace then rejoined s i else s

/-- Another spindle that rejoins takes its turn (R308: one rebuild at a time). -/
def nextRejoin (s : State) (last : Fin 8) : State :=
  match s.lat.rb, fin8.find? fun i => i ≠ last && svcOf s i = .rejoin && !(rebuildBands s i true).isEmpty with
  | none, some i => rebuildFrom s i true 0
  | _, _ => s

/-- A rebuild stops at its band; a group in REBUILD becomes PENDING, without images. -/
def stopRebuild (s : State) : State :=
  match s.lat.rb with
  | none => s
  | some r =>
    let s := setRb s (some { r with paused := true })
    match groupOf s r.spindle r.band with
    | none => s
    | some (g, _) =>
      if (groupAt s g).st = .rebuild then modGroup s g fun x => { x with st := .pending, imgOk := false } else s

/-- A rebuild may start: in place on a spindle that has returned, by relocation on one out of service. -/
def canRebuild (s : State) (i : Fin 8) (inPlace : Bool) : Bool :=
  latticeOn s && (if inPlace then svcOf s i = .inService || svcOf s i = .rejoin else svcOf s i = .outOfService)

/-- START of RBCTL: one rebuild at a time; one that has stopped resumes from its band. -/
def startRebuild (s : State) (i : Fin 8) (inPlace : Bool) : State :=
  if !canRebuild s i inPlace then s
  else
    match s.lat.rb with
    | none => rebuildFrom s i inPlace 0
    | some r =>
      if !r.paused then s
      else rebuildFrom s i inPlace (if r.spindle = i && r.inPlace = inPlace then r.band else 0)

/-- A write of RBCTL (R320). -/
def rbctlWrite (s : State) (v : Word) : State :=
  let s := fieldWrite32 s Reg.latRbctl v
  let s := if v.toNat.testBit 30 then stopRebuild s else s
  if v.toNat.testBit 31 then startRebuild s (Fin.ofNat 8 (fld v.toNat 8 3)) (v.toNat.testBit 0) else s

def execRebuildStart (v : Word) (s : State) : Host.Outcome State Fault Refusal := settled (rbctlWrite s (v ||| 0x8000_0000))

/-- REBUILD_STOP: STOP written, the other fields as they stand. -/
def rebuildStopOp (s : State) : State := rbctlWrite s (BitVec.ofNat 32 (rn s Reg.latRbctl + 2 ^ 30))

def execRebuildStop (s : State) : Host.Outcome State Fault Refusal := settled (rebuildStopOp s)

/-- The outer code holds over a band's slots for a group of R196 (R272). -/
def outerOk (infos : List (List Byte)) (g : Nat) : Bool :=
  let rows := (List.range 64).filterMap fun r => (outerSlot g r).map fun q => (r, infos.getD q [])
  let s0 := rows.foldl (fun a e => xorBytes a e.2) (zeros 4128)
  let s1 := rows.foldl (fun a e => xorBytes a (gfScale (gfPow (63 - e.1)) e.2)) (zeros 4128)
  s0 = zeros 4128 && s1 = zeros 4128

/-- A reconstructed slot passes what R308 asks: TCRC and DCRC for a data slot, the outer code otherwise. -/
def slotPasses (data : Bool) (infos : List (List Byte)) (q : Nat) (b : List Byte) : Bool :=
  if data && decide (q < dataSlots) then tcrcOk b && dcrcOk b else outerOk infos (outerGroup q)

/-- The slots of a member reconstructed: slots 0 to FILL − 1 of a data member, every slot of a parity member. -/
def rebuiltSlots (s : State) (g j : Nat) : List (Option (List Byte)) :=
  let n := if isDataMember s g j then vget (groupAt s g).fill (Fin.ofNat 8 j) else bandSlots
  let l := (List.range n).map fun q => reconstructSlot s [] g j q
  let infos := l.map fun b => b.getD []
  (List.range n).map fun q => (l.getD q none).filter fun b => slotPasses (isDataMember s g j) infos q b

/-- A member's band is current (R308, R313); a group with every parity band written is CLOSED. -/
def bandCurrent (s : State) (g j : Nat) : State :=
  let s := if isDataMember s g j then modGroup s g fun x => { x with stale := setMem8 x.stale j false } else parityWritten s g j
  let st := (groupAt s g).st
  if (st = .rebuild || st = .pending) && parityToDo s g = [] then dropImages (modGroup s g fun x => { x with st := .closed }) g else s

/-- Units of a band that reconstruction has failed on go to step 8 with CAUSE 0x04, but where a spindle is out of service. -/
def failedSlots (s : State) (i band : Nat) (slots : List Nat) : State :=
  let s := countRecon s 0 slots.length
  if (spindleList s).all fun k => k = i || serves s k then
    overList (slots.filter fun q => q < dataSlots) s fun s q => declareUnrec s (maddrOf i band q) 4
  else s

/-- The band of a member rebuilt in place; false where it could not be. -/
def rebuildMember (s : State) (g j : Nat) : Bool × State :=
  let m := memberOf s g j
  let x := groupAt s g
  if !isDataMember s g j && (x.st = .open_ || x.st = .closing) then
    (true, modGroup s g fun x => { x with stale := setMem8 x.stale j false })
  else if fromImage s g j then (true, bandCurrent (writeBand s m.1 m.2 (imageSlots s g j)) g j)
  else
    let l := rebuiltSlots s g j
    let bad := (List.range l.length).filter fun q => (l.getD q none).isNone
    if bad = [] then (true, bandCurrent (writeBand (countRecon s l.length 0) m.1 m.2 (l.map fun b => b.getD [])) g j)
    else (false, failedSlots s m.1 m.2 bad)

/-- The slots of a version that lies on a band. -/
def versionSlots (c : Chunk) : List Nat := (List.range c.count).map fun u => maddrUnit (maddrOfLoc c.loc) + u

/-- A live version on a band of a spindle out of service: reconstructed and relocated, or given up (R309). -/
def relocateLost (s : State) (i band g j key : Nat) : State :=
  let slots := versionSlots (chunkAt s key)
  let bad := slots.filter fun q => !((reconstructSlot s [] g j q).any fun b => tcrcOk b && dcrcOk b)
  if bad = [] then relocateToBuffer (countRecon s slots.length 0) key
  else overList bad (countRecon s 0 bad.length) fun s q => declareUnrec s (maddrOf i band q) 4

/-- A band counted as rebuilt. -/
def bandRebuilt (s : State) (i : Fin 8) : State :=
  let s := rbitSet (rcount s Reg.latRbdone 1) Reg.latIrqstat 0 true
  { s with lat := { s.lat with rebuilt := vmod s.lat.rebuilt i fun n => n + 1 } }

/-- REBUILD_BAND_DONE: the band under rebuild is done, and the next one is taken. A rebuild in place waits for the band's readers
(R248), one by relocation for room in the dirty set (R62). -/
def rebuildBandDoneOp (s : State) : State :=
  match s.lat.rb with
  | none => s
  | some r =>
    if r.paused then s
    else
      match groupOf s r.spindle r.band with
      | none => s
      | some (g, j) =>
        if r.inPlace then
          when (!s.obj.readers.contains (r.spindle.val, r.band)) s fun s =>
            let m := rebuildMember s g j
            let s := if m.1 then bandRebuilt m.2 r.spindle
              else modGroup m.2 g fun x => if x.st = .rebuild then { x with st := .pending, imgOk := false } else x
            nextRejoin (rebuildFrom s r.spindle true (r.band + 1)) r.spindle
        else
          let keys := chunksInBand s r.spindle r.band
          when (dirtyFits s ((keys.map fun k => 4128 * (chunkAt s k).count).sum)) s fun s =>
            let s := overList keys s fun s k => relocateLost s r.spindle r.band g j k
            let s := bandRebuilt (releaseBand s r.spindle r.band) r.spindle
            nextRejoin (rebuildFrom s r.spindle false (r.band + 1)) r.spindle

def execRebuildBandDone (s : State) : Host.Outcome State Fault Refusal := settled (rebuildBandDoneOp s)

/-- BAND_RELEASE (R314): a band with no live version is returned. -/
def bandReleaseOp (s : State) (i : Fin 8) (band : Nat) : State :=
  when ((chunksInBand s i band).isEmpty) s fun s => releaseBand s i band

def execBandRelease (i : Fin 8) (band : Nat) (s : State) : Host.Outcome State Fault Refusal := settled (bandReleaseOp s i band)

/-- A write of LAT.RESV (R300, R320). -/
def latResvOp (s : State) (v : Word) : State :=
  let g := fld v.toNat 0 24
  if groupCount s ≤ g then s
  else
    match (groupAt s g).st, v.toNat.testBit 31 with
    | .free, true => modGroup s g fun _ => { Group.free with st := .reserved }
    | .reserved, false => modGroup s g fun _ => Group.free
    | _, _ => s

def execLatResv (v : Word) (s : State) : Host.Outcome State Fault Refusal := settled (latResvOp s v)

/-! ### Spindle service (R310–R312) -/

/-- A command of Spindle Service, or firmware where the tag is none of the 4,096. -/
def serviceReady (s : State) (t : Nat) : Bool := decide (4096 ≤ t) || readyAdmin s t .adminOther
def answerTag (s : State) (t : Nat) (r : Nat × Nat) : State := if 4096 ≤ t then s else complete s t r 0

/-- Media operations of a spindle in flight end; those queued pass to reconstruction, and units of queued writes wait for another
place. -/
def endSpindleOps (s : State) (i : Fin 8) : State :=
  let s := overList fin8 s fun s n =>
    match (s.slice n).op with
    | some o => if o.d.act / 2 = i.val then cutWrite (notRead s n) n else s
    | none => s
  let away := s.cqu.waitOps.filter fun w => w.d.act / 2 = i.val
  let s := dropWaits s fun w => w.d.act / 2 = i.val
  overList away s fun s w =>
    if w.d.kind = 1 then toReconstruction s w.tag w.d
    else modTag s w.tag fun x => { x with wunits := min x.wunits w.first }

/-- The data members of OPEN groups on a spindle are sealed, and CLOSING groups go on without it. -/
def sealSpindle (s : State) (i : Fin 8) : State :=
  overList s.lat.groups s fun s e =>
    match memberOn s e.1 i with
    | none => s
    | some j =>
      if (groupAt s e.1).st = .open_ && isDataMember s e.1 j then
        sealMember (flushBand s (bandKey i (memberOf s e.1 j).2)) e.1 j
      else settleClosing s e.1

/-- A spindle is among the sources of the band under rebuild. -/
def rebuildUses (s : State) (r : Rebuild) (i : Fin 8) : Bool :=
  r.spindle = i ||
    match groupOf s r.spindle r.band with
    | none => false
    | some (g, j) => (sources s [] g j 0).any fun k => (memberOf s g k).1 = i.val

/-- A spindle goes out of service (R310). -/
def takeOut (s : State) (i : Fin 8) : State :=
  let s := match s.lat.rb with
    | some r => if !r.paused && (r.inPlace || r.spindle ≠ i) && rebuildUses s r i then stopRebuild s else s
    | none => s
  let s := endSpindleOps s i
  let s := sealSpindle (setSvc s i .outOfService) i
  let s := if turning s i then spnStopOp s i true else s
  smartEvent (serviceEvent s) 2 0

/-- Spindles out of service. -/
def outCount (s : State) : Nat := (fin8.filter fun (i : Fin 8) => decide (svcOf s i = .outOfService)).length

/-- SPINDLE_OUT_OF_SERVICE. -/
def spindleOutOfServiceOp (s : State) (t : Nat) (i : Fin 8) (force : Bool) : State :=
  when (serviceReady s t) s fun s =>
    match svcOf s i with
    | .absent => answerTag s t scAddress
    | .outOfService => answerTag s t scOk
    | .inService | .rejoin =>
      if t < 4096 && !force && s.conf.m < outCount s + 1 then answerTag s t scOutOfService
      else answerTag (takeOut s i) t scOk

def execSpindleOutOfService (tag : Nat) (i : Fin 8) (force : Bool) (s : State) : Host.Outcome State Fault Refusal :=
  settled (spindleOutOfServiceOp s tag i force)

/-- The band of the member on a spindle is marked stale. -/
def markStale (s : State) (g : Nat) (i : Fin 8) : State :=
  match memberOn s g i with
  | none => s
  | some j =>
    modGroup s g fun x =>
      { x with stale := setMem8 x.stale j true
               parDone := if x.st = .closing || x.st = .pending then setMem8 x.parDone j false else x.parDone }

/-- Bands marked stale at a return: all of the groups that are not FREE, or those of the band-dirty log (R312). -/
def markReturn (s : State) (i : Fin 8) (all : Bool) : State :=
  let gs := if all then (s.lat.groups.filter fun e => e.2.st ≠ .free).map (·.1)
    else (vget s.lat.dirty i).filterMap fun b => (groupOf s i b).map (·.1)
  let s := overList gs s fun s g => markStale s g i
  { s with lat := { s.lat with dirty := vset s.lat.dirty i [], ovf := setMem8 s.lat.ovf i false } }

/-- Rejoin (R312): the spindle is started, stale bands are marked, and the rebuild in place begins or resumes. -/
def rejoin (s : State) (i : Fin 8) (all : Bool) : State :=
  let s := if (s.spn i).st = .stopped || (s.spn i).st = .brake then spnStartOp s i else s
  let s := setSvc (markReturn s i (all || mem8 s.lat.ovf i)) i .rejoin
  if (rebuildBands s i true).isEmpty then rejoined s i else startRebuild s i true

/-- The Origin bands of a spindle name this brick and the spindle (R176, R312). -/
def originNames (s : State) (i : Fin 8) : Bool :=
  (s.fmt.surfaces.filter fun u => u.spindle = i.val).all fun u =>
    match (originCopies s u 0).head? with
    | some h => decide ((h.drop 0x18).take 16 = brickId) && h.getD 0x28 0 = BitVec.ofNat 8 i.val
    | none => false

/-- SPINDLE_RETURN. `originOk`: the spindle in the place is the one that the brick was formatted with; its Origin bands are read too. -/
def spindleReturnOp (s : State) (t : Nat) (i : Fin 8) (originOk : Bool) : State :=
  when (readyAdmin s t .adminOther) s fun s =>
    if svcOf s i = .outOfService then complete (rejoin s i !(originOk && originNames s i)) t scOk 0
    else complete s t (if svcOf s i = .absent then scAddress else scSequence) 0

def execSpindleReturn (tag : Nat) (i : Fin 8) (originOk : Bool) (s : State) : Host.Outcome State Fault Refusal :=
  settled (spindleReturnOp s tag i originOk)

/-- Other media in a spindle's place. -/
def freshMedia (s : State) (i : Fin 8) : State :=
  { s with media := s.media.filter fun e => e.1 / 2 ^ 41 ≠ i.val
           bands := s.bands.filter fun e => e.1 / 2 ^ 21 ≠ i.val }

/-- SPINDLE_REPLACE. -/
def spindleReplaceOp (s : State) (t : Nat) (i : Fin 8) : State :=
  when (readyAdmin s t .adminOther) s fun s =>
    if svcOf s i = .outOfService then complete (rejoin (freshMedia s i) i true) t scOk 0
    else complete s t (if svcOf s i = .absent then scAddress else scSequence) 0

def execSpindleReplace (tag : Nat) (i : Fin 8) (s : State) : Host.Outcome State Fault Refusal := settled (spindleReplaceOp s tag i)

/-! ### Migration (R315–R318) -/

def modMig (s : State) (f : Migration → Migration) : State := { s with lat := { s.lat with mig := f s.lat.mig } }

/-- Media positions of the live versions on a spindle. -/
def diskPlaces (s : State) (i : Fin 8) : List Nat :=
  s.obj.chunks.filterMap fun e =>
    if e.2.count ≠ 0 && !e.2.staged && e.2.tier = 0 && maddrSpindle (maddrOfLoc e.2.loc) = i.val then some (e.2.loc % 2 ^ 37) else none

/-- Event 0x7 / 0x02: migration has ended. -/
def migrationEvent (s : State) : State := postBoth (rbitSet s Reg.latIrqstat 1 true) { ty := 7, info := 2, log := 0xC1 }

/-! Verification of a slot (R318) -/

/-- The parity part that a group holds at a slot, on media or in its image. -/
def heldParity (s : State) (g part q : Nat) : Option (List Byte) := memberBytes s [] g (memberOfRole s g (s.conf.k + part)) q

/-- A data member corrected: its version is relocated and its band is to be refreshed. -/
def correctData (s : State) (g a q : Nat) (sp : List Byte) : Bool × State :=
  let m := memberOf s g (memberOfRole s g a)
  match memberBytes s [] g (memberOfRole s g a) q with
  | none => (false, s)
  | some b =>
    let good := xorBytes b sp
    if q < dataSlots && tcrcOk good && dcrcOk good then
      let maddr := maddrOf m.1 m.2 q
      let s := match ownerOf s maddr with
        | some key => relocateToBuffer s key
        | none => s
      (true, markRefresh s (bandKey m.1 m.2) 0)
    else (false, s)

/-- A parity member that disagrees is rewritten: its image where the group has one, else its band under R308. -/
def correctParity (s : State) (g part q : Nat) (good : List Byte) : State :=
  let j := memberOfRole s g (s.conf.k + part)
  if fromImage s g j then setImage s g part q good else (rebuildMember s g j).2

/-- A mismatch that nothing resolves. -/
def countMismatch (s : State) (i : Fin 8) (g : Nat) : State :=
  let s := rbitSet (rcount s Reg.latVerifyerr 1) Reg.latIrqstat 3 true
  let s := { s with lat := { s.lat with vErr := vmod s.lat.vErr i fun n => n + 1 } }
  modMig s fun m => { m with lastBad := some g }

/-- One slot of a group verified by its syndromes. -/
def verifySlot (s : State) (i : Fin 8) (g q : Nat) : State :=
  match dataBytes s g q, heldParity s g 0 q with
  | some l, some p =>
    let p' := parityOf 0 l
    let q' := parityOf 1 l
    let sp := xorBytes p p'
    let zero := zeros 4128
    if s.conf.m < 2 then (if sp = zero then s else countMismatch s i g)
    else
      match heldParity s g 1 q with
      | none => s
      | some hq =>
        let sq := xorBytes hq q'
        if sp = zero && sq = zero then s
        else if sq = zero then correctParity s g 0 q p'
        else if sp = zero then correctParity s g 1 q q'
        else
          match (List.range s.conf.k).find? fun a => gfScale (gfPow a) sp = sq with
          | none => countMismatch s i g
          | some a =>
            let r := correctData s g a q sp
            if r.1 then r.2 else countMismatch s i g
  | _, _ => s

/-- Units of a band that a migration read finds failed: recorded with a bad TCRC, or not recorded below FILL. -/
def unreadSlots (s : State) (sp bd : Nat) : List Nat :=
  let listed := (s.media.filterMap fun e => (placeBand s e.1).bind fun q => if q.1 = sp && q.2.1 = bd then some q.2.2 else none)
  let due := match groupOf s sp bd with
    | some (g, j) => if latticeOn s && isDataMember s g j then List.range (min dataSlots (vget (groupAt s g).fill (Fin.ofNat 8 j))) else []
    | none => []
  ((listed ++ due).eraseDups).filter fun q => decide (q < dataSlots) && !(mediaSlot s sp bd q).any tcrcOk

/-- A band that a migration reads: units that fail go through the ladder, and with the band of its first member each slot of the group is
verified (R48, R318). -/
def readBand (s : State) (i : Fin 8) (g j : Nat) : State :=
  let m := memberOf s g j
  let s := if isDataMember s g j && serves s m.1 && !mem8 (groupAt s g).stale j then
      overList (unreadSlots s m.1 m.2) s fun s q => enterLadder s (maddrOf m.1 m.2 q) 1 2 none none
    else s
  if j = 0 && latticeOn s then overList (List.range bandSlots) s fun s q => verifySlot s i g q else s

/-- The bands of a spindle from `lo` to before `hi` whose groups have been written: group and member. -/
def bandsBetween (s : State) (i : Fin 8) (lo hi : Nat) : List (Nat × Nat) :=
  s.lat.groups.filterMap fun e =>
    match memberOn s e.1 i with
    | some j => if decide (lo ≤ (memberOf s e.1 j).2) && decide ((memberOf s e.1 j).2 < hi) && e.2.st ≠ .free then some (e.1, j) else none
    | none => none

/-- Migration has read a spindle up to a band. -/
def readUpTo (s : State) (i : Fin 8) (band : Nat) : State :=
  let lo := vget s.lat.mig.seen i
  let s := overList (bandsBetween s i lo band) s fun s e => readBand s i e.1 e.2
  modMig s fun m => { m with seen := vset m.seen i (max lo band) }

/-- Spindles with no further version have finished, their last bands read; the event follows when every spindle has. -/
def migrationProgress (s : State) : State :=
  let s := overList (fin8.filter fun (i : Fin 8) => (leastFrom (vget s.lat.mig.next i) (diskPlaces s i)).isNone && spindlePresent s i) s
    fun s i => readUpTo s i (2 ^ 21)
  let fin := fin8.foldl (fun m (i : Fin 8) => setMem8 m i ((leastFrom (vget s.lat.mig.next i) (diskPlaces s i)).isNone && spindlePresent s i)) (0 : BitVec 8)
  let done := fun (m : BitVec 8) => (spindleList s).all fun i => mem8 m i
  let before := s.lat.mig.finished
  let s := modMig s fun m => { m with finished := fin }
  if done fin && !done before then migrationEvent s else s

/-- The ring of R315. -/
def ringOk (ringAddr ringSize : Nat) : Bool :=
  decide (ringAddr % 4096 = 0) && decide (ringSize % 2 ^ 21 = 0) && decide (2 ^ 26 ≤ ringSize) && decide (ringSize ≤ 2 ^ 36)

def migrationStartOp (s : State) (t ringAddr ringSize prodAddr : Nat) : State :=
  when (readyAdmin s t .adminOther) s fun s =>
    if !ringOk ringAddr ringSize then complete s t scField 0
    else if s.lat.mig.active then complete s t scSequence 0
    else
      let s := modMig s fun _ =>
        { Migration.reset with active := true, ringAddr := ringAddr, ringSize := ringSize, prodAddr := prodAddr }
      complete (migrationProgress s) t scOk 0

def execMigrationStart (tag ringAddr ringSize prodAddr : Nat) (s : State) : Host.Outcome State Fault Refusal :=
  settled (migrationStartOp s tag ringAddr ringSize prodAddr)

def migrationStopOp (s : State) (t : Nat) : State :=
  when (readyAdmin s t .adminOther) s fun s =>
    if s.lat.mig.active then complete (migrationEvent (modMig s fun m => { m with active := false })) t scOk 0
    else complete s t scSequence 0

def execMigrationStop (tag : Nat) (s : State) : Host.Outcome State Fault Refusal := settled (migrationStopOp s tag)

/-- Advance: the consumer offset lies between the one before and the producer offset. -/
def migrationAdvanceOp (s : State) (t cons : Nat) : State :=
  when (readyAdmin s t .adminOther) s fun s =>
    let m := s.lat.mig
    if !m.active then complete s t scSequence 0
    else if cons < m.cons || m.prod < cons then complete s t scField 0
    else complete (modMig s fun m => { m with cons := cons }) t scOk 0

def execMigrationAdvance (tag cons : Nat) (s : State) : Host.Outcome State Fault Refusal := settled (migrationAdvanceOp s tag cons)

/-- Header and data of a record (R317). -/
def ringRecord (n : Ns) (key : Nat) (c : Chunk) : List Byte :=
  let kv := match n.objs.find? fun o => o.handle = keyHandle key with | some o => o.key | none => []
  let data := if c.poison then [] else c.data
  let body := data ++ zeros ((64 - data.length % 64) % 64)
  toBytes 4 (64 + body.length) ++ toBytes 4 n.nsid ++ toBytes 1 kv.length ++ toBytes 1 (bit01 c.poison) ++ zeros 6
    ++ kv ++ zeros (16 - kv.length) ++ toBytes 8 (keyChunk key) ++ toBytes 4 c.clen ++ toBytes 4 c.gen ++ toBytes 8 c.wseq
    ++ zeros 8 ++ body

/-- Bytes put into the ring from an offset on, around its end. -/
def putRing (m : Memory) (base size off : Nat) (bs : List Byte) : Memory :=
  match bs with
  | [] => m
  | b :: rest => putRing (hostWriteBytes m (base + off % size) [b]) base size (off + 1) rest

/-- The version whose turn it is on a spindle: the next in media order, or one that lies on no spindle. -/
def migrationTurn (s : State) (i : Fin 8) (c : Chunk) : Bool :=
  c.count ≠ 0 &&
    (c.staged || c.tier ≠ 0 || leastFrom (vget s.lat.mig.next i) (diskPlaces s i) = some (c.loc % 2 ^ 37) && maddrSpindle (maddrOfLoc c.loc) = i.val)

/-- MIGRATION_RECORD: the record, then the producer offset; nothing while the ring is full. -/
def migrationRecordOp (s : State) (i : Fin 8) (handle chunk : Nat) : State :=
  let key := chunkKey handle chunk
  let c := chunkAt s key
  match nsOf s (handleSlot handle + 1) with
  | none => s
  | some n =>
    let r := ringRecord n key c
    let m := s.lat.mig
    when (m.active && migrationTurn s i c && keyLoaded s n && decide (m.prod + r.length - m.cons ≤ m.ringSize)) s fun s =>
      let disk := !c.staged && c.tier = 0
      let hm := putRing s.hostMem m.ringAddr m.ringSize m.prod r
      let s := { s with hostMem := hostWriteBytes hm m.prodAddr (toBytes 8 (m.prod + r.length)) }
      let s := modMig s fun m => { m with
        prod := m.prod + r.length, next := if disk then vset m.next i (c.loc % 2 ^ 37 + c.count) else m.next }
      let s := if disk then readUpTo s i ((c.loc % 2 ^ 37 + c.count) / 2 ^ 16) else s
      migrationProgress s

def execMigrationRecord (i : Fin 8) (handle chunk : Nat) (s : State) : Host.Outcome State Fault Refusal :=
  settled (migrationRecordOp s i handle chunk)

/-! ### Start-up: the zone tables (R201) and the record of a power failure (R65, R115, R290) -/

/-- Step 13 of start-up: firmware loads the zone table of every surface, and takes out of service each spindle with a surface of
which no copy is valid (R201, R310). -/
def zoneStage (s : State) : State :=
  if s.boot = .bufferReady then
    overList ((zonelessSpindles s).filter fun i => serves s i) (loadZones s) fun s i => takeOut s (Fin.ofNat 8 i)
  else s

/-- A chunk whose items are missing from the record. -/
def reportMissing (s : State) (handle chunk : Nat) : State :=
  let key := chunkKey handle chunk
  let c := chunkAt s key
  let s := putChunk s key { c with count := max 1 c.count, poison := true, dirty := true }
  addUnrec s (handleSlot handle) handle 3 chunk 0xFFFF 0

/-- POWER_FAIL_REPLAY: the dirty set comes back from the record; what is missing is poisoned and logged. -/
def powerFailReplayOp (s : State) (manifestOk : Bool) (missing : List (Nat × Nat)) : State :=
  let s := zoneStage (rootStage s)
  match s.obj.pfRecord with
  | none => if rbit s Reg.sysRstcause 5 then setWarning s 4 0 else s
  | some rec =>
    when s.ms.ready s fun s =>
      let s := { s with obj := { s.obj with pfRecord := none } }
      if !manifestOk then
        overList s.obj.nss s fun s n => addUnrec s n.slot (nsObject n.slot) 3 0xFFFF_FFFF_FFFF_FFFF 0xFFFF 0
      else
        let gone := missing.map fun e => chunkKey e.1 e.2
        let s := overList (rec.filter fun e => !gone.contains e.1) s fun s e =>
          let old := chunkAt s e.1
          let s := if old.count = 0 then s
            else { s with obj := { s.obj with durable := tset Chunk.absent s.obj.durable e.1 old } }
          putChunk s e.1 e.2
        overList missing s fun s e => reportMissing s e.1 e.2

def execPowerFailReplay (manifestOk : Bool) (missing : List (Nat × Nat)) (s : State) : Host.Outcome State Fault Refusal :=
  settled (powerFailReplayOp s manifestOk missing)

end Sys2Proof.Machine
end

