-- ==== Sys2Proof/Machine/Dma.lean ====
section
/-! DEFINITION. The DMA engine (17): descriptors and their checks (R513–R519), the operations (R516, R517, R521), completion (R522,
R523) and abort (R525). -/

namespace Sys2Proof.Machine

/-! ### Descriptors (R514, R515) -/

def dmaOpOf (d : DmaDesc) : Nat := fld d.ctl 0 4
def DmaDesc.sw (d : DmaDesc) : Nat := 2 ^ fld d.ctl 4 3
def DmaDesc.dw (d : DmaDesc) : Nat := 2 ^ fld d.ctl 8 3
def DmaDesc.chain (d : DmaDesc) : Bool := d.ctl.testBit 15
def DmaDesc.irq (d : DmaDesc) : Bool := d.ctl.testBit 16
def DmaDesc.srcHost (d : DmaDesc) : Bool := d.ctl.testBit 17
def DmaDesc.dstHost (d : DmaDesc) : Bool := d.ctl.testBit 18
def DmaDesc.port (d : DmaDesc) : Port := if d.ctl.testBit 19 then .b else .a
/-- GATHER and SCATTER. -/
def DmaDesc.indexed (d : DmaDesc) : Bool := dmaOpOf d = 2 || dmaOpOf d = 3
/-- Bytes that a descriptor moves, fills or compares. -/
def DmaDesc.total (d : DmaDesc) : Nat := if d.indexed then d.idxcnt * d.esize else d.len
/-- The host takes part. -/
def DmaDesc.host (d : DmaDesc) : Bool := d.srcHost || d.dstHost

/-- The descriptor in the 64 bytes read; `rsv` where a field that is to be zero is not. -/
def dmaParse (bs : List Byte) : DmaDesc :=
  let f := fun off n => ofBytes ((bs.drop off).take n)
  let ctl := f 0 4
  let d : DmaDesc :=
    { ctl := ctl, len := f 4 4, src := f 8 8, dst := f 0x10 8, aux := f 0x18 8, idxcnt := f 0x20 4, esize := f 0x24 2
      rsv := false, next := f 0x28 8 }
  { d with rsv := fld ctl 20 8 ≠ 0 || fld ctl 11 4 ≠ 0 || fld ctl 7 1 ≠ 0 || f 0x26 2 ≠ 0 || f 0x38 8 ≠ 0
        || (!d.indexed && (d.idxcnt ≠ 0 || d.esize ≠ 0 || (dmaOpOf d ≠ 4 && d.aux ≠ 0))) || (!d.chain && d.next ≠ 0) }

/-- Where descriptors and index tables lie (R513, R518). -/
def dmaTableRegion (s : State) (a : Nat) : Bool := regionOf s a = .buf || regionOf s a = .spd 0

/-- The checks of R519: true where the descriptor ends with FORMAT. -/
def dmaFormatBad (s : State) (d : DmaDesc) : Bool :=
  let op := dmaOpOf d
  d.rsv || op = 0 || 5 < op || 4 < fld d.ctl 4 3 || 4 < fld d.ctl 8 3
    || (d.indexed && (d.idxcnt = 0 || 2 ^ 24 < d.idxcnt || d.esize = 0 || 4096 < d.esize || d.aux % 4 ≠ 0 || !dmaTableRegion s d.aux
        || !(regionOf s (d.aux + 4 * d.idxcnt - 1) = regionOf s d.aux) || d.esize % (if op = 2 then d.sw else d.dw) ≠ 0))
    || (!d.indexed && d.len = 0)
    || d.total % d.sw ≠ 0 || d.total % d.dw ≠ 0
    || (op ≠ 4 && d.src % d.sw ≠ 0) || d.dst % d.dw ≠ 0
    || (op = 4 && d.srcHost) || (d.srcHost && d.dstHost) || (d.port = .b && s.conf.hostcfg1)

/-! ### The end of a descriptor (R522) -/

/-- A channel may read a descriptor at an address (R513). -/
def dmaDescAt (s : State) (a : Nat) : Bool := dmaTableRegion s a && a % 64 = 0

/-- The source of a result (R527): XFERERR, DESCERR, or none. A FORMAT, and a start at an address that is none of a descriptor's,
involve no access (R538). -/
def dmaFault (s : State) (c : Fin 32) (r addr : Nat) : State :=
  let cap : Cap := { addr := addr, ty := if r = 3 then 2 else 1, master := masterDma c }
  if r = 2 || r = 3 || r = 4 then raise s .dma [0] cap
  else if r = 5 || r = 7 then raise s .dma [1] (if r = 7 && dmaDescAt s addr then cap else { cap with addr := 0, ty := 0 })
  else s

/-- CHSTAT, DONESTAT, the count and the source of a descriptor that has ended. -/
def dmaRetire (s : State) (c : Fin 32) (irq : Bool) (r : Nat) : State :=
  let s := modDma s c fun x => { x with busy := false, aborting := false, readback := none, result := r, lastWr := none }
  let s := if irq || r ≠ 0 then rbitSet s Reg.dmaDonestat c.val true else s
  dmaFault (rcount s (Reg.dmaChdone c.val) 1) c r (s.dmaCh c).erraddr

/-- A descriptor ends: MISMATCH of a COMPARE, CTL, then the rest. -/
def dmaEnd (s : State) (c : Fin 32) (r : Nat) : State :=
  let x := s.dmaCh c
  match x.desc with
  | none => s
  | some d =>
    let s := if dmaOpOf d = 5 && (r = 0 || r = 1) then
        (busWriteNat s (masterDma c) (x.cur + 0x30) 8 x.mismatch.toNat).2 else s
    let s := (busWriteNat s (masterDma c) x.cur 4 (putFld (putFld d.ctl 28 3 r) 31 1 1)).2
    dmaRetire s c d.irq r

/-- A start that names no descriptor (R513). -/
def dmaDescErr (s : State) (c : Fin 32) (a : Nat) : State :=
  dmaRetire (modDma s c fun x => { x with cur := a, erraddr := a, elem := 0, desc := none }) c false 7

/-- The descriptor at an address is read and checked, and the channel runs. -/
def dmaBegin (s : State) (c : Fin 32) (a : Nat) : State :=
  if !dmaDescAt s a then dmaDescErr s c a
  else
    match busRead s (masterDma c) a 64 none with
    | (none, s) => dmaDescErr s c a
    | (some bs, s) =>
      let d := dmaParse bs
      let s := modDma s c fun x => { x with
        busy := true, aborting := false, readback := none, desc := some d, cur := a, elem := 0, lastWr := none }
      if dmaFormatBad s d then dmaEnd s c 5 else s

/-- A descriptor ends, and its chain goes on: not after an error, nor once step 3 of R61 has been reached. -/
def dmaFinish (s : State) (c : Fin 32) (r : Nat) : State :=
  match (s.dmaCh c).desc with
  | none => s
  | some d =>
    let s := dmaEnd s c r
    if d.chain && r = 0 && !s.pf.step3 then dmaBegin s c d.next else s

/-- A write of CHSTARTc (R513, R527). -/
def dmaStartOp (s : State) (c : Fin 32) (v : DWord) : State :=
  if rbit s Reg.dmaCtl 0 && !(s.dmaCh c).busy && !s.pf.step3 then dmaBegin s c (fld v.toNat 6 42 * 64)
  else rcount s (Reg.dmaChstartign c.val) 1

def execDmaStart (c : Fin 32) (v : DWord) (s : State) : Host.Outcome State Fault Refusal := settled (dmaStartOp s c v)

/-! ### Accesses -/

/-- What ends a descriptor early: result and address. -/
abbrev DmaStop := Nat × Nat

/-- An address lies in an access of `w` bytes. -/
def within (x a w : Nat) : Bool := decide (a ≤ x) && decide (x < a + w)

/-- A read of `w` bytes of a side: `host` names host memory. -/
def dmaRead (s : State) (c : Fin 32) (e : DmaEv) (host : Bool) (a w : Nat) : Except DmaStop (List Byte) × State :=
  if host then
    match e with
    | .hostErr x => if within x a w then (.error (4, x), s) else (.ok (hostReadBytes s a w), s)
    | .ok | .readErr _ | .writeErr _ | .busyRetry _ _ => (.ok (hostReadBytes s a w), s)
  else
    match e with
    | .readErr x => if within x a w then (.error (2, x), s) else
      match busRead s (masterDma c) a w none with
      | (some bs, s) => (.ok bs, s)
      | (none, s) => (.error (2, a), s)
    | .ok | .hostErr _ | .writeErr _ | .busyRetry _ _ =>
      match busRead s (masterDma c) a w none with
      | (some bs, s) => (.ok bs, s)
      | (none, s) => (.error (2, a), s)

/-- A write of a side. -/
def dmaWrite (s : State) (c : Fin 32) (e : DmaEv) (host : Bool) (a : Nat) (bs : List Byte) : Option DmaStop × State :=
  if host then
    match e with
    | .hostErr x => if within x a bs.length then (some (4, x), s) else (none, { s with hostMem := hostWriteBytes s.hostMem a bs })
    | .ok | .readErr _ | .writeErr _ | .busyRetry _ _ => (none, { s with hostMem := hostWriteBytes s.hostMem a bs })
  else
    match e with
    | .writeErr x => if within x a bs.length then (some (3, x), s) else
      let r := busWrite s (masterDma c) a bs
      (if r.1 then none else some (3, a), r.2)
    | .ok | .hostErr _ | .readErr _ | .busyRetry _ _ =>
      let r := busWrite s (masterDma c) a bs
      (if r.1 then none else some (3, a), r.2)

/-- An indexed element's address: the index read from its 64-byte piece of the table, the element aligned and within the region of
its base (R518). -/
def dmaElement (s : State) (c : Fin 32) (d : DmaDesc) (host : Bool) (base w i : Nat) : Except DmaStop Nat × State :=
  let p := d.aux + 4 * i
  match busRead s (masterDma c) (p / 64 * 64) 64 none with
  | (none, s) => (.error (2, p / 64 * 64), s)
  | (some bs, s) =>
    let a := base + ofBytes ((bs.drop (p % 64)).take 4)
    if a % w ≠ 0 || (!host && !(regionOf s a = regionOf s base && regionOf s (a + d.esize - 1) = regionOf s base)) then
      (.error (5, a), s)
    else (.ok a, s)

/-- Address of the `k`-th access of `w` bytes of a side. -/
def dmaPlace (s : State) (c : Fin 32) (d : DmaDesc) (indexed host : Bool) (base w k : Nat) : Except DmaStop Nat × State :=
  if !indexed then (.ok (base + k * w), s)
  else
    match dmaElement s c d host base w (k * w / d.esize) with
    | (.ok a, s) => (.ok (a + k * w % d.esize), s)
    | (.error x, s) => (.error x, s)

/-! ### Moving data (R516, R517) -/

/-- A transfer under way: destination accesses done, bytes in the holding register, last byte written, source bytes read. -/
structure DmaMove where
  j : Nat
  held : List Byte
  last : Option Nat
  got : Nat

def DmaMove.start : DmaMove := { j := 0, held := [], last := none, got := 0 }

/-- Whole destination widths leave the holding register. -/
def dmaDrain (n : Nat) (s : State) (c : Fin 32) (d : DmaDesc) (e : DmaEv) (m : DmaMove) : Option DmaStop × DmaMove × State :=
  match n with
  | 0 => (none, m, s)
  | n' + 1 =>
    if m.held.length < d.dw then (none, m, s)
    else
      match dmaPlace s c d (dmaOpOf d = 3) d.dstHost d.dst d.dw m.j with
      | (.error x, s) => (some x, m, s)
      | (.ok a, s) =>
        match dmaWrite s c e d.dstHost a (m.held.take d.dw) with
        | (some x, s) => (some x, m, s)
        | (none, s) => dmaDrain n' s c d e { m with j := m.j + 1, held := m.held.drop d.dw, last := some (a + d.dw - 1) }

/-- What the holding register has left when an element is bad is written by narrower writes (R518); an error response to them ends
the descriptor (R523). -/
def dmaTail (s : State) (c : Fin 32) (d : DmaDesc) (e : DmaEv) (m : DmaMove) (x : DmaStop) : Option DmaStop × DmaMove × State :=
  if m.held = [] || dmaOpOf d ≠ 2 || x.1 ≠ 5 then (some x, m, s)
  else
    let a := d.dst + m.j * d.dw
    match dmaWrite s c e d.dstHost a m.held with
    | (some y, s) => (some y, m, s)
    | (none, s) => (some x, { m with held := [], last := some (a + m.held.length - 1) }, s)

/-- Source accesses from `k` on, `n` of them. -/
def dmaLoop (n : Nat) (s : State) (c : Fin 32) (d : DmaDesc) (e : DmaEv) (k : Nat) (m : DmaMove) :
    Option DmaStop × DmaMove × State :=
  match n with
  | 0 => (none, m, s)
  | n' + 1 =>
    match dmaPlace s c d (dmaOpOf d = 2) d.srcHost d.src d.sw k with
    | (.error x, s) => dmaTail s c d e m x
    | (.ok a, s) =>
      match dmaRead s c e d.srcHost a d.sw with
      | (.error x, s) => (some x, m, s)
      | (.ok bs, s) =>
        match dmaDrain 16 s c d e { m with held := m.held ++ bs, got := m.got + d.sw } with
        | (some x, m, s) => (some x, m, s)
        | (none, m, s) => dmaLoop n' s c d e (k + 1) m

/-- FILL: byte `j` takes byte `j mod 8` of AUX. -/
def dmaFillLoop (n : Nat) (s : State) (c : Fin 32) (d : DmaDesc) (e : DmaEv) (m : DmaMove) : Option DmaStop × DmaMove × State :=
  match n with
  | 0 => (none, m, s)
  | n' + 1 =>
    let a := d.dst + m.j * d.dw
    let bs := (List.range d.dw).map fun i => BitVec.ofNat 8 (d.aux / 256 ^ ((m.j * d.dw + i) % 8))
    match dmaWrite s c e d.dstHost a bs with
    | (some x, s) => (some x, m, s)
    | (none, s) => dmaFillLoop n' s c d e { m with j := m.j + 1, last := some (a + d.dw - 1) }

/-! Overlap (R524) -/

/-- Indexes of the table as they stand in memory. -/
def dmaIndexes (s : State) (d : DmaDesc) : List Nat := (List.range d.idxcnt).map fun i => readNat s.mem (d.aux + 4 * i) 4

/-- Spans of internal memory that a descriptor reads, its index table among them, and that it writes. -/
def dmaReads (s : State) (d : DmaDesc) : List (Nat × Nat) :=
  (if d.indexed then [(d.aux, 4 * d.idxcnt)] else []) ++
    (if d.srcHost then [] else if dmaOpOf d = 2 then (dmaIndexes s d).map fun x => (d.src + x, d.esize) else [(d.src, d.total)])
def dmaWrites (s : State) (d : DmaDesc) : List (Nat × Nat) :=
  if d.dstHost then [] else if dmaOpOf d = 3 then (dmaIndexes s d).map fun x => (d.dst + x, d.esize) else [(d.dst, d.total)]

def overlap (a b : Nat × Nat) : Bool := decide (a.1 < b.1 + b.2) && decide (b.1 < a.1 + a.2)

/-- The result of a transfer is unpredictable: it writes bytes that its own reads depend on, but for a COPY to the same or a lower
address. -/
def dmaClash (s : State) (d : DmaDesc) : Bool :=
  if dmaOpOf d = 1 && d.dst ≤ d.src then false
  else (dmaWrites s d).any fun w => (dmaReads s d).any fun r => overlap w r

/-- Unpredictable bytes in the spans written. -/
def dmaSpoil (s : State) (spans : List (Nat × Nat)) : State :=
  overList spans s fun s p => let r := drawBytes s p.2; { r.2 with mem := writeBytes r.2.mem p.1 r.1 }

/-! ### The operations -/

/-- Host accesses are held (R520). -/
def dmaHeld (s : State) (d : DmaDesc) : Bool := d.host && !((s.port d.port).bme && (s.port d.port).linkUp)

/-- A channel runs an operation: busy with a descriptor of it, not yet at its read-back; host accesses wait for Bus Master Enable. -/
def dmaRuns (s : State) (c : Fin 32) (op : Nat) (f : DmaDesc → State) : State :=
  let x := s.dmaCh c
  match x.desc with
  | none => s
  | some d =>
    if x.busy && dmaOpOf d = op && x.readback.isNone && !dmaHeld s d then f d else s

/-- Reads that came back busy are counted (R523). -/
def dmaBusy (s : State) (e : DmaEv) : State :=
  match e with
  | .busyRetry a n => noteBusy (rcount s Reg.dmaBusyretry n) a n
  | .ok | .readErr _ | .writeErr _ | .hostErr _ => s

/-- After the last write: the read-back where something was written, else the end. -/
def dmaMoved (s : State) (c : Fin 32) (stop : Option DmaStop) (m : DmaMove) (elem : Nat) : State :=
  let r := match stop with | none => 0 | some x => x.1
  let s := modDma s c fun x => { x with
    erraddr := match stop with | none => x.erraddr | some y => if y.1 = 5 then x.erraddr else y.2, elem := elem, lastWr := m.last }
  if m.last.isSome then modDma s c fun x => { x with readback := some r } else dmaFinish s c r

/-- ELEM: the next element of the indexed side (R528). -/
def dmaElem (d : DmaDesc) (m : DmaMove) : Nat :=
  if dmaOpOf d = 2 then m.got / d.esize else if dmaOpOf d = 3 then m.j * d.dw / d.esize else 0

/-- A transfer of a descriptor that reads and writes. -/
def dmaTransfer (s : State) (c : Fin 32) (d : DmaDesc) (e : DmaEv) : State :=
  let clash := dmaClash s d
  let spans := dmaWrites s d
  let r := dmaLoop (d.total / d.sw) (dmaBusy s e) c d e 0 DmaMove.start
  let s := if clash then dmaSpoil r.2.2 spans else r.2.2
  dmaMoved s c r.1 r.2.1 (dmaElem d r.2.1)

def dmaCopyOp (s : State) (c : Fin 32) (e : DmaEv) : State := dmaRuns s c 1 fun d => dmaTransfer s c d e
def execDmaCopy (c : Fin 32) (e : DmaEv) (s : State) : Host.Outcome State Fault Refusal := settled (dmaCopyOp s c e)

def gatherOp (s : State) (c : Fin 32) (e : DmaEv) : State := dmaRuns s c 2 fun d => dmaTransfer s c d e
def execGather (c : Fin 32) (e : DmaEv) (s : State) : Host.Outcome State Fault Refusal := settled (gatherOp s c e)

def scatterOp (s : State) (c : Fin 32) (e : DmaEv) : State := dmaRuns s c 3 fun d => dmaTransfer s c d e
def execScatter (c : Fin 32) (e : DmaEv) (s : State) : Host.Outcome State Fault Refusal := settled (scatterOp s c e)

def fillOp (s : State) (c : Fin 32) (e : DmaEv) : State :=
  dmaRuns s c 4 fun d =>
    let r := dmaFillLoop (d.len / d.dw) s c d e DmaMove.start
    dmaMoved r.2.2 c r.1 r.2.1 0
def execFill (c : Fin 32) (e : DmaEv) (s : State) : Host.Outcome State Fault Refusal := settled (fillOp s c e)

/-- The first place at which two lists differ. -/
def firstDiff (i : Nat) (a b : List Byte) : Option Nat :=
  match a, b with
  | x :: xs, y :: ys => if x = y then firstDiff (i + 1) xs ys else some i
  | _, _ => none

/-- COMPARE in steps of the larger width: what stopped it, or the offset of the first difference. -/
def dmaCompareLoop (n : Nat) (s : State) (c : Fin 32) (d : DmaDesc) (e : DmaEv) (k : Nat) : Except DmaStop (Option Nat) × State :=
  match n with
  | 0 => (.ok none, s)
  | n' + 1 =>
    let w := max d.sw d.dw
    match dmaRead s c e d.srcHost (d.src + k * w) w with
    | (.error x, s) => (.error x, s)
    | (.ok a, s) =>
      match dmaRead s c e d.dstHost (d.dst + k * w) w with
      | (.error x, s) => (.error x, s)
      | (.ok b, s) =>
        match firstDiff (k * w) a b with
        | some i => (.ok (some i), s)
        | none => dmaCompareLoop n' s c d e (k + 1)

/-- DMA_COMPARE (R521). -/
def dmaCompareOp (s : State) (c : Fin 32) (e : DmaEv) : State :=
  dmaRuns s c 5 fun d =>
    match dmaCompareLoop (d.len / max d.sw d.dw) (dmaBusy s e) c d e 0 with
    | (.error x, s) => dmaFinish (modDma s c fun y => { y with erraddr := x.2 }) c x.1
    | (.ok none, s) => dmaFinish (modDma s c fun y => { y with mismatch := BitVec.allOnes 64 }) c 0
    | (.ok (some i), s) => dmaFinish (modDma s c fun y => { y with mismatch := BitVec.ofNat 64 i }) c 1
def execDmaCompare (c : Fin 32) (e : DmaEv) (s : State) : Host.Outcome State Fault Refusal := settled (dmaCompareOp s c e)

/-- The access that the read-back reads (R522). -/
def readbackAddr (d : DmaDesc) (last : Nat) : Nat := if d.dstHost then last / 4 * 4 else last / d.dw * d.dw

/-- DMA_READBACK_DONE: the read-back returns, with an error response where the operand says so. -/
def dmaReadbackDoneOp (s : State) (c : Fin 32) (err : Bool) : State :=
  let x := s.dmaCh c
  match x.desc, x.readback, x.lastWr with
  | some d, some r, some l =>
    let a := readbackAddr d l
    let q := if d.dstHost then (some [], s) else busRead s (masterDma c) a d.dw none
    if err || q.1.isNone then dmaFinish (modDma q.2 c fun x => { x with erraddr := a }) c 3 else dmaFinish q.2 c r
  | _, _, _ => s

def execDmaReadbackDone (c : Fin 32) (err : Bool) (s : State) : Host.Outcome State Fault Refusal := settled (dmaReadbackDoneOp s c err)

/-- The operation as an abort cuts it: `k` of its accesses were issued, and those that are complete are carried out. -/
def dmaCut (s : State) (c : Fin 32) (d : DmaDesc) (k : Nat) : Option DmaStop × DmaMove × State :=
  if dmaOpOf d = 4 then dmaFillLoop k s c d .ok DmaMove.start
  else if dmaOpOf d = 5 then (none, DmaMove.start, s)
  else
    let spans := dmaWrites s d
    let r := dmaLoop k s c d .ok 0 DmaMove.start
    if dmaClash s d && decide (k ≠ 0) then (r.1, r.2.1, dmaSpoil r.2.2 spans) else r

/-- A write of CHCTLc (R525). Before the read-back, how many accesses the channel has issued is the hardware's timing: a free
value. A result other than OK that waits for its read-back stands. -/
def dmaAbortOp (s : State) (c : Fin 32) (v : Word) : State :=
  let x := s.dmaCh c
  match x.desc with
  | none => s
  | some d =>
    when (v.toNat.testBit 0 && x.busy) s fun s =>
      match x.readback with
      | some r => modDma s c fun x => { x with aborting := true, readback := some (if r = 0 then 6 else r) }
      | none =>
        let k := draw s
        let n := if dmaHeld s d then 0 else d.total / (if dmaOpOf d = 4 then d.dw else d.sw)
        let r := dmaCut k.2 c d (k.1.toNat % (n + 1))
        let s := modDma r.2.2 c fun x => { x with aborting := true }
        dmaMoved s c (match r.1 with | none => some (6, (s.dmaCh c).erraddr) | some y => some y) r.2.1 (dmaElem d r.2.1)

def execDmaAbort (c : Fin 32) (v : Word) (s : State) : Host.Outcome State Fault Refusal := settled (dmaAbortOp s c v)

/-- A channel whose host side has met an error (R520). -/
def dmaHostErr (s : State) (c : Fin 32) : State :=
  let x := s.dmaCh c
  match x.desc with
  | none => s
  | some d =>
    if x.busy && d.host then dmaFinish (modDma s c fun x => { x with erraddr := if d.srcHost then d.src else d.dst }) c 4 else s

/-- The channels that use a port (R520). -/
def dmaPortReset (s : State) (p : Port) : State :=
  overList fin32 s fun s c =>
    match (s.dmaCh c).desc with
    | some d => if d.port = p then dmaHostErr s c else s
    | none => s

end Sys2Proof.Machine
end

