-- ==== Sys2Proof/Machine/Ports.lean ====
section
/-! DEFINITION. Commands of the host ports (03): the link and its errors (R83–R95), doorbells (R98), enabling and shutdown of a
controller (R100), configuration space and BAR0 (R69, R90–R93, R97), and data from host memory (R93, R94, R520). -/

namespace Sys2Proof.Machine

/-- The port exists (R83, R84). -/
def portExists (s : State) (p : Port) : Bool := p = .a || !s.conf.hostcfg1
def blkOfPort (p : Port) : Blk := match p with | .a => .hpa | .b => .hpb
def portNum (p : Port) : Nat := (portIx p).val

/-- A fault source of a port (R94): 0 POISON, 1 CPLTO, 2 UNCORR, 3 LINKDOWN. -/
def portFault (s : State) (p : Port) (bit : Nat) : State := raise1 s (blkOfPort p) bit

/-- A port reset (R95): the controller, and the DMA channels that use the port (R520). -/
def portReset (s : State) (p : Port) : State := dmaPortReset (resetController s p) p

/-! ### Link (R86–R89, R94, R123, R124) -/

/-- LTSSM shows the state code of the Flit Logging capability, which the spec does not list. -/
def setLtssm (s : State) (p : Port) : State := let d := draw s; modPort d.2 p fun x => { x with ltssm := d.1.toNat % 256 }

/-- Rates that the port trains to: up to MAXRATE and LINKCTL (R86, R123). -/
def rateLimit (s : State) (p : Port) : Nat := min s.conf.maxRate (rf s (Reg.hpLinkctl (portNum p)) 0 3)

/-- Widths of a port (R83, R87). -/
def widthOk (s : State) (width : Nat) : Bool := width = 1 || width = 2 || (width = 4 && s.conf.hostcfg1)

/-- LINK_TRAINED: in L0, from the first training or from Recovery. -/
def linkTrainedOp (s : State) (p : Port) (rate width : Nat) (flit : Bool) : State :=
  when (portExists s p && !s.cqu.cut.contains p && !(s.port p).perst && decide (rate ≤ rateLimit s p) && widthOk s width && (decide (rate < 5) || flit)) s fun s =>
    setLtssm (modPort s p fun x =>
      { x with linkUp := true, inRec := false, clkreq := true, rate := rate, width := width, flit := flit, pm := .l0 }) p

def execLinkTrained (p : Port) (rate width : Nat) (flit : Bool) (s : State) : Host.Outcome State Fault Refusal :=
  settled (linkTrainedOp s p rate width flit)

/-- Entry to link recovery: the link is in none of the states of R88 until it has trained again. -/
def enterRecovery (s : State) (p : Port) : State :=
  setLtssm (modPort (rcount s (Reg.hpRecovcnt (portNum p)) 1) p fun x => { x with inRec := true, pm := .l0, clkreq := true }) p

/-- A write of LINKCTL: the limit clamped to MAXRATE; RETRAIN sends a link that is up to recovery. -/
def linkctlWrite (s : State) (p : Port) (v : Word) : State :=
  when (portExists s p) s fun s =>
    let s := rfSet s (Reg.hpLinkctl (portNum p)) 0 3 (min s.conf.maxRate (v.toNat % 8))
    if v.toNat.testBit 8 && (s.port p).linkUp then enterRecovery s p else s

/-- LINK_RETRAIN: a write of LINKCTL with RETRAIN 1. -/
def execLinkRetrain (p : Port) (v : Word) (s : State) : Host.Outcome State Fault Refusal := settled (linkctlWrite s p (v ||| 0x100))

/-- The link carries requests and completions: up, its lanes not gated (R88). -/
def linkCarries (s : State) (p : Port) : Bool := portExists s p && (s.port p).linkUp && !hostphyGated (s.port p)

/-- CORRECTABLE_LINK_ERROR, with an entry to recovery where the operand says so; reported as a replay timeout or a receiver error. -/
def correctableLinkErrorOp (s : State) (p : Port) (replay recovery : Bool) : State :=
  when (linkCarries s p) s fun s =>
    let s := modPort (rcount s (Reg.hpErrcor (portNum p)) 1) p fun x => aerCor x (if replay then 12 else 0)
    if recovery then enterRecovery s p else s

def execCorrectableLinkError (p : Port) (e : LinkRetry) (s : State) : Host.Outcome State Fault Refusal :=
  settled (correctableLinkErrorOp s p e.replay e.recovery)

/-- A command whose transfer has failed (R94): Data Transfer Error; chunks not yet written stay as they were. -/
def failTransfer (s : State) (p : Port) (t : Nat) : State :=
  let x := tagAt s t
  if x.st = .active && x.port = p && !x.dead then endWith s t scTransfer else s

/-- The requester that a failed read of host memory meets. -/
def failTarget (s : State) (p : Port) (t : LinkTarget) : State :=
  match t with
  | .cmd t => failTransfer s p t
  | .dma c =>
    match (s.dmaCh c).desc with
    | some d => if d.port = p then dmaHostErr s c else s
    | none => s

/-- An error of a transaction of the port, with its source and its bit in the Uncorrectable Error Status register. -/
def transferError (s : State) (p : Port) (t : LinkTarget) (bit aer : Nat) : State :=
  when (linkCarries s p) s fun s =>
    let s := modPort (rcount s (Reg.hpErrunc (portNum p)) 1) p fun x => aerUnc x aer
    failTarget (portFault s p bit) p t

def poisonedTlpOp (s : State) (p : Port) (t : LinkTarget) : State := transferError s p t 0 12
def execPoisonedTlp (p : Port) (t : LinkTarget) (s : State) : Host.Outcome State Fault Refusal := settled (poisonedTlpOp s p t)

def completionTimeoutOp (s : State) (p : Port) (t : LinkTarget) : State := transferError s p t 1 14
def execCompletionTimeout (p : Port) (t : LinkTarget) (s : State) : Host.Outcome State Fault Refusal :=
  settled (completionTimeoutOp s p t)

def urOrCaReceivedOp (s : State) (p : Port) (t : LinkTarget) : State := transferError s p t 1 20
def execUrOrCaReceived (p : Port) (t : LinkTarget) (s : State) : Host.Outcome State Fault Refusal := settled (urOrCaReceivedOp s p t)

/-- UNCORRECTABLE_LINK_ERROR. -/
def uncorrectableLinkErrorOp (s : State) (p : Port) : State :=
  when (linkCarries s p) s fun s =>
    portReset (portFault (modPort (rcount s (Reg.hpErrunc (portNum p)) 1) p fun x => aerUnc x 18) p 2) p

def execUncorrectableLinkError (p : Port) (s : State) : Host.Outcome State Fault Refusal := settled (uncorrectableLinkErrorOp s p)

/-- The link goes down. -/
def dropLink (s : State) (p : Port) : State :=
  let up := (s.port p).linkUp
  let s := modPort s p fun x =>
    { cfgReset x false with linkUp := false, inRec := false, rate := 0, width := 0, flit := false, pm := .l0 }
  let s := setLtssm s p
  if up then portReset (portFault (modPort s p fun x => aerUnc x 5) p 3) p else s

/-- LINK_DOWN. -/
def linkDownOp (s : State) (p : Port) : State := when (portExists s p && (s.port p).linkUp) s fun s => dropLink s p
def execLinkDown (p : Port) (s : State) : Host.Outcome State Fault Refusal := settled (linkDownOp s p)

/-- PERST_ASSERT (R66, R94): the port's PCI Express logic is reset; from D3hot the function is in D3cold. -/
def perstAssertOp (s : State) (p : Port) : State :=
  when (portExists s p && !(s.port p).perst) s fun s =>
    let s := portReset (dropLink s p) p
    modPort s p fun x => { cfgReset x true with
      perst := true, clkreq := false, cfgAnswer := 0, dstate := if x.dstate = 3 then 4 else 0 }

def execPerstAssert (p : Port) (s : State) : Host.Outcome State Fault Refusal := settled (perstAssertOp s p)

/-- PERST_DEASSERT: the function is in D0, and its wake signal ends. -/
def perstDeassertOp (s : State) (p : Port) : State :=
  when (portExists s p && (s.port p).perst) s fun s =>
    modPort s p fun x => { x with perst := false, clkreq := true, dstate := 0, wake := false }

def execPerstDeassert (p : Port) (s : State) : Host.Outcome State Fault Refusal := settled (perstDeassertOp s p)

/-- A link in L0 may enter the state, or the link returns to L0: L0p in FLIT mode alone, with fewer lanes than the link has. -/
def pmAllowed (x : PortSt) (st : LinkPm) : Bool :=
  match st with
  | .l0 => true
  | .l0p w => !x.inRec && x.flit && (w = 1 || w = 2) && decide (w < x.width)
  | .l1 | .l11 | .l12 => !x.inRec

/-- CLKREQn stays asserted but in L1.1 and L1.2. -/
def asksClock (st : LinkPm) : Bool :=
  match st with
  | .l11 | .l12 => false
  | .l0 | .l0p _ | .l1 => true

/-- LINK_POWER_STATE (R88). -/
def linkPowerStateOp (s : State) (p : Port) (st : LinkPm) : State :=
  when (portExists s p && (s.port p).linkUp && pmAllowed (s.port p) st) s fun s =>
    setLtssm (modPort s p fun x => { x with pm := st, inRec := false, clkreq := asksClock st }) p

def execLinkPowerState (p : Port) (st : LinkPm) (s : State) : Host.Outcome State Fault Refusal := settled (linkPowerStateOp s p st)

/-! ### Doorbells (R98) -/

/-- The host reaches the controller's registers: the link carries requests, the function answers in full, in D0. -/
def hostReaches (s : State) (p : Port) : Bool :=
  linkCarries s p && (s.port p).dstate = 0 && rbit s Reg.sysBootctl 0 && !dieHeld s

/-- An invalid doorbell write: an event of the Error type, which both controllers post (R98, R116); the error log names the queue. -/
def invalidDoorbell (s : State) (p : Port) (qid info : Nat) : State :=
  postBoth (modPort s p fun x => logErr x qid 0xFFFF scField 0 0) { ty := 0, info := info, log := 1 }

/-- SQ_TAIL_DOORBELL. -/
def sqTailDoorbellOp (s : State) (p : Port) (qid value : Nat) : State :=
  when (hostReaches s p && (s.port p).en) s fun s =>
    match (s.port p).sqs.find? fun q => q.qid = qid with
    | none => invalidDoorbell s p qid 0
    | some q =>
      if q.stopped then s
      else if q.size ≤ value then
        invalidDoorbell (modPort s p fun x => { x with sqs := lmodFirst (fun q => q.qid = qid) (fun q => { q with stopped := true }) x.sqs }) p qid 1
      else modPort s p fun x => { x with sqs := lmodFirst (fun q => q.qid = qid) (fun q => { q with tail := value }) x.sqs }

def execSqTailDoorbell (p : Port) (qid value : Nat) (s : State) : Host.Outcome State Fault Refusal :=
  settled (sqTailDoorbellOp s p qid value)

/-- CQ_HEAD_DOORBELL: room in the queue lets the completions that wait for it be written. -/
def cqHeadDoorbellOp (s : State) (p : Port) (qid value : Nat) : State :=
  when (hostReaches s p && (s.port p).en) s fun s =>
    match (s.port p).cqs.find? fun q => q.qid = qid with
    | none => invalidDoorbell s p qid 0
    | some q =>
      if q.stopped then s
      else if q.size ≤ value then
        invalidDoorbell (modPort s p fun x => { x with cqs := lmodFirst (fun q => q.qid = qid) (fun q => { q with stopped := true }) x.cqs }) p qid 1
      else
        postCompletions
          (modPort s p fun x => { x with cqs := lmodFirst (fun q => q.qid = qid) (fun q => { q with head := value }) x.cqs })

def execCqHeadDoorbell (p : Port) (qid value : Nat) (s : State) : Host.Outcome State Fault Refusal :=
  settled (cqHeadDoorbellOp s p qid value)

/-! ### Enable and shutdown (R100) -/

/-- Size of an admin queue, by its field of AQA; 4,096 where AQA gives none. -/
def adminSize (n : Nat) : Nat := if n % 4096 = 0 then 4096 else n % 4096 + 1

/-- The admin queues of a controller that has just been enabled. -/
def adminSq (x : PortSt) : Sq := { qid := 0, size := adminSize x.aqa, cqid := 0, tail := 0, head := 0, stopped := false }
def adminCq (x : PortSt) : Cq :=
  { qid := 0, size := adminSize (x.aqa / 2 ^ 16), vector := 0, head := 0, tail := 0, entries := [], stopped := false }

/-- CC_EN_SET. -/
def ccEnSetOp (s : State) (p : Port) : State :=
  when (hostReaches s p && !(s.port p).en && !(s.port p).rdy) s fun s =>
    modPort s p fun x => { x with en := true, rdy := true, shn := 0, shst := 0, sqs := [adminSq x], cqs := [adminCq x] }

def execCcEnSet (p : Port) (s : State) : Host.Outcome State Fault Refusal := settled (ccEnSetOp s p)

/-- CC_EN_CLEAR. -/
def ccEnClearOp (s : State) (p : Port) : State :=
  when (hostReaches s p && (s.port p).en) s fun s => portReset s p

def execCcEnClear (p : Port) (s : State) : Host.Outcome State Fault Refusal := settled (ccEnClearOp s p)

def otherPort (p : Port) : Port := match p with | .a => .b | .b => .a

/-- Every spindle serves this controller alone: the other one is not enabled, or is shut down. -/
def servesOnly (s : State) (p : Port) : Bool := let o := s.port (otherPort p); !o.en || o.shst ≠ 0

/-- NORMAL_SHUTDOWN: completed writes are durable already (R99); heads are unloaded. -/
def normalShutdownOp (s : State) (p : Port) : State :=
  when (hostReaches s p && (s.port p).en) s fun s =>
    let s := if servesOnly s p then unloadLoaded s else s
    modPort s p fun x => { x with shn := 1, shst := 2 }

def execNormalShutdown (p : Port) (s : State) : Host.Outcome State Fault Refusal := settled (normalShutdownOp s p)

/-! ### Configuration and memory requests (R69, R88, R90–R93, R97) -/

/-- An extended capability's header. -/
def extCap (id version next : Nat) : Nat := id + version * 2 ^ 16 + next * 2 ^ 20

/-- Doublewords of the capabilities whose contents neither the spec nor the standard fixes: the serial number, equalization and margining
per lane, the Physical Layer and Flit Logging capabilities. -/
def cfgIsOpen (off : Nat) : Bool :=
  [(capAer + 0x1C, 0x10), (capSerial + 4, 8), (capSecondary + 0xC, 8), (cap16 + 4, 0x20), (cap32 + 4, 0x20), (cap64 + 4, 0x10),
   (capFeature + 4, 8), (capFlitLog + 4, 0x30), (capMargin + 4, 4)].any fun e => decide (e.1 ≤ off) && decide (off < e.1 + e.2)

/-- What a configuration register shows beside the bits that the host has written (R88, R90–R93). -/
def cfgShown (s : State) (p : Port) (off : Nat) : Nat :=
  let x := s.port p
  let row := fun i => (Config.calRow i).toNat + (Config.calRow (i + 1)).toNat * 2 ^ 8
  if off = 0x00 then row 4 + partId s % 2 ^ 16 * 2 ^ 16
  else if off = 0x04 then b2n x.bme 2 + 0x10_0000
  else if off = 0x08 then partId s / 2 ^ 16 % 2 ^ 8 + 0x01_0802 * 2 ^ 8
  else if off = 0x10 then x.bar0 % 2 ^ 32 + 4
  else if off = 0x14 then x.bar0 / 2 ^ 32
  else if off = 0x2C then row 6 + row 8 * 2 ^ 16
  else if off = 0x34 then capPm
  else if off = capPm then 0x01 + capMsix * 2 ^ 8 + 0x8003 * 2 ^ 16
  else if off = capPm + 4 then x.dstate % 4 + 8
  else if off = capMsix then 0x11 + capPcie * 2 ^ 8 + 255 * 2 ^ 16
  else if off = capMsix + 4 then 0x1_0000
  else if off = capMsix + 8 then 0x1_8000
  else if off = capPcie then 0x10 + 0x8002 * 2 ^ 16
  else if off = capPcie + 4 then 0x8022
  else if off = capPcie + 0xC then s.conf.maxRate + 1 + (if s.conf.hostcfg1 then 4 else 2) * 2 ^ 4 + 2 * 2 ^ 10 + 0x44_0000
  else if off = capPcie + 0x10 then if x.linkUp then (x.rate + 1 + x.width * 2 ^ 4 + 0x1000) * 2 ^ 16 else 0x1000_0000
  else if off = capPcie + 0x24 then 0x3_0017
  else if off = capPcie + 0x2C then (2 ^ (s.conf.maxRate + 1) - 1) * 2
  else if off = capAer then extCap 0x0001 2 capSerial
  else if off = capSerial then extCap 0x0003 1 capSecondary
  else if off = capSecondary then extCap 0x0019 1 cap16
  else if off = cap16 then extCap 0x0026 1 cap32
  else if off = cap32 then extCap 0x002A 1 cap64
  else if off = cap64 then extCap 0x0031 1 capFeature
  else if off = capFeature then extCap 0x0025 1 capFlitLog
  else if off = capFlitLog then extCap 0x0032 1 capL1ss
  else if off = capL1ss then extCap 0x001E 1 capMargin
  else if off = capL1ss + 4 then 0x1F
  else if off = capMargin then extCap 0x0027 1 0
  else if cfgIsOpen off then (Config.cfgOpen off).toNat
  else 0

/-- A configuration read. -/
def cfgRead (s : State) (p : Port) (off : Nat) : Nat := cfgShown s p off ||| (cfgVar (s.port p) off &&& (cfgRw off ||| cfgW1c off))

/-- A configuration write: bits that the host may set, bits that a 1 clears, Bus Master Enable, BAR0 and BAR1, the power state (D1 and D2
are discarded), MSI-X. -/
def cfgWrite (x : PortSt) (off v : Nat) : PortSt :=
  let keep := cfgVar x off &&& cfgW1c off
  let x := cfgSet x off ((v &&& cfgRw off) ||| (keep ^^^ (keep &&& v)))
  if off = 0x04 then { x with bme := v.testBit 2 }
  else if off = 0x10 then { x with bar0 := x.bar0 / 2 ^ 32 * 2 ^ 32 + v / 2 ^ 17 * 2 ^ 17 }
  else if off = 0x14 then { x with bar0 := v * 2 ^ 32 + x.bar0 % 2 ^ 32 }
  else if off = capPm + 4 then if v % 4 = 0 || v % 4 = 3 then { x with dstate := v % 4 } else x
  else if off = capMsix then sendHeldMsix x
  else x

/-- Controller registers (R97): CAP, VS, CC, CSTS, AQA, ASQ, ACQ. -/
def ctrlReg (x : PortSt) (off : Nat) : Nat :=
  if off = 0x00 then 4095 + 1 * 2 ^ 16 + 60 * 2 ^ 24
  else if off = 0x04 then 0x41 * 2 ^ 5 + 4 * 2 ^ 20
  else if off = 0x08 then 0x0002_0000
  else if off = 0x14 then x.cc + b2n x.en 0 + x.shn % 4 * 2 ^ 14
  else if off = 0x1C then b2n x.rdy 0 + x.shst % 4 * 2 ^ 2
  else if off = 0x24 then x.aqa
  else if off = 0x28 then x.asq % 2 ^ 32
  else if off = 0x2C then x.asq / 2 ^ 32
  else if off = 0x30 then x.acq % 2 ^ 32
  else if off = 0x34 then x.acq / 2 ^ 32
  else 0

/-- A doubleword of BAR0 (R91). -/
def barRead (x : PortSt) (off : Nat) : Nat :=
  if off < 0x1000 then ctrlReg x off
  else if 0x1_0000 ≤ off && off < 0x1_1000 then (mtabAt x ((off - 0x1_0000) / 4)).toNat
  else if 0x1_8000 ≤ off && off < 0x1_8020 then
    (List.range 32).foldl (fun w i => w + b2n (x.pba.contains (8 * (off - 0x1_8000) + i)) i) 0
  else 0

/-- The high or the low half of a 64-bit register written. -/
def putHalf (old v : Nat) (high : Bool) : Nat := if high then v * 2 ^ 32 + old % 2 ^ 32 else old / 2 ^ 32 * 2 ^ 32 + v

/-- CC written (R97, R100): EN and SHN act; the other fields are kept. -/
def ccWrite (s : State) (p : Port) (v : Nat) : State :=
  let s := modPort s p fun x => { x with cc := v - fld v 0 1 - fld v 14 2 * 2 ^ 14 }
  let x := s.port p
  if v.testBit 0 && !x.en then ccEnSetOp s p
  else if !v.testBit 0 && x.en then ccEnClearOp s p
  else if fld v 14 2 = 1 && x.shn = 0 then normalShutdownOp s p
  else if fld v 14 2 = 2 && x.shn = 0 then modPort s p fun x => { x with shn := 2, shst := 2 }
  else s

/-- BAR0 written: controller registers, doorbells, the MSI-X table. -/
def barWrite (s : State) (p : Port) (off : Nat) (v : Word) : State :=
  let n := v.toNat
  if off = 0x14 then ccWrite s p n
  else if off = 0x24 then modPort s p fun x => { x with aqa := n &&& 0x0FFF_0FFF }
  else if off = 0x28 || off = 0x2C then modPort s p fun x => { x with asq := putHalf x.asq n (off = 0x2C) / 4096 * 4096 }
  else if off = 0x30 || off = 0x34 then modPort s p fun x => { x with acq := putHalf x.acq n (off = 0x34) / 4096 * 4096 }
  else if 0x1000 ≤ off && off < 0x1408 then
    let q := (off - 0x1000) / 8
    if off % 8 = 0 then sqTailDoorbellOp s p q n else cqHeadDoorbellOp s p q n
  else if 0x1_0000 ≤ off && off < 0x1_1000 then
    let i := (off - 0x1_0000) / 4
    let w : Word := if i % 4 = 3 then v &&& 1 else if i % 4 = 0 then v &&& 0xFFFF_FFFC else v
    modPort s p fun x => sendHeldMsix { x with mtab := tset (mtabInit i) x.mtab i w }
  else s

/-- A read's answer to the host. -/
def hostAnswer (s : State) (v : Nat) : State := { s with resp := { data := BitVec.ofNat 64 v, err := false, busy := false } }

/-- The function answers requests to BAR0: in D0, Memory Space Enable set. -/
def memEnabled (s : State) (p : Port) : Bool := hostReaches s p && cfgBit (s.port p) 0x04 1

/-- A request served in full. An access to BAR0 that is not aligned gives unpredictable data, or is applied or not (R122); one that the
function does not take is an Unsupported Request. -/
def cfgServe (s : State) (p : Port) (r : CfgReq) : State :=
  match r with
  | .read dw => hostAnswer (modPort s p fun x => { x with cfgAnswer := 2 }) (cfgRead s p (4 * dw))
  | .write dw v => modPort s p fun x => cfgWrite { x with cfgAnswer := 2 } (4 * dw) v.toNat
  | .memRead off =>
    if !memEnabled s p then { s with resp := { data := 0, err := true, busy := false } }
    else if off % 4 ≠ 0 || (0x1000 ≤ off && off < 0x1408) then let d := draw s; hostAnswer d.2 (d.1.toNat % 2 ^ 32)
    else hostAnswer s (barRead (s.port p) off)
  | .memWrite off v =>
    if !memEnabled s p then s
    else if off % 4 ≠ 0 then
      let d := draw s
      if d.1.toNat.testBit 0 then barWrite d.2 p (off / 4 * 4) v else d.2
    else barWrite s p off v

/-- CONFIGURATION_REQUEST: Request Retry Status until HOSTRDY. -/
def configurationRequestOp (s : State) (p : Port) (r : CfgReq) : State :=
  when (linkCarries s p && !dieHeld s) s fun s =>
    if rbit s Reg.sysBootctl 0 then cfgServe s p r
    else
      match r with
      | .read _ | .write _ _ => modPort s p fun x => { x with cfgAnswer := 1 }
      | .memRead _ | .memWrite _ _ => s

def execConfigurationRequest (p : Port) (r : CfgReq) (s : State) : Host.Outcome State Fault Refusal :=
  settled (configurationRequestOp s p r)

/-! ### Events of firmware, and data from the host -/

/-- AENPOST_WRITE (R116, R123): the event goes to both controllers. -/
def aenpostWriteOp (s : State) (p : Port) (v : Word) : State :=
  when (portExists s p) s fun s => postBoth s { ty := fld v.toNat 0 3, info := fld v.toNat 8 8, log := fld v.toNat 24 8 }

def execAenpostWrite (p : Port) (v : Word) (s : State) : Host.Outcome State Fault Refusal := settled (aenpostWriteOp s p v)

/-- Bytes of host data that a command takes. -/
def hostDataLen (c : HostCmd) : Nat :=
  match c.op with
  | .write | .zoneAppend | .compare => 4096 * c.nlb
  | .kvStore => c.hostLen
  | _ => 0

/-- A command of the port fetches data from the host. -/
def fetches (x : Tag) (p : Port) : Bool := x.st = .active && x.port = p && !x.dead && !x.aborted

/-- Read requests that a command still has to have answered, each of Max_Read_Request_Size (R93). -/
def readsLeft (s : State) (p : Port) (x : Tag) : Nat :=
  let rr := readRequest (s.port p)
  if fetches x p then (hostDataLen x.cmd - x.cmd.data.length + rr - 1) / rr else 0

/-- Read requests of the commands before one, in the order of their ASEQ: the port has no more than 512 outstanding (R93). -/
def readsBefore (s : State) (p : Port) (x : Tag) : Nat :=
  (s.cqu.tags.map fun e => if e.2.aseq < x.aseq then readsLeft s p e.2 else 0).sum

/-- Bytes that the requests of a command that are outstanding ask for. -/
def bytesAsked (s : State) (p : Port) (x : Tag) : Nat := (maxRequests (s.port p) - readsBefore s p x) * readRequest (s.port p)

/-- HOST_READ_COMPLETION: data for a command follow those before them; data for a DMA channel are what host memory holds at its
source. -/
def hostReadCompletionOp (s : State) (p : Port) (t : LinkTarget) (bytes : List Byte) : State :=
  when (linkCarries s p) s fun s =>
    match t with
    | .cmd t =>
      let x := tagAt s t
      if fetches x p then
        modTag s t fun x =>
          { x with cmd := { x.cmd with data := (x.cmd.data ++ bytes.take (bytesAsked s p x)).take (hostDataLen x.cmd) } }
      else s
    | .dma c =>
      match (s.dmaCh c).desc with
      | some d =>
        if (s.dmaCh c).busy && d.srcHost && d.port = p then
          { s with hostMem := hostWriteBytes s.hostMem d.src (bytes.take d.total) }
        else s
      | none => s

def execHostReadCompletion (p : Port) (t : LinkTarget) (bytes : List Byte) (s : State) : Host.Outcome State Fault Refusal :=
  settled (hostReadCompletionOp s p t bytes)

end Sys2Proof.Machine
end

