-- ==== Sys2Proof/Machine/Recorder.lean ====
section
/-! DEFINITION. The event recorder and the calibration engine (R548–R566), and the operating second (R552, R599). -/

namespace Sys2Proof.Machine

/-! ### Samples (R549–R551, R554) -/

/-- EVR_SAMPLE: a sample of a channel of the main die enters the queue. -/
def evrSampleOp (s : State) (ch : Fin 96) (v : BitVec 32) : State := if ch.val < 88 then evrPush s ch.val v else s

def execEvrSample (ch : Fin 96) (value : BitVec 32) (s : State) : Host.Outcome State Fault Refusal := settled (evrSampleOp s ch value)

/-- A record of channels 0–87 changed. -/
def setRec (s : State) (ch : Nat) (r : Rec) : State :=
  { s with evr := { s.evr with recs := tset Rec.cleared s.evr.recs ch r } }

def recOf (s : State) (ch : Nat) : Rec := tget Rec.cleared s.evr.recs ch

/-- EVR_APPLY: the oldest queued sample. -/
def evrApplyOp (s : State) : State :=
  match s.evr.queue with
  | [] => s
  | (ch, v, st) :: rest =>
    setRec { s with evr := { s.evr with queue := rest } } ch (recAdd (rn s (Reg.evrChcfg ch)) (recOf s ch) v st)

def execEvrApply (s : State) : Host.Outcome State Fault Refusal := settled (evrApplyOp s)

/-- EVR_POST: channels 60–87 are the recorder's, 90–95 go to the Datum die, any other is ignored and counted. -/
def evrPostOp (s : State) (v : DWord) : State :=
  let ch := fld v.toNat 32 7
  let x := BitVec.ofNat 32 v.toNat
  if 60 ≤ ch && ch < 88 then evrPush s ch x
  else if 90 ≤ ch && ch < 96 then
    if rbit s Reg.evrCtl 0 then { s with evr := { s.evr with fwd := s.evr.fwd ++ [(ch, x)] } } else s
  else rcount s Reg.evrDropped 1

def execEvrPost (v : DWord) (s : State) : Host.Outcome State Fault Refusal := settled (evrPostOp s v)

/-- EVR_FORWARD_TIMEOUT: the oldest post is dropped and counted; DLINK. -/
def evrForwardTimeoutOp (s : State) : State :=
  match s.evr.fwd with
  | [] => s
  | _ :: rest => raise1 (rcount { s with evr := { s.evr with fwd := rest } } Reg.evrDropped 1) .evr 1

def execEvrForwardTimeout (s : State) : Host.Outcome State Fault Refusal := settled (evrForwardTimeoutOp s)

/-! ### Window (R555, R557) -/

/-- The cursor advanced by one word. -/
def advanceCursor (s : State) : State :=
  let w := evrCursorWord s
  let c := evrCursorCh s
  let s := rfSet s Reg.evrCursor 0 6 (if 47 ≤ w then 0 else w + 1)
  if 47 ≤ w then rfSet s Reg.evrCursor 8 7 (if 95 ≤ c then 0 else c + 1) else s

/-- The answer of a read command. -/
def answerRead (s : State) (v : Nat) : State := { s with resp := { data := BitVec.ofNat 64 v, err := false, busy := false } }

/-- WINDOW_READ. -/
def windowReadOp (s : State) : State :=
  advanceCursor (answerRead s (recWord (evrRec s (evrCursorCh s)) (evrCursorWord s)))

def execWindowRead (s : State) : Host.Outcome State Fault Refusal := settled (windowReadOp s)

/-- A word of a stamp replaced. -/
def stampSet (st : Nat × Nat) (k v : Nat) : Nat × Nat :=
  if k = 0 then (putFld st.1 0 32 v, st.2) else if k = 1 then (putFld st.1 32 8 v, st.2) else (st.1, v)

/-- A word of a record replaced (R548). -/
def recSet (r : Rec) (w : Nat) (v : Word) : Rec :=
  let n := v.toNat
  if w < 32 then { r with bins := r.bins.set w n }
  else if w = 32 then { r with min := v }
  else if w = 33 then { r with max := v }
  else if w = 34 then { r with total := putFld r.total 0 32 n }
  else if w = 35 then { r with total := putFld r.total 32 32 n }
  else if w < 39 then { r with minStamp := stampSet r.minStamp (w - 36) n }
  else if w < 42 then { r with maxStamp := stampSet r.maxStamp (w - 39) n }
  else if w < 45 then { r with lastStamp := stampSet r.lastStamp (w - 42) n }
  else r

/-- WINDOW_WRITE: with RESTORE alone, channels 0–87, words 0–44. -/
def windowWriteOp (s : State) (v : Word) : State :=
  let c := evrCursorCh s
  let w := evrCursorWord s
  when (rbit s Reg.evrCtl 1 && decide (c < 88) && decide (w < 45)) s fun s =>
    advanceCursor (setRec s c (recSet (recOf s c) w v))

def execWindowWrite (v : Word) (s : State) : Host.Outcome State Fault Refusal := settled (windowWriteOp s v)

/-- One channel cleared: SEQ counts the clear. -/
def clearRec (s : State) (ch : Nat) : State := setRec s ch { Rec.cleared with seq := ((recOf s ch).seq + 1) % 2 ^ 32 }

/-- EVR_CLEAR. -/
def evrClearOp (s : State) (v : Word) : State :=
  when (keyed v) s fun s =>
    if v.toNat.testBit 8 then overList (List.range 88) s clearRec
    else if fld v.toNat 0 7 < 88 then clearRec s (fld v.toNat 0 7) else s

def execEvrClear (v : Word) (s : State) : Host.Outcome State Fault Refusal := settled (evrClearOp s v)

/-! ### Calibration (R558–R563) -/

/-- Kinds, width of a trim and its register (R559). -/
def trimWidth (k : Fin 6) : Nat := match k with | 0 => 8 | 1 => 8 | 2 => 6 | 3 => 8 | 4 => 10 | 5 => 6
def trimReg (k : Fin 6) (i : Nat) : Nat :=
  match k with
  | 0 => Reg.calAdcofs i | 1 => Reg.calAdcgain i | 2 => Reg.calAfegain i | 3 => Reg.calLaserb i | 4 => Reg.calVcmofs i
  | 5 => Reg.calBandgap

/-- Instances of a kind that the part has (R559, R565). -/
def trimPresent (s : State) (k i : Nat) : Bool :=
  if k < 3 then decide (i < 32) && frontPresent s (i / 2)
  else if k < 5 then decide (i < 16) && frontPresent s i
  else decide (i = 0)

/-- Spindle in its spin-down gap (R560). -/
def spinDown (s : State) (i : Fin 8) : Bool :=
  ((s.spn i).st = .stopping || (s.spn i).st = .brake) && spnParked s i

/-- Start-up is under way (R71). -/
def startingUp (s : State) : Bool :=
  s.boot = .resetReleased || s.boot = .imageVerified || s.boot = .configLoaded || s.boot = .trained

/-- The gap of an instance is open (R559, R560). -/
def calGap (s : State) (k i : Nat) : Bool :=
  if k < 3 then (sliceOfAct s (Fin.ofNat 16 (i / 2))).isNone && !rbit s Reg.pmuGate (8 + i / 2)
  else if k = 3 then spinDown s (Fin.ofNat 8 (i / 2))
  else if k = 4 then (s.act (Fin.ofNat 16 i)).st = .seek || (s.act (Fin.ofNat 16 i)).st = .parked
  else startingUp s || (fin8.any (fun j => spinDown s j) && fin8.all fun n => !(s.slice n).valid)

/-- A measurement may run: calibration enabled, REFIN good, no power fail, no chip reset. -/
def calRuns (s : State) : Bool := rbit s Reg.calCtl 0 && s.cal.refOk && !s.pf.active && s.rst.pending = []

/-- No due instance of lower kind, or of the same kind and lower number, has its gap open (R561). -/
def calFirst (s : State) (k i : Nat) : Bool :=
  s.cal.due.all fun d => !(decide (d.1 < k ∨ (d.1 = k ∧ d.2.1 < i)) && calGap s d.1 d.2.1)

/-- A completed pass toward a target (R562). -/
def calPass (s : State) (k : Fin 6) (i : Nat) (target : Int) : State :=
  let w := trimWidth k
  let hi : Int := 2 ^ (w - 1) - 1
  let lo : Int := -(2 ^ (w - 1))
  let old := sgn w (rn s (trimReg k i))
  let beyond := decide (target < lo) || decide (hi < target)
  let new := if beyond then clampInt lo hi target
    else if rbit s Reg.calCtl 1 then target
    else if old < target then old + 1 else if target < old then old - 1 else old
  let s := rsetN s (trimReg k i) (unsgn w new)
  let s := rsetN (rcount s (Reg.calCount k) 1) (Reg.calLast k) s.evr.opsec
  let s := { s with cal := { s.cal with
    due := s.cal.due.filter fun d => !(d.1 = k.val && d.2.1 = i), last := tset 0 s.cal.last (64 * k.val + i) s.evr.opsec } }
  if beyond then raise1 s .cal 1 else s

/-- CAL_MEASURE: a measurement that its gap's end overtakes is abandoned. -/
def calMeasureOp (s : State) (k : Fin 6) (i : Fin 32) (target : Int) (overtaken : Bool) : State :=
  when (calRuns s && s.cal.due.any (fun d => d.1 = k.val && d.2.1 = i.val) && calGap s k i && calFirst s k i && !overtaken) s
    fun s => calPass s k i target

def execCalMeasure (kind : Fin 6) (inst : Fin 32) (target : Int) (overtaken : Bool) (s : State) :
    Host.Outcome State Fault Refusal := settled (calMeasureOp s kind inst target overtaken)

/-- An instance becomes due (R561). -/
def makeDue (s : State) (k i : Nat) : State :=
  if s.cal.due.any fun d => d.1 = k && d.2.1 = i then s
  else { s with cal := { s.cal with due := s.cal.due ++ [(k, i, s.evr.opsec)] } }

/-- CAL_CMD. -/
def calCmdOp (s : State) (v : Word) : State :=
  let k := fld v.toNat 0 3
  let i := fld v.toNat 8 6
  when (decide (k < 6) && trimPresent s k i) s fun s => makeDue s k i

def execCalCmd (v : Word) (s : State) : Host.Outcome State Fault Refusal := settled (calCmdOp s v)

/-- REFLOST. -/
def reflostOp (s : State) : State := raiseCond { s with cal := { s.cal with refOk := false } } .cal 0

def execReflost (s : State) : Host.Outcome State Fault Refusal := settled (reflostOp s)

/-- REFIN_RETURN. -/
def refinReturnOp (s : State) : State := setLive { s with cal := { s.cal with refOk := true } } .cal 0 false

def execRefinReturn (s : State) : Host.Outcome State Fault Refusal := settled (refinReturnOp s)

/-! ### The operating second (R551, R552, R561, R599) -/

/-- Instances whose period has passed since their last completed pass become due. -/
def calDues (s : State) : State :=
  overList (List.range 6) s fun s k =>
    overList ((List.range 32).filter fun i => trimPresent s k i) s fun s i =>
      if tget 0 s.cal.last (64 * k + i) + rf s (Reg.calPeriod k) 0 16 * 3600 ≤ s.evr.opsec then makeDue s k i else s

/-- Channels 57, 58 and 59. A junction that no reading has shown yet, and the input power, are free values. -/
def secondSamples (s : State) : State :=
  let t : Int × State := match s.tap.temp with
    | some t => (t, s)
    | none =>
      let d := draw s
      (sgn 16 d.1.toNat, d.2)
  let s := evrPush t.2 57 (BitVec.ofInt 32 t.1)
  let d := draw s
  let s := evrPushN d.2 58 (d.1.toNat % 2 ^ 32)
  if s.evr.opsec % 3600 = 0 then
    let s := evrPushN s 59 s.ms.ceHour
    { s with ms := { s.ms with ceHour := 0 } }
  else s

/-- The Datum clock over one second; an erase in the flash ends. -/
def datumSecond (d : DatumSt) : DatumSt :=
  let held := min d.slewHold (2 ^ 15)
  endErases { d with clock := d.clock + (2 ^ 15 - held), slewHold := d.slewHold - held }

/-- OPSEC_ADVANCE. -/
def opsecAdvanceOp (s : State) : State :=
  let s := { s with evr := { s.evr with opsec := (s.evr.opsec + 1) % 2 ^ 40 }, datum := datumSecond s.datum }
  let s := calDues (secondSamples s)
  if s.evr.opsec % 600 = 0 then countSaveNow s else s

def execOpsecAdvance (s : State) : Host.Outcome State Fault Refusal := settled (opsecAdvanceOp s)

end Sys2Proof.Machine
end

