-- ==== Sys2Proof/Machine/HostPages.lean ====
section
/-! DEFINITION. The data that the controller reports to its host: log pages (R114–R117, R319) and Identify (R90, R96–R105, R111, R112,
R119). The layouts that the spec does not give are those of NVMe 2.0 (R6); reserved bytes are zero (R17). -/

namespace Sys2Proof.Machine

/-! ### Pages -/

/-- Bytes laid over a page, each part at its offset. -/
def layOver (page : List Byte) (parts : List (Nat × List Byte)) : List Byte :=
  parts.foldl (fun p e => p.take e.1 ++ e.2 ++ p.drop (e.1 + e.2.length)) page

/-- A page of `n` bytes: the parts given, zeroes elsewhere, but for the spans in `open_`, whose values the spec leaves open. -/
def page (s : State) (n : Nat) (parts : List (Nat × List Byte)) (open_ : List (Nat × Nat)) : List Byte × State :=
  let r := open_.foldl (fun (a : List Byte × State) e =>
    let d := drawBytes a.2 e.2
    (layOver a.1 [(e.1, d.1)], d.2)) (zeros n, s)
  (layOver r.1 parts, r.2)

/-- A 32-bit number as eight hexadecimal digits in ASCII. -/
def hexDigit (n : Nat) : Byte := BitVec.ofNat 8 (if n < 10 then 0x30 + n else 0x37 + n)
def hex32 (n : Nat) : List Byte := (List.range 8).map fun i => hexDigit (n / 16 ^ (7 - i) % 16)

/-! ### What the device knows -/

/-- An entry of the Unrecoverable Object log (R117). -/
def unrecBytes (e : UnrecEntry) : List Byte :=
  toBytes 8 e.seq ++ toBytes 4 e.nsid ++ toBytes 1 e.key.length ++ toBytes 1 e.cause ++ zeros 2
    ++ (e.key ++ zeros 16).take 16 ++ toBytes 8 e.chunk ++ toBytes 2 e.unit ++ toBytes 6 e.maddr ++ toBytes 8 e.time ++ zeros 8

/-- Groups in a state. -/
def groupsIn (s : State) (st : GroupState) : Nat := (s.lat.groups.filter fun e => e.2.st = st).length

/-- Stale bands of a spindle. -/
def staleCount (s : State) (i : Fin 8) : Nat :=
  (s.lat.groups.filter fun e => match memberOn s e.1 i with | some j => mem8 e.2.stale j | none => false).length

/-- A spindle's entry in log 0xC1 (R319). -/
def parityEntry (s : State) (i : Fin 8) : List Byte :=
  toBytes 1 (svcCode (svcOf s i)) ++ toBytes 1 (bit01 (mem8 s.lat.ovf i)) ++ zeros 2 ++ toBytes 4 (vget s.lat.dirty i).length
    ++ toBytes 4 (staleCount s i) ++ toBytes 4 (vget s.lat.rebuilt i) ++ toBytes 4 (vget s.lat.mig.next i / 2 ^ 16)
    ++ toBytes 4 (vget s.lat.vErr i) ++ zeros 8

/-- Log 0xC1. -/
def parityLog (s : State) : List Byte :=
  let head := toBytes 1 s.conf.k ++ toBytes 1 s.conf.m ++ toBytes 1 (groupW s) ++ toBytes 1 (bit01 s.lat.mig.active)
    ++ toBytes 4 (groupsIn s .open_) ++ toBytes 4 (groupsIn s .closed) ++ toBytes 4 (groupsIn s .pending)
    ++ toBytes 4 (s.lat.mig.lastBad.getD 0xFFFF_FFFF)
  layOver (zeros 512) ((0, head) :: fin8.map fun (i : Fin 8) => (0x40 + 32 * i.val, parityEntry s i))

/-- The junction in kelvin; 0 before the first reading. -/
def junctionK (s : State) : Nat := match s.tap.temp with | some x => (x / 16 + 273).toNat | none => 0

/-- Spare blocks of the flash tier have fallen below 10% (R115, R415). -/
def sparesLow (s : State) : Bool := s.fct.formatted && decide (10 * sparesTotal s < sparesReserved s)

/-- Critical Warning (R115): bit 0 follows the spares; bit 1 the junction; bit 2 also the spindles; bit 3 the flash tier's mode. -/
def criticalWarning (s : State) : Nat :=
  let w := s.obj.critWarn.toNat
  let w := putBit w 0 (sparesLow s)
  let w := putBit w 1 (match s.tap.temp with | some x => decide (105 * 16 < x) | none => false)
  let w := if fin8.any fun (i : Fin 8) => svcOf s i = .outOfService then putBit w 2 true else w
  if s.fct.mode = .retired then putBit w 3 true else w

/-- Available Spare and Percentage Used (R415). -/
def availableSpare (s : State) : Nat := if sparesReserved s = 0 then 0 else 100 * sparesTotal s / sparesReserved s
def percentageUsed (s : State) : Nat :=
  let top := rf s Reg.fctEndur 0 16
  if top = 0 then 255 else min 255 (100 * (pecAvg s % 2 ^ 16) / top)

/-- The event recorder's records, 64 words each, channel by channel (R548). -/
def recorderLog (s : State) : List Byte :=
  (List.range 96).flatMap fun ch => (List.range 64).flatMap fun w => toBytes 4 (recWord (evrRec s ch) w)

/-- BUILD of the image in a firmware slot of the Datum die, none where no image begins there (R588). -/
def slotBuild (s : State) (slot : Nat) : Option Nat :=
  let b := fun i => tget (0xFF : Byte) s.datum.bytes (slotBase slot + i)
  if [b 0, b 1, b 2, b 3] = [0x42, 0x46, 0x57, 0x49] then some (ofBytes [b 4, b 5, b 6, b 7]) else none

/-- Firmware revision of a slot: its BUILD in hexadecimal digits. -/
def slotRevision (s : State) (slot : Nat) : List Byte := match slotBuild s slot with | some b => hex32 b | none => zeros 8

/-! ### Log pages (R114) -/

/-- An entry of the Error Information log. -/
def errBytes (e : ErrEnt) : List Byte :=
  toBytes 8 e.num ++ toBytes 2 e.sqid ++ toBytes 2 e.cid ++ toBytes 2 (2 * (e.sc % 256 + e.sct % 8 * 2 ^ 8)) ++ [0xFF, 0xFF] ++ toBytes 8 e.lba
    ++ toBytes 4 e.nsid ++ zeros 36

/-- SMART / Health (R115): what the spec gives, and what follows from the state; the counters of host traffic are open. -/
def smartLog (s : State) (p : Port) : List Byte × State :=
  page s 512
    [(0, toBytes 1 (criticalWarning s)), (1, toBytes 2 (junctionK s)), (3, toBytes 1 (availableSpare s)), (4, toBytes 1 10),
     (5, toBytes 1 (percentageUsed s)), (112, toBytes 16 s.evr.pcyc), (128, toBytes 16 (s.evr.opsec / 3600)),
     (160, toBytes 16 (s.obj.unrecNext - 1)), (176, toBytes 16 (s.port p).errNum)]
    [(32, 80), (144, 16), (192, 8)]

/-- Firmware Slot Information: the slot that was booted, and the revisions in slots A and B. -/
def firmwareLog (s : State) : List Byte :=
  layOver (zeros 512) [(0, toBytes 1 (s.datum.bootSlot % 8)), (8, slotRevision s 0), (16, slotRevision s 1)]

/-- Changed Namespace List. -/
def changedLog (x : PortSt) : List Byte := (x.changed.flatMap (toBytes 4) ++ zeros 4096).take 4096

/-- Admin commands of R112 with their effects: namespaces' data (bit 1), capabilities of namespaces (bit 2), inventory (bit 3). -/
def adminEffects : List (Nat × Nat) :=
  [(0x00, 1), (0x01, 1), (0x02, 1), (0x04, 1), (0x05, 1), (0x06, 1), (0x08, 1), (0x09, 1), (0x0A, 1), (0x0C, 1), (0x0D, 0x0B), (0x10, 1),
   (0x11, 1), (0x14, 1), (0x15, 0x09), (0x80, 0x07), (0x84, 3), (0xC0, 1), (0xC1, 1), (0xC2, 1)]

/-- I/O commands of a command set (R104), likewise. -/
def ioEffects (csi : Nat) : List (Nat × Nat) :=
  if csi = 1 then [(0x00, 1), (0x01, 3), (0x02, 1), (0x06, 1), (0x10, 3), (0x14, 1)]
  else
    let nvm := [(0x00, 1), (0x01, 3), (0x02, 1), (0x05, 1), (0x08, 3), (0x09, 3), (0x0C, 1)]
    if csi = 0 then nvm ++ [(0x19, 3)] else if csi = 2 then nvm ++ [(0x79, 3), (0x7A, 1), (0x7D, 3)] else []

/-- Commands Supported and Effects. -/
def effectsLog (csi : Nat) : List Byte :=
  layOver (zeros 4096)
    (adminEffects.map (fun e => (4 * e.1, toBytes 4 e.2)) ++ (ioEffects csi).map fun e => (1024 + 4 * e.1, toBytes 4 e.2))

/-- Device Self-test: the last twenty results, newest first; an entry not used shows 0xF. The power-on hours of a result are open. -/
def selfTestLog (s : State) : List Byte × State :=
  page s 564
    ((List.range 20).map fun i => (4 + 28 * i, toBytes 1 (match s.obj.selfTest[i]? with
      | some e => (if e.1 then 2 else 1) * 16 + bit01 (!e.2)
      | none => 0x0F)))
    ((List.range s.obj.selfTest.length).map fun i => (4 + 28 * i + 4, 8))

/-- Progress of a Sanitize in 1/65,536, by the time of R111; 0xFFFF where none is under way. -/
def sanitizeProgress (s : State) : Nat :=
  if s.obj.sanitizing then min 0xFFFE ((s.tick.toNat - s.obj.sanTick) * 65536 / 60_000_000_000) else 0xFFFF

/-- Sanitize Status: never sanitized 0, completed 1, in progress 2; a Crypto Erase takes up to 600 s. -/
def sanitizeLog (s : State) : List Byte :=
  layOver (zeros 512)
    [(0, toBytes 2 (sanitizeProgress s)), (2, toBytes 2 (if s.obj.sanitizing then 2 else if s.obj.sanDone then 1 else 0)),
     (4, toBytes 4 (if s.obj.sanitizing || s.obj.sanDone then 4 else 0)), (8, List.replicate 8 0xFF), (16, toBytes 4 600),
     (20, List.replicate 12 0xFF)]

/-- A log page in full, as its controller has it; none for one that is not supported. -/
def logPage (s : State) (p : Port) (lid csi : Nat) : Option (List Byte × State) :=
  match lid with
  | 0x01 => some ((((s.port p).errs.flatMap errBytes) ++ zeros 4096).take 4096, s)
  | 0x02 => some (smartLog s p)
  | 0x03 => some (firmwareLog s, s)
  | 0x04 => some (changedLog (s.port p), s)
  | 0x05 => some (effectsLog csi, s)
  | 0x06 => some (selfTestLog s)
  | 0x81 => some (sanitizeLog s, s)
  | 0xC0 => some (s.obj.unrec.flatMap unrecBytes, s)
  | 0xC1 => some (parityLog s, s)
  | 0xC2 => some (recorderLog s, s)
  | 0xC3 =>
    let r := busRead s masterConf 0x10_001F_FF00 12 none
    some (r.1.getD (zeros 12), r.2)
  | _ => none

/-- The part of a page that one Get Log Page returns: from its offset on; of the Unrecoverable Object log whole entries (R117). -/
def logPart (lid lpo len : Nat) (bs : List Byte) : List Byte := (bs.drop lpo).take (if lid = 0xC0 then len / 64 * 64 else len)

/-! ### Identify (R96–R105, R111, R112, R119) -/

/-- Units that the live versions of a namespace occupy, in LBAs (R103). -/
def nsUse (s : State) (n : Ns) : Nat := ((slotKeys s n.slot).map fun k => (chunkAt s k).count).sum

/-- Identifiers of namespaces above `lo`, in order. -/
def nsidList (s : State) (lo : Nat) (want : Ns → Bool) : List Byte :=
  let ids := (List.range 65).filter fun i => lo < i && (match nsOf s i with | some n => want n | none => false)
  (ids.flatMap (toBytes 4) ++ zeros 4096).take 4096

/-- A power state descriptor (R119): maximum power in 0.01 W, non-operational, entry and exit latency in µs. -/
def powerDesc (power : Nat) (nonOp : Bool) (enlat exlat : Nat) : List Byte :=
  toBytes 2 power ++ [0, BitVec.ofNat 8 (2 * bit01 nonOp)] ++ toBytes 4 enlat ++ toBytes 4 exlat ++ zeros 20

def powerDescs : List Byte :=
  powerDesc 2300 false 0 0 ++ powerDesc 1650 false 100 100 ++ powerDesc 600 false 200 200 ++ powerDesc 210 true 5000 2000

/-- Identify Controller: what the chapter gives, in the layout of NVMe 2.0. The serial number and the NQN come from the calibration row
(R96, R579); the model number and the IEEE identifier are open. -/
def controllerParts (s : State) (p : Port) : List (Nat × List Byte) :=
  let row := fun a n => (List.range n).map fun i => Config.calRow (a + i)
  [(0, row 4 4), (4, row 0x20 20), (64, slotRevision s (s.datum.bootSlot - 1)), (76, toBytes 1 (if s.conf.hostcfg1 then 0 else 3)),
   (77, toBytes 1 9), (78, toBytes 2 (1 + portNum p)), (80, toBytes 4 0x0002_0000), (84, toBytes 4 500000), (88, toBytes 4 1000000),
   (92, toBytes 4 0x100), (111, [1]), (256, toBytes 2 0x1E), (258, toBytes 1 3), (259, toBytes 1 15), (260, toBytes 1 0x04),
   (261, toBytes 1 0x06), (262, toBytes 1 63), (263, toBytes 1 3), (265, toBytes 1 1), (266, toBytes 2 378), (268, toBytes 2 383),
   (280, toBytes 16 (4096 * capacityUnits s)), (328, toBytes 4 1), (512, [0x66, 0x44]), (516, toBytes 4 64), (520, toBytes 2 0x1CD),
   (524, [4]), (525, [0]), (534, toBytes 2 1), (536, toBytes 4 0x1_0001), (768, row 0x40 256), (2048, powerDescs)]

/-- Identify Namespace (R101–R103): thin-provisioned, one LBA format of 4,096 bytes, no metadata and no protection information; a
deallocated block reads as zeroes. -/
def namespaceParts (s : State) (n : Ns) : List (Nat × List Byte) :=
  [(0, toBytes 8 n.size ++ toBytes 8 n.size ++ toBytes 8 (nsUse s n)), (24, [1, 0, 0, 0, 0, 0, 1]), (33, [1]),
   (104, (n.nguid ++ zeros 16).take 16), (128, [0, 0, 12, 0])]

/-- Of a Zoned namespace (R105): at most 1,024 active and 256 open zones, zones of 65,536 LBAs. -/
def zonedParts : List (Nat × List Byte) := [(4, toBytes 4 1023), (8, toBytes 4 255), (2816, toBytes 8 65536)]

/-- The data structure that CNS selects, for a command set where it depends on one; none where CNS is not supported. -/
def identifyData (s : State) (x : Tag) (cns csi : Nat) : Option (List Byte × State) :=
  let some' := fun parts => some (layOver (zeros 4096) parts, s)
  match cns with
  | 0 => match nsOf s x.cmd.nsid with
    | none => some' []
    | some n => some' (namespaceParts s n)
  | 1 => some (page s 4096 (controllerParts s x.port) [(24, 40), (73, 3), (316, 2)])
  | 2 => some (nsidList s x.cmd.nsid fun n => n.attached x.port, s)
  | 3 => match nsOf s x.cmd.nsid with
    | none => some' []
    | some n => some' [(0, [2, 16, 0, 0] ++ (n.nguid ++ zeros 16).take 16), (20, [4, 1, 0, 0] ++ toBytes 1 n.cmdset)]
  | 4 => some' []
  | 5 => match nsOf s x.cmd.nsid with
    | none => some' []
    | some n =>
      if n.cmdset ≠ csi then none
      else if csi = 2 then some' zonedParts
      else if csi = 1 then some (page s 4096 [(0, toBytes 8 0), (16, toBytes 8 (nsUse s n))] [(25, 4071)])
      else some' []
  | 6 => if csi = 2 then some' [(0, [8])] else if csi < 2 then some' [] else none
  | 7 => some (nsidList s x.cmd.nsid fun n => n.attached x.port && n.cmdset = csi, s)
  | 8 => match nsOf s x.cmd.nsid with
    | none => some' []
    | some _ => some' [(0, [1, 1]), (14, [1])]
  | 0x1C => some' [(0, toBytes 8 7)]
  | _ => none

end Sys2Proof.Machine
end

