-- ==== Sys2Proof/Machine/Admin.lean ====
section
/-! DEFINITION. The admin commands (R104, R109–R119, R145–R147, R163, R173, R174): queues, logs, Identify, features, events, Abort,
namespaces, firmware, self-test, Format, Sanitize and Retention Query. -/

namespace Sys2Proof.Machine

/-! Status codes of NVMe 2.0 that this chapter does not number. -/

def scCqInvalid : Nat × Nat := (1, 0)
def scQid : Nat × Nat := (1, 1)
def scQsize : Nat × Nat := (1, 2)
def scAbortLimit : Nat × Nat := (1, 3)
def scAerLimit : Nat × Nat := (1, 5)
def scFwImage : Nat × Nat := (1, 7)
def scVector : Nat × Nat := (1, 8)
def scLogPage : Nat × Nat := (1, 9)
def scFormat : Nat × Nat := (1, 0xA)
def scQdelete : Nat × Nat := (1, 0xC)
def scNsid : Nat × Nat := (1, 0x16)
def scAttached : Nat × Nat := (1, 0x18)
def scNotAttached : Nat × Nat := (1, 0x1A)
def scCtlrList : Nat × Nat := (1, 0x1C)

/-- An admin command other than those that destroy, and the controller that it came to. -/
def adminCmd (s : State) (t : Nat) (f : Tag → State) : State := if readyAdmin s t .adminOther then f (tagAt s t) else s

/-! ### Queues (R98, R112) -/

def createIoCqOp (s : State) (t qid size vector : Nat) : State :=
  adminCmd s t fun x =>
    let p := s.port x.port
    if qid = 0 || 128 < qid || p.cqs.any fun q => q.qid = qid then complete s t scQid 0
    else if size < 2 || 4096 < size then complete s t scQsize 0
    else if 256 ≤ vector then complete s t scVector 0
    else
      let q : Cq := { qid := qid, size := size, vector := vector, head := 0, tail := 0, entries := [], stopped := false }
      complete (modPort s x.port fun p => { p with cqs := p.cqs ++ [q] }) t scOk 0

def execCreateIoCq (tag qid size vector : Nat) (s : State) : Host.Outcome State Fault Refusal := settled (createIoCqOp s tag qid size vector)

def createIoSqOp (s : State) (t qid size cqid : Nat) : State :=
  adminCmd s t fun x =>
    let p := s.port x.port
    if qid = 0 || 128 < qid || p.sqs.any fun q => q.qid = qid then complete s t scQid 0
    else if size < 2 || 4096 < size then complete s t scQsize 0
    else if cqid = 0 || !p.cqs.any fun q => q.qid = cqid then complete s t scCqInvalid 0
    else
      let q : Sq := { qid := qid, size := size, cqid := cqid, tail := 0, head := 0, stopped := false }
      complete (modPort s x.port fun p => { p with sqs := p.sqs ++ [q] }) t scOk 0

def execCreateIoSq (tag qid size cqid : Nat) (s : State) : Host.Outcome State Fault Refusal := settled (createIoSqOp s tag qid size cqid)

/-- Delete I/O Submission Queue: once no command of the queue is in flight. -/
def deleteIoSqOp (s : State) (t qid : Nat) : State :=
  adminCmd s t fun x =>
    if qid = 0 || !(s.port x.port).sqs.any fun q => q.qid = qid then complete s t scQid 0
    else if s.cqu.tags.any fun e => e.2.port = x.port && e.2.sqid = qid then s
    else complete (modPort s x.port fun p => { p with sqs := p.sqs.filter fun q => q.qid ≠ qid }) t scOk 0

def execDeleteIoSq (tag qid : Nat) (s : State) : Host.Outcome State Fault Refusal := settled (deleteIoSqOp s tag qid)

def deleteIoCqOp (s : State) (t qid : Nat) : State :=
  adminCmd s t fun x =>
    let p := s.port x.port
    if qid = 0 || !p.cqs.any fun q => q.qid = qid then complete s t scQid 0
    else if p.sqs.any fun q => q.cqid = qid then complete s t scQdelete 0
    else complete (modPort s x.port fun p => { p with cqs := p.cqs.filter fun q => q.qid ≠ qid }) t scOk 0

def execDeleteIoCq (tag qid : Nat) (s : State) : Host.Outcome State Fault Refusal := settled (deleteIoCqOp s tag qid)

/-! ### Log pages and Identify (R112, R114, R116) -/

/-- Event types that the reading of a log page unmasks (R116): those whose last event named it. -/
def unmask (x : PortSt) (lid : Nat) : PortSt :=
  { x with maskedTypes := x.maskedTypes.filter fun ty =>
      match x.events.find? fun e => e.ty = ty with
      | some e => e.log ≠ lid
      | none => true }

/-- GET_LOG_PAGE. A reading of log 0xC0, whatever its Retain Asynchronous Event, is the reading that ends bit 2 of Critical Warning for
unrecoverable objects (R115; log entry 188). The Changed Namespace List is empty after a reading that retains nothing. -/
def getLogPageOp (s : State) (t lid : Nat) (rae : Bool) (lpo csi : Nat) : State :=
  adminCmd s t fun x =>
    match logPage s x.port lid csi with
    | none => complete s t scLogPage 0
    | some (bs, s) =>
      if bs.length < lpo then complete s t scField 0
      else
        let s := sendHost s x (logPart lid lpo x.cmd.hostLen bs)
        let s := if lid = 0xC0 then { s with obj := { s.obj with critWarn := s.obj.critWarn &&& ~~~4 } } else s
        let s := if rae then s else modPort s x.port fun p => unmask (if lid = 4 then { p with changed := [] } else p) lid
        let s := complete s t scOk 0
        if rae then s else serveHeld s x.port

def execGetLogPage (tag lid : Nat) (a : LogArgs) (s : State) : Host.Outcome State Fault Refusal :=
  settled (getLogPageOp s tag lid a.rae a.lpo a.csi)

/-- IDENTIFY. -/
def identifyOp (s : State) (t cns csi : Nat) : State :=
  adminCmd s t fun x =>
    match identifyData s x cns csi with
    | none => complete s t scField 0
    | some (bs, s) => complete (sendHost s x bs) t scOk 0

def execIdentify (tag : Nat) (a : IdArgs) (s : State) : Host.Outcome State Fault Refusal := settled (identifyOp s tag a.cns a.csi)

/-! ### Abort (R145–R147) -/

/-- The command that an Abort names. -/
def abortTarget (s : State) (p : Port) (sqid cid : Nat) : Option (Nat × Tag) :=
  s.cqu.tags.find? fun e => e.2.port = p && e.2.sqid = sqid && e.2.cmd.cid = cid && !e.2.dead

/-- The named command can be aborted in its present state. -/
def abortable (x : Tag) : Bool :=
  !x.admin &&
    match x.st with
    | .fetched | .lockwait => true
    | .active => !x.destr && !x.aborted
    | .free | .ledger | .completing => false

/-- A command is aborted: at once, or when the operations already started have ended (R146). -/
def abortCommand (s : State) (t : Nat) : State := endWith s t scAbort

/-- The Abort's own completion, which follows that of the command it aborted. -/
def endAbort (s : State) (t : Nat) (target : Option Nat) (dw0 : Nat) : State :=
  let s := rfSet s Reg.cquAbortcnt (16 * dw0) 16 (min 0xFFFF (rf s Reg.cquAbortcnt (16 * dw0) 16 + 1))
  complete (modTag s t fun x => { x with waits := target }) t scOk dw0

/-- ABORT. -/
def abortOp (s : State) (t sqid cid : Nat) : State :=
  adminCmd s t fun x =>
    if 4 ≤ (s.cqu.tags.filter fun e => e.2.port = x.port && e.2.waits.isSome).length then complete s t scAbortLimit 0
    else
      match abortTarget s x.port sqid cid with
      | none => endAbort s t none 1
      | some (u, y) =>
        if abortable y then
          let s := abortCommand s u
          endAbort s t (if (tagAt s u).st = .free then none else some u) 0
        else endAbort s t none 1

def execAbort (tag sqid cid : Nat) (s : State) : Host.Outcome State Fault Refusal := settled (abortOp s tag sqid cid)

/-! ### Features (R113, R119, R148, R149) -/

def featureIds : List Nat := [1, 2, 4, 5, 7, 8, 9, 0xB, 0xC, 0xE]

/-- A power state set: PS3 by its entry, an operational one at once. -/
def setPower (s : State) (p : Port) (ps : Nat) : State :=
  if ps = 3 then decidePs3 s p
  else
    let s := if (s.port p).ps = 3 || (s.cqu.psStep ≠ 0 && (s.cqu.psPort = p || s.cqu.psBoth)) then
        ps3Reverse (modPort s p fun x => { x with lastOpPs := ps }) p
      else
        let s := modPort s p fun x => { x with ps := ps, lastOpPs := ps }
        if s.cqu.psStep = 0 then { s with cqu := { s.cqu with psTarget := ps } } else s
    trimSlices s

/-- Number of Queues: 128 of each, from 0. -/
def queueCounts : Nat := 127 + 127 * 2 ^ 16

/-- A value that a feature does not take: a power state beyond PS3, a vector beyond the table, a sensor other than the composite one. -/
def featureBad (fid value : Nat) : Bool :=
  (fid = 2 && decide (3 < value % 32)) || (fid = 9 && decide (255 < value % 2 ^ 16))
    || (fid = 4 && (!(fld value 16 4 = 0 || fld value 16 4 = 15) || decide (1 < fld value 20 2)))

/-- Where a feature is kept: Temperature Threshold by its type, Interrupt Vector Configuration by its vector. -/
def featureKey (fid cdw11 : Nat) : Nat :=
  if fid = 4 then thresholdKey (fld cdw11 20 2) else if fid = 9 then vectorKey (cdw11 % 2 ^ 16) else fid

/-- SET_FEATURES: the completion of Number of Queues carries what is allocated. -/
def setFeaturesOp (s : State) (t fid value : Nat) : State :=
  adminCmd s t fun x =>
    if !featureIds.contains fid || featureBad fid value then complete s t scField 0
    else
      let s := modPort s x.port fun p => { p with features := tset 0 p.features (featureKey fid value) (if fid = 4 then value + 2 ^ 32 else value) }
      let s := if fid = 0xE then modPort s x.port fun p => { p with tsBase := value % 2 ^ 48, tsTick := s.tick.toNat } else s
      let s := complete s t scOk (if fid = 7 then queueCounts else 0)
      if fid = 2 then setPower s x.port (value % 32) else s

def execSetFeatures (tag fid value : Nat) (s : State) : Host.Outcome State Fault Refusal := settled (setFeaturesOp s tag fid value)

/-- Timestamp: milliseconds, which advance with the tick, and in byte 6 that the host has set it. -/
def timestamp (s : State) (p : PortSt) : List Byte :=
  toBytes 6 ((p.tsBase + (s.tick.toNat - p.tsTick) / 100000) % 2 ^ 48) ++ [if tget 0 p.features 0xE = 0 then 0 else 2, 0]

/-- What Get Features reports in Dword 0. -/
def featureValue (p : PortSt) (fid cdw11 : Nat) : Nat :=
  if fid = 2 then p.ps
  else if fid = 4 then threshold p (fld cdw11 20 2)
  else if fid = 7 then queueCounts
  else if fid = 9 then cdw11 % 2 ^ 16 + fld (tget 0 p.features (vectorKey (cdw11 % 2 ^ 16))) 16 1 * 2 ^ 16
  else if fid = 0xE then 0
  else tget 0 p.features fid

/-- GET_FEATURES. -/
def getFeaturesOp (s : State) (t fid cdw11 : Nat) : State :=
  adminCmd s t fun x =>
    let p := s.port x.port
    let v := featureValue p fid cdw11
    if !featureIds.contains fid || (fid = 9 && 255 < cdw11 % 2 ^ 16) || (fid = 4 && 1 < fld cdw11 20 2) then complete s t scField 0
    else
      let s := if fid = 0xE then sendHost s x (timestamp s p) else if fid = 0xC then sendHost s x (toBytes 8 v) else s
      complete s t scOk (v % 2 ^ 32)

def execGetFeatures (tag : Nat) (a : FeatArgs) (s : State) : Host.Outcome State Fault Refusal :=
  settled (getFeaturesOp s tag a.fid a.cdw11)

/-- ASYNC_EVENT_REQUEST: at most 16 outstanding. -/
def asyncEventRequestOp (s : State) (t : Nat) : State :=
  adminCmd s t fun x =>
    if (s.port x.port).aers.contains t then s
    else if 16 ≤ (s.port x.port).aers.length then complete s t scAerLimit 0
    else serveHeld (modPort s x.port fun p => { p with aers := p.aers ++ [t] }) x.port

def execAsyncEventRequest (tag : Nat) (s : State) : Host.Outcome State Fault Refusal := settled (asyncEventRequestOp s tag)

/-! ### Namespaces (R101, R102, R163, R173, R174) -/

/-- Body of a namespace record (R174). -/
def nsRecordBody (n : Ns) : List Byte :=
  layOver (zeros 4096) [(0, toBytes 4 n.nsid ++ toBytes 1 n.cmdset ++ toBytes 1 n.keyep), (8, (n.nguid ++ zeros 16).take 16),
    (0x18, toBytes 8 (if n.cmdset = 1 then 0 else n.size)), (0x20, toBytes 8 n.created)]

def nsRecordKey (n : Ns) : Nat := chunkKey (nsRecordHandle n.slot) 0

/-- A new record of a namespace, with GEN one higher than the last; the key is the one that the Datum die holds for the slot. -/
def writeNsRecord (s : State) (n : Ns) : State :=
  let s := storeChunk s (nsRecordKey n) n.keyep (nsRecordBody n)
  modNs s n.nsid fun m => { m with keyep := n.keyep, keyDraw := (tget MKey.none s.datum.keys n.slot).draw, recGen := (chunkAt s (nsRecordKey n)).gen }

/-- The Datum die makes a key for a slot, with an epoch (R163, R587). -/
def makeKey (s : State) (slot epoch : Nat) : State :=
  modDatum (norRewriteFree s 1025) fun d =>
    { d with keyDraws := d.keyDraws + 1, keys := tset MKey.none d.keys slot { epoch := epoch, draw := d.keyDraws + 1 } }

/-- The lowest NSID not in use. -/
def freeNsid (s : State) : Option Nat := ((List.range 64).map (· + 1)).find? fun i => (nsOf s i).isNone

/-- Chunks of LBAs of a namespace; it has at most 2^40 - 1 (R157). -/
def tooManyChunks (size : Nat) : Bool := decide (2 ^ 40 - 1 < (size + 15) / 16)

/-- NAMESPACE_CREATE: key epoch 1 and its record. -/
def namespaceCreateOp (s : State) (t cmdset lbaf size : Nat) (nguid : List Byte) : State :=
  adminCmd s t fun _ =>
    if lbaf ≠ 0 then complete s t scFormat 0
    else if 3 ≤ cmdset || nguid.length ≠ 16 || (cmdset ≠ 1 && (size = 0 || tooManyChunks size)) || (cmdset = 2 && size % 65536 ≠ 0) then complete s t scField 0
    else
      match freeNsid s with
      | none => complete s t scNsid 0
      | some id =>
        let n : Ns :=
          { nsid := id, cmdset := cmdset, nguid := nguid, size := if cmdset = 1 then 0 else size, attA := false, attB := false
            keyep := 1, keyDraw := 0, created := clockSec s.datum, recGen := 0, nextSerial := 2, zones := [], objs := [] }

        when (takesData s 4128) s fun s =>
          complete (writeNsRecord (makeKey { s with obj := { s.obj with nss := s.obj.nss ++ [n] } } n.slot 1) n) t scOk id

def execNamespaceCreate (tag cmdset lbaf size : Nat) (nguid : List Byte) (s : State) : Host.Outcome State Fault Refusal :=
  settled (namespaceCreateOp s tag cmdset lbaf size nguid)

/-- An identifier entered in a list in ascending order, once. -/
def insertNsid (n : Nat) (l : List Nat) : List Nat :=
  match l with
  | [] => [n]
  | m :: rest => if n < m then n :: m :: rest else if n = m then l else m :: insertNsid n rest

/-- A controller learns of a change of a namespace: it enters the Changed Namespace List, and Asynchronous Event Configuration may enable
the event (R113, R114). -/
def noticeOn (s : State) (p : Port) (n : Ns) : State :=
  if !portExists s p then s
  else
    let s := modPort s p fun x => { x with changed := insertNsid n.nsid x.changed }
    if (tget 0 (s.port p).features 0xB).testBit 8 then postAen s p { ty := 2, info := 0, log := 4 } else s

/-- Every controller to which the namespace is attached learns of a change (R116). -/
def noticeChange (s : State) (n : Ns) : State :=
  let s := if n.attA then noticeOn s .a n else s
  if n.attB then noticeOn s .b n else s

/-- NAMESPACE_DELETE, past the ledger: one tombstone over the record's handle ends the namespace. -/
def namespaceDeleteOp (s : State) (t : Nat) : State :=
  let x := tagAt s t
  match nsOf s x.cmd.nsid with
  | none => s
  | some n =>
    when (readyAdmin s t .adminNsDelete) s fun s =>
      let s := overList (slotKeys s n.slot) s dropChunk
      let s := addTomb s (nsRecordHandle n.slot) 0 (2 ^ 40 - 1) 4
      let s := { s with obj := { s.obj with nss := s.obj.nss.filter fun m => m.nsid ≠ n.nsid } }
      noticeChange (complete s t scOk 0) n

def execNamespaceDelete (tag : Nat) (s : State) : Host.Outcome State Fault Refusal := settled (namespaceDeleteOp s tag)

def setAttached (n : Ns) (p : Port) (b : Bool) : Ns := match p with | .a => { n with attA := b } | .b => { n with attB := b }

/-- NAMESPACE_ATTACHMENT. -/
def namespaceAttachmentOp (s : State) (t nsid : Nat) (p : Port) (attach : Bool) : State :=
  adminCmd s t fun _ =>
    match nsOf s nsid with
    | none => complete s t scNamespace 0
    | some n =>
      if !portExists s p then complete s t scCtlrList 0
      else if n.attached p = attach then complete s t (if attach then scAttached else scNotAttached) 0
      else noticeChange (complete (modNs s nsid fun m => setAttached m p attach) t scOk 0) (setAttached n p true)

def execNamespaceAttachment (tag nsid : Nat) (p : Port) (attach : Bool) (s : State) : Host.Outcome State Fault Refusal :=
  settled (namespaceAttachmentOp s tag nsid p attach)

/-! ### Firmware and self-test (R112, R590) -/

/-- A result of the Datum die as a status. -/
def datumStatus (r : Nat) (bad : Nat × Nat) : Nat × Nat := if r = 0 then scOk else if r = 10 then scField else bad

/-- FIRMWARE_IMAGE_DOWNLOAD: bytes of an image to a slot of the Datum die. -/
def firmwareImageDownloadOp (s : State) (t slot offset : Nat) (bytes : List Byte) : State :=
  adminCmd s t fun _ =>
    let e := norDraw s
    let r := writeSlot e.2 slot offset bytes e.1
    complete r.2.2 t (datumStatus r.1 scFwImage) 0

def execFirmwareImageDownload (tag slot offset : Nat) (bytes : List Byte) (s : State) : Host.Outcome State Fault Refusal :=
  settled (firmwareImageDownloadOp s tag slot offset bytes)

/-- FIRMWARE_COMMIT. -/
def firmwareCommitOp (s : State) (t slot : Nat) (floor : Bool) (img : ImageInfo) : State :=
  adminCmd s t fun _ =>
    let r := commitSlot s slot floor img
    complete r.2.2 t (datumStatus r.1 scFwImage) 0

def execFirmwareCommit (tag slot : Nat) (floor : Bool) (img : ImageInfo) (s : State) : Host.Outcome State Fault Refusal :=
  settled (firmwareCommitOp s tag slot floor img)

/-- DEVICE_SELF_TEST: its result joins the last twenty. -/
def deviceSelfTestOp (s : State) (t : Nat) (extended pass : Bool) : State :=
  adminCmd s t fun _ =>
    complete { s with obj := { s.obj with selfTest := ((extended, pass) :: s.obj.selfTest).take 20 } } t scOk 0

def execDeviceSelfTest (tag : Nat) (extended pass : Bool) (s : State) : Host.Outcome State Fault Refusal :=
  settled (deviceSelfTestOp s tag extended pass)

/-! ### Format and Sanitize (R110, R111, R163) -/

/-- A namespace as Format and Sanitize leave it: a new key epoch, no object, every zone empty, a new record. -/
def renewNs (s : State) (n : Ns) (epoch : Nat) : State :=
  let s := overList (slotKeys s n.slot) s dropChunk
  let s := modNs s n.nsid fun m => { m with keyep := epoch, zones := [], objs := [] }
  writeNsRecord s { n with keyep := epoch }

/-- FORMAT_NVM, past the ledger: LBA format 0 alone, every Secure Erase Setting alike. -/
def formatNvmOp (s : State) (t lbaf ses : Nat) : State :=
  match nsOf s (tagAt s t).cmd.nsid with
  | none => s
  | some n =>
    when (readyAdmin s t .adminFormat) s fun s =>
      if lbaf ≠ 0 then complete s t scFormat 0
      else if 3 ≤ ses then complete s t scField 0
      else
        let e := nextEpoch n.keyep
        when (takesData s 4128) s fun s => noticeChange (complete (renewNs (makeKey s n.slot e) n e) t scOk 0) n

def execFormatNvm (tag lbaf ses : Nat) (s : State) : Host.Outcome State Fault Refusal := settled (formatNvmOp s tag lbaf ses)

/-- Every block of the flash tier erased: nothing is mapped and no journal stands; retired blocks stay retired. -/
def eraseFlash (f : FctSt) : FctSt :=
  { f with
    sbs := f.sbs.map fun e => if e.2.st = .retired then e else (e.1, { Sb.erased with native := e.2.native, pec := e.2.pec + 1 })
    map := [], data := [], journal := [], jFlash := f.jseq, ckptSeq := 0, ckptJ := f.jseq, ckptMap := [], victim := none
    copied := (0, 0, 0), folding := false, weak := [], weak3 := [], patrolPos := 0, tpc := [], disk := [] }

/-- The first part of Crypto Erase: every key replaced. -/
def sanitizeBegin (s : State) : State :=
  let s := modDatum (norRewriteFree s 1025) fun d => (List.range 64).foldl newKey d
  { s with obj := { s.obj with sanitizing := true, sanCut := false, sanTick := s.tick.toNat } }

/-- Its end: flash erased; the map, the parity accumulators and the dirty set cleared; a record of the new epoch for every
namespace. -/
def sanitizeEnd (s : State) : State :=
  let s := overList (liveKeys s) s dropChunk
  let s : State := { s with
    fct := eraseFlash s.fct
    lat := { s.lat with images := [], groups := s.lat.groups.filter fun e => e.2.st = .reserved }
    obj := { s.obj with durable := [], pfRecord := none, tombs := [], cache := [], sanitizing := false, sanDone := true } }
  overList s.obj.nss s fun s n => renewNs s n (tget MKey.none s.datum.keys n.slot).epoch

/-- SANITIZE (R111): Crypto Erase (action 4) alone. Its first occurrence for a command begins it, the next one ends it; a Sanitize that
a reset has cut starts again at start-up, by occurrences that name no command. -/
def sanitizeOp (s : State) (t action : Nat) : State :=
  if readyAdmin s t .adminSanitize then
    if action ≠ 4 then complete s t scField 0
    else if s.obj.sanitizing && !s.obj.sanCut then complete (sanitizeEnd s) t scOk 0
    else sanitizeBegin s
  else if s.obj.sanitizing && s.cqu.tags.all fun e => e.2.cmd.op ≠ .adminSanitize then
    if s.obj.sanCut then sanitizeBegin s else sanitizeEnd s
  else s

def execSanitize (tag action : Nat) (s : State) : Host.Outcome State Fault Refusal := settled (sanitizeOp s tag action)

/-! ### Retention Query (R112, R591) -/

/-- Objects and chunks that a query names: an LBA range, a key, or the whole namespace. -/
def queryScope (n : Ns) (c : HostCmd) : Option Nat × Nat × Nat :=
  match kvFind n c.key with
  | some o => (some o.handle, 0, 2 ^ 40 - 1)
  | none => if c.nlb = 0 then (none, 0, 2 ^ 40 - 1) else (some (nsObject n.slot), c.slba / 16, (c.slba + c.nlb - 1) / 16)

/-- A rule in force covers part of a scope. -/
def ruleMeets (r : Rule) (slot : Nat) (q : Option Nat × Nat × Nat) : Bool :=
  ruleInForce r && r.nsslot = slot &&
    (r.nswide || (match q.1 with | some h => decide (r.handle = h) | none => true) && decide (r.first ≤ q.2.2) && decide (q.2.1 ≤ r.last))

/-- RETENTION_QUERY: the records of the rules, in the layout of R591; Dword 0 gives their number. -/
def retentionQueryOp (s : State) (t : Nat) : State :=
  adminCmd s t fun x =>
    match nsOf s x.cmd.nsid with
    | none => complete s t scNamespace 0
    | some n =>
      let rs := s.datum.rules.filter fun r => ruleMeets r.2 n.slot (queryScope n x.cmd)
      complete (sendHost s x (rs.flatMap fun r => ruleBytes r.2)) t scOk rs.length

def execRetentionQuery (tag : Nat) (s : State) : Host.Outcome State Fault Refusal := settled (retentionQueryOp s tag)

end Sys2Proof.Machine
end

