-- ==== Sys2Proof/Machine/Inputs.lean ====
section
/-! DEFINITION. Fault registers and general inputs (R529–R547). -/

namespace Sys2Proof.Machine

/-! ### Fault registers -/

/-- ESC of the kinds that have lost their last FSTAT bit returns to 0 (R536). -/
def settleEsc (before after : State) (b : Blk) : State :=
  overList (List.range 8) after fun t k =>
    if unacked before b k && !unacked after b k then rfSet t (aFreact b) (16 + 2 * k) 2 0 else t

/-- FSTAT_WRITE (R540): bits written 1 clear unless they are LIVE; STILL tells whether one was; the capture empties with the
last bit (R538). An absent block's window ignores it (R2). -/
def fstatWriteOp (s : State) (b : Blk) (v : DWord) : State :=
  when (blkPresent s b) s fun s =>
  let live := rget s (aFlive b)
  let t := rset s (aFstat b) (rget s (aFstat b) &&& ~~~(v &&& ~~~live))
  let t := settleEsc s t b
  let t := rbitSet t (aFctl b) 31 (v &&& live ≠ 0)
  if rget t (aFstat b) = 0 then { t with fcaps := tset Fcap.empty t.fcaps (blkWindow b) Fcap.empty } else t

def execFstatWrite (b : Blk) (v : DWord) (s : State) : Host.Outcome State Fault Refusal := settled (fstatWriteOp s b v)

/-- FMASK_WRITE (R532). -/
def fmaskWriteOp (s : State) (b : Blk) (v : Word) : State := when (blkPresent s b) s fun s => fieldWrite32 s (aFmask b) v

def execFmaskWrite (b : Blk) (v : Word) (s : State) : Host.Outcome State Fault Refusal := settled (fmaskWriteOp s b v)

/-- FRSTSRC_HOLD_CLEAR (R537). -/
def frstsrcHoldClearOp (s : State) (v : Word) : State := fieldWrite32 s Reg.pmuFrstsrc v

def execFrstsrcHoldClear (v : Word) (s : State) : Host.Outcome State Fault Refusal := settled (frstsrcHoldClearOp s v)

/-! ### General inputs (R542–R547) -/

def input (s : State) (i : Fin 9) : InputSt := vget s.inputs i
def modInput (s : State) (i : Fin 9) (f : InputSt → InputSt) : State := { s with inputs := vmod s.inputs i f }

/-- SHOCKHOLD runs on every actuator from now (R341). -/
def startShockHold (s : State) : State :=
  let n := rf s Reg.radGctl 16 8
  { s with acts := s.acts.map fun (x : ActSt) => { x with shockLeft := n } }

/-- The count of the window that a trigger falls in, and the tick at which that window opened (R545). -/
def stormCount (s : State) (i : Fin 9) : Nat × Nat :=
  match (input s i).window with
  | some (t0, n) => if s.tick.toNat < t0 + 100000000 then (t0, n + 1) else (s.tick.toNat, 1)
  | none => (s.tick.toNat, 1)

/-- A trigger (R544, R545): TRIG, and the storm guard. A masked input has no further effect. -/
def trigger (s : State) (i : Fin 9) : State :=
  if (input s i).masked then s
  else
    let w := stormCount s i
    let s := modInput s i fun x => { x with trig := true, window := some w }
    if rf s (Reg.sysIncfg i) 16 8 < w.2 then
      let s := modInput s i fun x => { x with masked := true }
      let s := if i = 0 then startShockHold s else s
      raiseCond s .sys (16 + i.val)
    else s

/-- INPUT_EDGE (R341, R543): the filtered level changes. -/
def inputEdgeOp (s : State) (i : Fin 9) (active : Bool) : State :=
  when ((input s i).level ≠ active) s fun s =>
    let free := !(input s i).masked
    let s := modInput s i fun x => { x with level := active }
    if active then
      let s := rfCount s (Reg.sysIncnt i) 0 16 1
      let s := if i = 0 && free then overList fin16 s fun s a => wusAdd s a .servo else s
      trigger s i
    else if i = 0 && free then startShockHold s else s

def execInputEdge (i : Fin 9) (active : Bool) (s : State) : Host.Outcome State Fault Refusal := settled (inputEdgeOp s i active)

/-- INPUT_RETRIGGER (R544). -/
def inputRetriggerOp (s : State) (i : Fin 9) : State :=
  when ((input s i).level && decide (rf s (Reg.sysIncfg i) 24 8 ≠ 0)) s fun s => trigger s i

def execInputRetrigger (i : Fin 9) (s : State) : Host.Outcome State Fault Refusal := settled (inputRetriggerOp s i)

/-- INPUT_STUCK (R546). -/
def inputStuckOp (s : State) (i : Fin 9) : State :=
  when (input s i).level s fun s => raiseCond (modInput s i fun x => { x with faulty := true }) .sys (32 + i.val)

def execInputStuck (i : Fin 9) (s : State) : Host.Outcome State Fault Refusal := settled (inputStuckOp s i)

/-- INSTAT_WRITE (R545, R546): MASKED and FAULTY clear only while the filtered level is inactive, and their sources then cease
to be LIVE. -/
def instatWriteOp (s : State) (i : Fin 9) (v : Word) : State :=
  let x := input s i
  let quiet := !x.level
  let unmask := v.toNat.testBit 30 && quiet && x.masked
  let unfault := v.toNat.testBit 29 && quiet && x.faulty
  let s := modInput s i fun x =>
    { x with masked := x.masked && !unmask, faulty := x.faulty && !unfault, trig := x.trig && !v.toNat.testBit 28 }
  let s := if unmask then setLive s .sys (16 + i.val) false else s
  if unfault then setLive s .sys (32 + i.val) false else s

def execInstatWrite (i : Fin 9) (v : Word) (s : State) : Host.Outcome State Fault Refusal := settled (instatWriteOp s i v)

end Sys2Proof.Machine
end

