-- ==== Sys2Proof/Machine/Caches.lean ====
section
/-! DEFINITION. The caches of the control cores (R443, R463, R500–R507, R510, R511), the accesses of a core to memory, and
the registers that start, reset and steer a core (R479–R481). -/

namespace Sys2Proof.Machine

/-! ### Posted errors and halts (R468, R471) -/

/-- A posted write of a core received an error response (R468); one that is pending keeps its address. -/
def postErr (s : State) (c : Fin 8) (a : Nat) : State :=
  modCore s c fun k => { k with werr := match k.werr with | none => some a | some b => some b }

/-- The error of a write-back, where there was one. -/
def postErrOf (s : State) (c : Fin 8) (e : Option Nat) : State :=
  match e with | none => s | some a => postErr s c a

/-- A core halts (R471). -/
def haltCore (s : State) (c : Fin 8) : State := modCore s c fun k => { k with run := .halted }

/-! ### Lines -/

/-- The set of a line: address bits [12:6] (R500). -/
def lineSet (l : Nat) : Nat := l % 128

/-- The cached regions: buffer DRAM and scratchpad bank 0 (R443). -/
def cachedAt (s : State) (a : Nat) : Bool :=
  match regionOf s a with | .buf => true | .spd b => b = 0 | .locus | .regs | .none => false

/-- Lines of a core's instruction cache (`ic`) or data cache, most recently used first. -/
def cacheLines (s : State) (c : Fin 8) (ic : Bool) : List Line := if ic then (s.core c).icache else (s.core c).dcache

def setLines (s : State) (c : Fin 8) (ic : Bool) (ls : List Line) : State :=
  modCore s c fun k => if ic then { k with icache := ls } else { k with dcache := ls }

def lineAt (ls : List Line) (l : Nat) : Option Line := ls.find? fun x => x.line = l
def withoutLine (ls : List Line) (l : Nat) : List Line := ls.filter fun x => x.line ≠ l

/-- The line in a way of a set. -/
def lineInWay (ls : List Line) (set w : Nat) : Option Line := ls.find? fun x => lineSet x.line = set && x.way = w

/-- A line of a cache used: it becomes the most recent one, as `x` has it. -/
def useLine (s : State) (c : Fin 8) (ic : Bool) (x : Line) : State :=
  setLines s c ic (x :: withoutLine (cacheLines s c ic) x.line)

/-- A line changed in its place. -/
def modLine (s : State) (c : Fin 8) (ic : Bool) (l : Nat) (f : Line → Line) : State :=
  setLines s c ic ((cacheLines s c ic).map fun x => if x.line = l then f x else x)

/-- CACHECTLc: the enable, the locked ways, the preload way while PLEN is 1 (R511). -/
def cacheOn (s : State) (c : Fin 8) (ic : Bool) : Bool := rbit s (Reg.cpcCachectl c) (if ic then 0 else 1)
def lockMask (s : State) (c : Fin 8) (ic : Bool) : Nat := rf s (Reg.cpcCachectl c) (if ic then 4 else 8) 3
def preloadWay (s : State) (c : Fin 8) : Option Nat :=
  if rbit s (Reg.cpcCachectl c) 12 then some (rf s (Reg.cpcCachectl c) 13 2) else none

/-- Way that a miss allocates (R503): an empty unlocked one, else that of the least recently used line of an unlocked way. -/
def victimWay (ls : List Line) (set locks : Nat) : Nat :=
  match ([0, 1, 2, 3] : List Nat).find? fun w => !locks.testBit w && (lineInWay ls set w).isNone with
  | some w => w
  | none =>
    match ls.reverse.find? fun x => lineSet x.line = set && !locks.testBit x.way with
    | some x => x.way
    | none => 3

/-- The line that a way of a set holds leaves it, written back where dirty (R502). -/
def emptyWay (s : State) (c : Fin 8) (ic : Bool) (set w : Nat) : State :=
  match lineInWay (cacheLines s c ic) set w with
  | none => s
  | some x =>
    let s := setLines s c ic (withoutLine (cacheLines s c ic) x.line)
    if ic then s
    else
      let r := wbLine s c x
      postErrOf r.2 c r.1

/-! ### Fills (R501) -/

/-- Sub-block `k` of a line replaced. -/
def putSub (x : Line) (k : Nat) (bs : List Byte) : Line :=
  { x with valid := BitVec.ofNat 4 (putBit x.valid.toNat k true), bytes := mergeBytes x.bytes (16 * k) bs }

/-- One sub-block filled; false where the fill met an error response, which leaves it invalid. -/
def fillSub (s : State) (c : Fin 8) (ic : Bool) (l k : Nat) (u : Option EccErr) : Bool × State :=
  match busRead s c.val (64 * l + 16 * k) 16 u with
  | (some bs, s) => (true, modLine s c ic l fun x => putSub x k bs)
  | (none, s) => (false, s)

/-- A line allocated in a way and filled, the needed sub-block `k` first. -/
def fillLine (s : State) (c : Fin 8) (ic : Bool) (l k w : Nat) (u : Option EccErr) : Bool × State :=
  let s := emptyWay s c ic (lineSet l) w
  let s := useLine s c ic { line := l, way := w, valid := 0, dirty := 0, bytes := zeros 64 }
  let r := fillSub s c ic l k u
  (r.1, overList [(k + 1) % 4, (k + 2) % 4, (k + 3) % 4] r.2 fun s j => (fillSub s c ic l j none).2)

/-- How an access to a cache ended: the sub-block stands in the line; the needed fill met an error response; the core halted. -/
inductive CacheEnd | ok | err | dead
  deriving DecidableEq, Repr

/-- A parity error met on a hit in a line with dirty data (R505): the core halts, DCPAR. -/
def dcPar (s : State) (c : Fin 8) (a ty : Nat) : State :=
  raise (haltCore s c) .cpc [8 + c.val] { addr := a, ty := ty, master := c.val }

/-- The dirty line that a miss of the data cache evicts (R502). -/
def dirtyVictim (s : State) (c : Fin 8) (ic : Bool) (l : Nat) : Option Line :=
  if ic then none
  else (lineInWay (cacheLines s c ic) (lineSet l) (victimWay (cacheLines s c ic) (lineSet l) (lockMask s c ic))).filter fun x => x.dirty ≠ 0

/-- A cache brought to hold the sub-block of an address (R501–R503, R505). `ty`: the access type of the capture. On a miss, the
operand's parity error is met by the write-back of the line that leaves. -/
def cacheAccess (s : State) (c : Fin 8) (ic : Bool) (a ty : Nat) (e : MemEv) : CacheEnd × State :=
  let l := a / 64
  let k := a % 64 / 16
  let ofFill := fun (r : Bool × State) => (if r.1 then CacheEnd.ok else CacheEnd.err, r.2)
  match lineAt (cacheLines s c ic) l with
  | some x =>
    if e.parity then
      if !ic && x.dirty ≠ 0 then (.dead, dcPar s c a ty)
      else
        let s := rfCount (setLines s c ic (withoutLine (cacheLines s c ic) l)) (Reg.cpcCperr c) (if ic then 16 else 0) 16 1
        ofFill (fillLine s c ic l k x.way e.upset)
    else
      let s := useLine s c ic x
      if x.valid.toNat.testBit k then (.ok, s) else ofFill (fillSub s c ic l k e.upset)
  | none =>
    if e.parity && (dirtyVictim s c ic l).isSome then (.dead, dcPar s c a ty)
    else ofFill (fillLine s c ic l k (victimWay (cacheLines s c ic) (lineSet l) (lockMask s c ic)) e.upset)

/-! ### Accesses of a core to memory (R455–R461) -/

/-- How a load ended. -/
inductive Loaded
  | val (v : Nat)
  | err
  | dead
  deriving DecidableEq, Repr

/-- A load of `n` bytes from a region that is no register window; true where it came back busy (R459). -/
def memLoad (s : State) (c : Fin 8) (a n : Nat) (e : MemEv) : Loaded × Bool × State :=
  if cachedAt s a && cacheOn s c false then
    match cacheAccess s c false a 1 e with
    | (.ok, s) =>
      match lineAt (s.core c).dcache (a / 64) with
      | some x => (.val (ofBytes ((x.bytes.drop (a % 64)).take n)), false, s)
      | none => (.err, false, s)
    | (.err, s) => (.err, false, s)
    | (.dead, s) => (.dead, false, s)
  else
    match busRead s c.val a n e.upset with
    | (none, s) => (.err, false, s)
    | (some bs, s) =>
      match regionOf s a with
      | .spd b =>
        if e.busy && b ≠ 0 then
          let d := draw (noteBusy s a 1)
          (.val (d.1.toNat % 2 ^ (8 * n)), true, d.2)
        else (.val (ofBytes bs), false, s)
      | _ => (.val (ofBytes bs), false, s)

/-- A store of `n` bytes to a region that is no register window; an error response is posted (R456, R501). -/
def memStore (s : State) (c : Fin 8) (a n v : Nat) (e : MemEv) : State :=
  if cachedAt s a && cacheOn s c false then
    match cacheAccess s c false a 2 e with
    | (.ok, s) =>
      modLine s c false (a / 64) fun x =>
        { x with bytes := mergeBytes x.bytes (a % 64) (toBytes n v), dirty := BitVec.ofNat 4 (putBit x.dirty.toNat (a % 64 / 16) true) }
    | (.err, s) => postErr s c a
    | (.dead, s) => s
  else
    let r := busWrite s c.val a (toBytes n v)
    if r.1 then r.2 else postErr r.2 c a

/-- What a fetch meets beside stored bytes: nothing that a command names. -/
def MemEv.none : MemEv := { busy := false, parity := false, upset := Option.none }

/-- The fetch of the instruction at an address (R449, R501, R506); false where it met an error response. A fetch from an
unassigned address is a fabric error of TYPE 1 (R30, R538); no access is made to a region that holds no instructions. -/
def fetchAt (s : State) (c : Fin 8) (a : Nat) : Bool × State :=
  if !cachedAt s a then (false, if regionOf s a = .none then fabricError s a 1 c.val else s)
  else if cacheOn s c true then
    let r := cacheAccess s c true a 1 MemEv.none
    (r.1 = .ok, r.2)
  else
    let r := busRead s c.val a 4 Option.none
    (r.1.isSome, r.2)

/-! ### Maintenance (R463, R504, R507) -/

/-- CCLEAN of a line. -/
def cleanLine (s : State) (c : Fin 8) (l : Nat) : State :=
  match lineAt (s.core c).dcache l with
  | none => s
  | some x =>
    let r := wbLine s c x
    postErrOf (modLine r.2 c false l fun x => { x with dirty := 0 }) c r.1

/-- CINVAL, IINVAL of a line. -/
def dropLine (s : State) (c : Fin 8) (ic : Bool) (l : Nat) : State := setLines s c ic (withoutLine (cacheLines s c ic) l)

/-- CPRE, IPRE of the line that holds an address: into way PLWAY while PLEN is 1. -/
def preload (s : State) (c : Fin 8) (ic : Bool) (a : Nat) : State :=
  let l := a / 64
  match lineAt (cacheLines s c ic) l, preloadWay s c with
  | some x, some w =>
    if x.way = w then s else useLine (emptyWay s c ic (lineSet l) w) c ic { x with way := w }
  | some _, none => s
  | none, some w => (fillLine s c ic l (a % 64 / 16) w Option.none).2
  | none, none =>
    (fillLine s c ic l (a % 64 / 16) (victimWay (cacheLines s c ic) (lineSet l) (lockMask s c ic)) Option.none).2

/-- The maintenance operation of a CM on the line that holds an address. -/
def cacheOp (s : State) (c : Fin 8) (cm a : Nat) : State :=
  let ic := cm = 3 || cm = 5
  if !cachedAt s a || !cacheOn s c ic then s
  else if cm = 0 then cleanLine s c (a / 64)
  else if cm = 1 then dropLine s c false (a / 64)
  else if cm = 2 then dropLine (cleanLine s c (a / 64)) c false (a / 64)
  else if cm = 3 then dropLine s c true (a / 64)
  else preload s c ic a

/-! ### CACHECTL and CORECTL -/

/-- A write of CACHECTLc by core c (R506, R511): a cache whose enable is cleared is written back and emptied. -/
def cachectlOp (s : State) (c : Fin 8) (v : Word) : State :=
  let old := rn s (Reg.cpcCachectl c)
  let w := if fld v.toNat 13 2 = 3 then putFld v.toNat 13 2 (fld old 13 2) else v.toNat
  let s := if old.testBit 1 && !w.testBit 1 then
      let r := wbLines s c (s.core c).dcache
      postErrOf (setLines r.2 c false []) c r.1
    else s
  let s := if old.testBit 0 && !w.testBit 0 then setLines s c true [] else s
  fieldWrite s (Reg.cpcCachectl c) (BitVec.ofNat 64 w)

/-- The core runs, and nothing holds the main die. -/
def coreRuns (s : State) (c : Fin 8) : Bool := (s.core c).run = .running && !dieHeld s

/-- CACHECTL_WRITE: the store of a running core to its own CACHECTL. -/
def execCachectlWrite (c : Fin 8) (v : Word) (s : State) : Host.Outcome State Fault Refusal :=
  settled (when (coreRuns s c) s fun s => cachectlOp s c v)

/-- A core in reset starts at STARTPC (R481). -/
def startCore (s : State) (c : Fin 8) : State :=
  if (s.core c).run = .reset then
    modCore s c fun k => { k with run := .running, pc := BitVec.ofNat 64 (rn s (Reg.cpcStartpc c)) }
  else s

/-- A write of CORECTLc (R481). -/
def corectlOp (s : State) (c : Fin 8) (v : Word) : State :=
  when (keyed v) s fun s =>
    let s := rbitSet s (Reg.cpcCorectl c) 0 (v.toNat.testBit 0)
    if v.toNat.testBit 1 then coreResetOp s c true
    else if v.toNat.testBit 0 then startCore s c
    else if (s.core c).run = .reset then s else coreResetOp s c true

/-- CORE_RUN: a write with RUN 1 and RESET 0. -/
def execCoreRun (c : Fin 8) (v : Word) (s : State) : Host.Outcome State Fault Refusal := settled (corectlOp s c ((v ||| 1) &&& ~~~2))

/-- CORE_RESET: a write with RESET 1, or with RUN 0. -/
def execCoreReset (c : Fin 8) (v : Word) (s : State) : Host.Outcome State Fault Refusal :=
  settled (corectlOp s c (if v.toNat.testBit 0 then v ||| 2 else v))

end Sys2Proof.Machine
end

