-- ==== Sys2Proof/Machine/Mcs.lean ====
section
/-! DEFINITION. The microcode store: words and their check, images and their loading (R482, R488, R492, R493, R495–R499, R508,
R509). -/

namespace Sys2Proof.Machine

/-! ### Microwords (R482) -/

/-- A field of a microword. -/
def uf (w : BitVec 80) (lsb n : Nat) : Nat := fld w.toNat lsb n

/-- R488: CHECK[i] is the even parity of bits [9i + 16 : 9i + 8]. -/
def wordCheckOk (w : BitVec 80) : Bool :=
  (List.range 8).all fun i => decide (popcount 9 (uf w (9 * i + 8) 9) % 2 = uf w i 1)

/-- A word uses a reserved code, or has a reserved bit set (R482–R486, R490). -/
def wordReserved (w : BitVec 80) : Bool :=
  decide (uf w 75 5 = 31) || decide (uf w 71 4 = 15) || decide (uf w 67 4 = 15) || decide (12 ≤ uf w 63 4)
    || decide (6 ≤ uf w 60 3) || decide (10 ≤ uf w 53 4) || decide (5 ≤ uf w 34 3) || decide (6 ≤ uf w 30 4)
    || decide (uf w 8 8 ≠ 0)

/-- What a customer word may not do (R497). -/
def wordCustBad (w : BitVec 80) : Bool :=
  ((uf w 34 3 = 1 || uf w 34 3 = 2) && decide (uf w 16 14 < 0x3800)) || decide (5 ≤ uf w 53 4 ∧ uf w 53 4 ≤ 7)
    || (uf w 53 4 = 4 && !(uf w 37 8 = 1 || uf w 37 8 = 5)) || uf w 63 4 = 11

/-! ### The staged image (R495) -/

/-- A byte of MCS.STAGE. -/
def stageByte (s : State) (i : Nat) : Nat := fld (rn s (Reg.mcsStage (i / 4))) (8 * (i % 4)) 8

def stageNat (s : State) (i n : Nat) : Nat :=
  match n with
  | 0 => 0
  | n' + 1 => stageByte s i + 256 * stageNat s (i + 1) n'

def imgKind (s : State) : Nat := stageByte s 4
def imgWords (s : State) : Nat := stageNat s 6 2
def imgBuild (s : State) : Nat := stageNat s 8 4
def imgOvl (s : State) (n : Nat) : Nat := stageNat s (0x10 + 4 * n) 4
def imgXop (s : State) (n : Nat) : Nat := stageNat s (0x110 + 2 * n) 2
def imgWord (s : State) (i : Nat) : BitVec 80 := BitVec.ofNat 80 (stageNat s (0x310 + 16 * i) 10)

/-- FORMAT of R497. -/
def imgFormatBad (s : State) : Bool :=
  let n := imgWords s
  let k := imgKind s
  let ovl := (List.range 64).map (imgOvl s)
  let xop := (List.range 256).map (imgXop s)
  let valid := ovl.filter fun v => v.testBit 31
  decide (stageNat s 0 4 ≠ 0x4953_434D) || !(k = 1 || k = 2) || decide (n = 0 ∨ 2048 < n)
    || decide (rf s Reg.mcsLoadlen 0 16 ≠ 0x370 + 16 * n) || decide (stageNat s 0xC 4 ≠ 0)
    || (List.range n).any (fun i => decide (stageNat s (0x310 + 16 * i + 10) 6 ≠ 0) || !wordCheckOk (imgWord s i) || wordReserved (imgWord s i))
    || ovl.any (fun v => decide (fld v 30 1 ≠ 0 ∨ fld v 14 2 ≠ 0))
    || valid.any (fun v => decide (0x2FFF < fld v 0 14) || decide (fld v 16 14 < 0x3000) || decide (0x3000 + n ≤ fld v 16 14))
    || !((valid.map fun v => fld v 0 14).Nodup)
    || xop.any (fun v => decide (fld v 11 4 ≠ 0) || (v.testBit 15 && decide (n ≤ fld v 0 11)))
    || (k = 1 && xop.any fun v => decide (v ≠ 0)) || (k = 2 && ovl.any fun v => decide (v ≠ 0))

/-- RESULT of the check of R497; 0 where the image passes. -/
def imgCheck (s : State) : Nat :=
  if imgFormatBad s then 2
  else if stageByte s 5 ≠ fld (partId s) 16 8 then 5
  else if imgKind s = 2 && (List.range (imgWords s)).any fun i => wordCustBad (imgWord s i) then 7
  else 0

/-! ### Loading (R496, R498, R499) -/

def loadBusy (s : State) : Bool := rbit s Reg.mcsLoadstat 31

/-- A load ends with a RESULT. -/
def endLoad (s : State) (r : Nat) : State :=
  let s := rfSet (rfSet s Reg.mcsLoadstat 28 4 4) Reg.mcsLoadstat 0 4 r
  { s with mcs := { s.mcs with load := none } }

/-- A write of LOADCTL. -/
def loadctlOp (s : State) (v : Word) : State :=
  let s := fieldWrite32 s Reg.mcsLoadctl v
  if v.toNat.testBit 0 && !loadBusy s then
    let s := rfSet (rfSet (rbitSet s Reg.mcsLoadstat 31 true) Reg.mcsLoadstat 28 2 1) Reg.mcsLoadstat 4 4 (imgKind s)
    if imgCheck s ≠ 0 then endLoad s (imgCheck s)
    else
      let s := rfSet s Reg.mcsLoadstat 28 2 2
      { s with mcs := { s.mcs with load := some (imgKind s, BitVec.ofNat 32 (imgBuild s)) } }
  else s

/-- MCS_LOAD_START: a write with START 1. -/
def execMcsLoadStart (v : Word) (s : State) : Host.Outcome State Fault Refusal := settled (loadctlOp s (v ||| 1))

/-- First word of the region of a kind. -/
def kindBase (k : Nat) : Nat := if k = 1 then 0x3000 else 0x3800

/-- The commit: the whole region written in every copy, the overlay or the XOP table replaced. -/
def commitImage (s : State) (k : Nat) (build : Word) : State :=
  let base := kindBase k
  let away := fun (a : Nat) => decide (a < base) || decide (base + 0x800 ≤ a)
  let words := (List.range (imgWords s)).foldl (fun m i => tset 0 m (base + i) (imgWord s i)) (s.mcs.words.filter fun e => away e.1)
  let m := { s.mcs with words := words, bad := s.mcs.bad.filter fun x => away (x % 16384) }
  if k = 1 then
    overList (List.range 64) { s with mcs := { m with vbuild := some build } } fun t n => rsetN t (Reg.mcsOvl n) (imgOvl s n)
  else
    overList (List.range 256) { s with mcs := { m with cbuild := build } } fun t n => rsetN t (Reg.mcsXopent n) (imgXop s n)

/-- RESULT for a verdict of the Datum die. -/
def verdictResult (v : Nat) : Nat := if v = 0 then 1 else if v = 2 then 3 else if v = 11 then 4 else 6

/-- MCS_VERDICT. -/
def mcsVerdictOp (s : State) (sigOk : Bool) : State :=
  match s.mcs.load with
  | none => s
  | some (k, build) =>
    when (mailboxUp s) s fun s =>
      let v := judgeMicrocode s k build.toNat sigOk
      endLoad (if v = 0 then commitImage s k build else s) (verdictResult v)

def execMcsVerdict (sigOk : Bool) (s : State) : Host.Outcome State Fault Refusal := settled (mcsVerdictOp s sigOk)

/-- MCS_VERDICT_TIMEOUT. -/
def mcsVerdictTimeoutOp (s : State) : State := if s.mcs.load.isSome then endLoad s 6 else s

def execMcsVerdictTimeout (s : State) : Host.Outcome State Fault Refusal := settled (mcsVerdictTimeoutOp s)

/-! ### Words as a core fetches them (R493, R494) -/

/-- The overlay (R493). -/
def overlay (s : State) (a : Nat) : Nat :=
  match (List.range 64).find? fun n => rbit s (Reg.mcsOvl n) 31 && rf s (Reg.mcsOvl n) 0 14 = a with
  | some n => rf s (Reg.mcsOvl n) 16 14
  | none => a

/-- Key of a core's copy of a word. -/
def copyKey (c : Fin 8) (a : Nat) : Nat := c.val * 16384 + a

/-- Copies of a RAM word that have failed since it was written. -/
def noteBad (s : State) (a : Nat) (bad : BitVec 8) : State :=
  let new := (fin8.filter fun (c : Fin 8) => bad.toNat.testBit c.val && !s.mcs.bad.contains (copyKey c a)).map fun c => copyKey c a
  if 0x3000 ≤ a then { s with mcs := { s.mcs with bad := s.mcs.bad ++ new } } else s

/-- A copy passes R488. -/
def copyOk (s : State) (c : Fin 8) (a : Nat) : Bool :=
  !s.mcs.bad.contains (copyKey c a) && wordCheckOk (csWord s a)

/-- Fetch of a microword by a core: repaired from another core's copy, or none where the core halts with CSFATAL (R494). -/
def fetchWord (s : State) (c : Fin 8) (a : Nat) (bad : BitVec 8) : Option (BitVec 80) × State :=
  let a := overlay s a
  let s := noteBad s a bad
  if copyOk s c a then (some (csWord s a), s)
  else if 0x3000 ≤ a && fin8.any (fun d => d ≠ c && copyOk s d a) then
    let s := { s with mcs := { s.mcs with bad := s.mcs.bad.filter fun x => x ≠ copyKey c a } }
    let s := raise (rcount s Reg.mcsCserr 1) .mcs [0] Cap.none
    (some (csWord s a), s)
  else (none, raise (haltCore s c) .mcs [1] Cap.none)

end Sys2Proof.Machine
end

