-- ==== Sys2Proof/Machine/Memories.lean ====
section
/-! DEFINITION. Commands of the memories (14): scrub (R428), self-refresh (R429), the correctable-error logs (R437), SPD.CLEAR (R431),
and the retirement of pages and banks (R441, R442). -/

namespace Sys2Proof.Machine

/-- Words of the buffer. -/
def bufWords (s : State) : Nat := bufUsable s / 16

/-- Number of the word at a physical word position: a page of 256 holds 224 words of data, then their check bits (R426). -/
def scrubWord (pos : Nat) : Nat := pos / 256 * 224 + pos % 256
def scrubPlace (w : Nat) : Nat := w / 224 * 256 + w % 224

/-- Scrub runs: enabled, the buffer READY, and in PS3 only while a spindle turns. -/
def scrubs (s : State) : Bool := rbit s Reg.bufCtl 0 && s.ms.ready && (!s.ms.selfref || turningMask s ≠ 0)

/-- SCRUB_READ: the word at the scrub position, in which the operand says an error may have arisen. -/
def scrubReadOp (s : State) (upset : Option EccErr) : State :=
  when (scrubs s) s fun s =>
    let w := scrubWord s.ms.scrubPos
    let next := if bufWords s ≤ w + 1 then 0 else scrubPlace (w + 1)
    let s := { s with ms := { s.ms with scrubPos := next } }
    let s := upsetWord s w upset
    match eccOf s w with
    | none => s
    | some (.corr sym) => noteCe (setEcc s w none) w sym.val true
    | some .unc => noteUe s w 1 masterScrub

def execScrubRead (upset : Option EccErr) (s : State) : Host.Outcome State Fault Refusal := settled (scrubReadOp s upset)

/-- BUF_SELFREF_EXIT: the buffer, trained before, leaves the self-refresh of a block reset. -/
def bufSelfrefExitOp (s : State) : State :=
  when (s.ms.selfref && !s.ms.ready && !s.ms.init && decide (s.ms.gib ≠ 0)) s fun s => { s with ms := { s.ms with ready := true, selfref := false } }

def execBufSelfrefExit (s : State) : Host.Outcome State Fault Refusal := settled (bufSelfrefExitOp s)

/-- A write of CELOGCLR of SPD or of BUF. -/
def celogclrWriteOp (s : State) (spd : Bool) (v : Word) : State :=
  let i := Fin.ofNat 16 (v.toNat % 16)
  if spd then { s with ms := { s.ms with spdLog := vset s.ms.spdLog i none } }
  else { s with ms := { s.ms with bufLog := vset s.ms.bufLog i none } }

def execCelogclrWrite (spd : Bool) (v : Word) (s : State) : Host.Outcome State Fault Refusal := settled (celogclrWriteOp s spd v)

/-- The words of a bank read as zero, their valid bits 0. -/
def clearBank (s : State) (b : Fin 4) : State :=
  let lo := spdBase b
  let hi := spdBase b + spdSize b
  let away := fun (w : Nat) => decide (16 * w < lo) || decide (hi ≤ 16 * w)
  { s with
    mem := s.mem.filter fun e => decide (e.1 < lo) || decide (hi ≤ e.1)
    ms := { s.ms with spdValid := s.ms.spdValid.filter fun e => away e.1, ecc := s.ms.ecc.filter fun e => away e.1 } }

/-- SPD.CLEAR and BANKRET carry the key 0xC4E5; a write with another is ignored (R446). -/
def spdKeyed (v : Word) : Bool := decide (v.toNat / 2 ^ 16 = 0xC4E5)

/-- SPD_CLEAR. -/
def spdClearOp (s : State) (v : Word) : State :=
  when (spdKeyed v) s fun s => overList ([0, 1, 2, 3] : List (Fin 4)) s fun s b => if v.toNat.testBit b.val then clearBank s b else s

def execSpdClear (v : Word) (s : State) : Host.Outcome State Fault Refusal := settled (spdClearOp s v)

/-- RETIRE entry `i` of bank `b`. -/
def retireIx (b i : Fin 4) : Fin 16 := Fin.ofNat 16 (4 * b.val + i.val)

/-- PAGE_RETIRE: a write of a RETIRE entry; one that is VALID ignores it. The index is clamped to the bank (R446). -/
def pageRetireOp (s : State) (b i : Fin 4) (v : Word) : State :=
  let p := min (v.toNat % 2 ^ 11) (spdLastPage b)
  when (vget s.ms.retire (retireIx b i) = none) s fun s =>
    let s := rsetN s (Reg.spdRetire (retireIx b i).val) p
    if v.toNat.testBit 31 then { s with ms := { s.ms with retire := vset s.ms.retire (retireIx b i) (some (p, true)) } } else s

def execPageRetire (b i : Fin 4) (v : Word) (s : State) : Host.Outcome State Fault Refusal := settled (pageRetireOp s b i v)

/-- RETIRE_COPY_DONE: the words of the page have been read and stand in the spare, which takes the page's place; an uncorrectable
word stays so. -/
def retireCopyDoneOp (s : State) (b i : Fin 4) : State :=
  match vget s.ms.retire (retireIx b i) with
  | some (p, true) =>
    let w := (spdBase b + 4096 * p) / 16
    let s := overList (List.range 256) s fun s k => (decodeWord s (w + k)).2
    { s with ms := { s.ms with retire := vset s.ms.retire (retireIx b i) (some (p, false)) } }
  | _ => s

def execRetireCopyDone (b i : Fin 4) (s : State) : Host.Outcome State Fault Refusal := settled (retireCopyDoneOp s b i)

/-- BANKRET: banks 0 and 3 alone. -/
def bankretOp (s : State) (v : Word) : State :=
  when (spdKeyed v) s fun s =>
    { s with ms := { s.ms with bankRet := s.ms.bankRet ||| BitVec.ofNat 4 (v.toNat &&& 9) } }

def execBankret (v : Word) (s : State) : Host.Outcome State Fault Refusal := settled (bankretOp s v)

end Sys2Proof.Machine
end

