-- ==== Sys2Proof/Machine/RegBus.lean ====
section
/-! DEFINITION. Reads and writes of the register windows (R2, R8–R14, R84, R349, R458): every register through one read
and one write, which call the operation of the register's own row where it has one. -/

namespace Sys2Proof.Machine

/-! ### Windows and registers that read zero or keep their values -/

/-- Registers of what the part or its configuration lacks: they read zero and ignore writes (R2, R349, R565). -/
def regBlank (s : State) (b : Blk) (r : RegRow) (i : Nat) : Bool :=
  match b with
  | .chd n => !slicePresent s n
  | .afe => r.off < 0xFF00 && !frontPresent s i
  | .spn => r.off < 0xFF00 && s.part.is4804 && decide (4 ≤ i)
  | .rad =>
    if 0xFF00 ≤ r.off then false
    else if 0xC000 ≤ r.off then !actPresent s (i / 128)
    else if 0x4000 ≤ r.off then !actPresent s (i / 512)
    else if 0x1000 ≤ r.off then false
    else !actPresent s (i / r.n2)
  | .cal =>
    if 0xFF00 ≤ r.off || r.off < 0x100 then false
    else !trimPresent s (if r.off = 0x100 then 0 else if r.off = 0x180 then 1 else if r.off = 0x200 then 2
      else if r.off = 0x280 then 3 else if r.off = 0x2C0 then 4 else 5) i
  | _ => false

/-- The registers of HPB while HOSTCFG is 1 (R84). -/
def regFixed (s : State) (b : Blk) : Bool := b = .hpb && s.conf.hostcfg1

/-- Bits that a map says are zero (R239, R263, R291, R420). -/
def zeroBits (b : Blk) (r : RegRow) : Bool :=
  match b with
  | .chd _ => r.off = 0x40 || r.off = 0x208 || r.off = 0x210 || r.off = 0x308
  | .fct => r.off = 0x40
  | _ => false

/-! ### Reads (R9, R11–R13) -/

/-- What a register shows: the state it stands for, or what it holds. -/
def regShown (s : State) (b : Blk) (r : RegRow) (i a : Nat) : Nat :=
  let v :=
    if 0xFF00 ≤ r.off then (if r.off = 0xFF1C then some (viewFcap s b) else none)
    else match b with
      | .sys => viewSys s r.off i
      | .hpa => viewHp s .a r.off
      | .hpb => viewHp s .b r.off
      | .cqu => viewCqu s r.off
      | .loc => viewLoc s r.off
      | .cdc => viewCdc s r.off
      | .chd n => viewChd s n r.off
      | .afe => viewAfe s r.off i
      | .rad => viewRad s r.off i
      | .spn => viewSpn s r.off i
      | .lat => viewLat s r.off i
      | .fct => viewFct s r.off
      | .buf => viewBuf s r.off i
      | .spd => viewSpd s r.off i
      | .dma => viewDma s r.off i
      | .evr => viewEvr s r.off
      | .cal => viewCal s r.off
      | .cpc => viewCpc s r.off i
      | .mcs => viewMcs s r.off i
      | .pmu => viewPmu s r.off
      | .dtm => viewDtm s r.off
      | .tst => viewTst s r.off
  v.getD (rn s a)

/-- The value a read returns: WO fields read zero, reserved bits read an unpredictable value (R12). -/
def shownValue (s : State) (b : Blk) (r : RegRow) (i a : Nat) : Nat :=
  let x := (regShown s b r i a &&& r.named) &&& (r.full - r.wo)
  if zeroBits b r then x else x ||| ((Config.rsvRead a).toNat &&& (r.full - r.named))

/-- What a read does beside returning the value: RC fields clear, keeping `inc` (R13); the reads that act. For DTM.EVENT `inc` is
the event, for TST.TEMPMAX the reading, that arrives in the cycle of the read (R13, R601, R607). -/
def readEffect (s : State) (b : Blk) (r : RegRow) (a : Nat) (inc : DWord) : State :=
  let rc := BitVec.ofNat 64 r.rc
  if b = .dtm && r.off = 0x8 then
    let s := { s with dtm := { s.dtm with events := s.dtm.events.drop 1 } }
    if inc = 0 then s else queueEvent s (fld inc.toNat 24 8) (inc.toNat % 2 ^ 24)
  else if b = .tst && r.off = 0x14 then
    { s with tap := { s.tap with tempMax := if inc = 0 then none else some (sgn 16 inc.toNat) } }
  else if b = .evr && r.off = 0x8 then advanceCursor s
  else if b = .pmu && r.off = 0x48 then { s with drawn := s.drawn + 1 }
  else if r.rc = 0 then s
  else rset s a ((rget s a &&& ~~~rc) ||| (inc &&& rc))

/-- CLAMPRPT and CLAMPINFO: the voted value, never with an error response (R435). -/
def readClamp (s : State) (info : Bool) : Nat × State :=
  let v := votedRead s 3 0x1_0001_FFF0 1 0xFF
  (ofBytes (if info then (v.1.drop 8).take 4 else v.1.take 8), v.2.2)

/-- Address of a register's first byte. -/
def regStart (r : RegRow) (a : Nat) : Nat := if r.w64 then a / 8 * 8 else a / 4 * 4

/-- The whole register at an address read once. -/
def regRead (s : State) (a : Nat) (inc : DWord) : Nat × State :=
  match regAt a with
  | none => (0, s)
  | some (b, r, i) =>
    if regBlank s b r i then (0, s)
    else if regFixed s b then (r.reset i % 2 ^ 64, s)
    else if b = .sys && (r.off = 0x40 || r.off = 0x48) then readClamp s (r.off = 0x48)
    else (shownValue s b r i (regStart r a), readEffect s b r (regStart r a) inc)

/-- The register at an address has 64 bits. -/
def isWide (a : Nat) : Bool := match regAt a with | some (_, r, _) => r.w64 | none => false

/-- Key of a half-register shadow: the reading or writing master and the address of the low half. -/
def shadowKey (m a : Nat) : Nat := m * 2 ^ 48 + a / 8 * 8

/-- A 32-bit read of a half of a 64-bit register (R9): the low half copies the high half into the master's shadow; the
high half returns the shadow, where there is one. -/
def halfRead (s : State) (m a : Nat) : Nat × State :=
  let r := regRead s a 0
  if a % 8 = 0 then
    (r.1 % 2 ^ 32, { r.2 with
      rshadow := (shadowKey m a, BitVec.ofNat 32 (r.1 / 2 ^ 32)) :: r.2.rshadow.filter fun e => e.1 ≠ shadowKey m a })
  else
    match s.rshadow.find? fun e => e.1 = shadowKey m a with
    | some e => (e.2.toNat, { s with rshadow := s.rshadow.filter fun e => e.1 ≠ shadowKey m a })
    | none => (r.1 / 2 ^ 32, r.2)

/-- A read of `n` bytes, aligned, by a master: of a register, or of a part of one (R8, R9, R458). What 8 bytes over two
32-bit registers read as, no rule states: a free value. -/
def busRegLoad (s : State) (m a n : Nat) : Nat × State :=
  if n = 8 then
    if isWide a then regRead s a 0
    else if (regAt a).isNone && (regAt (a + 4)).isNone then (0, s)
    else
      let d := draw s
      (d.1.toNat, d.2)
  else if n = 4 then (if isWide a then halfRead s m a else let r := regRead s a 0; (r.1 % 2 ^ 32, r.2))
  else
    let r := regRead s a 0
    (r.1 / 2 ^ (8 * (a % (if isWide a then 8 else 4))) % 2 ^ (8 * n), r.2)

/-! ### Writes (R10, R12) -/

/-- WCTL: WVMODE 3 is taken as 0 (R263); FORCE of the link follows. -/
def wctlOp (s : State) (n : Fin 8) (v : DWord) : State :=
  let w := if fld v.toNat 4 2 = 3 then putFld v.toNat 4 2 0 else v.toNat
  syncForce (fieldWrite s (Reg.chdWctl n) (BitVec.ofNat 64 w))

/-- TARGET and TARGET4: a target that is not all zero ends CFGERR (R241). -/
def eqTargetOp (s : State) (n : Fin 8) (a : Nat) (v : DWord) : State :=
  let s := fieldWrite s a v
  if rn s (Reg.chdTarget n) = 0 && rn s (Reg.chdTarget4 n) = 0 then s else modSlice s n fun x => { x with cfgErr := false }

/-- FREETH: FREECRIT below FREELOW (R420). -/
def freethOp (s : State) (v : Word) : State :=
  let low := v.toNat % 2 ^ 16
  rsetN s Reg.fctFreeth (low + min (v.toNat / 2 ^ 16) (low - 1) * 2 ^ 16)

/-- Writes to the registers of a slice. -/
def chdWrite (s : State) (n : Fin 8) (r : RegRow) (i a : Nat) (v : DWord) : State :=
  let w := v.truncate 32
  if r.off = 0x4 then assignWriteOp s n true w
  else if r.off = 0x20 || r.off = 0x24 then eqTargetOp s n a v
  else if r.off = 0x28 then setShadow s n 64 (w &&& 0x3F7F7F)
  else if r.off = 0x2C then
    let s := fieldWrite s a v
    if v.toNat.testBit 8 then eqLoadOp s n else s
  else if r.off = 0x100 then setShadow s n i (w &&& 0x3FF)
  else if r.off = 0x180 then setShadow s n (32 + i) (w &&& 0x3FF)
  else if r.off = 0x200 then wctlOp s n v
  else if r.off = 0x21C then pscmdWriteOp s n w
  else if r.off = 0x300 then ocDecodeStartOp s n w
  else if r.off = 0x308 || r.off = 0x310 then (if (s.slice n).oc then s else fieldWrite s a v)
  else fieldWrite s a v

/-- Writes to the registers of Radius. -/
def radWrite (s : State) (r : RegRow) (i a : Nat) (v : DWord) : State :=
  let w := v.truncate 32
  let n := Fin.ofNat 16 i
  if r.off = 0x0 then radCmdWrite s n v.toNat
  else if r.off = 0x8 then targetWriteOp s n w
  else if r.off = 0xC then offsetWriteOp s n w
  else if r.off = 0x10 then lawcfgWriteOp s n w
  else if r.off = 0x18 then vmaxWrite s n w
  else if r.off = 0x30 then mancurWrite s n w
  else if r.off = 0x80 then unldsegWriteOp s (Fin.ofNat 16 (i / 8)) (Fin.ofNat 8 i) w
  else if r.off = 0x1000 then gctlWrite s w
  else if r.off = 0x4000 then coefficientWriteOp s (Fin.ofNat 16 (i / 512)) (Fin.ofNat 512 i) w
  else if r.off = 0xC000 then stateWordWriteOp s (Fin.ofNat 16 (i / 128)) (Fin.ofNat 128 i) w
  else fieldWrite s a v

/-- Writes to the registers of SYS and of the PMU. -/
def sysWrite (s : State) (r : RegRow) (i a : Nat) (v : DWord) : State :=
  let w := v.truncate 32
  if r.off = 0x14 then rstctlChipOp s w
  else if r.off = 0x18 then blockResetOp s w
  else if r.off = 0x24 then wdtctlWriteOp s w
  else if r.off = 0x28 then wdtkickOp s w
  else if r.off = 0x34 && v.toNat.testBit 0 then hostrdyOp s
  else if r.off = 0x104 then instatWriteOp s (Fin.ofNat 9 i) w
  else fieldWrite s a v

def pmuWrite (s : State) (r : RegRow) (i a : Nat) (v : DWord) : State :=
  let w := v.truncate 32
  if r.off = 0x0 then railctlWriteOp s (Fin.ofNat 6 i) w
  else if r.off = 0x30 then budgetWriteOp s w
  else if r.off = 0x3C && s.part.is4804 then fieldWrite s a (BitVec.ofNat 64 (min 4 (v.toNat % 16)))
  else if r.off = 0x58 then gateWriteOp s w
  else if r.off = 0x60 then frstsrcHoldClearOp s w
  else fieldWrite s a v

/-- Writes to the registers of the control cores' block, by master `m`. -/
def cpcWrite (s : State) (m : Nat) (r : RegRow) (i a : Nat) (v : DWord) : State :=
  let w := v.truncate 32
  if r.off = 0x0 then corectlOp s (Fin.ofNat 8 i) w
  else if r.off = 0x100 then (if m = i then cachectlOp s (Fin.ofNat 8 i) w else s)
  else if r.off = 0x1000 then irqrouteWriteOp s (Fin.ofNat 128 i) w
  else if r.off = 0x1210 then nmtrouteWriteOp s w
  else if r.off = 0x1214 then swintWriteOp s w
  else fieldWrite s a v

/-- Writes to the registers of the event recorder and of calibration. -/
def evrWrite (s : State) (r : RegRow) (i a : Nat) (v : DWord) : State :=
  let w := v.truncate 32
  if r.off = 0x8 then windowWriteOp s w
  else if r.off = 0x10 then evrPostOp s v
  else if r.off = 0x18 then evrClearOp s w
  else if r.off = 0x100 && 88 ≤ i then s
  else fieldWrite s a v

def calWrite (s : State) (r : RegRow) (a : Nat) (v : DWord) : State :=
  if r.off = 0x8 then calCmdOp s (v.truncate 32)
  else if 0x100 ≤ r.off && rbit s Reg.calCtl 0 then s
  else fieldWrite s a v

/-- Writes to the registers of the memories. -/
def spdWrite (s : State) (r : RegRow) (i a : Nat) (v : DWord) : State :=
  let w := v.truncate 32
  if r.off = 0x8 then spdClearOp s w
  else if r.off = 0x50 then pageRetireOp s (Fin.ofNat 4 (i / 4)) (Fin.ofNat 4 i) w
  else if r.off = 0x90 then bankretOp s w
  else if r.off = 0xA0 then celogclrWriteOp s true w
  else fieldWrite s a v

/-- A committed write of a register: `a` is its first byte. -/
def regWrite (s : State) (m : Nat) (b : Blk) (r : RegRow) (i a : Nat) (v : DWord) : State :=
  let w := v.truncate 32
  if regBlank s b r i || regFixed s b then s
  else if r.off = 0xFF00 then fstatWriteOp s b v
  else if r.off = 0xFF10 then fmaskWriteOp s b w
  else if 0xFF00 < r.off then fieldWrite s a v
  else
    match b with
    | .sys => sysWrite s r i a v
    | .hpa => if r.off = 0x4 then linkctlWrite s .a w else if r.off = 0x20 then aenpostWriteOp s .a w else fieldWrite s a v
    | .hpb => if r.off = 0x4 then linkctlWrite s .b w else if r.off = 0x20 then aenpostWriteOp s .b w else fieldWrite s a v
    | .loc =>
      let s := fieldWrite s a v
      if r.off = 0x0 && v.toNat.testBit 4 then locusFlushOp s else s
    | .cdc => if r.off = 0x8 then wseqWriteOp s v else fieldWrite s a v
    | .chd n => chdWrite s n r i a v
    | .afe =>
      if r.off = 0x4 then afeSynthWriteOp s (Fin.ofNat 16 i) w
      else if (r.off = 0x10 || r.off = 0x14) && !rbit s (Reg.afeCtl i) 1 then s
      else fieldWrite s a v
    | .rad => radWrite s r i a v
    | .spn =>
      let k := Fin.ofNat 8 i
      if r.off = 0x4 then spnCmdWrite s k v.toNat (decide (bemfMin s k ≤ (s.spn k).amp))
      else if r.off = 0x20 then spnMotorWrite s k v
      else fieldWrite s a v
    | .lat =>
      if r.off = 0x14 then latSealOp s w else if r.off = 0x40 then rbctlWrite s w
      else if r.off = 0x90 then latResvOp s w else fieldWrite s a v
    | .fct => if r.off = 0x24 then freethOp s w else fieldWrite s a v
    | .buf => if r.off = 0x30 then celogclrWriteOp s false w else fieldWrite s a v
    | .spd => spdWrite s r i a v
    | .dma =>
      if r.off = 0x1000 then dmaStartOp s (Fin.ofNat 32 i) v
      else if r.off = 0x1014 then dmaAbortOp s (Fin.ofNat 32 i) w
      else fieldWrite s a v
    | .evr => evrWrite s r i a v
    | .cal => calWrite s r a v
    | .cpc => cpcWrite s m r i a v
    | .mcs =>
      if r.off = 0x10 then loadctlOp s w
      else if r.off = 0x4000 && loadBusy s then s
      else fieldWrite s a v
    | .pmu => pmuWrite s r i a v
    | .dtm => if r.off = 0x4 then mailboxDoorOp s w else fieldWrite s a v
    | .cqu | .tst => fieldWrite s a v

/-- The write of a whole register at an address; an offset that no map assigns has no effect (R11). A low half that its master
wrote before and has not committed stays in the shadow through a whole write (DESIGN CHOICE, log entry 185). -/
def writeAt (s : State) (m a : Nat) (v : DWord) : State :=
  match regAt a with
  | none => s
  | some (b, r, i) => regWrite s m b r i (regStart r a) v

/-- A 32-bit write of a half of a 64-bit register (R10). -/
def halfWrite (s : State) (m a : Nat) (v : Word) : State :=
  let k := shadowKey m a
  if a / 8 * 8 = Reg.evrPost then s
  else if a % 8 = 0 then { s with wshadow := (k, v) :: s.wshadow.filter fun e => e.1 ≠ k }
  else
    let low := match s.wshadow.find? fun e => e.1 = k with | some e => e.2.toNat | none => rn s (a / 8 * 8) % 2 ^ 32
    writeAt { s with wshadow := s.wshadow.filter fun e => e.1 ≠ k } m a (BitVec.ofNat 64 (low + v.toNat * 2 ^ 32))

/-- A store of `n` bytes, aligned, by a master (R458): false for a size that the register does not take. -/
def busRegStore (s : State) (m a n : Nat) (v : Nat) : Bool × State :=
  if n = 4 then (true, if isWide a then halfWrite s m a (BitVec.ofNat 32 v) else writeAt s m a (BitVec.ofNat 64 (v % 2 ^ 32)))
  else if n = 8 && (isWide a || (regAt a).isNone) then (true, writeAt s m a (BitVec.ofNat 64 v))
  else (false, s)

/-! ### The commands -/

/-- A master reaches the register windows, and the address lies in one (R30, R31). -/
def regReach (s : State) (m a : Nat) : Bool := reaches m .regs true && regionOf s a = .regs

/-- An access by a master that does not reach the address is a fabric error. -/
def whenReached (s : State) (m a ty : Nat) (f : State → State) : State := if regReach s m a then f s else fabricError s a ty m

/-- The answer to a read that is a fabric error: an error response with zero data (R30). -/
def answerErr (s : State) : State := { s with resp := { data := 0, err := true, busy := false } }

/-- A read by a master that does not reach the address is a fabric error, and answers with one. -/
def readReached (s : State) (m a : Nat) (f : State → State) : State :=
  if regReach s m a then f s else answerErr (fabricError s a 1 m)

/-- REGISTER_WRITE: 8 bytes to a 64-bit register, else 4. -/
def registerWriteOp (s : State) (m a : Nat) (v : DWord) : State :=
  whenReached s m a 2 fun s => writeAt s m a (if isWide a then v else (v.truncate 32).zeroExtend 64)

def execRegisterWrite (m addr : Nat) (v : DWord) (s : State) : Host.Outcome State Fault Refusal := settled (registerWriteOp s m addr v)

/-- RC_READ: a read of the whole register, with what arrives in its cycle. -/
def rcReadOp (s : State) (m a : Nat) (inc : DWord) : State :=
  readReached s m a fun s =>
    let r := regRead s a inc
    answerRead r.2 r.1

def execRcRead (m addr : Nat) (inc : DWord) (s : State) : Host.Outcome State Fault Refusal := settled (rcReadOp s m addr inc)

/-- READ_LOW_HALF. -/
def readLowHalfOp (s : State) (m a : Nat) : State :=
  readReached s m a fun s =>
    when (isWide a && decide (a % 8 = 0)) s fun s =>
      let r := halfRead s m a
      answerRead r.2 r.1

def execReadLowHalf (m addr : Nat) (s : State) : Host.Outcome State Fault Refusal := settled (readLowHalfOp s m addr)

/-- WRITE_LOW_HALF. -/
def execWriteLowHalf (m addr : Nat) (v : Word) (s : State) : Host.Outcome State Fault Refusal :=
  settled (whenReached s m addr 2 fun s => when (isWide addr && decide (addr % 8 = 0)) s fun s => halfWrite s m addr v)

/-- WRITE_HIGH_HALF: the address of the high half. -/
def execWriteHighHalf (m addr : Nat) (v : Word) (s : State) : Host.Outcome State Fault Refusal :=
  settled (whenReached s m addr 2 fun s => when (isWide addr && decide (addr % 8 = 4)) s fun s => halfWrite s m addr v)

end Sys2Proof.Machine
end

