-- ==== Sys2Proof/Machine/Cores.lean ====
section
/-! DEFINITION. What every instruction of a control core shares (R447–R451, R456–R471): general and special registers, the
trap stack, the boundary at which events are taken, fetching, loads and stores. -/

namespace Sys2Proof.Machine

/-! ### Registers (R447, R448) -/

/-- G[r]; G0 reads zero. -/
def gAt (s : State) (c : Fin 8) (r : BitVec 5) : DWord := if r = 0 then 0 else vget (s.core c).g r.toFin

/-- A write of G[r]; G0 discards it. -/
def setG (s : State) (c : Fin 8) (r : BitVec 5) (v : DWord) : State :=
  if r = 0 then s else modCore s c fun k => { k with g := vset k.g r.toFin v }

/-- A program counter: bits [1:0] and [63:48] are zero. -/
def pcOf (v : DWord) : DWord := v &&& 0x0000_FFFF_FFFF_FFFC

/-- The instruction ends and the next one follows. -/
def next (s : State) (c : Fin 8) : State := modCore s c fun k => { k with pcsamp := k.pc, pc := pcOf (k.pc + 4) }

/-- The instruction ends with a jump. -/
def jumpTo (s : State) (c : Fin 8) (t : DWord) : State := modCore s c fun k => { k with pcsamp := k.pc, pc := pcOf t }

/-- STAT with a bit set or cleared. -/
def statBit (k : CoreSt) (i : Nat) (b : Bool) : CoreSt := { k with stat := BitVec.ofNat 64 (putBit k.stat.toNat i b) }

/-- A special register as MFS reads it; none for a number that R448 does not list. -/
def sprRead (s : State) (c : Fin 8) (n : Nat) : Option DWord :=
  let k := s.core c
  if n = 0 then some k.stat
  else if n = 1 then some k.f0.pc
  else if n = 2 then some k.f0.stat
  else if n = 3 then some k.f0.pri
  else if n = 4 then some k.f0.cause
  else if n = 5 then some k.f0.addr
  else if n = 6 then some k.tbase
  else if n = 7 then some k.ipri
  else if n = 8 then some (BitVec.ofNat 64 c.val)
  else if n = 9 then some (BitVec.ofNat 64 k.cycle)
  else if n = 10 then some s.tick
  else if n = 11 then some k.lbaddr
  else if n = 12 then some k.f1.pc
  else if n = 13 then some k.f1.stat
  else if n = 14 then some k.f1.pri
  else if n = 15 then some k.f1.cause
  else if h : 16 ≤ n ∧ n < 20 then some (vget k.scr ⟨n - 16, by omega⟩)
  else if n = 20 then some k.f1.addr
  else none

/-- A special register written, each kept to the bits that R448 names; none where the write is ILLEGAL. -/
def sprWrite (k : CoreSt) (n : Nat) (v : DWord) : Option CoreSt :=
  if n = 0 then (if fld v.toNat 1 2 = 3 then none else some { k with stat := v &&& 0x1F })
  else if n = 1 then some { k with f0 := { k.f0 with pc := pcOf v } }
  else if n = 2 then some { k with f0 := { k.f0 with stat := v &&& 0x1F } }
  else if n = 3 then some { k with f0 := { k.f0 with pri := v &&& 0xF } }
  else if n = 4 then some { k with f0 := { k.f0 with cause := v &&& 0xFF_FFFF } }
  else if n = 5 then some { k with f0 := { k.f0 with addr := v &&& 0xFFFF_FFFF_FFFF } }
  else if n = 6 then some { k with tbase := v &&& 0xFFFF_FFFF_F000 }
  else if n = 7 then some { k with ipri := v &&& 0xF }
  else if n = 12 then some { k with f1 := { k.f1 with pc := pcOf v } }
  else if n = 13 then some { k with f1 := { k.f1 with stat := v &&& 0x1F } }
  else if n = 14 then some { k with f1 := { k.f1 with pri := v &&& 0xF } }
  else if n = 15 then some { k with f1 := { k.f1 with cause := v &&& 0xFF_FFFF } }
  else if h : 16 ≤ n ∧ n < 20 then some { k with scr := vset k.scr ⟨n - 16, by omega⟩ v }
  else if n = 20 then some { k with f1 := { k.f1 with addr := v &&& 0xFFFF_FFFF_FFFF } }
  else none

/-! ### Traps (R467–R470) -/

/-- Causes of R467. -/
def causeIllegal : Nat := 1
def causeAlign : Nat := 2
def causeBuserr : Nat := 3
def causeBuserrw : Nat := 4
def causeTrap : Nat := 5
def causeXopempty : Nat := 6
def causeInt : Nat := 16
def causeNmt : Nat := 17

/-- Entry to a trap (R469): `info` is CODE × 256 or LINE × 2^16, `pri` the priority of the line taken. -/
def enterTrap (k : CoreSt) (cause info addr : Nat) (pri : Option Nat) : CoreSt :=
  { k with
    f1 := k.f0
    f0 := { pc := k.pc, stat := k.stat, pri := k.ipri, cause := BitVec.ofNat 64 (info + cause), addr := BitVec.ofNat 64 (addr % 2 ^ 48) }
    ipri := match pri with | some p => BitVec.ofNat 64 p | none => k.ipri
    stat := BitVec.ofNat 64 (putBit (putFld (putBit k.stat.toNat 0 false) 1 2 (statDepth k + 1)) 3 (statNmi k || cause = causeNmt))
    pc := pcOf (k.tbase + BitVec.ofNat 64 (0x40 * cause))
    run := .running, lastCause := cause }

/-- A double fault (R470): the core halts, DBLFAULT. -/
def doubleFault (s : State) (c : Fin 8) : State := raise (haltCore s c) .cpc [c.val] Cap.none

/-- A precise trap or a BUSERRW would be a double fault. -/
def trapStackFull (k : CoreSt) : Bool := decide (2 ≤ statDepth k) || statNmi k

/-- A precise trap: the instruction changes nothing, and the frame holds its address. -/
def preciseTrap (s : State) (c : Fin 8) (cause info addr : Nat) : State :=
  if trapStackFull (s.core c) then doubleFault s c else modCore s c fun k => enterTrap k cause info addr none

/-- ILLEGAL (R451). -/
def illegal (s : State) (c : Fin 8) : State := preciseTrap s c causeIllegal 0 0

/-- RETI: frame 0 popped (R469). -/
def popFrame (k : CoreSt) : CoreSt :=
  { k with pcsamp := k.pc, pc := pcOf k.f0.pc, stat := k.f0.stat, ipri := k.f0.pri, f0 := k.f1 }

/-! ### The boundary (R469) -/

/-- An NMT that the core takes now. -/
def nmtDue (s : State) (c : Fin 8) : Bool :=
  (s.core c).nmt && !statNmi (s.core c) && decide (statDepth (s.core c) < 2)

/-- A line that the core takes now. -/
def intDue (s : State) (c : Fin 8) : Bool :=
  statIe (s.core c) && decide (statDepth (s.core c) < 2) && (List.range 128).any fun n => takeable s n c

/-- An event is due at the boundary, and comes before the next instruction. -/
def boundaryDue (s : State) (c : Fin 8) : Bool := nmtDue s c || (s.core c).werr.isSome || intDue s c

/-- The address lies in an entry of the trap table. -/
def inTrapTable (k : CoreSt) (a : Nat) : Bool :=
  decide (k.tbase.toNat ≤ a) && [1, 2, 3, 4, 5, 6, 16, 17].contains ((a - k.tbase.toNat) / 0x40)

/-- A fetch that met an error response, or an address that is not fetchable (R449, R470, R501). -/
def fetchTrap (s : State) (c : Fin 8) (a : Nat) : State :=
  if inTrapTable (s.core c) a then doubleFault s c else preciseTrap s c causeBuserr 0 a

/-- A core executes an instruction: it runs; no event is due; the fetch answers. -/
def instr (s : State) (c : Fin 8) (f : State → State) : State :=
  when (coreRuns s c && !boundaryDue s c) s fun s =>
    let a := (s.core c).pc.toNat
    let r := fetchAt s c a
    if r.1 then f r.2 else fetchTrap r.2 c a

/-! ### Loads and stores (R455–R459) -/

/-- A read of `n` bytes by a core; true where it came back busy. -/
def coreLoad (s : State) (c : Fin 8) (a n : Nat) (e : MemEv) : Loaded × Bool × State :=
  if regionOf s a = .regs then
    let r := busRegLoad s c.val a n
    (.val r.1, false, r.2)
  else memLoad s c a n e

/-- STAT.LDBUSY, and LBADDR of the first busy load (R459). -/
def noteLdbusy (s : State) (c : Fin 8) (a : Nat) : State :=
  modCore s c fun k => statBit { k with lbaddr := if k.stat.toNat.testBit 4 then k.lbaddr else BitVec.ofNat 64 a } 4 true

/-- A store meets a parity error in dirty data (R505). -/
def storeDead (s : State) (c : Fin 8) (a : Nat) (e : MemEv) : Bool :=
  e.parity && cachedAt s a && cacheOn s c false && (match lineAt (s.core c).dcache (a / 64) with | some x => x.dirty ≠ 0 | none => false)

/-- A write of `n` bytes by a core; an error response is posted. -/
def coreStore (s : State) (c : Fin 8) (a n v : Nat) (e : MemEv) : State :=
  if regionOf s a = .regs then
    let r := busRegStore s c.val a n v
    if r.1 then r.2 else postErr r.2 c a
  else memStore s c a n v e

/-- An atomic of a core (R461): the old value, none for an error response. -/
def coreAtomic (s : State) (c : Fin 8) (a n : Nat) (add : Bool) (v : Nat) : Option Nat × State :=
  let s := match regionOf s a with
    | .spd b => if b = 0 then cacheOp s c 2 a else s
    | _ => s
  busAtomic s c.val a n add v

/-! ### POST (R473) -/

/-- Waiting descriptors of a queue, and its depth. -/
def queueAt (s : State) (q : Nat) : List Nat := if h : q < 17 then vget s.queues ⟨q, h⟩ else s.cqu.q17.map (·.1)
def queueDepth (q : Nat) : Nat := if q < 16 then 8 else if q = 16 then 16 else 256

/-- The result of a POST. -/
def postResult (s : State) (a q : Nat) : Nat :=
  if 17 < q || (q < 16 && !actPresent s q) then 2
  else if a % 64 ≠ 0 || !bufAssigned s a 64 then 3
  else if queueDepth q ≤ (queueAt s q).length then 1
  else 0

/-- The descriptor at `a` in queue `q`, where the result is 0. Posted after step 3 of the power-fail sequence it ends FLUSHED
at once (R627). -/
def postDesc (s : State) (a q : Nat) : State :=
  if postResult s a q ≠ 0 then s
  else if s.pf.step3 then flushDesc s a
  else if h : q < 17 then { s with queues := vmod s.queues ⟨q, h⟩ fun l => l ++ [a] }
  else { s with cqu := { s.cqu with q17 := s.cqu.q17 ++ [(a, s.tick.toNat)] } }

/-! ### Events taken at a boundary -/

/-- The core is at a boundary: it runs, or waits in WFI. -/
def atBoundary (s : State) (c : Fin 8) : Bool := coreAwake (s.core c) && !dieHeld s

/-- BUSERRW (R468). -/
def buserrwOp (s : State) (c : Fin 8) : State :=
  match (s.core c).werr with
  | none => s
  | some a =>
    when (atBoundary s c && !nmtDue s c) s fun s =>
      if trapStackFull (s.core c) then doubleFault (modCore s c fun k => { k with werr := none }) c
      else modCore s c fun k => enterTrap { k with werr := none } causeBuserrw 0 a none

def execBuserrw (c : Fin 8) (s : State) : Host.Outcome State Fault Refusal := settled (buserrwOp s c)

/-- TAKE_NMT (R43, R469). -/
def takeNmtOp (s : State) (c : Fin 8) : State :=
  when (atBoundary s c && nmtDue s c) s fun s => modCore s c fun k => enterTrap { k with nmt := false } causeNmt 0 0 none

def execTakeNmt (c : Fin 8) (s : State) : Host.Outcome State Fault Refusal := settled (takeNmtOp s c)

/-- The line that a core takes: the highest PRIO, then the lowest number (R469). -/
def bestLine (s : State) (c : Fin 8) : Option Nat :=
  ((List.range 128).filter fun n => takeable s n c).foldl
    (fun (b : Option Nat) n => match b with | none => some n | some m => if routePrio s m < routePrio s n then some n else some m) none

/-- TAKE_INTERRUPT (R41, R42, R469). -/
def takeInterruptOp (s : State) (c : Fin 8) : State :=
  let s := dropAssigns s
  when (atBoundary s c && !nmtDue s c && (s.core c).werr.isNone) s fun s =>
    match bestLine s c with
    | none => s
    | some n =>
      let s := if routeMode1 s n && assignee s n = none then { s with assigns := s.assigns ++ [(n, c.val)] } else s
      modCore s c fun k => enterTrap k causeInt (n * 2 ^ 16) 0 (some (routePrio s n))

def execTakeInterrupt (c : Fin 8) (s : State) : Host.Outcome State Fault Refusal := settled (takeInterruptOp s c)

end Sys2Proof.Machine
end

