-- ==== Sys2Proof/Machine/Bisin.lean ====
section
/-! DEFINITION. The instructions of the control cores but for XOP (R453–R466, R473). Each is one line over the shared
operations: its operation, and the fields that must be zero. -/

namespace Sys2Proof.Machine

/-! ### Operations on values (R453, R454) -/

def shAmt (b : DWord) : Nat := b.toNat % 64
def opSll (a b : DWord) : DWord := a <<< shAmt b
def opSrl (a b : DWord) : DWord := a >>> shAmt b
def opSra (a b : DWord) : DWord := a.sshiftRight (shAmt b)
def opRor (a b : DWord) : DWord := a.rotateRight (shAmt b)
def opSlt (a b : DWord) : DWord := if a.slt b then 1 else 0
def opSltu (a b : DWord) : DWord := if a < b then 1 else 0
def opMin (a b : DWord) : DWord := if a.slt b then a else b
def opMax (a b : DWord) : DWord := if a.slt b then b else a
def opMinu (a b : DWord) : DWord := if a < b then a else b
def opMaxu (a b : DWord) : DWord := if a < b then b else a
def opMulh (a b : DWord) : DWord := BitVec.ofInt 64 (a.toInt * b.toInt / 2 ^ 64)
def opMulhu (a b : DWord) : DWord := BitVec.ofNat 64 (a.toNat * b.toNat / 2 ^ 64)
def opDiv (a b : DWord) : DWord := if b = 0 then BitVec.allOnes 64 else a.sdiv b
def opDivu (a b : DWord) : DWord := if b = 0 then BitVec.allOnes 64 else a / b
def opRem (a b : DWord) : DWord := if b = 0 then a else a.srem b
def opRemu (a b : DWord) : DWord := if b = 0 then a else a % b
def opClz (a : DWord) : DWord := BitVec.ofNat 64 (leadZeros 64 a.toNat)
def opCtz (a : DWord) : DWord := BitVec.ofNat 64 (trailZeros 64 a.toNat)
def opPopc (a : DWord) : DWord := BitVec.ofNat 64 (popcount 64 a.toNat)
def opBswap (a : DWord) : DWord := BitVec.ofNat 64 (ofBytes (toBytes 8 a.toNat).reverse)
def opBfx (a : DWord) (pos len : Nat) : DWord := BitVec.ofNat 64 (fld a.toNat pos len)
def opBfxs (a : DWord) (pos len : Nat) : DWord := BitVec.ofInt 64 (sgn len (fld a.toNat pos len))
def opBfi (a d : DWord) (pos len : Nat) : DWord := BitVec.ofNat 64 (putFld d.toNat pos len a.toNat)

/-! ### Shapes -/

/-- Format R with two operands and a result. -/
def aluR (s : State) (c : Fin 8) (o : RForm) (f : DWord → DWord → DWord) : State :=
  instr s c fun s => if o.rsv ≠ 0 then illegal s c else next (setG s c o.rd (f (gAt s c o.ra) (gAt s c o.rb))) c

/-- Format R with one operand: RB must be zero. -/
def aluU (s : State) (c : Fin 8) (o : RForm) (f : DWord → DWord) : State :=
  instr s c fun s => if o.rsv ≠ 0 || o.rb ≠ 0 then illegal s c else next (setG s c o.rd (f (gAt s c o.ra))) c

/-- Format I with a result. -/
def aluI (s : State) (c : Fin 8) (o : IForm) (f : DWord → BitVec 16 → DWord) : State :=
  instr s c fun s => next (setG s c o.rd (f (gAt s c o.ra) o.imm)) c

/-- SHI. -/
def aluSh (s : State) (c : Fin 8) (o : ShForm) (f : DWord → DWord → DWord) : State :=
  instr s c fun s =>
    if o.rsv ≠ 0 then illegal s c else next (setG s c o.rd (f (gAt s c o.ra) (o.cnt.zeroExtend 64))) c

/-- Format K with a result. -/
def aluK (s : State) (c : Fin 8) (o : KForm) (f : DWord → BitVec 21 → DWord) : State :=
  instr s c fun s => next (setG s c o.rd (f (gAt s c o.rd) o.imm)) c

/-- BITF: the field lies within 64 bits. -/
def aluF (s : State) (c : Fin 8) (o : FForm) (f : DWord → DWord → Nat → Nat → DWord) : State :=
  instr s c fun s =>
    let pos := o.pos.toNat
    let len := o.lenm1.toNat + 1
    if 64 < pos + len then illegal s c else next (setG s c o.rd (f (gAt s c o.ra) (gAt s c o.rd) pos len)) c

/-- Address of a load or a store. -/
def effAddr (s : State) (c : Fin 8) (ra : BitVec 5) (imm : BitVec 16) : Nat := (gAt s c ra + imm.signExtend 64).toNat

/-- Loads: `n` bytes, extended by `ext`. -/
def loadN (s : State) (c : Fin 8) (o : IForm) (e : MemEv) (n : Nat) (ext : Nat → DWord) : State :=
  instr s c fun s =>
    let a := effAddr s c o.ra o.imm
    if a % n ≠ 0 then preciseTrap s c causeAlign 0 a
    else
      match coreLoad s c a n e with
      | (.val v, busy, s) => next (setG (if busy then noteLdbusy s c a else s) c o.rd (ext v)) c
      | (.err, _, s) => preciseTrap s c causeBuserr 0 a
      | (.dead, _, s) => s

/-- Stores: the lowest `n` bytes of G[RD]. -/
def storeN (s : State) (c : Fin 8) (o : IForm) (e : MemEv) (n : Nat) : State :=
  instr s c fun s =>
    let a := effAddr s c o.ra o.imm
    if a % n ≠ 0 then preciseTrap s c causeAlign 0 a
    else if storeDead s c a e then dcPar s c a 2
    else coreStore (next s c) c a n ((gAt s c o.rd).toNat % 2 ^ (8 * n)) e

/-- Atomics. -/
def atomicN (s : State) (c : Fin 8) (o : RForm) (n : Nat) (add : Bool) : State :=
  instr s c fun s =>
    let a := (gAt s c o.ra).toNat
    if o.rsv ≠ 0 then illegal s c
    else if a % n ≠ 0 then preciseTrap s c causeAlign 0 a
    else
      match coreAtomic s c a n add ((gAt s c o.rb).toNat % 2 ^ (8 * n)) with
      | (some old, s) => next (setG s c o.rd (BitVec.ofNat 64 old)) c
      | (none, s) => preciseTrap s c causeBuserr 0 a

/-- An operation of format R whose fields are all zero. -/
def plainR (s : State) (c : Fin 8) (o : RForm) (f : State → State) : State :=
  instr s c fun s => if o.rsv ≠ 0 || o.rd ≠ 0 || o.ra ≠ 0 || o.rb ≠ 0 then illegal s c else f s

/-- Cache maintenance. -/
def maintain (s : State) (c : Fin 8) (o : CForm) (cm : Nat) : State :=
  instr s c fun s => cacheOp (next s c) c cm (effAddr s c o.ra o.imm)

/-- Target of a branch or jump: PC + 4 × offset. -/
def target (s : State) (c : Fin 8) (off : DWord) : DWord := (s.core c).pc + 4 * off

/-- Conditional branches. -/
def branch (s : State) (c : Fin 8) (o : BForm) (p : DWord → DWord → Bool) : State :=
  instr s c fun s =>
    if p (gAt s c o.ra) (gAt s c o.rb) then jumpTo s c (target s c (o.off.signExtend 64)) else next s c

/-! ### Register operations (R453) -/

def execAdd (c : Fin 8) (o : RForm) (s : State) : Host.Outcome State Fault Refusal := settled (aluR s c o (fun a b => a + b))
def execSub (c : Fin 8) (o : RForm) (s : State) : Host.Outcome State Fault Refusal := settled (aluR s c o (fun a b => a - b))
def execAnd (c : Fin 8) (o : RForm) (s : State) : Host.Outcome State Fault Refusal := settled (aluR s c o (fun a b => a &&& b))
def execOr (c : Fin 8) (o : RForm) (s : State) : Host.Outcome State Fault Refusal := settled (aluR s c o (fun a b => a ||| b))
def execXor (c : Fin 8) (o : RForm) (s : State) : Host.Outcome State Fault Refusal := settled (aluR s c o (fun a b => a ^^^ b))
def execSll (c : Fin 8) (o : RForm) (s : State) : Host.Outcome State Fault Refusal := settled (aluR s c o opSll)
def execSrl (c : Fin 8) (o : RForm) (s : State) : Host.Outcome State Fault Refusal := settled (aluR s c o opSrl)
def execSra (c : Fin 8) (o : RForm) (s : State) : Host.Outcome State Fault Refusal := settled (aluR s c o opSra)
def execRor (c : Fin 8) (o : RForm) (s : State) : Host.Outcome State Fault Refusal := settled (aluR s c o opRor)
def execSlt (c : Fin 8) (o : RForm) (s : State) : Host.Outcome State Fault Refusal := settled (aluR s c o opSlt)
def execSltu (c : Fin 8) (o : RForm) (s : State) : Host.Outcome State Fault Refusal := settled (aluR s c o opSltu)
def execMin (c : Fin 8) (o : RForm) (s : State) : Host.Outcome State Fault Refusal := settled (aluR s c o opMin)
def execMax (c : Fin 8) (o : RForm) (s : State) : Host.Outcome State Fault Refusal := settled (aluR s c o opMax)
def execMinu (c : Fin 8) (o : RForm) (s : State) : Host.Outcome State Fault Refusal := settled (aluR s c o opMinu)
def execMaxu (c : Fin 8) (o : RForm) (s : State) : Host.Outcome State Fault Refusal := settled (aluR s c o opMaxu)
def execMul (c : Fin 8) (o : RForm) (s : State) : Host.Outcome State Fault Refusal := settled (aluR s c o (fun a b => a * b))
def execMulh (c : Fin 8) (o : RForm) (s : State) : Host.Outcome State Fault Refusal := settled (aluR s c o opMulh)
def execMulhu (c : Fin 8) (o : RForm) (s : State) : Host.Outcome State Fault Refusal := settled (aluR s c o opMulhu)
def execDiv (c : Fin 8) (o : RForm) (s : State) : Host.Outcome State Fault Refusal := settled (aluR s c o opDiv)
def execDivu (c : Fin 8) (o : RForm) (s : State) : Host.Outcome State Fault Refusal := settled (aluR s c o opDivu)
def execRem (c : Fin 8) (o : RForm) (s : State) : Host.Outcome State Fault Refusal := settled (aluR s c o opRem)
def execRemu (c : Fin 8) (o : RForm) (s : State) : Host.Outcome State Fault Refusal := settled (aluR s c o opRemu)
def execClz (c : Fin 8) (o : RForm) (s : State) : Host.Outcome State Fault Refusal := settled (aluU s c o opClz)
def execCtz (c : Fin 8) (o : RForm) (s : State) : Host.Outcome State Fault Refusal := settled (aluU s c o opCtz)
def execPopc (c : Fin 8) (o : RForm) (s : State) : Host.Outcome State Fault Refusal := settled (aluU s c o opPopc)
def execBswap (c : Fin 8) (o : RForm) (s : State) : Host.Outcome State Fault Refusal := settled (aluU s c o opBswap)

/-! ### Immediate operations (R454) -/

def execAddi (c : Fin 8) (o : IForm) (s : State) : Host.Outcome State Fault Refusal :=
  settled (aluI s c o (fun a i => a + i.signExtend 64))
def execAndi (c : Fin 8) (o : IForm) (s : State) : Host.Outcome State Fault Refusal :=
  settled (aluI s c o (fun a i => a &&& i.zeroExtend 64))
def execOri (c : Fin 8) (o : IForm) (s : State) : Host.Outcome State Fault Refusal :=
  settled (aluI s c o (fun a i => a ||| i.zeroExtend 64))
def execXori (c : Fin 8) (o : IForm) (s : State) : Host.Outcome State Fault Refusal :=
  settled (aluI s c o (fun a i => a ^^^ i.zeroExtend 64))
def execSlti (c : Fin 8) (o : IForm) (s : State) : Host.Outcome State Fault Refusal :=
  settled (aluI s c o (fun a i => opSlt a (i.signExtend 64)))
def execSltiu (c : Fin 8) (o : IForm) (s : State) : Host.Outcome State Fault Refusal :=
  settled (aluI s c o (fun a i => opSltu a (i.signExtend 64)))
def execShiSll (c : Fin 8) (o : ShForm) (s : State) : Host.Outcome State Fault Refusal := settled (aluSh s c o opSll)
def execShiSrl (c : Fin 8) (o : ShForm) (s : State) : Host.Outcome State Fault Refusal := settled (aluSh s c o opSrl)
def execShiSra (c : Fin 8) (o : ShForm) (s : State) : Host.Outcome State Fault Refusal := settled (aluSh s c o opSra)
def execShiRor (c : Fin 8) (o : ShForm) (s : State) : Host.Outcome State Fault Refusal := settled (aluSh s c o opRor)
def execLdc (c : Fin 8) (o : KForm) (s : State) : Host.Outcome State Fault Refusal :=
  settled (aluK s c o (fun _ i => i.signExtend 64))
def execShc (c : Fin 8) (o : KForm) (s : State) : Host.Outcome State Fault Refusal :=
  settled (aluK s c o (fun d i => (d <<< 21) ||| i.zeroExtend 64))
def execBfx (c : Fin 8) (o : FForm) (s : State) : Host.Outcome State Fault Refusal :=
  settled (aluF s c o (fun a _ pos len => opBfx a pos len))
def execBfxs (c : Fin 8) (o : FForm) (s : State) : Host.Outcome State Fault Refusal :=
  settled (aluF s c o (fun a _ pos len => opBfxs a pos len))
def execBfi (c : Fin 8) (o : FForm) (s : State) : Host.Outcome State Fault Refusal := settled (aluF s c o opBfi)

/-! ### Loads, stores, atomics (R455–R461) -/

def sx (n v : Nat) : DWord := BitVec.ofInt 64 (sgn n v)
def zx (v : Nat) : DWord := BitVec.ofNat 64 v

def execLdB (c : Fin 8) (o : IForm) (e : MemEv) (s : State) : Host.Outcome State Fault Refusal := settled (loadN s c o e 1 (sx 8))
def execLdBu (c : Fin 8) (o : IForm) (e : MemEv) (s : State) : Host.Outcome State Fault Refusal := settled (loadN s c o e 1 zx)
def execLdH (c : Fin 8) (o : IForm) (e : MemEv) (s : State) : Host.Outcome State Fault Refusal := settled (loadN s c o e 2 (sx 16))
def execLdHu (c : Fin 8) (o : IForm) (e : MemEv) (s : State) : Host.Outcome State Fault Refusal := settled (loadN s c o e 2 zx)
def execLdW (c : Fin 8) (o : IForm) (e : MemEv) (s : State) : Host.Outcome State Fault Refusal := settled (loadN s c o e 4 (sx 32))
def execLdWu (c : Fin 8) (o : IForm) (e : MemEv) (s : State) : Host.Outcome State Fault Refusal := settled (loadN s c o e 4 zx)
def execLdD (c : Fin 8) (o : IForm) (e : MemEv) (s : State) : Host.Outcome State Fault Refusal := settled (loadN s c o e 8 zx)
def execStB (c : Fin 8) (o : IForm) (e : MemEv) (s : State) : Host.Outcome State Fault Refusal := settled (storeN s c o e 1)
def execStH (c : Fin 8) (o : IForm) (e : MemEv) (s : State) : Host.Outcome State Fault Refusal := settled (storeN s c o e 2)
def execStW (c : Fin 8) (o : IForm) (e : MemEv) (s : State) : Host.Outcome State Fault Refusal := settled (storeN s c o e 4)
def execStD (c : Fin 8) (o : IForm) (e : MemEv) (s : State) : Host.Outcome State Fault Refusal := settled (storeN s c o e 8)
def execAaddW (c : Fin 8) (o : RForm) (s : State) : Host.Outcome State Fault Refusal := settled (atomicN s c o 4 true)
def execAaddD (c : Fin 8) (o : RForm) (s : State) : Host.Outcome State Fault Refusal := settled (atomicN s c o 8 true)
def execAswpW (c : Fin 8) (o : RForm) (s : State) : Host.Outcome State Fault Refusal := settled (atomicN s c o 4 false)
def execAswpD (c : Fin 8) (o : RForm) (s : State) : Host.Outcome State Fault Refusal := settled (atomicN s c o 8 false)

/-! ### Fences and maintenance (R462, R463): stores, cleans and fills of this model have ended when their command has -/

def execFenceW (c : Fin 8) (o : RForm) (s : State) : Host.Outcome State Fault Refusal := settled (plainR s c o fun s => next s c)
def execFenceR (c : Fin 8) (o : RForm) (s : State) : Host.Outcome State Fault Refusal := settled (plainR s c o fun s => next s c)
def execFence (c : Fin 8) (o : RForm) (s : State) : Host.Outcome State Fault Refusal := settled (plainR s c o fun s => next s c)
def execCclean (c : Fin 8) (o : CForm) (s : State) : Host.Outcome State Fault Refusal := settled (maintain s c o 0)
def execCinval (c : Fin 8) (o : CForm) (s : State) : Host.Outcome State Fault Refusal := settled (maintain s c o 1)
def execCflush (c : Fin 8) (o : CForm) (s : State) : Host.Outcome State Fault Refusal := settled (maintain s c o 2)
def execIinval (c : Fin 8) (o : CForm) (s : State) : Host.Outcome State Fault Refusal := settled (maintain s c o 3)
def execCpre (c : Fin 8) (o : CForm) (s : State) : Host.Outcome State Fault Refusal := settled (maintain s c o 4)
def execIpre (c : Fin 8) (o : CForm) (s : State) : Host.Outcome State Fault Refusal := settled (maintain s c o 5)

/-! ### Branches and jumps (R464) -/

def execBeq (c : Fin 8) (o : BForm) (s : State) : Host.Outcome State Fault Refusal := settled (branch s c o (fun a b => a = b))
def execBne (c : Fin 8) (o : BForm) (s : State) : Host.Outcome State Fault Refusal := settled (branch s c o (fun a b => a ≠ b))
def execBlt (c : Fin 8) (o : BForm) (s : State) : Host.Outcome State Fault Refusal := settled (branch s c o (fun a b => a.slt b))
def execBge (c : Fin 8) (o : BForm) (s : State) : Host.Outcome State Fault Refusal := settled (branch s c o (fun a b => !a.slt b))
def execBltu (c : Fin 8) (o : BForm) (s : State) : Host.Outcome State Fault Refusal := settled (branch s c o (fun a b => a < b))
def execBgeu (c : Fin 8) (o : BForm) (s : State) : Host.Outcome State Fault Refusal := settled (branch s c o (fun a b => !(a < b)))

/-- BLB: taken where LDBUSY is 1, which it clears; RA and RB must be zero. -/
def blbOp (s : State) (c : Fin 8) (o : BForm) : State :=
  instr s c fun s =>
    if o.ra ≠ 0 || o.rb ≠ 0 then illegal s c
    else if (s.core c).stat.toNat.testBit 4 then
      modCore (jumpTo s c (target s c (o.off.signExtend 64))) c fun k => statBit k 4 false
    else next s c

def execBlb (c : Fin 8) (o : BForm) (s : State) : Host.Outcome State Fault Refusal := settled (blbOp s c o)

def execJ (c : Fin 8) (off : BitVec 26) (s : State) : Host.Outcome State Fault Refusal :=
  settled (instr s c fun s => jumpTo s c (target s c (off.signExtend 64)))

def execJl (c : Fin 8) (o : KForm) (s : State) : Host.Outcome State Fault Refusal :=
  settled (instr s c fun s => jumpTo (setG s c o.rd (pcOf ((s.core c).pc + 4))) c (target s c (o.imm.signExtend 64)))

def execJlr (c : Fin 8) (o : IForm) (s : State) : Host.Outcome State Fault Refusal :=
  settled (instr s c fun s =>
    jumpTo (setG s c o.rd (pcOf ((s.core c).pc + 4))) c (gAt s c o.ra + o.imm.signExtend 64))

/-! ### System operations (R465, R466, R473) -/

/-- MFS: RA must be zero. -/
def mfsOp (s : State) (c : Fin 8) (o : RForm) : State :=
  instr s c fun s =>
    match sprRead s c o.rb.toNat with
    | some v => if o.rsv ≠ 0 || o.ra ≠ 0 then illegal s c else next (setG s c o.rd v) c
    | none => illegal s c

def execMfs (c : Fin 8) (o : RForm) (s : State) : Host.Outcome State Fault Refusal := settled (mfsOp s c o)

/-- MTS: RD must be zero. -/
def mtsOp (s : State) (c : Fin 8) (o : RForm) : State :=
  instr s c fun s =>
    match sprWrite (s.core c) o.rb.toNat (gAt s c o.ra) with
    | some k => if o.rsv ≠ 0 || o.rd ≠ 0 then illegal s c else next (modCore s c fun _ => k) c
    | none => illegal s c

def execMts (c : Fin 8) (o : RForm) (s : State) : Host.Outcome State Fault Refusal := settled (mtsOp s c o)

/-- TRAP: RB gives CODE; RA and RD must be zero. -/
def trapOp (s : State) (c : Fin 8) (o : RForm) : State :=
  instr s c fun s =>
    if o.rsv ≠ 0 || o.ra ≠ 0 || o.rd ≠ 0 then illegal s c else preciseTrap s c causeTrap (o.rb.toNat * 256) 0

def execTrap (c : Fin 8) (o : RForm) (s : State) : Host.Outcome State Fault Refusal := settled (trapOp s c o)

/-- RETI: ILLEGAL at DEPTH 0. -/
def retiOp (s : State) (c : Fin 8) (o : RForm) : State :=
  plainR s c o fun s => if statDepth (s.core c) = 0 then illegal s c else modCore s c popFrame

def execReti (c : Fin 8) (o : RForm) (s : State) : Host.Outcome State Fault Refusal := settled (retiOp s c o)

/-- The core waits; a wait whose end is there already ends with the command (R466). -/
def startWait (s : State) (c : Fin 8) : State := modCore s c fun k => { k with run := .waiting }

def execWfi (c : Fin 8) (o : RForm) (s : State) : Host.Outcome State Fault Refusal := settled (plainR s c o fun s => startWait (next s c) c)

def execHalt (c : Fin 8) (o : RForm) (s : State) : Host.Outcome State Fault Refusal := settled (plainR s c o fun s => haltCore (next s c) c)

/-- POST. -/
def postOp (s : State) (c : Fin 8) (o : RForm) : State :=
  instr s c fun s =>
    let a := (gAt s c o.ra).toNat
    let q := (gAt s c o.rb).toNat % 32
    if o.rsv ≠ 0 then illegal s c else next (setG (postDesc s a q) c o.rd (BitVec.ofNat 64 (postResult s a q))) c

def execPost (c : Fin 8) (o : RForm) (s : State) : Host.Outcome State Fault Refusal := settled (postOp s c o)

end Sys2Proof.Machine
end

