-- ==== Sys2Proof/Machine/Facet.lean ====
section
/-! DEFINITION. Facet (13): bring-up and replay (R385, R398, R412), reads (R394, R402–R404, R411), programs (R389, R391, R396,
R397, R399, R400), checkpoints (R398), dies (R405), reclaim, fold and erase (R401, R406–R410), patrol (R413), wear (R415, R416). -/

namespace Sys2Proof.Machine

/-! ### Modes, spares, retirement (R413, R415, R416) -/

def fctIrq (s : State) (i : Nat) : State := rbitSet s Reg.fctIrqstat i true

/-- The tier moves to a higher mode. -/
def setTierMode (s : State) (m : TierMode) : State :=
  if modeCode m ≤ modeCode s.fct.mode then s
  else
    let s := fctIrq (modFct s fun f => { f with mode := m }) 0
    if m = .retired then
      setWarning (rfSet s Reg.pmuPfctl 8 8 0) 3 0
    else s

/-- RETIRED where no die group can form a superblock, or what is left cannot hold the reserve. -/
def checkTier (s : State) : State :=
  if s.fct.ready && (dieGroups s = [] || sbTotal s ≤ pfReserve s) then setTierMode s .retired else s

/-- A block must be retired once its superblock has been copied and erased; with no spare in its plane the tier writes through and
the die is omitted from later superblocks. -/
def mustRetire (s : State) (b : Nat) : State :=
  if s.fct.retiring.contains b then s
  else
    let d := b / 65536
    let s := modFct s fun f => { f with retiring := b :: f.retiring }
    if sparesLeft s d (b / 16384 % 4) = 0 then
      checkTier (setTierMode (modFct s fun f => { f with omitted := d :: f.omitted }) .writethru)
    else s

/-- A block is retired: a spare of its plane takes its place. -/
def retireNow (s : State) (b : Nat) : State :=
  let s := modFct s fun f => { f with retired := b :: f.retired, retiring := f.retiring.filter fun c => c ≠ b }
  let s := appendJournal s [{ key := b, op := 7, arg := 0, value := 2 ^ 50 * (b / 65536) + 2 ^ 48 * (b / 16384 % 4) + 2 ^ 34 * (b % 16384) }]
  if 10 * sparesTotal s < sparesReserved s then
    fctIrq (setWarning s 0 2) 1
  else s

/-- A superblock is queued for reclaim at once. -/
def queueWeak (s : State) (n : Nat) : State :=
  if s.fct.weak.contains n then s else modFct s fun f => { f with weak := f.weak ++ [n] }

/-! ### Bring-up (R385, R398, R412) -/

def fctGeomOk (g : Nat) : Bool :=
  decide (512 ≤ fBlocks g) && decide (64 ≤ fPages g) && decide (2 ≤ fCells g) && decide (fCells g ≤ 4) && decide (fPages g ≤ 8192)

/-- Geometry that every target must report: that of target 0 of the lowest populated channel. -/
def refGeom (ts : List TargetInfo) : Option Nat :=
  match (List.range 8).find? fun c => ts.any fun t => t.num.val / 8 = c with
  | none => none
  | some c => ((ts.find? fun t => t.num.val = 8 * c && t.pageOk).map (·.geom)).filter fctGeomOk

/-- Dies up to 32 TiB, in ascending number. -/
def usableDies (g : Nat) (l : List Nat) : List Nat :=
  let per := fPlanes g * fBlocks g * fPages g * fSpp g * 4096
  if per = 0 then [] else l.take (2 ^ 45 / per)

/-- The mapping as the checkpoint and the programmed journal give it; entries beyond are lost. -/
def replayMap (f : FctSt) (slotOfValue : JEntry → Nat) : SMap Nat :=
  (f.journal.take (f.jFlash - f.ckptJ)).foldl (fun m e => replayEntry m (slotOfValue e, e)) f.ckptMap

/-- Slot that a mapping entry names, as `FctSt.map` lists it. -/
def valueRef (s : State) (v : Nat) : Nat :=
  let die := fld v 50 8
  let block := fld v 34 14
  match s.fct.sbs.find? fun e => e.1 % 16384 = block && e.2.members.contains die && e.2.native = !v.testBit 62 with
  | none => 0
  | some (n, x) =>
    match slotOf s x (fld v 21 13) ((posOf x.members die).getD 0) (fld v 48 2) (fld v 18 3) with
    | none => 0
    | some i => slotRef n i + 1

/-- Tables after bring-up: at the first format empty; else replayed. UNKNOWN blocks are counted. -/
def fctTables (s : State) : State :=
  if !s.fct.formatted then
    modFct s fun f => { f with
      formatted := true, sparePer := clampNat 5 100 (rf s Reg.fctSparecfg 0 8) * fBlocks f.geom / 1000
      map := [], disk := [], data := [], sbs := [], journal := [], jseq := 0, jFlash := 0, ckptSeq := 0, ckptJ := 0, ckptMap := [] }
  else
    let m := replayMap s.fct fun e => valueRef s e.value
    let s := modFct s fun f => { f with
      map := m, journal := f.journal.take (f.jFlash - f.ckptJ), jseq := f.jFlash, tpc := [] }
    let unknown := s.fct.sbs.filter fun e => e.2.st = .unknown
    rcount s Reg.fctUnknown ((unknown.map fun e => e.2.members.length * fPlanes s.fct.geom).sum)

/-- FACET_BRINGUP. -/
def facetBringupOp (s : State) (ts : List TargetInfo) : State :=
  when (s.ms.ready && !s.fct.ready && !s.pf.active) s fun s =>
    let s := rootStage (rbitSet s Reg.fctCtl 0 true)
    match refGeom ts with
    | none => s
    | some g =>
      let good := ts.filter fun t => t.pageOk && t.geom = g
      let bad := ts.filter fun t => !(t.pageOk && t.geom = g)
      let s := rsetN s Reg.fctTgtbad (bad.foldl (fun m t => putBit m t.num.val true) 0 % 2 ^ 32)
      let dies := usableDies g ((List.range 256).filter fun d =>
        good.any fun t => t.num.val = d / 32 * 8 + d % 32 / 4 && decide (d % 4 < fLuns g))
      let rates := good.foldl (fun m t => tset 0 m t.num.val (min t.rate.val (rf s Reg.fctChcfg 0 3))) []
      let s := modFct s fun f => { f with dies := dies, geom := putBit g 0 true, rates := rates }
      checkTier (modFct (fctTables s) fun f => { f with ready := true, victim := none, folding := false })

def execFacetBringup (targets : List TargetInfo) (s : State) : Host.Outcome State Fault Refusal := settled (facetBringupOp s targets)

/-! ### Reading (R394, R402–R404, R419) -/

/-- Set of a translation page, space × 2^32 + page, in its cache (R394). -/
def tpcSet (i : Nat) : Nat := (i % 2 ^ 32 ^^^ (i / 2 ^ 32 * 512)) % 8192

/-- Its page for an FLA. -/
def tpcPage (f : Nat) : Nat := flaSpace f * 2 ^ 32 + flaIndex f / 512

/-- A translation page is looked up (R394). -/
def tpcTouch (s : State) (f : Nat) : State :=
  let id := tpcPage f
  let rest := s.fct.tpc.filter fun i => i ≠ id
  let s := if s.fct.tpc.contains id then rcount s Reg.fctTpchits 1 else rcount s Reg.fctTpcmiss 1
  let inSet := rest.filter fun i => tpcSet i = tpcSet id
  let rest := if inSet.length < 8 then rest else
    match inSet.getLast? with
    | some v => rest.filter fun i => i ≠ v
    | none => rest
  modFct s fun f => { f with tpc := id :: rest }

/-- A codeword's iterations and corrected bits go to the event recorder, by channel of its die. -/
def reportCodeword (s : State) (die : Nat) (e : FlashEnd) : State :=
  if 3 < e.step then s
  else evrPushN (evrPushN s (40 + die / 32) e.iters) (48 + die / 32) e.bits

/-- Counters of the steps that a codeword needed. -/
def countSteps (s : State) (e : FlashEnd) : State :=
  let s := if 2 ≤ e.step then rcount s Reg.fctRetry 1 else s
  let s := if 3 ≤ e.step then rcount s Reg.fctSoftdec 1 else s
  let s := if e.step = 4 then rcount s Reg.fctXorreb 1 else s
  if 5 ≤ e.step then fctIrq (rcount s Reg.fctUncorr 1) 2 else s

/-- The chunk whose live version has a unit at an FLA. -/
def ownerOfFla (s : State) (f : Nat) : Option Nat := (s.obj.chunks.find? fun e => covers (placedAt s e.1) 1 f).map (·.1)

/-- An unrecoverable slot, by space (R404). Of LOG and PFAIL firmware is told by the interrupt bit. -/
def flashLost (s : State) (f cause : Nat) : State :=
  if flaSpace f = 0 then
    match ownerOfFla s f with
    | none => s
    | some key =>
      let c := chunkAt s key
      if c.staged then s
      else addUnrec (poisonChunk s key) (handleSlot (keyHandle key)) (keyHandle key) cause (keyChunk key)
        (if c.poison then 0xFFFF else f - c.loc) 0
  else if flaSpace f = 2 then raise1 s .lat 1
  else s

/-- Block of a slot. -/
def slotBlock (s : State) (n i : Nat) : Nat :=
  let x := sbAt s n
  let p := slotPlace s x i
  (x.members.getD p.2.1 0 * 4 + p.2.2.1) * 16384 + n % 16384

/-- A slot holds a block header. -/
def headerSlot (s : State) (n i : Nat) : Bool := decide (i < sbStripe s (sbAt s n)) && decide (i % fSpp s.fct.geom = 0)

/-- The information bytes of a slot that no FLA has: a block header or a pad (R388, R389). -/
def fillBytes (s : State) (n i : Nat) : List Byte :=
  let x := sbAt s n
  if headerSlot s n i then blockHeader n x (slotPlace s x i).2.1 else internalPage 7 x.stream s.fct.ckptSeq 0 []

/-- The pages of a stream hold what FLAs name; the journal and the checkpoint stand in their own fields. -/
def keepsBytes (stream : Nat) : Bool := stream ≠ 8 && stream ≠ 9

/-- The codeword of a slot rebuilt from the other members of its stripe (R403); headers are known and count as zero. -/
def rebuildCodeword (s : State) (n k : Nat) : List Byte :=
  let x := sbAt s n
  let d := fDie s.fct.geom
  let w := x.members.length
  let base := k / (w * d) * (w * d)
  (List.range w).foldl (fun acc j =>
    let q := base + j * d + k % d
    if q = k || (decide (j + 1 ≠ w) && headerSlot s n q) then acc
    else match tget [] s.fct.data (slotRef n q) with
      | [] => acc
      | b :: r => xorBytes acc (b :: r)) (zeros 4608)

/-- The XOR die page of a slot's stripe is programmed (R391). -/
def stripeDone (s : State) (n k : Nat) : Bool :=
  let x := sbAt s n
  decide ((k / sbStripe s x + 1) * sbStripe s x ≤ x.slots.length)

/-- What a read of a slot gives: the information bytes of its codeword, or of the one rebuilt at step 4 (R402, R403). -/
def flashInfo (s : State) (n k step : Nat) : List Byte :=
  codewordInfo (slotSeed s n k) (if step = 4 then rebuildCodeword s n k else tget [] s.fct.data (slotRef n k))

/-- A slot's stripe can be rebuilt: its XOR die page is programmed, and a tagged unit that it gives passes TCRC and DCRC (R391, R403). -/
def rebuildable (s : State) (tagged : Bool) (n k : Nat) : Bool :=
  stripeDone s n k &&
    let info := codewordInfo (slotSeed s n k) (rebuildCodeword s n k)
    (!tagged || (tcrcOk info && dcrcOk info))

/-- A slot holds a tagged unit (R388). -/
def taggedSlot (s : State) (n k : Nat) : Bool :=
  let f := slotFla (sbAt s n) k
  decide (f ≠ noFla) && decide (flaSpace f = 0)

/-- How the reads of a slot end. -/
def slotEnd (s : State) (n k : Nat) (r : FlashReads) : FlashEnd :=
  let t := taggedSlot s n k
  flashEnd s (slotSeed s n k) t (rebuildable s t n k) r

/-- Checks 2 and 5 of R164 on a unit of the flash tier, and the reconciliation of R265; a unit that belongs to no live version has no step
6 to go to and is lost (log 193). -/
def codecFlash (s : State) (f : Nat) (info : List Byte) : State :=
  match ownerOfFla s f with
  | none => s
  | some key =>
    let c := placedAt s key
    let t := parseTag info
    let u := f - c.loc
    if !tagMatches t key c u then
      let s := rcount s Reg.cdcTagmism 1
      let k := chunkKey t.handle t.chunk
      let d := chunkAt s k
      if k ≠ key && d.count ≠ 0 && d.gen = t.gen then putChunk s k { d with loc := f - t.unit, tier := 1, dirty := true }
      else flashLost s f 1
    else if u + 1 = c.count then inflateCheck s key c
    else s

/-- The information bytes of an FLA that the reserved disk area holds (R417); 4,128 zero bytes for one that is mapped nowhere (R393). -/
def diskInfo (s : State) (f : Nat) : List Byte :=
  match tget 0 s.fct.disk f with
  | 0 => zeros 4128
  | m + 1 => (mediaSlot s (maddrSpindle m) (maddrBand m) (maddrUnit m)).getD (zeros 4128)

/-- FLASH_READ. An unmapped address reads as 4,128 zero bytes. The answer shows the first eight bytes read. -/
def flashReadOp (s : State) (f : Nat) (r : FlashReads) : State :=
  when (s.fct.ready && flaValid s f) s fun s =>
    let s := tpcTouch s f
    match flashAt s f with
    | none => { s with resp := { data := BitVec.ofNat 64 (ofBytes ((diskInfo s f).take 8)), err := false, busy := false } }
    | some k =>
      let n := k / 2 ^ 24
      let e := slotEnd s n (k % 2 ^ 24) r
      let info := flashInfo s n (k % 2 ^ 24) e.step
      let s := { s with resp := { data := BitVec.ofNat 64 (ofBytes (info.take 8)), err := decide (5 ≤ e.step), busy := false } }
      let b := slotBlock s n (k % 2 ^ 24)
      let s := countSteps (reportCodeword s (b / 65536) e) e
      let s := if e.step = 4 then mustRetire (queueWeak s n) b else s
      if 5 ≤ e.step then flashLost s f 1 else if flaSpace f = 0 then codecFlash s f info else s

def execFlashRead (fla : Nat) (r : FlashReads) (s : State) : Host.Outcome State Fault Refusal := settled (flashReadOp s fla r)

/-! ### Programming (R389, R391, R396, R397, R399, R400) -/

/-- The open superblock of a stream. -/
def openSbOf (s : State) (stream : Nat) : Option Nat := (s.fct.sbs.find? fun e => e.2.st = .open_ && e.2.stream = stream).map (·.1)

/-- The erased superblock of lowest number. -/
def freeSb (s : State) : Option (Nat × List Nat) :=
  ((dieGroups s).findSome? fun g =>
    ((List.range (sbsPerGroup s)).find? fun i => (sbAt s (sbNumber g i)).st = .erased).map fun i => (sbNumber g i, groupDies s g))

/-- A superblock may be opened for a stream: the reserve serves PFAIL alone (R399, R400). -/
def mayOpen (s : State) (stream : Nat) : Bool :=
  let room := if stream = 7 then freeSbs s else freeSlc s
  decide ((if stream = 4 then 0 else pfReserve s) < room)

/-- A superblock opens: its BSEQ, its members, an OPEN entry for each block. -/
def openSb (s : State) (n stream : Nat) (members : List Nat) : State :=
  let b := s.fct.bseqNext
  let s := modFct s fun f => { f with bseqNext := b + 1 }
  let s := modSb s n fun x => { x with st := .open_, stream := stream, native := stream = 7, bseq := b, slots := [], members := members, opened := clockSec s.datum }
  journalBlocks s n 8

/-- The open superblock of a stream, opened where there is none. -/
def ensureSb (s : State) (stream : Nat) : Option (Nat × State) :=
  match openSbOf s stream with
  | some n => some (n, s)
  | none =>
    if mayOpen s stream then (freeSb s).map fun e => (e.1, openSb s e.1 stream e.2) else none

/-- The next die page lies in stripe 0, whose pages carry a header in slot 0 of each plane. -/
def inStripe0 (s : State) (x : Sb) : Bool := decide (x.slots.length < sbStripe s x)

/-- Slots of the next data die page that can hold an FLA. -/
def pageRoom (s : State) (x : Sb) : Nat :=
  fDie s.fct.geom - (if inStripe0 s x then fPlanes s.fct.geom else 0)

/-- The FLAs of a die page in slot order, and the contents by slot, from slot `i` on. -/
def layPage (hdr : Bool) (spp base i n : Nat) (l : List (Nat × List Byte)) : List (Nat × Option (Nat × List Byte)) :=
  match n with
  | 0 => []
  | n' + 1 =>
    if hdr && decide (i % spp = 0) then (base + i, none) :: layPage hdr spp base (i + 1) n' l
    else
      match l with
      | [] => (base + i, none) :: layPage hdr spp base (i + 1) n' []
      | e :: rest => (base + i, some e) :: layPage hdr spp base (i + 1) n' rest

/-- One slot of a die page as programmed: its codeword, its mapping, its journal entry. -/
def putSlot (s : State) (n : Nat) (e : Nat × Option (Nat × List Byte)) : State :=
  let info := match e.2 with
    | none => fillBytes s n e.1
    | some p => p.2
  let f := match e.2 with
    | none => noFla
    | some p => p.1
  let s := modSb s n fun x => { x with slots := f :: x.slots }
  let s := if keepsBytes (sbAt s n).stream then
      modFct s fun g => { g with data := tset [] g.data (slotRef n e.1) (flashCodeword (slotSeed s n e.1) info) }
    else s
  match e.2 with
  | none => s
  | some (fla, _) =>
    let s := modFct s fun g => { g with map := tset 0 g.map fla (slotRef n e.1 + 1) }
    appendJournal s [{ key := fla, op := 1, arg := 0, value := mapEntry s n e.1 }]

/-- XOR slot `i` of the stripe that starts at slot `base`: the sum of the codewords of its data die pages, headers taken as zero (R391). -/
def xorSlot (s : State) (n base w i : Nat) : List Byte :=
  let d := fDie s.fct.geom
  (List.range (w - 1)).foldl (fun acc j =>
    let k := base + j * d + i
    if headerSlot s n k then acc
    else match tget [] s.fct.data (slotRef n k) with
      | [] => acc
      | b :: r => xorBytes acc (b :: r)) (zeros 4608)

/-- The XOR die page of a stripe is programmed after its data die pages (R391). -/
def putXorPage (s : State) (n : Nat) : State :=
  let x := sbAt s n
  let d := fDie s.fct.geom
  let w := x.members.length
  let base := x.slots.length - (w - 1) * d
  let s := if keepsBytes x.stream then
      overList (List.range d) s fun s i => modFct s fun g => { g with
        data := tset [] g.data (slotRef n (base + (w - 1) * d + i)) (xorSlot s n base w i) }
    else s
  modSb s n fun x => { x with slots := List.replicate d noFla ++ x.slots }

/-- A superblock closes. -/
def closeSb (s : State) (n : Nat) : State := modSb s n fun x => { x with st := .closed, closedAt := s.evr.opsec }

/-- One data die page of a superblock; the XOR die page follows the last data page of its stripe, and the last stripe closes the
superblock. -/
def programPage (s : State) (n : Nat) (l : List (Nat × List Byte)) : State :=
  let x := sbAt s n
  let d := fDie s.fct.geom
  let page := layPage (inStripe0 s x) (fSpp s.fct.geom) x.slots.length 0 d l
  let s := overList page s fun s e => putSlot s n e
  let y := sbAt s n
  let s := if y.slots.length / d % y.members.length + 1 = y.members.length then putXorPage s n else s
  let z := sbAt s n
  if sbSlots s z ≤ z.slots.length then closeSb s n else s

/-- Space of the FLAs that a stream holds. -/
def streamSpace (stream : Nat) : Option Nat :=
  match stream with
  | 0 | 7 => some 0
  | 1 => some 1
  | 2 => some 2
  | 3 => some 3
  | 4 => some 4
  | _ => none

/-- A program may run: in step 3 of a power failure and after, those of the dirty set alone (R414); in the CHUNK stream in mode
NORMAL and above FREECRIT (R406, R416). -/
def mayProgram (s : State) (stream : Nat) : Bool :=
  s.fct.ready && (!s.pf.step3 || stream = 0 || stream = 4 || stream = 8)
    && (stream ≠ 0 || (s.fct.mode = .normal && decide (rf s Reg.fctFreeth 16 16 ≤ freeSbs s)))
    && ((streamSpace stream).isSome || stream = 8 || stream = 9)

/-! The reserved disk area (R417) -/

/-- Write-pointer word of a band. -/
def bandPtr (s : State) (spindle band : Nat) : Nat := readNat s.mem (wptrAddr s 0 spindle band) 4

/-- A slot written to a band of the reserved disk area, whose parity Lattice does not accumulate (R301). -/
def putReserved (s : State) (spindle band : Nat) (info : List Byte) : State :=
  let q := bandPtr s spindle band
  (busWriteNat (setMediaSlot s spindle band q info) (masterChd 0) (wptrAddr s 0 spindle band) 4 (q + 1)).2

/-- A band of a RESERVED group with room for another slot. -/
def reservedBand (s : State) : Option (Nat × Nat) :=
  s.lat.groups.findSome? fun e =>
    if e.2.st = .reserved then
      ((members s).map fun j => memberOf s e.1 j).find? fun m => serves s m.1 && decide (bandPtr s m.1 m.2 < dataSlots)
    else none

/-- A band of the area takes the place of a superblock: slot 0 holds a block header of STREAM 15, with a BSEQ of its own. -/
def openReserved (s : State) (m : Nat × Nat) : State :=
  if bandPtr s m.1 m.2 ≠ 0 then s
  else
    let b := s.fct.bseqNext
    putReserved (modFct s fun f => { f with bseqNext := b + 1 }) m.1 m.2 (internalPage 1 15 b 0 [])

/-- A page or image slot of an FLA goes to the area, and its slot of the flash is free. -/
def putDisk (s : State) (e : Nat × List Byte) : State :=
  match reservedBand s with
  | none => s
  | some m =>
    let s := openReserved s m
    let a := maddrOf m.1 m.2 (bandPtr s m.1 m.2)
    let s := putReserved s m.1 m.2 e.2
    let s := modFct s fun f => { f with disk := tset 0 f.disk e.1 (a + 1), map := tset 0 f.map e.1 0 }
    flushJournal (appendJournal s [{ key := e.1, op := 2, arg := 0, value := 0 }])

/-- FLASH_PROGRAM of the DISKMAP stream: in mode RETIRED the spaces MAP, IMAGE, LOG and PFAIL lie in the reserved disk area (R416,
R417). -/
def diskProgram (s : State) (l : List (Nat × List Byte)) : State :=
  when (s.fct.ready && s.fct.mode = .retired && l.all fun e => flaValid s e.1 && flaSpace e.1 ≠ 0) s fun s => overList l s putDisk

/-- FLASH_PROGRAM: one die page of a stream. `fail`: the plane whose program failed; the page's units are not durable, the
superblock closes and its block is retired after its valid slots are copied (R413). -/
def flashProgramOp (s : State) (stream : Nat) (l : List (Nat × List Byte)) (fail : Option (Fin 4)) : State :=
  if stream = 15 then diskProgram s l
  else when (mayProgram s stream && l.all fun e => flaValid s e.1 && (streamSpace stream = some (flaSpace e.1))) s fun s =>
    match ensureSb s stream with
    | none => s
    | some (n, s) =>
      let x := sbAt s n
      when (decide (l.length ≤ pageRoom s x)) s fun s =>
        match fail with
        | none =>
          let s := programPage s n l
          if stream = 8 then flushJournal s else s
        | some plane =>
          let b := slotBlock s n x.slots.length
          let b := (b / 65536 * 4 + plane.val) * 16384 + n % 16384
          mustRetire (queueWeak (closeSb (raise1 s .fct 0) n) n) b

def execFlashProgram (stream : Nat) (slots : List (Nat × List Byte)) (fail : Option (Fin 4)) (s : State) :
    Host.Outcome State Fault Refusal := settled (flashProgramOp s stream slots fail)

/-- CHECKPOINT (R398): the journal up to here is in the checkpoint that the new root page names. -/
def checkpointOp (s : State) : State :=
  when (s.fct.ready && !s.pf.step3) s fun s =>
    modFct s fun f => { f with
      ckptSeq := f.ckptSeq + 1, ckptJ := f.jseq, ckptMap := f.map, journal := [], jFlash := f.jseq }

def execCheckpoint (s : State) : Host.Outcome State Fault Refusal := settled (checkpointOp s)

/-! ### Dies (R405) -/

/-- DIE_FAIL. -/
def dieFailOp (s : State) (die : Fin 256) : State :=
  when (s.fct.ready && s.fct.dies.contains die.val && !dieFailed s die) s fun s =>
    let s := rbitSet s (Reg.fctDiefail (die.val / 32)) (die.val % 32) true
    let s := fctIrq (raise1 s .fct 2) 3
    let g := die.val % 32 / fctDpg s
    checkTier (overList (((sbUsed s).filter fun e => e.1 / 16384 = g).map (·.1)) s queueWeak)

def execDieFail (die : Fin 256) (s : State) : Host.Outcome State Fault Refusal := settled (dieFailOp s die)

/-! ### Reclaim and fold (R401, R406–R410) -/

/-- A slot's information is still wanted: an FLA of CHUNK space belongs to a live version. -/
def wantedFla (s : State) (f : Nat) : Bool := flaSpace f ≠ 0 || (ownerOfFla s f).isSome

/-- FLAs whose mapping entry names a slot of the superblock. -/
def mappedFlas (s : State) (n : Nat) : List Nat :=
  (s.fct.map.filter fun e => (e.2 - 1) / 2 ^ 24 = n).map (·.1)
def validFlas (s : State) (n : Nat) : List Nat := (mappedFlas s n).filter (wantedFla s)

def pemax (s : State) (native : Bool) : Nat := if native then rf s Reg.fctEndur 0 16 else rf s Reg.fctEndur 16 16

/-- The score of R407. -/
def sbScore (s : State) (n : Nat) : Int :=
  let x := sbAt s n
  let c : Int := (dataSlotsOf s x.native x.members.length : Nat)
  let v : Int := ((validFlas s n).length : Nat)
  let benefit := ((c - v) * 1024).tdiv (c + v)
  let age : Nat := min ((s.evr.opsec - x.closedAt) / 3600) (rf s Reg.fctReclaim 0 16)
  let aged := (benefit * (64 + (age : Int))).tdiv 64
  aged - (((rf s Reg.fctReclaim 24 4 * x.pec * 1024 : Nat) : Int)).tdiv ((pemax s x.native : Nat) : Int)

/-- Candidates: the closed superblocks. -/
def closedSbs (s : State) : List Nat := ((sbUsed s).filter fun e => e.2.st = .closed).map (·.1)

/-- The better of two victims: higher score, then lower BSEQ. -/
def betterVictim (s : State) (a b : Nat) : Nat :=
  if sbScore s a < sbScore s b || (sbScore s a = sbScore s b && decide ((sbAt s b).bseq < (sbAt s a).bseq)) then b else a

/-- The least-worn closed superblock of a mode, where the most-worn free one exceeds it by more than WLGAP (R408). -/
def wearVictim (s : State) (native : Bool) : Option Nat :=
  let free := (s.fct.sbs.filter fun e => e.2.st = .erased && e.2.native = native).foldl (fun m e => max m e.2.pec) 0
  match (closedSbs s).filter fun n => (sbAt s n).native = native with
  | [] => none
  | n :: rest =>
    let v := rest.foldl (fun a b => if (sbAt s b).pec < (sbAt s a).pec then b else a) n
    if (sbAt s v).pec + 8 * rf s Reg.fctReclaim 16 8 < free then some v else none

/-- The next victim of reclaim: a queued superblock; below FREELOW one with no valid slot, one of R408, or the best score. -/
def nextVictim (s : State) : Option Nat :=
  match (closedSbs s).find? fun n => s.fct.weak.contains n with
  | some n => some n
  | none =>
    if rf s Reg.fctFreeth 0 16 ≤ freeSbs s then none
    else
      match (closedSbs s).find? fun n => (validFlas s n).isEmpty, wearVictim s true, wearVictim s false, closedSbs s with
      | some n, _, _, _ => some n
      | none, some n, _, _ => some n
      | none, none, some n, _ => some n
      | none, none, none, n :: rest => some (rest.foldl (betterVictim s) n)
      | none, none, none, [] => none

/-- FLAs copied to the open superblock of a stream, page by page; the superblock of the last copy, or none where one could not be
opened. -/
def copyFlas (s : State) (stream fuel : Nat) (l : List Nat) (at_ : Nat) : Option Nat × State :=
  match fuel, l with
  | _, [] => (some at_, s)
  | 0, _ => (none, s)
  | fuel' + 1, l =>
    match ensureSb s stream with
    | none => (none, s)
    | some (n, s) =>
      let k := pageRoom s (sbAt s n)
      let s := programPage s n ((l.take k).map fun f => (f, flashBytes s f))
      copyFlas s stream fuel' (l.drop k) n

/-- Steps 1 and 2 of R410. -/
def copyVictim (s : State) (v stream : Nat) (fold : Bool) : State :=
  let dead := (mappedFlas s v).filter fun f => !wantedFla s f
  let s := overList dead s fun s f =>
    appendJournal (modFct s fun g => { g with map := tset 0 g.map f 0 }) [{ key := f, op := 2, arg := 0, value := 0 }]
  let l := validFlas s v
  let r := copyFlas s stream (l.length + 1) l v
  match r.1 with
  | none => r.2
  | some n =>
    let s := rcount r.2 Reg.fctRelocs l.length
    modFct s fun f => { f with
      victim := some v, folding := fold, copied := (n, if l = [] then 0 else (sbAt s n).slots.length, if l = [] then 0 else f.jseq) }

/-- Step 3 of R410: every stripe that holds a copy is complete, and every MAP entry in a programmed journal page. -/
def copiesDurable (s : State) : Bool :=
  let c := s.fct.copied
  let x := sbAt s c.1
  let st := sbStripe s x
  (c.2.1 = 0 || x.st ≠ .open_ || (decide (0 < st) && decide ((c.2.1 + st - 1) / st * st ≤ x.slots.length))) && decide (c.2.2 ≤ s.fct.jFlash)

/-- Step 4 of R410, and the start of the erase. -/
def beginErase (s : State) (v : Nat) : State :=
  let s := flushJournal (journalBlocks s v 5)
  modSb s v fun x => { x with st := .erasing }

/-- The victim under way: its erase begins once its copies are durable. -/
def goOnVictim (s : State) (v : Nat) : State :=
  if (sbAt s v).st = .closed && copiesDurable s then beginErase s v else s

/-- RECLAIM: a victim is copied, or the erase of one that has been copied begins. An UNKNOWN block is erased in full first (R412). -/
def reclaimOp (s : State) : State :=
  when (s.fct.ready && rbit s Reg.fctCtl 2 && !s.pf.step3) s fun s =>
    match s.fct.victim with
    | some v => if s.fct.folding then s else goOnVictim s v
    | none =>
      match s.fct.sbs.find? fun e => e.2.st = .unknown with
      | some (n, _) => beginErase (modFct s fun f => { f with victim := some n, copied := (n, 0, 0) }) n
      | none =>
        match nextVictim s with
        | none => s
        | some v =>
          let s := rsetN (rsetN s Reg.fctVictim v) Reg.fctVscore (unsgn 32 (sbScore s v))
          let empty := (validFlas s v).isEmpty
          let s := copyVictim s v (sbAt s v).stream false
          if empty then goOnVictim s v else s

def execReclaim (s : State) : Host.Outcome State Fault Refusal := settled (reclaimOp s)

/-- The closed CHUNK superblock of lowest BSEQ. -/
def foldVictim (s : State) : Option Nat :=
  match (closedSbs s).filter fun n => (sbAt s n).stream = 0 && !(sbAt s n).native with
  | [] => none
  | n :: rest => some (rest.foldl (fun a b => if (sbAt s b).bseq < (sbAt s a).bseq then b else a) n)

/-- FOLD (R401). -/
def foldOp (s : State) : State :=
  when (s.fct.ready && rbit s Reg.fctCtl 3 && !s.pf.step3) s fun s =>
    match s.fct.victim with
    | some v => if s.fct.folding then goOnVictim s v else s
    | none =>
      if rf s Reg.fctSlccfg 16 8 ≤ freeSlc s then s
      else
        match foldVictim s with
        | none => s
        | some v => copyVictim s v 7 true

def execFold (s : State) : Host.Outcome State Fault Refusal := settled (foldOp s)

/-- FLASH_ERASE_DONE (R410, R413, R419): steps 5 and 6. `fail`: member position and plane of a block whose erase failed. -/
def flashEraseDoneOp (s : State) (fail : Option (Nat × Fin 4)) : State :=
  match s.fct.victim with
  | none => s
  | some v =>
    when ((sbAt s v).st = .erasing) s fun s =>
      let x := sbAt s v
      let blocks := sbBlocks s v
      let s := overList blocks s fun s _ => evrPushN s 56 (x.pec + 1)
      let failed := match fail with
        | some (m, pl) => (x.members[m]?).toList.map fun d => (d * 4 + pl.val) * 16384 + v % 16384
        | none => []
      let s := if failed = [] then s else raise1 s .fct 1
      let s := overList failed s mustRetire
      let s := overList ((s.fct.retiring).filter fun b => blocks.contains b) s retireNow
      let s := journalBlocks s v 6
      let s := modFct s fun f => { f with
        data := f.data.filter fun e => e.1 / 2 ^ 24 ≠ v, victim := none, folding := false, weak := f.weak.filter fun n => n ≠ v }
      checkTier (modSb s v fun x => { x with st := .erased, slots := [], members := [], pec := x.pec + 1 })

def execFlashEraseDone (fail : Option (Nat × Fin 4)) (s : State) : Host.Outcome State Fault Refusal := settled (flashEraseDoneOp s fail)

/-! ### Patrol (R413) -/

/-- How the reads of codeword `i` of a block end: of a slot, or of an XOR slot, which is rebuilt from the data slots of its stripe. -/
def blockEnd (s : State) (n m plane i : Nat) (r : FlashReads) : FlashEnd :=
  let spp := fSpp s.fct.geom
  match slotOf s (sbAt s n) (i / spp) m plane (i % spp) with
  | some k => slotEnd s n k r
  | none => flashEnd s 0 false true r

/-- One codeword of a patrolled block. -/
def patrolCodeword (s : State) (n b m plane i : Nat) (e : FlashEnd) : State :=
  let spp := fSpp s.fct.geom
  let s := countSteps (reportCodeword s (b / 65536) e) e
  let weak := 2 ≤ e.step || rf s Reg.fctPatrolctl 8 6 ≤ e.iters || rf s Reg.fctPatrolctl 16 16 ≤ e.bits
  let s := if weak then queueWeak s n else s
  let s := if e.step = 4 || (e.step = 3 && s.fct.weak3.contains b) then mustRetire s b else s
  if e.step < 5 then s
  else
    match slotOf s (sbAt s n) (i / spp) m plane (i % spp) with
    | none => s
    | some k => if flashAt s (slotFla (sbAt s n) k) = some (slotRef n k) then flashLost s (slotFla (sbAt s n) k) 2 else s

def patrolWords (s : State) (n b m plane i : Nat) (ends : List FlashEnd) : State :=
  match ends with
  | [] => s
  | e :: rest => patrolWords (patrolCodeword s n b m plane i e) n b m plane (i + 1) rest

/-- How the reads of a block end, from codeword `i` on. -/
def blockEnds (s : State) (n m plane i : Nat) (reads : List FlashReads) : List FlashEnd :=
  match reads with
  | [] => []
  | r :: rest => blockEnd s n m plane i r :: blockEnds s n m plane (i + 1) rest

/-- Programmed blocks of the tier. -/
def programmedBlocks (s : State) : Nat :=
  (((sbUsed s).filter fun e => e.2.slots ≠ []).map fun e => e.2.members.length * fPlanes s.fct.geom).sum

/-- FLASH_PATROL: the codewords of one block. -/
def flashPatrolOp (s : State) (die : Fin 256) (plane : Fin 4) (block : Nat) (reads : List FlashReads) : State :=
  when (s.fct.ready && rbit s Reg.fctCtl 1 && !s.pf.step3) s fun s =>
    match s.fct.sbs.find? fun e => e.1 % 16384 = block && e.2.members.contains die.val && e.2.slots ≠ [] && e.2.st ≠ .unknown && e.2.st ≠ .erasing with
    | none => s
    | some (n, x) =>
      let b := (die.val * 4 + plane.val) * 16384 + block
      let m := (posOf x.members die.val).getD 0
      let ends := blockEnds s n m plane.val 0 reads
      let s := patrolWords s n b m plane.val 0 ends
      let s := modFct s fun f => { f with
        weak3 := if ends.any fun e => e.step = 3 then b :: f.weak3.filter fun c => c ≠ b else f.weak3.filter fun c => c ≠ b
        patrolPos := f.patrolPos + 1 }
      if programmedBlocks s ≤ s.fct.patrolPos then fctIrq (modFct s fun f => { f with patrolPos := 0 }) 4 else s

def execFlashPatrol (die : Fin 256) (plane : Fin 4) (block : Nat) (reads : List FlashReads) (s : State) :
    Host.Outcome State Fault Refusal := settled (flashPatrolOp s die plane block reads)

end Sys2Proof.Machine
end

