-- ==== Sys2Proof/Machine/MapRebuild.lean ====
section
/-! DEFINITION. The map rebuilt from media alone (R184). -/

namespace Sys2Proof.Machine

/-! ### Units found (steps 1 and 2) -/

/-- A unit as the rebuild finds it: tier, LOC, tag and stored bytes. -/
structure FoundUnit where
  tier : Nat
  loc : Nat
  tag : UnitTag
  body : List Byte

/-- Information bytes that a slot gives a reader: of a spindle in service, and with a good TCRC (R164, R198). -/
def readSlot (s : State) (sp bd q : Nat) : Option (List Byte) :=
  if serves s sp then (mediaSlot s sp bd q).filter fun b => dataSlots ≤ q || tcrcOk b else none

/-- A row of an outer-code group as the rebuild reads it: unwritten, erased, or with its bytes (R196, R272). -/
def outerRows (s : State) (sp bd g : Nat) : List (OcRow × List Byte) :=
  (List.range 64).map fun r =>
    match outerSlot g r with
    | none => ({ r := r, addr := 0, unwritten := true, erased := false }, zeros 4128)
    | some q =>
      match readSlot s sp bd q with
      | some b => ({ r := r, addr := 0, unwritten := false, erased := false }, b)
      | none => ({ r := r, addr := 0, unwritten := false, erased := true }, zeros 4128)

/-- A slot recovered through the outer code of its band (R274). -/
def outerRecover (s : State) (sp bd q : Nat) : Option (List Byte) :=
  let rows := outerRows s sp bd (outerGroup q)
  let s0 := rows.foldl (fun acc e => xorBytes acc e.2) (zeros 4128)
  let s1 := rows.foldl (fun acc e => xorBytes acc (gfScale (gfPow (63 - e.1.r)) e.2)) (zeros 4128)
  match ocDecide (rows.map (·.1)) false s0 s1 with
  | .rows l _ => (l.find? fun e => e.1.r = outerRow q).map (·.2)
  | _ => none

/-- A slot recovered through the parity group of its band (R298). -/
def latticeRecover (s : State) (sp bd q : Nat) : Option (List Byte) :=
  match groupOf s sp bd with
  | some (g, j) => reconstructSlot s [j] g j q
  | none => none

/-- The information bytes of a data slot: as it reads, else recovered through the outer code, else through Lattice. -/
def slotFound (s : State) (sp bd q : Nat) : Option (List Byte) :=
  match readSlot s sp bd q with
  | some b => some b
  | none =>
    match (outerRecover s sp bd q).filter tcrcOk with
    | some b => some b
    | none => (latticeRecover s sp bd q).filter tcrcOk

/-- A band carries unit tags: it is no parity band (R296). -/
def tagged (s : State) (sp bd : Nat) : Bool :=
  match groupOf s sp bd with
  | some (g, j) => isDataMember s g j
  | none => true

/-- Slots that the media list, and those below FILL of the members of groups: spindle, band, slot. -/
def slotsToRead (s : State) : List (Nat × Nat × Nat) :=
  let listed := s.media.filterMap fun e => placeBand s e.1
  let filled := s.lat.groups.flatMap fun e => (dataMembers s e.1).flatMap fun j =>
    (List.range (min dataSlots (vget e.2.fill (Fin.ofNat 8 j)))).map fun q => ((memberOf s e.1 j).1, (memberOf s e.1 j).2, q)
  ((listed ++ filled).filter fun e => decide (e.2.2 < dataSlots) && tagged s e.1 e.2.1).eraseDups

def foundUnit (tier loc : Nat) (info : List Byte) : FoundUnit := { tier := tier, loc := loc, tag := parseTag info, body := info.drop 32 }

/-- Step 2: every unit of every band, and every unit that the flash tier maps, whose TCRC passes. -/
def foundUnits (s : State) : List FoundUnit :=
  ((slotsToRead s).filterMap fun e =>
    (slotFound s e.1 e.2.1 e.2.2).map fun b => foundUnit 0 (locOfMaddr (maddrOf e.1 e.2.1 e.2.2)) b)
  ++ s.fct.map.filterMap fun e =>
    if flaSpace e.1 = 0 && tcrcOk (flashBytes s e.1) then some (foundUnit 1 e.1 (flashBytes s e.1)) else none

def FoundUnit.key (u : FoundUnit) : Nat := chunkKey u.tag.handle u.tag.chunk
def isTomb (u : FoundUnit) : Bool := u.tag.flags / 32 % 2 = 1

/-- A tombstone found: handle, first and last chunk, write sequence. -/
structure FoundTomb where
  handle : Nat
  first : Nat
  last : Nat
  wseq : Nat

/-- Tombstones of the media and of the dirty set. -/
def foundTombs (s : State) (l : List FoundUnit) : List FoundTomb :=
  ((l.filter isTomb).map fun u => { handle := u.tag.handle, first := u.tag.chunk, last := ofBytes (u.body.take 8), wseq := u.tag.wseq })
  ++ (s.obj.tombs.filter fun t => t.loc.isNone).map fun t => { handle := t.handle, first := t.first, last := t.last, wseq := t.wseq }

/-! ### Versions (steps 3 to 7) -/

/-- A version as its units are found: place of unit 0, whether it is present in full, the tag of one unit. -/
structure FoundVersion where
  tier : Nat
  loc : Nat
  full : Bool
  tag : UnitTag

/-- Write sequence of unit 0 of a version. -/
def FoundVersion.wseq (v : FoundVersion) : Nat := v.tag.wseq - v.tag.unit
def FoundVersion.key (v : FoundVersion) : Nat := chunkKey v.tag.handle v.tag.chunk

/-- Everything that the rebuild has read. -/
structure Found where
  units : List FoundUnit
  versions : List FoundVersion
  tombs : List FoundTomb

def unitAt (l : List FoundUnit) (tier loc : Nat) (t : UnitTag) (u : Nat) : Bool :=
  l.any fun x => x.tier = tier && x.loc = loc && x.tag.handle = t.handle && x.tag.chunk = t.chunk && x.tag.gen = t.gen && x.tag.unit = u

/-- Versions, each from one of its units; pad units are discarded. -/
def foundVersions (l : List FoundUnit) : List FoundVersion :=
  (l.filter fun u => !isTomb u && u.tag.handle ≠ 0).map fun u =>
    let first := u.loc - u.tag.unit
    { tier := u.tier, loc := first, tag := u.tag
      full := (List.range u.tag.units).all fun i => unitAt l u.tier (first + i) u.tag i }

def readAll (s : State) : Found :=
  let l := foundUnits s
  { units := l, versions := foundVersions l, tombs := foundTombs s l }

/-- A version with a unit missing counts as written where a later unit of its band carries a tag (step 6). -/
def countsWritten (f : Found) (v : FoundVersion) : Bool :=
  (List.range v.tag.units).any fun i => !unitAt f.units v.tier (v.loc + i) v.tag i
    && f.units.any fun x => x.tier = v.tier && x.loc / 2 ^ 16 = v.loc / 2 ^ 16 && decide (v.loc + i < x.loc)

/-- The version of highest write sequence. -/
def latest (l : List FoundVersion) : Option FoundVersion :=
  match l with
  | [] => none
  | v :: rest =>
    match latest rest with
    | none => some v
    | some w => if v.wseq < w.wseq then some w else some v

/-- A namespace record found: key epoch, generation, write sequence, body. -/
structure FoundRecord where
  keyep : Nat
  gen : Nat
  wseq : Nat
  body : List Byte

/-- The stored bytes of a unit found. -/
def bodyAt (f : Found) (tier loc : Nat) : List Byte :=
  match f.units.find? fun x => x.tier = tier && x.loc = loc with
  | some x => x.body
  | none => zeros 4096

/-- The live namespace record of a slot; one of the dirty set counts (step 3). -/
def liveRecord (s : State) (f : Found) (slot : Nat) : Option FoundRecord :=
  let h := nsRecordHandle slot
  let c := chunkAt s (chunkKey h 0)
  let staged : List FoundRecord := if c.staged then [{ keyep := c.keyep, gen := c.gen, wseq := c.wseq, body := c.data }] else []
  let onMedia : List FoundRecord := (latest (f.versions.filter fun v => v.full && v.tag.handle = h)).toList.map fun v =>
    { keyep := v.tag.keyep, gen := v.tag.gen, wseq := v.wseq, body := bodyAt f v.tier v.loc }
  match (staged ++ onMedia).foldl (fun (b : Option FoundRecord) r =>
      match b with
      | none => some r
      | some x => if x.wseq < r.wseq then some r else some x) none with
  | none => none
  | some r => if f.tombs.any fun t => t.handle = h && decide (r.wseq < t.wseq) then none else some r

/-- The newest version of a chunk that no record, no tombstone and no test `ok` of its object bars (steps 4 to 6): one in full, or one
counted as written with a unit missing. -/
def liveVersion (f : Found) (rec : FoundRecord) (key : Nat) (ok : FoundVersion → Bool) : Option FoundVersion :=
  let mine := f.versions.filter fun v =>
    v.key = key && v.tag.keyep = rec.keyep && decide (rec.wseq ≤ v.wseq) && ok v && (v.full || countsWritten f v)
  match latest mine with
  | none => none
  | some v =>
    if f.tombs.any fun t => t.handle = keyHandle key && decide (t.first ≤ keyChunk key) && decide (keyChunk key ≤ t.last) && decide (v.wseq < t.wseq)
    then none else some v

/-- The key that the Datum die holds for a slot. -/
def dieKey (s : State) (slot : Nat) : Nat := (tget MKey.none s.datum.keys slot).draw

/-- The stored bytes of a version found, decrypted. -/
def foundStored (s : State) (f : Found) (v : FoundVersion) : List Byte :=
  let t := v.tag
  let slot := handleSlot t.handle
  (List.range t.units).flatMap fun i =>
    let b := bodyAt f v.tier (v.loc + i)
    if t.flags / 64 % 2 = 1 then b else xtsDec (mediaKey (dieKey s slot)) (tweakOf t.handle t.chunk i) b

/-- The bytes of a version found: decrypted, and inflated where it is not raw. -/
def foundData (s : State) (f : Found) (v : FoundVersion) : List Byte :=
  let stored := foundStored s f v
  if v.tag.flags / 128 % 2 = 1 then stored.take (v.tag.clenm1 + 1)
  else
    match inflate stored with
    | some (out, _) => out.take (v.tag.clenm1 + 1)
    | none => []

/-- The entry of a version found; the entry of the same version that the device still has keeps its poison. -/
def foundChunk (s : State) (f : Found) (v : FoundVersion) : Chunk :=
  let t := v.tag
  let c := chunkAt s v.key
  let raw := t.flags / 128 % 2 = 1
  { wr := 0xFFFF, gen := t.gen, wseq := v.wseq, keyep := t.keyep, kdraw := dieKey s (handleSlot t.handle)
    stream := if raw then [] else foundStored s f v, clen := t.clenm1 + 1, raw := raw, count := t.units, tier := v.tier, loc := v.loc
    ret := c.ret, poison := !v.full || (c.poison && c.gen = t.gen), dirty := true, staged := false
    data := if v.full then foundData s f v else [] }

/-- The live record of a Key Value object. -/
def liveObject (f : Found) (rec : FoundRecord) (handle : Nat) : Option FoundVersion :=
  liveVersion f rec (chunkKey handle objRecordChunk) fun _ => true

/-- Step 7: the value chunks of a Key Value object lie between its live record and the next lower record or tombstone, and below its
length. -/
def valueTest (s : State) (f : Found) (rec : FoundRecord) (handle : Nat) (v : FoundVersion) : Bool :=
  match liveObject f rec handle with
  | none => false
  | some r =>
    let lower := ((f.versions.filter fun x => x.tag.handle = handle && x.tag.chunk = objRecordChunk && decide (x.wseq < r.wseq)).map (·.wseq))
      ++ ((f.tombs.filter fun t => t.handle = handle && decide (t.wseq < r.wseq)).map (·.wseq))
    let vallen := ofBytes (((foundData s f r).drop 0x18).take 8)
    decide (lower.foldl max 0 ≤ v.wseq) && decide (v.wseq < r.wseq) && decide (65536 * v.tag.chunk < vallen)

/-- The test that a version of a chunk must pass beside steps 4 to 6: that of step 7, in a namespace of the Key Value command set. -/
def objectTest (s : State) (f : Found) (rec : FoundRecord) (key : Nat) (v : FoundVersion) : Bool :=
  if rec.body.getD 4 0 = 1 && !isNsRecord key && keyChunk key ≠ objRecordChunk then valueTest s f rec (keyHandle key) v else true

/-! ### The map, and the namespaces that the records describe -/

/-- The entry of one chunk after the rebuild. A version of the dirty set stays. -/
def rebuildKey (s t : State) (f : Found) (key : Nat) : State :=
  let c := chunkAt s key
  let gone : Chunk := { Chunk.absent with gen := c.gen, ret := c.ret }
  if c.staged then t
  else
    match liveRecord s f (handleSlot (keyHandle key)) with
    | none => putChunk t key gone
    | some rec =>
      match liveVersion f rec key (objectTest s f rec key) with
      | none => putChunk t key gone
      | some v =>
        let t := putChunk t key (foundChunk s f v)
        if v.full then t else addUnrec t (handleSlot (keyHandle key)) (keyHandle key) 4 (keyChunk key) 0xFFFF 0

/-- A serial past every serial of a slot that a unit or a tombstone carries, the two reserved ones apart (R155). -/
def serialPast (f : Found) (slot : Nat) : Nat :=
  let l := (f.units.map fun u => u.tag.handle) ++ f.tombs.map (·.handle)
  (l.filter fun h => handleSlot h = slot && decide (h % 2 ^ 34 < 0x3_FFFF_FFFE)).foldl (fun n h => max n (h % 2 ^ 34 + 1)) 2

/-- The Key Value objects of a slot whose record is live (R172). -/
def foundObjects (s : State) (f : Found) (rec : FoundRecord) (slot : Nat) : List KvObj :=
  let hs := ((f.versions.filter fun v => handleSlot v.tag.handle = slot && v.tag.chunk = objRecordChunk).map fun v => v.tag.handle).eraseDups
  hs.filterMap fun h =>
    (liveObject f rec h).map fun v =>
      let b := foundData s f v
      { key := (b.drop 8).take (b.getD 0 0).toNat, handle := h, vallen := ofBytes ((b.drop 0x18).take 8) }

/-- The zones of a Zoned namespace as its live chunks have them: closed up to the end of the last, full where that is the zone's end. -/
def foundZones (t : State) (slot size : Nat) : SMap Zone :=
  (List.range (size / 65536)).foldl (fun m z =>
    let cs := (t.obj.chunks.filter fun e => keyHandle e.1 = nsObject slot && e.2.count ≠ 0 && keyChunk e.1 / 4096 = z).map fun e => keyChunk e.1
    match cs with
    | [] => m
    | c :: rest =>
      let wp := 16 * (rest.foldl max c + 1)
      tset Zone.empty m z { st := if wp = 65536 * (z + 1) then .full else .closed, wp := wp }) []

/-- A namespace as its live record describes it. What no record holds stays as the device has it; of a namespace that the device no
longer knows, it is attached to no controller. -/
def rebuildNs (s t : State) (f : Found) (slot : Nat) : Option Ns :=
  (liveRecord s f slot).map fun rec =>
    let old := nsOf s (slot + 1)
    let b := rec.body
    let num := fun off k => ofBytes ((b.drop off).take k)
    let kv := num 4 1 = 1
    let staged := match old with
      | some n => n.objs.filter fun o => (chunkAt s (chunkKey o.handle objRecordChunk)).staged
      | none => []
    let found := if kv then (foundObjects s f rec slot).filter fun o => !(staged.map (·.handle)).contains o.handle else []
    { nsid := slot + 1, cmdset := num 4 1, nguid := (b.drop 8).take 16, size := num 0x18 8
      attA := (old.map (·.attA)).getD false, attB := (old.map (·.attB)).getD false, keyep := rec.keyep, keyDraw := dieKey s slot
      created := num 0x20 8, recGen := rec.gen, nextSerial := max ((old.map (·.nextSerial)).getD 2) (serialPast f slot)
      zones := match old with
        | some n => n.zones
        | none => if num 4 1 = 2 then foundZones t slot (num 0x18 8) else []
      objs := staged ++ found }

/-- Step 8: RET over the rules in force. -/
def sweepRules (s : State) : State :=
  overList (s.datum.rules.filter fun e => e.2.st = 1 || e.2.st = 2) s fun s e => sweepScope s e.2

/-- MAP_REBUILD: with no command in flight. -/
def mapRebuildOp (s : State) : State :=
  when (s.cqu.tags.isEmpty && s.ms.ready) s fun s =>
    let s := loadZones s
    let f := readAll s
    let keys := ((s.obj.chunks.map (·.1)) ++ f.versions.map FoundVersion.key).eraseDups
    let t := overList keys s fun t k => rebuildKey s t f k
    let t := { t with obj := { t.obj with
      nss := (List.range 64).filterMap (rebuildNs s t f)
      durable := t.obj.durable.filter fun e => (chunkAt t e.1).staged
      cache := [] } }
    sweepRules t

def execMapRebuild (s : State) : Host.Outcome State Fault Refusal := settled (mapRebuildOp s)

end Sys2Proof.Machine
end

