-- ==== Sys2Proof/Machine/Microcode.lean ====
section
/-! DEFINITION. XOP: customer microcode, word by word (R477, R478, R482–R491). -/

namespace Sys2Proof.Machine

/-- What a running XOP holds beside the state: T0–T3, MAR, MDR, the multiply-divide result, a value written to PC, and
whether a word has waited (R483–R487). -/
structure MicroSt where
  t0 : DWord
  t1 : DWord
  t2 : DWord
  t3 : DWord
  mar : DWord
  mdr : DWord
  mdu : DWord
  pcw : Option DWord
  wfi : Bool
  deriving DecidableEq, Repr

/-- At the start of an instruction the temporaries hold unpredictable values (R483); so do MAR, MDR and the result of the
multiply-divide unit, of which no rule says what they hold. -/
def microStart (s : State) : MicroSt × State :=
  let f := fun i => Config.free (s.drawn + i)
  ({ t0 := f 0, t1 := f 1, t2 := f 2, t3 := f 3, mar := f 4, mdr := f 5, mdu := f 6, pcw := none, wfi := false },
    { s with drawn := s.drawn + 7 })

/-- A source operand (R483); none where a special register is ILLEGAL. Format X has no immediate: source 10 is a free value. -/
def microSrc (s : State) (c : Fin 8) (o : XForm) (w : BitVec 80) (u : MicroSt) (code : Nat) : Option DWord :=
  match code with
  | 0 => some 0
  | 1 => some (gAt s c o.ra)
  | 2 => some (gAt s c o.rb)
  | 3 => some (gAt s c o.rd)
  | 4 => some u.t0
  | 5 => some u.t1
  | 6 => some u.t2
  | 7 => some u.t3
  | 8 => some (BitVec.ofNat 64 (uf w 37 16))
  | 9 => some (BitVec.ofInt 64 (sgn 16 (uf w 37 16)))
  | 10 => some (Config.free s.drawn)
  | 11 => some u.mdr
  | 12 => some (s.core c).pc
  | 13 => some u.mdu
  | 14 => sprRead s c o.rb.toNat
  | _ => some 0

/-- The multiply-divide operation of an ALU code (R484). -/
def microMdu (code : Nat) (a b : DWord) : Option DWord :=
  match code with
  | 16 => some (a * b)
  | 17 => some (opMulh a b)
  | 18 => some (opMulhu a b)
  | 19 => some (opDiv a b)
  | 20 => some (opDivu a b)
  | 21 => some (opRem a b)
  | 22 => some (opRemu a b)
  | _ => none

/-- The word's result (R484); none for a field beyond 64 bits (R454). -/
def microAlu (w : BitVec 80) (a b : DWord) : Option DWord :=
  let pos := uf w 37 6
  let len := uf w 43 6 + 1
  let field := fun (v : DWord) => if 64 < pos + len then none else some v
  match uf w 75 5 with
  | 1 => some (a + b)
  | 2 => some (a - b)
  | 3 => some (a &&& b)
  | 4 => some (a ||| b)
  | 5 => some (a ^^^ b)
  | 6 => some (opSll a b)
  | 7 => some (opSrl a b)
  | 8 => some (opSra a b)
  | 9 => some (opRor a b)
  | 10 => some (opSlt a b)
  | 11 => some (opSltu a b)
  | 12 => some (opMin a b)
  | 13 => some (opMax a b)
  | 14 => some (opMinu a b)
  | 15 => some (opMaxu a b)
  | 23 => some (opClz a)
  | 24 => some (opCtz a)
  | 25 => some (opPopc a)
  | 26 => some (opBswap a)
  | 27 => some b
  | 28 => field (opBfx a pos len)
  | 29 => field (opBfxs a pos len)
  | 30 => field (opBfi a b pos len)
  | _ => some a

/-- How a part of a word ended: it goes on with a value, or the instruction has ended. -/
inductive MicroEnd
  | go (mdr : DWord) (s : State)
  | stop (s : State)

/-- A write of CORECTLc that resets the core which makes it (R481). -/
def resetsSelf (s : State) (c : Fin 8) (a n : Nat) (v : DWord) : Bool :=
  decide (a = Reg.cpcCorectl c) && n = 4 && keyed (v.truncate 32) && (v.toNat.testBit 1 || !v.toNat.testBit 0) && regionOf s a = .regs

/-- The memory operation of a word (R485). -/
def microMem (s : State) (c : Fin 8) (w : BitVec 80) (u : MicroSt) (e : MemEv) : MicroEnd :=
  let a := u.mar.toNat
  let n := 2 ^ uf w 57 2
  let m := max n 4
  match uf w 60 3 with
  | 1 =>
    if a % n ≠ 0 then .stop (preciseTrap s c causeAlign 0 a)
    else
      match coreLoad s c a n e with
      | (.val v, busy, s) =>
        .go (if uf w 59 1 = 1 then BitVec.ofInt 64 (sgn (8 * n) v) else BitVec.ofNat 64 v) (if busy then noteLdbusy s c a else s)
      | (.err, _, s) => .stop (preciseTrap s c causeBuserr 0 a)
      | (.dead, _, s) => .stop s
  | 2 =>
    if a % n ≠ 0 then .stop (preciseTrap s c causeAlign 0 a)
    else if storeDead s c a e then .stop (dcPar s c a 2)
    else if resetsSelf s c a n u.mdr then .stop (coreStore s c a n (u.mdr.toNat % 2 ^ (8 * n)) e)
    else .go u.mdr (coreStore s c a n (u.mdr.toNat % 2 ^ (8 * n)) e)
  | 3 =>
    if a % m ≠ 0 then .stop (preciseTrap s c causeAlign 0 a)
    else
      match coreAtomic s c a m true (u.mdr.toNat % 2 ^ (8 * m)) with
      | (some old, s) => .go (BitVec.ofNat 64 old) s
      | (none, s) => .stop (preciseTrap s c causeBuserr 0 a)
  | 4 =>
    if a % m ≠ 0 then .stop (preciseTrap s c causeAlign 0 a)
    else
      match coreAtomic s c a m false (u.mdr.toNat % 2 ^ (8 * m)) with
      | (some old, s) => .go (BitVec.ofNat 64 old) s
      | (none, s) => .stop (preciseTrap s c causeBuserr 0 a)
  | 5 => .go u.mdr (if uf w 37 3 < 6 then cacheOp s c (uf w 37 3) a else s)
  | _ => .go u.mdr s

/-- The special operation of a word (R486): the state of the word's run, the result that POST gives, or the end. -/
inductive MicroSpec
  | go (u : MicroSt) (post : Option DWord) (s : State)
  | stop (s : State)

def microSpec (s : State) (c : Fin 8) (w : BitVec 80) (u : MicroSt) (b : DWord) : MicroSpec :=
  match uf w 53 4 with
  | 4 => .stop (preciseTrap s c (uf w 37 8) (uf w 45 8 * 256) 0)
  | 5 =>
    if statDepth (s.core c) = 0 then .stop (illegal s c)
    else
      let k := s.core c
      .go { u with pcw := some k.f0.pc } none (modCore s c fun k => { popFrame k with pc := k.pc, pcsamp := k.pcsamp })
  | 6 => .go { u with wfi := true } none s
  | 7 => .stop (haltCore s c)
  | 8 => .go u (some (BitVec.ofNat 64 (postResult s u.mar.toNat (b.toNat % 32)))) (postDesc s u.mar.toNat (b.toNat % 32))
  | 9 => .go u none (modCore s c fun k => statBit k 4 false)
  | _ => .go u none s

/-- The destination written at the end of a word (R483, R487); none where a special register is ILLEGAL. -/
def microDest (s : State) (c : Fin 8) (o : XForm) (u : MicroSt) (code : Nat) (v : DWord) : Option (MicroSt × State) :=
  match code with
  | 1 => some (u, setG s c o.ra v)
  | 2 => some (u, setG s c o.rb v)
  | 3 => some (u, setG s c o.rd v)
  | 4 => some ({ u with t0 := v }, s)
  | 5 => some ({ u with t1 := v }, s)
  | 6 => some ({ u with t2 := v }, s)
  | 7 => some ({ u with t3 := v }, s)
  | 8 => some ({ u with mar := v }, s)
  | 9 => some ({ u with mdr := v }, s)
  | 10 => some ({ u with pcw := some v }, s)
  | 11 => (sprWrite (s.core c) o.rb.toNat v).map fun k => (u, modCore s c fun _ => k)
  | _ => some (u, s)

/-- COND (R490). -/
def microCond (s : State) (c : Fin 8) (code : Nat) (v : DWord) : Bool :=
  match code with
  | 0 => true
  | 1 => v = 0
  | 2 => v ≠ 0
  | 3 => v.toNat.testBit 63
  | 4 => !v.toNat.testBit 63
  | 5 => (s.core c).stat.toNat.testBit 4
  | _ => false

/-- The address after a word; none where the instruction ends (R490). -/
def microNext (s : State) (c : Fin 8) (w : BitVec 80) (addr : Nat) (v : DWord) : Option Nat :=
  let inc := (addr + 1) % 16384
  let p := microCond s c (uf w 30 4) v
  match uf w 34 3 with
  | 0 => some inc
  | 1 => some (uf w 16 14)
  | 2 => some (if p then uf w 16 14 else inc)
  | 4 => if p then none else some inc
  | _ => none

/-- The instruction ends (R491). -/
def microFinish (s : State) (c : Fin 8) (u : MicroSt) : State :=
  let s := match u.pcw with | some t => jumpTo s c t | none => next s c
  if u.wfi then startWait s c else s

/-- One word: the sources, the memory operation, the special operation, the destination; then the next address. The run goes
on with `k`. -/
def microWord (s : State) (c : Fin 8) (o : XForm) (e : MemEv) (w : BitVec 80) (u : MicroSt)
    (k : State → MicroSt → DWord → State) : State :=
  match microSrc s c o w u (uf w 71 4), microSrc s c o w u (uf w 67 4) with
  | some a, some b =>
    let s := if uf w 71 4 = 10 || uf w 67 4 = 10 then { s with drawn := s.drawn + 1 } else s
    match microAlu w a b with
    | none => illegal s c
    | some v =>
      if uf w 63 4 = 11 && (sprWrite (s.core c) o.rb.toNat v).isNone then illegal s c
      else
        match microMem s c w u e with
        | .stop s => s
        | .go mdr s =>
          match microSpec s c w u b with
          | .stop s => s
          | .go u post s =>
            let mdu := match microMdu (uf w 75 5) a b with | some r => r | none => u.mdu
            match microDest s c o { u with mdr := mdr, mdu := mdu } (uf w 63 4) (post.getD v) with
            | some (u, s) => k s u v
            | none => illegal s c
  | _, _ => illegal s c

/-- The words of an XOP from an address on; `n` words may still run (R491). -/
def microRun (s : State) (c : Fin 8) (o : XForm) (es : List XopEv) (u : MicroSt) (addr n : Nat) : State :=
  match n with
  | 0 => illegal s c
  | n' + 1 =>
    let e := es.headD { mem := MemEv.none, bad := 0 }
    match fetchWord s c addr e.bad with
    | (none, s) => s
    | (some w, s) =>
      microWord s c o e.mem w u fun s u v =>
        match microNext s c w addr v with
        | none => microFinish s c u
        | some next => microRun s c o (es.drop 1) u next n'

/-- XOP (R477). -/
def xopOp (s : State) (c : Fin 8) (o : XForm) (es : List XopEv) : State :=
  instr s c fun s =>
    let x := rn s (Reg.mcsXopent o.xop.toNat)
    if o.rsv ≠ 0 then illegal s c
    else if !x.testBit 15 then preciseTrap s c causeXopempty 0 0
    else
      let u := microStart s
      microRun u.2 c o es u.1 (0x3800 + fld x 0 11) 12

def execXop (c : Fin 8) (o : XForm) (es : List XopEv) (s : State) : Host.Outcome State Fault Refusal := settled (xopOp s c o es)

end Sys2Proof.Machine
end

