-- ==== Sys2Proof/Machine/Test.lean ====
section
/-! DEFINITION. The test access port (R602–R608) and the junction sensor (R621, R622). -/

namespace Sys2Proof.Machine

def modTap (s : State) (f : TapSt → TapSt) : State := { s with tap := f s.tap }

/-- A test instruction takes effect: the main die's chip reset ends where a pin-driving one was the last to hold it (R605). -/
def tapLoad (s : State) (i : TapInstr) : State := releaseIfFree (modTap s fun t => { t with active := true, instr := i })

/-- TAP_RESET: Test-Logic-Reset. -/
def tapResetOp (s : State) : State := releaseIfFree (modTap s fun t => { t with active := false, instr := .idcode, refused := false })
def execTapReset (s : State) : Host.Outcome State Fault Refusal := settled (tapResetOp s)

/-- A pin-driving instruction takes effect only with nRESET low and the unload ended; else it loads as BYPASS. In effect, it cuts off
the Datum port (R608). -/
def tapDrive (s : State) (i : TapInstr) : State :=
  if s.rst.pinLow && s.rst.inChipReset then
    let s := modTap s fun t => { t with active := true, instr := i }
    { s with datum := { s.datum with portReq := none } }
  else modTap (tapLoad s .bypass) fun t => { t with refused := true }

def extestOp (s : State) : State := tapDrive s .extest
def execExtest (s : State) : Host.Outcome State Fault Refusal := settled (extestOp s)
def extestPulseOp (s : State) : State := tapDrive s .extestPulse
def execExtestPulse (s : State) : Host.Outcome State Fault Refusal := settled (extestPulseOp s)
def extestTrainOp (s : State) : State := tapDrive s .extestTrain
def execExtestTrain (s : State) : Host.Outcome State Fault Refusal := settled (extestTrainOp s)
def clampOp (s : State) : State := tapDrive s .clamp
def execClamp (s : State) : Host.Outcome State Fault Refusal := settled (clampOp s)
def highzOp (s : State) : State := tapDrive s .highz
def execHighz (s : State) : Host.Outcome State Fault Refusal := settled (highzOp s)

/-- IDCODE: the identification code is shifted out (R604). -/
def idcodeOp (s : State) : State :=
  let s := tapLoad s .idcode
  { s with resp := { data := BitVec.ofNat 64 (idCode s), err := false, busy := false } }
def execIdcode (s : State) : Host.Outcome State Fault Refusal := settled (idcodeOp s)

/-- SAMPLE/PRELOAD: what the cells captured is shifted out, its first 64 bits in the model's answer, and the register is loaded. -/
def samplePreloadOp (s : State) (capture load_ : BitVec 2318) : State :=
  let s := modTap (tapLoad s .samplePreload) fun t => { t with boundary := load_ }
  { s with resp := { data := capture.setWidth 64, err := false, busy := false } }
def execSamplePreload (capture load_ : BitVec 2318) (s : State) : Host.Outcome State Fault Refusal := settled (samplePreloadOp s capture load_)

/-- BYPASS, and any opcode that the table does not list (R603). -/
def bypassOp (s : State) (opcode : Byte) : State := if 6 < opcode.toNat then tapLoad s .bypass else s
def execBypass (opcode : Byte) (s : State) : Host.Outcome State Fault Refusal := settled (bypassOp s opcode)

/-! ### Junction sensor -/

/-- TEMPHI (R622): LIVE from HIGH until below HIGH − HYST. -/
def tempHiNow (s : State) (t : Int) : Bool :=
  let high : Int := 16 * rf s Reg.tstThermctl 0 8
  let hyst : Int := 16 * rf s Reg.tstThermctl 8 4
  if s.tap.tempHi then decide (high - hyst ≤ t) else decide (high ≤ t)

def followTempHi (s : State) (t : Int) : State :=
  let now := tempHiNow s t
  if now = s.tap.tempHi then s
  else
    let s := modTap s fun x => { x with tempHi := now }
    if now then rbitSet (raiseCond s .tst 0) Reg.tstIrqstat 0 true else rbitSet (setLive s .tst 0 false) Reg.tstIrqstat 1 true

/-- TEMPCRIT: ten consecutive readings at or above 115 °C. Its reaction is a chip reset in which the main die is held. -/
def followTempCrit (s : State) : State :=
  if s.tap.hot < 10 then setLive s .tst 1 false
  else if rbit s (aFlive .tst) 1 then s
  else
    let s := raiseCond s .tst 1
    unloadForReset (requestFaultReset { s with rst := { s.rst with tempHold := true } } .tst 1)

/-- The junction as the composite temperature, in kelvin (R113). -/
def kelvin (t : Option Int) : Nat := match t with | some x => (x / 16 + 273).toNat | none => 0

/-- A controller's Temperature Threshold is crossed: over or under it now, and not by the reading before (R113). -/
def crosses (x : PortSt) (old : Option Int) (t : Int) : Bool :=
  let new := kelvin (some t)
  (decide (threshold x 0 ≤ new) && (old.isNone || decide (kelvin old < threshold x 0)))
    || (decide (new ≤ threshold x 1) && (old.isNone || decide (threshold x 1 < kelvin old)))

/-- The SMART / Health event of a threshold, on each controller. -/
def temperatureEvents (s : State) (old : Option Int) (t : Int) : State :=
  let one := fun (s : State) p => if crosses (s.port p) old t then smartOn s p 1 1 else s
  let s := one s .a
  if s.conf.hostcfg1 then s else one s .b

/-- TEMP_READING, in 1/16 °C. While the main die is held in chip reset only the PMU sequencer reads it. -/
def tempReadingOp (s : State) (t : Int) : State :=
  let t := sgn 16 (unsgn 16 t)
  if s.rst.inChipReset then
    if s.rst.tempHold && decide (t < 1600) then releaseIfFree { s with rst := { s.rst with tempHold := false } } else s
  else
    let old := s.tap.temp
    let s := modTap s fun x => { x with
      temp := some t, tempMax := some (match x.tempMax with | none => t | some m => max m t), hot := if 1840 ≤ t then min 10 (x.hot + 1) else 0 }
    followTempCrit (temperatureEvents (followTempHi s t) old t)

def execTempReading (t : Int) (s : State) : Host.Outcome State Fault Refusal := settled (tempReadingOp s t)

end Sys2Proof.Machine
end

