-- ==== Sys2Proof/Machine/Tick.lean ====
section
/-! DEFINITION. DEVICE_TICK (R19): the tick, what is bound to it, and the errors of the hardware itself that arise in it (R153, R185,
R187, R395, R403). -/

namespace Sys2Proof.Machine

/-- An error of the hardware, in its fault source. -/
def hwError (s : State) (e : HwErr) : State :=
  match e with
  | .tagPar => raise1 s .cqu 0
  | .lockPar => raise1 s .cqu 1
  | .engPar => raise1 s .cdc 1
  | .cacheUe => raise1 s .loc 0
  | .tpcPar f => raise1 (modFct s fun x => { x with tpc := x.tpc.filter fun i => tpcSet i ≠ tpcSet (tpcPage f) }) .fct 3
  | .jrnLost => raise1 s .fct 4

/-- The watchdog counts; at zero it raises WDT and asks for its chip reset (R70). -/
def wdtTick (s : State) : State :=
  if rbit s Reg.sysWdtctl 31 && decide (s.rst.wdtCount ≠ 0) then
    wdtExpireOp { s with rst := { s.rst with wdtCount := s.rst.wdtCount - 1 } }
  else s

/-- Messages whose aggregation time is over (R98). -/
def msixTick (s : State) : State :=
  { s with ports := s.ports.map fun (x : PortSt) => if x.agg = [] then x else signalDue x s.tick.toNat }

/-- DEVICE_TICK: the tick, and what is bound to it: core clocks, the watchdog's count, slews, messages, what the mailbox brings, errors of the
hardware, the end of commands that a block reset has cut, and the unload of a reset that was asked for within another block. -/
def deviceTickOp (s : State) (errs : List HwErr) : State :=
  let s := msixTick (coreCycles { s with tick := s.tick + 1 })
  let s := overList errs (datumSync (endSlews (wdtTick s))) hwError
  unloadForReset (endCut s)

def execDeviceTick (s : State) (errs : List HwErr := []) : Host.Outcome State Fault Refusal := settled (deviceTickOp s errs)

end Sys2Proof.Machine
end

