-- ==== Sys2Proof/Machine/Dispatch.lean ====
section
/-! DEFINITION. One arm per command: each is one call of its meaning. -/

namespace Sys2Proof.Machine

def exec (i : Instr) (s : State) : Host.Outcome State Fault Refusal :=
  match i with
  | .registerWrite m addr v => Sys2Proof.Machine.execRegisterWrite m addr v s
  | .rcRead m addr inc => Sys2Proof.Machine.execRcRead m addr inc s
  | .readLowHalf m addr => Sys2Proof.Machine.execReadLowHalf m addr s
  | .writeLowHalf m addr v => Sys2Proof.Machine.execWriteLowHalf m addr v s
  | .writeHighHalf m addr v => Sys2Proof.Machine.execWriteHighHalf m addr v s
  | .deviceTick errs => Sys2Proof.Machine.execDeviceTick s errs
  | .irqrouteWrite n v => Sys2Proof.Machine.execIrqrouteWrite n v s
  | .nmtrouteWrite v => Sys2Proof.Machine.execNmtrouteWrite v s
  | .swintWrite v => Sys2Proof.Machine.execSwintWrite v s
  | .lineAssignment n => Sys2Proof.Machine.execLineAssignment n s
  | .clockLoss => Sys2Proof.Machine.execClockLoss s
  | .clklossRelease => Sys2Proof.Machine.execClklossRelease s
  | .gateWrite v => Sys2Proof.Machine.execGateWrite v s
  | .railctlWrite r v => Sys2Proof.Machine.execRailctlWrite r v s
  | .railfault r => Sys2Proof.Machine.execRailfault r s
  | .spinGrant obs => Sys2Proof.Machine.execSpinGrant obs s
  | .budgetWrite v => Sys2Proof.Machine.execBudgetWrite v s
  | .powerFailDetect => Sys2Proof.Machine.execPowerFailDetect s
  | .pfFlushDone => Sys2Proof.Machine.execPfFlushDone s
  | .pfHoldupExpire => Sys2Proof.Machine.execPfHoldupExpire s
  | .inputReturn => Sys2Proof.Machine.execInputReturn s
  | .mainPor vio => Sys2Proof.Machine.execMainPor vio s
  | .nresetAssert => Sys2Proof.Machine.execNresetAssert s
  | .rstctlChip v => Sys2Proof.Machine.execRstctlChip v s
  | .chipReset => Sys2Proof.Machine.execChipReset s
  | .blockReset v => Sys2Proof.Machine.execBlockReset v s
  | .perstAssert p => Sys2Proof.Machine.execPerstAssert p s
  | .perstDeassert p => Sys2Proof.Machine.execPerstDeassert p s
  | .datumPor => Sys2Proof.Machine.execDatumPor s
  | .wdtctlWrite v => Sys2Proof.Machine.execWdtctlWrite v s
  | .wdtkick v => Sys2Proof.Machine.execWdtkick v s
  | .wdtExpire => Sys2Proof.Machine.execWdtExpire s
  | .powerOn => Sys2Proof.Machine.execPowerOn s
  | .railsGood fail => Sys2Proof.Machine.execRailsGood fail s
  | .bootVerdict aOk bOk => Sys2Proof.Machine.execBootVerdict aOk bOk s
  | .configLoad => Sys2Proof.Machine.execConfigLoad s
  | .dramTrainingDone gib rate checkerOk => Sys2Proof.Machine.execDramTrainingDone gib rate checkerOk s
  | .bufInitDone => Sys2Proof.Machine.execBufInitDone s
  | .hostrdySet => Sys2Proof.Machine.execHostrdySet s
  | .linkTrained p rate width flit => Sys2Proof.Machine.execLinkTrained p rate width flit s
  | .linkRetrain p v => Sys2Proof.Machine.execLinkRetrain p v s
  | .correctableLinkError p e => Sys2Proof.Machine.execCorrectableLinkError p e s
  | .poisonedTlp p t => Sys2Proof.Machine.execPoisonedTlp p t s
  | .completionTimeout p t => Sys2Proof.Machine.execCompletionTimeout p t s
  | .urOrCaReceived p t => Sys2Proof.Machine.execUrOrCaReceived p t s
  | .uncorrectableLinkError p => Sys2Proof.Machine.execUncorrectableLinkError p s
  | .linkDown p => Sys2Proof.Machine.execLinkDown p s
  | .sqTailDoorbell p qid value => Sys2Proof.Machine.execSqTailDoorbell p qid value s
  | .cqHeadDoorbell p qid value => Sys2Proof.Machine.execCqHeadDoorbell p qid value s
  | .ccEnSet p => Sys2Proof.Machine.execCcEnSet p s
  | .ccEnClear p => Sys2Proof.Machine.execCcEnClear p s
  | .normalShutdown p => Sys2Proof.Machine.execNormalShutdown p s
  | .commandArrival p sqid cmd => Sys2Proof.Machine.execCommandArrival p sqid cmd s
  | .readEntryRelease tag => Sys2Proof.Machine.execReadEntryRelease tag s
  | .ledgerAccept tag => Sys2Proof.Machine.execLedgerAccept tag s
  | .ledgerTimeout tag => Sys2Proof.Machine.execLedgerTimeout tag s
  | .read tag => Sys2Proof.Machine.execRead tag s
  | .write tag => Sys2Proof.Machine.execWrite tag s
  | .flush tag => Sys2Proof.Machine.execFlush tag s
  | .writeZeroes tag => Sys2Proof.Machine.execWriteZeroes tag s
  | .compare tag => Sys2Proof.Machine.execCompare tag s
  | .verify tag => Sys2Proof.Machine.execVerify tag s
  | .datasetManagement tag => Sys2Proof.Machine.execDatasetManagement tag s
  | .copy tag => Sys2Proof.Machine.execCopy tag s
  | .zoneAppend tag => Sys2Proof.Machine.execZoneAppend tag s
  | .zoneReset tag => Sys2Proof.Machine.execZoneReset tag s
  | .zoneFinish tag => Sys2Proof.Machine.execZoneFinish tag s
  | .zoneOpen tag => Sys2Proof.Machine.execZoneOpen tag s
  | .zoneClose tag => Sys2Proof.Machine.execZoneClose tag s
  | .zoneManagementReceive tag => Sys2Proof.Machine.execZoneManagementReceive tag s
  | .kvStore tag => Sys2Proof.Machine.execKvStore tag s
  | .kvRetrieve tag => Sys2Proof.Machine.execKvRetrieve tag s
  | .kvDelete tag => Sys2Proof.Machine.execKvDelete tag s
  | .kvExist tag => Sys2Proof.Machine.execKvExist tag s
  | .kvList tag => Sys2Proof.Machine.execKvList tag s
  | .createIoSq tag qid size cqid => Sys2Proof.Machine.execCreateIoSq tag qid size cqid s
  | .deleteIoSq tag qid => Sys2Proof.Machine.execDeleteIoSq tag qid s
  | .createIoCq tag qid size vector => Sys2Proof.Machine.execCreateIoCq tag qid size vector s
  | .deleteIoCq tag qid => Sys2Proof.Machine.execDeleteIoCq tag qid s
  | .getLogPage tag lid a => Sys2Proof.Machine.execGetLogPage tag lid a s
  | .identify tag a => Sys2Proof.Machine.execIdentify tag a s
  | .abort tag sqid cid => Sys2Proof.Machine.execAbort tag sqid cid s
  | .setFeatures tag fid value => Sys2Proof.Machine.execSetFeatures tag fid value s
  | .getFeatures tag a => Sys2Proof.Machine.execGetFeatures tag a s
  | .asyncEventRequest tag => Sys2Proof.Machine.execAsyncEventRequest tag s
  | .aenpostWrite p v => Sys2Proof.Machine.execAenpostWrite p v s
  | .namespaceCreate tag cmdset lbaf size nguid => Sys2Proof.Machine.execNamespaceCreate tag cmdset lbaf size nguid s
  | .namespaceDelete tag => Sys2Proof.Machine.execNamespaceDelete tag s
  | .namespaceAttachment tag nsid p attach => Sys2Proof.Machine.execNamespaceAttachment tag nsid p attach s
  | .firmwareImageDownload tag slot offset bytes => Sys2Proof.Machine.execFirmwareImageDownload tag slot offset bytes s
  | .firmwareCommit tag slot floor img => Sys2Proof.Machine.execFirmwareCommit tag slot floor img s
  | .deviceSelfTest tag extended pass => Sys2Proof.Machine.execDeviceSelfTest tag extended pass s
  | .formatNvm tag lbaf ses => Sys2Proof.Machine.execFormatNvm tag lbaf ses s
  | .sanitize tag action => Sys2Proof.Machine.execSanitize tag action s
  | .retentionQuery tag => Sys2Proof.Machine.execRetentionQuery tag s
  | .migrationStart tag ringAddr ringSize prodAddr => Sys2Proof.Machine.execMigrationStart tag ringAddr ringSize prodAddr s
  | .migrationStop tag => Sys2Proof.Machine.execMigrationStop tag s
  | .migrationAdvance tag cons => Sys2Proof.Machine.execMigrationAdvance tag cons s
  | .migrationRecord spindle handle chunk => Sys2Proof.Machine.execMigrationRecord spindle handle chunk s
  | .spindleOutOfService tag sp force => Sys2Proof.Machine.execSpindleOutOfService tag sp force s
  | .spindleReturn tag sp originOk => Sys2Proof.Machine.execSpindleReturn tag sp originOk s
  | .spindleReplace tag sp => Sys2Proof.Machine.execSpindleReplace tag sp s
  | .autonomousPs3 p => Sys2Proof.Machine.execAutonomousPs3 p s
  | .ps3Entry => Sys2Proof.Machine.execPs3Entry s
  | .mediaOpStart tag n d => Sys2Proof.Machine.execMediaOpStart tag n d s
  | .mediaOpDone tag n => Sys2Proof.Machine.execMediaOpDone tag n s
  | .keyLoadTimeout tag slot => Sys2Proof.Machine.execKeyLoadTimeout tag slot s
  | .wseqWrite v => Sys2Proof.Machine.execWseqWrite v s
  | .locusLookup handle chunk => Sys2Proof.Machine.execLocusLookup handle chunk s
  | .relocationUpdate handle chunk oldLoc oldGenlo newTier newLoc => Sys2Proof.Machine.execRelocationUpdate handle chunk oldLoc oldGenlo newTier newLoc s
  | .locusFlush => Sys2Proof.Machine.execLocusFlush s
  | .mapRebuild => Sys2Proof.Machine.execMapRebuild s
  | .assignWrite n firmware v => Sys2Proof.Machine.execAssignWrite n firmware v s
  | .assignTakeEffect n => Sys2Proof.Machine.execAssignTakeEffect n s
  | .afeSynthWrite a v => Sys2Proof.Machine.execAfeSynthWrite a v s
  | .synthSettled a => Sys2Proof.Machine.execSynthSettled a s
  | .synthunlock a => Sys2Proof.Machine.execSynthunlock a s
  | .slotStart n e => Sys2Proof.Machine.execSlotStart n e s
  | .unitDecodeDone n b par ovf => Sys2Proof.Machine.execUnitDecodeDone n b par ovf s
  | .eqLoad n => Sys2Proof.Machine.execEqLoad n s
  | .writeOpStart n => Sys2Proof.Machine.execWriteOpStart n s
  | .slotWrite n encoded verify => Sys2Proof.Machine.execSlotWrite n encoded verify s
  | .laserLoopUpdate n mon => Sys2Proof.Machine.execLaserLoopUpdate n mon s
  | .pscmdWrite n v => Sys2Proof.Machine.execPscmdWrite n v s
  | .psFrameDone n data => Sys2Proof.Machine.execPsFrameDone n data s
  | .writeUnsafe link src => Sys2Proof.Machine.execWriteUnsafe link src s
  | .wusholdExpire link => Sys2Proof.Machine.execWusholdExpire link s
  | .ladderStep maddr e => Sys2Proof.Machine.execLadderStep maddr e s
  | .tlerExpire tag => Sys2Proof.Machine.execTlerExpire tag s
  | .relocateChunk handle chunk newMaddr => Sys2Proof.Machine.execRelocateChunk handle chunk newMaddr s
  | .ocDecodeStart n v => Sys2Proof.Machine.execOcDecodeStart n v s
  | .ocDecodeDone n => Sys2Proof.Machine.execOcDecodeDone n s
  | .patrolBand sp band hard soft years deep => Sys2Proof.Machine.execPatrolBand sp band hard soft years deep s
  | .patrolSpinup sp behind => Sys2Proof.Machine.execPatrolSpinup sp behind s
  | .bandRefresh sp band => Sys2Proof.Machine.execBandRefresh sp band s
  | .powerFailReplay manifestOk missing => Sys2Proof.Machine.execPowerFailReplay manifestOk missing s
  | .windowFlush n => Sys2Proof.Machine.execWindowFlush n s
  | .latSeal v => Sys2Proof.Machine.execLatSeal v s
  | .groupClose g => Sys2Proof.Machine.execGroupClose g s
  | .parityBandDone g j => Sys2Proof.Machine.execParityBandDone g j s
  | .imglost g => Sys2Proof.Machine.execImglost g s
  | .reconstruct sp band slot failed => Sys2Proof.Machine.execReconstruct sp band slot failed s
  | .rebuildStart v => Sys2Proof.Machine.execRebuildStart v s
  | .rebuildStop => Sys2Proof.Machine.execRebuildStop s
  | .rebuildBandDone => Sys2Proof.Machine.execRebuildBandDone s
  | .bandRelease sp band => Sys2Proof.Machine.execBandRelease sp band s
  | .latResv v => Sys2Proof.Machine.execLatResv v s
  | .servoWedge lane s0 s1 demod => Sys2Proof.Machine.execServoWedge lane s0 s1 demod s
  | .load a => Sys2Proof.Machine.execLoad a s
  | .unload a => Sys2Proof.Machine.execUnload a s
  | .seek a firmware => Sys2Proof.Machine.execSeek a firmware s
  | .manual a keep => Sys2Proof.Machine.execManual a keep s
  | .auto a => Sys2Proof.Machine.execAuto a s
  | .stepPlus a firmware => Sys2Proof.Machine.execStepPlus a firmware s
  | .stepMinus a firmware => Sys2Proof.Machine.execStepMinus a firmware s
  | .targetWrite a v => Sys2Proof.Machine.execTargetWrite a v s
  | .offsetWrite a v => Sys2Proof.Machine.execOffsetWrite a v s
  | .lawcfgWrite a v => Sys2Proof.Machine.execLawcfgWrite a v s
  | .coefficientWrite a w v => Sys2Proof.Machine.execCoefficientWrite a w v s
  | .stateWordWrite a w v => Sys2Proof.Machine.execStateWordWrite a w v s
  | .unldsegWrite a j v => Sys2Proof.Machine.execUnldsegWrite a j v s
  | .loadProfileEnd a => Sys2Proof.Machine.execLoadProfileEnd a s
  | .unloadProfileEnd a => Sys2Proof.Machine.execUnloadProfileEnd a s
  | .gctlEnClear v => Sys2Proof.Machine.execGctlEnClear v s
  | .gctlEnSet v => Sys2Proof.Machine.execGctlEnSet v s
  | .start sp => Sys2Proof.Machine.execStart sp s
  | .stop sp turning => Sys2Proof.Machine.execStop sp turning s
  | .clrfail sp => Sys2Proof.Machine.execClrfail sp s
  | .listenWindowEnd sp obs => Sys2Proof.Machine.execListenWindowEnd sp obs s
  | .locateDone sp contrast angle => Sys2Proof.Machine.execLocateDone sp contrast angle s
  | .commutationEvent sp e => Sys2Proof.Machine.execCommutationEvent sp e s
  | .refStep sp => Sys2Proof.Machine.execRefStep sp s
  | .brakeDone sp => Sys2Proof.Machine.execBrakeDone sp s
  | .rotorLoss sp => Sys2Proof.Machine.execRotorLoss sp s
  | .catchTimeout sp => Sys2Proof.Machine.execCatchTimeout sp s
  | .overcurrent sp => Sys2Proof.Machine.execOvercurrent sp s
  | .facetBringup targets => Sys2Proof.Machine.execFacetBringup targets s
  | .flashRead fla r => Sys2Proof.Machine.execFlashRead fla r s
  | .flashProgram stream slots fail => Sys2Proof.Machine.execFlashProgram stream slots fail s
  | .checkpoint => Sys2Proof.Machine.execCheckpoint s
  | .dieFail die => Sys2Proof.Machine.execDieFail die s
  | .fold => Sys2Proof.Machine.execFold s
  | .reclaim => Sys2Proof.Machine.execReclaim s
  | .flashEraseDone fail => Sys2Proof.Machine.execFlashEraseDone fail s
  | .flashPatrol die plane block reads => Sys2Proof.Machine.execFlashPatrol die plane block reads s
  | .scrubRead upset => Sys2Proof.Machine.execScrubRead upset s
  | .bufSelfrefExit => Sys2Proof.Machine.execBufSelfrefExit s
  | .celogclrWrite spd v => Sys2Proof.Machine.execCelogclrWrite spd v s
  | .spdClear v => Sys2Proof.Machine.execSpdClear v s
  | .pageRetire b j v => Sys2Proof.Machine.execPageRetire b j v s
  | .retireCopyDone b j => Sys2Proof.Machine.execRetireCopyDone b j s
  | .bankret v => Sys2Proof.Machine.execBankret v s
  | .add c o => Sys2Proof.Machine.execAdd c o s
  | .sub c o => Sys2Proof.Machine.execSub c o s
  | .and c o => Sys2Proof.Machine.execAnd c o s
  | .or c o => Sys2Proof.Machine.execOr c o s
  | .xor c o => Sys2Proof.Machine.execXor c o s
  | .sll c o => Sys2Proof.Machine.execSll c o s
  | .srl c o => Sys2Proof.Machine.execSrl c o s
  | .sra c o => Sys2Proof.Machine.execSra c o s
  | .ror c o => Sys2Proof.Machine.execRor c o s
  | .slt c o => Sys2Proof.Machine.execSlt c o s
  | .sltu c o => Sys2Proof.Machine.execSltu c o s
  | .min c o => Sys2Proof.Machine.execMin c o s
  | .max c o => Sys2Proof.Machine.execMax c o s
  | .minu c o => Sys2Proof.Machine.execMinu c o s
  | .maxu c o => Sys2Proof.Machine.execMaxu c o s
  | .mul c o => Sys2Proof.Machine.execMul c o s
  | .mulh c o => Sys2Proof.Machine.execMulh c o s
  | .mulhu c o => Sys2Proof.Machine.execMulhu c o s
  | .div c o => Sys2Proof.Machine.execDiv c o s
  | .divu c o => Sys2Proof.Machine.execDivu c o s
  | .rem c o => Sys2Proof.Machine.execRem c o s
  | .remu c o => Sys2Proof.Machine.execRemu c o s
  | .clz c o => Sys2Proof.Machine.execClz c o s
  | .ctz c o => Sys2Proof.Machine.execCtz c o s
  | .popc c o => Sys2Proof.Machine.execPopc c o s
  | .bswap c o => Sys2Proof.Machine.execBswap c o s
  | .addi c o => Sys2Proof.Machine.execAddi c o s
  | .andi c o => Sys2Proof.Machine.execAndi c o s
  | .ori c o => Sys2Proof.Machine.execOri c o s
  | .xori c o => Sys2Proof.Machine.execXori c o s
  | .slti c o => Sys2Proof.Machine.execSlti c o s
  | .sltiu c o => Sys2Proof.Machine.execSltiu c o s
  | .shiSll c o => Sys2Proof.Machine.execShiSll c o s
  | .shiSrl c o => Sys2Proof.Machine.execShiSrl c o s
  | .shiSra c o => Sys2Proof.Machine.execShiSra c o s
  | .shiRor c o => Sys2Proof.Machine.execShiRor c o s
  | .ldc c o => Sys2Proof.Machine.execLdc c o s
  | .shc c o => Sys2Proof.Machine.execShc c o s
  | .bfx c o => Sys2Proof.Machine.execBfx c o s
  | .bfxs c o => Sys2Proof.Machine.execBfxs c o s
  | .bfi c o => Sys2Proof.Machine.execBfi c o s
  | .ldB c o e => Sys2Proof.Machine.execLdB c o e s
  | .ldBu c o e => Sys2Proof.Machine.execLdBu c o e s
  | .ldH c o e => Sys2Proof.Machine.execLdH c o e s
  | .ldHu c o e => Sys2Proof.Machine.execLdHu c o e s
  | .ldW c o e => Sys2Proof.Machine.execLdW c o e s
  | .ldWu c o e => Sys2Proof.Machine.execLdWu c o e s
  | .ldD c o e => Sys2Proof.Machine.execLdD c o e s
  | .stB c o e => Sys2Proof.Machine.execStB c o e s
  | .stH c o e => Sys2Proof.Machine.execStH c o e s
  | .stW c o e => Sys2Proof.Machine.execStW c o e s
  | .stD c o e => Sys2Proof.Machine.execStD c o e s
  | .aaddW c o => Sys2Proof.Machine.execAaddW c o s
  | .aaddD c o => Sys2Proof.Machine.execAaddD c o s
  | .aswpW c o => Sys2Proof.Machine.execAswpW c o s
  | .aswpD c o => Sys2Proof.Machine.execAswpD c o s
  | .fenceW c o => Sys2Proof.Machine.execFenceW c o s
  | .fenceR c o => Sys2Proof.Machine.execFenceR c o s
  | .fence c o => Sys2Proof.Machine.execFence c o s
  | .cclean c o => Sys2Proof.Machine.execCclean c o s
  | .cinval c o => Sys2Proof.Machine.execCinval c o s
  | .cflush c o => Sys2Proof.Machine.execCflush c o s
  | .iinval c o => Sys2Proof.Machine.execIinval c o s
  | .cpre c o => Sys2Proof.Machine.execCpre c o s
  | .ipre c o => Sys2Proof.Machine.execIpre c o s
  | .beq c o => Sys2Proof.Machine.execBeq c o s
  | .bne c o => Sys2Proof.Machine.execBne c o s
  | .blt c o => Sys2Proof.Machine.execBlt c o s
  | .bge c o => Sys2Proof.Machine.execBge c o s
  | .bltu c o => Sys2Proof.Machine.execBltu c o s
  | .bgeu c o => Sys2Proof.Machine.execBgeu c o s
  | .blb c o => Sys2Proof.Machine.execBlb c o s
  | .j c off => Sys2Proof.Machine.execJ c off s
  | .jl c o => Sys2Proof.Machine.execJl c o s
  | .jlr c o => Sys2Proof.Machine.execJlr c o s
  | .mfs c o => Sys2Proof.Machine.execMfs c o s
  | .mts c o => Sys2Proof.Machine.execMts c o s
  | .trap c o => Sys2Proof.Machine.execTrap c o s
  | .reti c o => Sys2Proof.Machine.execReti c o s
  | .wfi c o => Sys2Proof.Machine.execWfi c o s
  | .halt c o => Sys2Proof.Machine.execHalt c o s
  | .post c o => Sys2Proof.Machine.execPost c o s
  | .xop c o es => Sys2Proof.Machine.execXop c o es s
  | .buserrw c => Sys2Proof.Machine.execBuserrw c s
  | .takeNmt c => Sys2Proof.Machine.execTakeNmt c s
  | .takeInterrupt c => Sys2Proof.Machine.execTakeInterrupt c s
  | .coreRun c v => Sys2Proof.Machine.execCoreRun c v s
  | .coreReset c v => Sys2Proof.Machine.execCoreReset c v s
  | .cachectlWrite c v => Sys2Proof.Machine.execCachectlWrite c v s
  | .descriptorStart n => Sys2Proof.Machine.execDescriptorStart n s
  | .replay n => Sys2Proof.Machine.execReplay n s
  | .descriptorDone n => Sys2Proof.Machine.execDescriptorDone n s
  | .mcsLoadStart v => Sys2Proof.Machine.execMcsLoadStart v s
  | .mcsVerdict sigOk => Sys2Proof.Machine.execMcsVerdict sigOk s
  | .mcsVerdictTimeout => Sys2Proof.Machine.execMcsVerdictTimeout s
  | .dmaStart c v => Sys2Proof.Machine.execDmaStart c v s
  | .dmaCopy c e => Sys2Proof.Machine.execDmaCopy c e s
  | .gather c e => Sys2Proof.Machine.execGather c e s
  | .scatter c e => Sys2Proof.Machine.execScatter c e s
  | .fill c e => Sys2Proof.Machine.execFill c e s
  | .dmaCompare c e => Sys2Proof.Machine.execDmaCompare c e s
  | .dmaReadbackDone c err => Sys2Proof.Machine.execDmaReadbackDone c err s
  | .dmaAbort c v => Sys2Proof.Machine.execDmaAbort c v s
  | .fstatWrite b v => Sys2Proof.Machine.execFstatWrite b v s
  | .fmaskWrite b v => Sys2Proof.Machine.execFmaskWrite b v s
  | .frstsrcHoldClear v => Sys2Proof.Machine.execFrstsrcHoldClear v s
  | .inputEdge j active => Sys2Proof.Machine.execInputEdge j active s
  | .inputRetrigger j => Sys2Proof.Machine.execInputRetrigger j s
  | .inputStuck j => Sys2Proof.Machine.execInputStuck j s
  | .instatWrite j v => Sys2Proof.Machine.execInstatWrite j v s
  | .evrSample ch value => Sys2Proof.Machine.execEvrSample ch value s
  | .evrApply => Sys2Proof.Machine.execEvrApply s
  | .evrPost v => Sys2Proof.Machine.execEvrPost v s
  | .evrForwardTimeout => Sys2Proof.Machine.execEvrForwardTimeout s
  | .windowRead => Sys2Proof.Machine.execWindowRead s
  | .windowWrite v => Sys2Proof.Machine.execWindowWrite v s
  | .evrClear v => Sys2Proof.Machine.execEvrClear v s
  | .opsecAdvance => Sys2Proof.Machine.execOpsecAdvance s
  | .calMeasure kind inst target overtaken => Sys2Proof.Machine.execCalMeasure kind inst target overtaken s
  | .calCmd v => Sys2Proof.Machine.execCalCmd v s
  | .reflost => Sys2Proof.Machine.execReflost s
  | .mailboxDoor v => Sys2Proof.Machine.execMailboxDoor v s
  | .mailboxResponse => Sys2Proof.Machine.execMailboxResponse s
  | .mailboxTimeout => Sys2Proof.Machine.execMailboxTimeout s
  | .bootreq a b => Sys2Proof.Machine.execBootreq a b s
  | .datumVerify kind build sigOk floor => Sys2Proof.Machine.execDatumVerify kind build sigOk floor s
  | .fwwrite slot offset bytes e => Sys2Proof.Machine.execFwwrite slot offset bytes e s
  | .fwcommit slot floor img => Sys2Proof.Machine.execFwcommit slot floor img s
  | .cfgread src fresh => Sys2Proof.Machine.execCfgread src fresh s
  | .cfgwrite src bytes e => Sys2Proof.Machine.execCfgwrite src bytes e s
  | .calread src => Sys2Proof.Machine.execCalread src s
  | .keyload slot epoch => Sys2Proof.Machine.execKeyload slot epoch s
  | .keynew slot e => Sys2Proof.Machine.execKeynew slot e s
  | .keyall e => Sys2Proof.Machine.execKeyall e s
  | .chainappend op nsslot nsid handle first last key e => Sys2Proof.Machine.execChainappend op nsslot nsid handle first last key e s
  | .chainread src seq => Sys2Proof.Machine.execChainread src seq s
  | .chainack src sig seq => Sys2Proof.Machine.execChainack src sig seq s
  | .ruleadd src sig nswide hold nsslot handle first last until_ => Sys2Proof.Machine.execRuleadd src sig nswide hold nsslot handle first last until_ s
  | .ruleextend src sig rule until_ hold => Sys2Proof.Machine.execRuleextend src sig rule until_ hold s
  | .rulerelease src sig rule => Sys2Proof.Machine.execRulerelease src sig rule s
  | .ruleread src rule => Sys2Proof.Machine.execRuleread src rule s
  | .sweepdone rule => Sys2Proof.Machine.execSweepdone rule s
  | .ruleRelease rule => Sys2Proof.Machine.execRuleRelease rule s
  | .timeget src => Sys2Proof.Machine.execTimeget src s
  | .clkadj delta => Sys2Proof.Machine.execClkadj delta s
  | .clkset src sig time => Sys2Proof.Machine.execClkset src sig time s
  | .countsave opsec pcyc e => Sys2Proof.Machine.execCountsave opsec pcyc e s
  | .tierread src => Sys2Proof.Machine.execTierread src s
  | .tierwrite src bytes e => Sys2Proof.Machine.execTierwrite src bytes e s
  | .evpost ch value => Sys2Proof.Machine.execEvpost ch value s
  | .status src => Sys2Proof.Machine.execStatus src s
  | .provision src which key => Sys2Proof.Machine.execProvision src which key s
  | .physread src sector => Sys2Proof.Machine.execPhysread src sector s
  | .interruptedErase ok => Sys2Proof.Machine.execInterruptedErase ok s
  | .dailySave vbat e => Sys2Proof.Machine.execDailySave vbat e s
  | .vbatLow => Sys2Proof.Machine.execVbatLow s
  | .portRequestFrame req => Sys2Proof.Machine.execPortRequestFrame req s
  | .portResponseRead => Sys2Proof.Machine.execPortResponseRead s
  | .portStatusRead => Sys2Proof.Machine.execPortStatusRead s
  | .tapReset => Sys2Proof.Machine.execTapReset s
  | .extest => Sys2Proof.Machine.execExtest s
  | .idcode => Sys2Proof.Machine.execIdcode s
  | .samplePreload capture load_ => Sys2Proof.Machine.execSamplePreload capture load_ s
  | .extestPulse => Sys2Proof.Machine.execExtestPulse s
  | .extestTrain => Sys2Proof.Machine.execExtestTrain s
  | .clamp => Sys2Proof.Machine.execClamp s
  | .highz => Sys2Proof.Machine.execHighz s
  | .bypass opcode => Sys2Proof.Machine.execBypass opcode s
  | .tempReading t => Sys2Proof.Machine.execTempReading t s
  | .nresetRelease => Sys2Proof.Machine.execNresetRelease s
  | .configurationRequest p r => Sys2Proof.Machine.execConfigurationRequest p r s
  | .linkPowerState p st => Sys2Proof.Machine.execLinkPowerState p st s
  | .hostReadCompletion p t bytes => Sys2Proof.Machine.execHostReadCompletion p t bytes s
  | .writeUnsafeAbsent link src => Sys2Proof.Machine.execWriteUnsafeAbsent link src s
  | .commutationInstant sp lag => Sys2Proof.Machine.execCommutationInstant sp lag s
  | .lockedRotor sp => Sys2Proof.Machine.execLockedRotor sp s
  | .zeroCrossingTimeout sp => Sys2Proof.Machine.execZeroCrossingTimeout sp s
  | .railReturn r => Sys2Proof.Machine.execRailReturn r s
  | .refinReturn => Sys2Proof.Machine.execRefinReturn s

end Sys2Proof.Machine
end

