-- ==== Sys2Proof/Safety.lean ====
section
/-! DEFINITION. What counts as a safe run, in the terms that the statements use: a command that answers a next state, a
settled state, a core that can execute, and what stays the same. -/

namespace Sys2Proof.Machine

/-- The outcome is a next state, and `p` holds of it. -/
def Answers (o : Host.Outcome State Fault Refusal) (p : State → Prop) : Prop := ∃ t, o = .next t ∧ p t

/-- Nothing is left that follows by itself: every MODE 1 assignment is of a line that is asserted (R42), and no core
waits in WFI whose wait has ended (R466), unless the die is held. -/
def Settled (s : State) : Prop :=
  (∀ e ∈ s.assigns, lineLevel s e.1 = true)
    ∧ ∀ c : Fin 8, (s.core c).run = .waiting → dieHeld s = false → wfiEnds s c = false

/-- Core `c` executes an instruction: it runs, no event is due at its boundary, and the fetch at its PC answers (R449,
R469). -/
def canExecute (s : State) (c : Fin 8) : Bool :=
  coreRuns s c && !boundaryDue s c && (fetchAt s c (s.core c).pc.toNat).1

/-- The state in which the instruction at the PC of core `c` has been fetched. -/
def fetched (s : State) (c : Fin 8) : State := (fetchAt s c (s.core c).pc.toNat).2

/-- Core `c` with the fields of an ordinary instruction's end: the PC four bytes on, PCSAMP at the instruction (R449). -/
def advanced (k : CoreSt) : CoreSt := { k with pcsamp := k.pc, pc := pcOf (k.pc + 4) }

/-- `s` with `v` in G[r] of core `c`, which then stands at its next instruction; G0 takes nothing (R447). -/
def retired (s : State) (c : Fin 8) (r : BitVec 5) (v : DWord) : State :=
  modCore s c fun k => advanced (if r = 0 then k else { k with g := vset k.g r.toFin v })

/-- From `k` to `k'` a core has entered the trap of a cause (R469): frame 0 moves to frame 1, the PC, STAT and IPRI of before are
saved with the cause and the address, interrupts are disabled, DEPTH counts the frame, and the PC is at the entry of the table. -/
def TrapEntered (k k' : CoreSt) (cause info addr : Nat) (pri : Option Nat) : Prop :=
  k'.f1 = k.f0
    ∧ k'.f0 = { pc := k.pc, stat := k.stat, pri := k.ipri, cause := BitVec.ofNat 64 (info + cause), addr := BitVec.ofNat 64 (addr % 2 ^ 48) }
    ∧ k'.ipri = (match pri with | some p => BitVec.ofNat 64 p | none => k.ipri)
    ∧ statIe k' = false ∧ statDepth k' = statDepth k + 1 ∧ statNmi k' = (statNmi k || decide (cause = causeNmt))
    ∧ k'.pc = pcOf (k.tbase + BitVec.ofNat 64 (0x40 * cause)) ∧ k'.run = .running
    ∧ k'.g = k.g ∧ k'.tbase = k.tbase ∧ k'.scr = k.scr ∧ k'.lbaddr = k.lbaddr ∧ k'.dcache = k.dcache

/-- `n` bytes at `a` lie in one word of the buffer that answers, and core `c` reaches it without its data cache. -/
def plainBuffer (s : State) (c : Fin 8) (a n : Nat) : Prop :=
  regionOf s a = .buf ∧ regionOf s (a + n - 1) = .buf ∧ a < 0x10_0000_0000 ∧ s.ms.ready = true ∧ eccOf s (a / 16) = none
    ∧ cacheOn s c false = false

/-- From memory `m` to `m'` the `n` bytes at `a` have taken the little-endian value `v`, and every other byte is as before. -/
def bytesWritten (m m' : Memory) (a n v : Nat) : Prop :=
  (∀ i, i < n → mget m' (a + i) = BitVec.ofNat 8 (v / 256 ^ i)) ∧ ∀ x, x < a ∨ a + n ≤ x → mget m' x = mget m x

/-- The registers of a core that software sees, the caches aside. -/
def sameArch (k k' : CoreSt) : Prop :=
  k'.g = k.g ∧ k'.pc = k.pc ∧ k'.stat = k.stat ∧ k'.f0 = k.f0 ∧ k'.f1 = k.f1 ∧ k'.tbase = k.tbase ∧ k'.ipri = k.ipri
    ∧ k'.scr = k.scr ∧ k'.lbaddr = k.lbaddr ∧ k'.cycle = k.cycle

/-- Block `b` has no source bit set and takes no reaction, and no chip reset is asked for: an event of the block is then
recorded and reported, and nothing more follows (R534, R536). -/
def quiet (s : State) (b : Blk) : Prop := s.rst.pending = [] ∧ rn s (aFstat b) = 0 ∧ rn s (aFreact b) = 0

/-- `t` is `s` with source bits of block `b` set and the first event captured (R538). -/
def reported (s : State) (b : Blk) (bits : List Nat) : State := capture (setFstat s b bits) b bits Cap.none

/-- Every register that the register file holds reads as before, but for those at the addresses listed. -/
def regsSameBut (s t : State) (l : List Nat) : Prop := ∀ a, a ∉ l → rget t a = rget s a

/-- The register has an operation of its own on a write; every other register takes its map's plain write (R12). -/
def ownWrite (b : Blk) (r : RegRow) : Bool :=
  r.off = 0xFF00 || r.off = 0xFF10
    || r.off < 0xFF00 && match b with
      | .sys => [0x14, 0x18, 0x24, 0x28, 0x34, 0x104].contains r.off
      | .hpa | .hpb => [0x4, 0x20].contains r.off
      | .loc => r.off = 0x0
      | .cdc => r.off = 0x8
      | .chd _ => [0x4, 0x20, 0x24, 0x28, 0x2C, 0x100, 0x180, 0x200, 0x21C, 0x300, 0x308, 0x310].contains r.off
      | .afe => [0x4, 0x10, 0x14].contains r.off
      | .rad => [0x0, 0x8, 0xC, 0x10, 0x18, 0x30, 0x80, 0x1000, 0x4000, 0xC000].contains r.off
      | .spn => [0x4, 0x20].contains r.off
      | .lat => [0x14, 0x40, 0x90].contains r.off
      | .fct => r.off = 0x24
      | .buf => r.off = 0x30
      | .spd => [0x8, 0x50, 0x90, 0xA0].contains r.off
      | .dma => [0x1000, 0x1014].contains r.off
      | .evr => [0x8, 0x10, 0x18, 0x100].contains r.off
      | .cal => decide (0x8 ≤ r.off)
      | .cpc => [0x0, 0x100, 0x1000, 0x1210, 0x1214].contains r.off
      | .mcs => [0x10, 0x4000].contains r.off
      | .pmu => [0x0, 0x30, 0x3C, 0x58, 0x60].contains r.off
      | .dtm => r.off = 0x4
      | .cqu | .tst => false

/-- The read of the register acts or shows memory (R435, R564, R601, R606, R615); every other read follows its map (R12, R13). -/
def ownRead (b : Blk) (r : RegRow) : Bool :=
  (b = .sys && (r.off = 0x40 || r.off = 0x48)) || ((b = .dtm || b = .evr) && r.off = 0x8) || (b = .tst && r.off = 0x14)
    || (b = .pmu && r.off = 0x48)

/-- No command waits for a lock and no completion waits to be written. -/
def calm (s : State) : Prop := waiters s = [] ∧ s.cqu.compq = []

/-- From `s` to `t` the command of tag `k` has completed with a result: its entry is written and its tag free, or, where its
queue gives no room or the unit has stopped, it is in COMPLETING (R61, R141–R143). -/
def Completed (s t : State) (k : Nat) (r : Nat × Nat) (dw0 : Nat) : Prop :=
  let x := tagAt s k
  let stays := (tagAt t k).st = .completing ∧ (tagAt t k).sct = r.1 ∧ (tagAt t k).sc = r.2 ∧ (tagAt t k).dw0 = dw0 ∧ k ∈ t.cqu.compq
  match cqOfSq (s.port x.port) x.sqid with
  | none => stays
  | some q =>
    if cqRoom q && !q.stopped && x.waits.isNone && !s.cqu.stopped then
      (tagAt t k).st = .free ∧ ∃ q' ∈ (t.port x.port).cqs, q'.qid = q.qid ∧ q'.tail = (q.tail + 1) % q.size
        ∧ q'.entries = { sqid := x.sqid, cid := x.cmd.cid, sct := r.1, sc := r.2, dw0 := dw0 } :: q.entries
    else stays

/-- What an entry of the Datum die's chain records (R594). -/
def entOf (e : ChainEnt) : LedgerEnt := ⟨e.op, e.nsslot, e.nsid, e.handle, e.first, e.last, e.key⟩

/-- The handle that a Store gives the object of its key (R172). -/
def storeHandle (n : Ns) (key : List Byte) : Nat :=
  match kvFind n key with
  | some o => o.handle
  | none => handleOf n.slot n.nextSerial

/-- What a Store writes: the chunks of the value, and the object record last (R172). -/
def storeSet (s : State) (n : Ns) (c : HostCmd) : List (Nat × List Byte) :=
  valueChunks (storeHandle n c.key) 0 ((c.hostLen + 65535) / 65536) (c.data.take c.hostLen)
    ++ [(chunkKey (storeHandle n c.key) objRecordChunk, objectRecord c.key c.hostLen (clockSec s.datum))]

/-- The new contents of a command can be staged: nothing of it is staged yet, there is room on the tiers and in the dirty set,
and its key is loaded (R62, R103, R163). -/
def canStage (s : State) (k : Nat) (n : Ns) (l : List (Nat × List Byte)) : Prop :=
  (tagAt s k).keys = [] ∧ overCapacity s l = false ∧ takesData s (4128 * setUnits s l) = true ∧ keyLoaded s n = true

/-- What a command that has staged its data in the dirty set leaves: it has completed, or, where data are durable on media alone, it
waits for that in ACTIVE (R99, R416). -/
def Staged (s t : State) (k : Nat) (r : Nat × Nat) (dw0 : Nat) : Prop :=
  if writesThrough s then (tagAt t k).st = .active else Completed s t k r dw0

/-- The data pointer of a command is one SGL Data Block of at least `n` bytes (R98). -/
def dataBlock (c : HostCmd) (n : Nat) : Prop := c.sgl = true ∧ sglType c.prp2 = 0 ∧ n ≤ sglLen c.prp2

/-- The host has got bytes in the buffer of a command from its start, as far as the buffer reaches: where its data pointer says, which
for a Data Block is at its address. -/
def HostGets (s t : State) (k : Nat) (bs : List Byte) : Prop :=
  let c := (tagAt s k).cmd
  t.hostMem = (sendHost s (tagAt s k) bs).hostMem
    ∧ (dataBlock c c.hostLen → hostReadBytes t c.prp (min c.hostLen bs.length) = bs.take c.hostLen)

/-- Every chunk of `l` has a new version in the dirty set with its contents, and no other chunk has changed (R99, R157). -/
def stored (s t : State) (l : List (Nat × List Byte)) : Prop :=
  (∀ e ∈ l, (chunkAt t e.1).data = e.2 ∧ (chunkAt t e.1).staged = true ∧ (chunkAt t e.1).gen = nextGen (chunkAt s e.1).gen)
    ∧ ∀ k, k ∉ l.map (·.1) → chunkAt t k = chunkAt s k

/-- The buffer answers, holds no error, and no error is armed for it. -/
def calmBuffer (s : State) : Prop := s.ms.ready = true ∧ (∀ w, eccOf s w = none) ∧ rbit s Reg.bufInject 0 = false

/-- `n` bytes at `a` lie in the buffer (R27). -/
def inBuffer (s : State) (a n : Nat) : Prop := a + n ≤ bufUsable s ∧ a + n ≤ 0x10_0000_0000

/-- Channel `c` runs a descriptor of operation `op` whose memory is internal, and has not reached its read-back (R514–R517). -/
def dmaReady (s : State) (c : Fin 32) (d : DmaDesc) (op : Nat) : Prop :=
  (s.dmaCh c).desc = some d ∧ (s.dmaCh c).busy = true ∧ (s.dmaCh c).readback = none ∧ dmaOpOf d = op ∧ d.srcHost = false ∧ d.dstHost = false

/-- Index `i` of the table of a descriptor (R518). -/
def dmaIndex (s : State) (d : DmaDesc) (i : Nat) : Nat := readNat s.mem (d.aux + 4 * i) 4

/-- Request `cmd` waits at the Datum die from a source, and the flash is not worn (R578, R596, R597). -/
def asks (s : State) (src : ReqSrc) (cmd : Nat) : Prop :=
  (match src with
    | .mailbox => mailboxUp s = true ∧ s.dtm.busy = true ∧ reqCmd s = cmd ∧ s.datum.mboxRes = none
    | .port => portCmd s = some cmd)
  ∧ 3341 ≤ usableSectors s

/-- The Datum die has answered a request of a source with a result and a body (R596, R597). -/
def replied (t : State) (src : ReqSrc) (cmd r : Nat) (body : List Byte) : Prop :=
  match src with
  | .mailbox => t.datum.mboxRes = some (respFrame cmd r body)
  | .port => t.datum.portRes = some (respFrame cmd r body) ∧ t.datum.portReq = none

/-- The circulant of the parity-check matrix in block row `i` and block column `j`, by its shift (R209). -/
def ldpcEntry (i j : Nat) : Option Nat :=
  if j < 86 then (if ldpcRow i j then some (ldpcShift i j) else none)
  else if j = 86 then (if i = 0 ∨ i = 9 then some 1 else if i = 5 then some 0 else none)
  else if i + 1 = j - 86 ∨ i = j - 86 then some 0 else none

/-- Block row `i` of the product of the parity-check matrix and a word (R209). -/
def ldpcCheck (w : List Bool) (i : Nat) : List Bool :=
  (List.range 96).foldl (fun acc j => match ldpcEntry i j with | some k => xorBits acc (circulant (block w j) k) | none => acc)
    (List.replicate 384 false)

/-- Every field of a unit tag fits its place (R166, R167). -/
def UnitTag.fits (t : UnitTag) : Prop :=
  t.handle < 2 ^ 40 ∧ t.chunk < 2 ^ 40 ∧ t.unit < 16 ∧ 1 ≤ t.units ∧ t.units ≤ 16 ∧ t.flags < 256 ∧ t.gen < 2 ^ 32 ∧ t.wseq < 2 ^ 56
    ∧ t.keyep < 256 ∧ t.clenm1 < 2 ^ 16

end Sys2Proof.Machine
end

