-- ==== Sys2Proof/Certificates/Slice0/Obligations.lean ====
section
/-! DEFINITION. The statements for the provers. Each `Answers (exec c s) p` concludes that the command `c` answers a next state
and that `p` holds of it. -/

open Sys2Proof Sys2Proof.Machine

/-- A step runs the command at the front of the queue on the state with the rest of the queue; on an empty queue the device
idles (the model's choice, log entry 1). -/
def Obligations.StepRunsFrontCommand : Prop :=
  (∀ (c : Instr) (rest : List Instr) (s : State), step { s with pending := c :: rest } = exec c { s with pending := rest })
  ∧ (∀ s : State, s.pending = [] → step s = .next s)

/-- The tick (R19) and what is bound to it, and the watchdog (R70): DEVICE_TICK, WDTCTL_WRITE, WDTKICK, WDT_EXPIRE.
Clauses rest on choices of the model, log entries 2, 4, 46, 208. -/
def Obligations.TickAndWatchdog : Prop :=
  (∀ (errs : List HwErr) (s : State), Answers (exec (.deviceTick errs) s) fun t =>
    t.tick = s.tick + 1 ∧ t.rst.wdtCount = (if rbit s Reg.sysWdtctl 31 then s.rst.wdtCount - 1 else s.rst.wdtCount)
      ∧ (rbit s Reg.sysWdtctl 31 = true → s.rst.wdtCount = 1 →
          if s.pf.active then ResetCause.wdt ∈ t.rst.deferred else ResetCause.wdt ∈ t.rst.pending)
      ∧ ∀ c : Fin 8, (s.core c).run ≠ .reset → (t.core c).cycle = ((s.core c).cycle + 12) % 2 ^ 64)
  ∧ (∀ (v : Word) (s : State), Answers (exec (.wdtctlWrite v) s) fun t =>
      rf t Reg.sysWdtctl 0 16 = max 1 (v.toNat % 2 ^ 16) ∧ rbit t Reg.sysWdtctl 31 = v.toNat.testBit 31
        ∧ t.rst.wdtCount = (if !rbit s Reg.sysWdtctl 31 && v.toNat.testBit 31 then max 1 (v.toNat % 2 ^ 16) * 100000 else s.rst.wdtCount)
        ∧ regsSameBut s t [Reg.sysWdtctl] ∧ t.mem = s.mem)
  ∧ (∀ s : State, Answers (exec (.wdtkick 0x0000_A5C3) s) fun t =>
      t.rst.wdtCount = rf s Reg.sysWdtctl 0 16 * 100000 ∧ t.regs = s.regs ∧ t.mem = s.mem)
  ∧ (∀ (v : Word) (s : State), v ≠ 0x0000_A5C3 → exec (.wdtkick v) s = .next (settle s))
  ∧ (∀ s : State, rbit s Reg.sysWdtctl 31 = true → s.rst.wdtCount = 0 → Answers (exec .wdtExpire s) fun t =>
      (if s.pf.active then ResetCause.wdt ∈ t.rst.deferred else ResetCause.wdt ∈ t.rst.pending)
        ∧ t.tick = s.tick ∧ t.conf = s.conf)
  ∧ (∀ s : State, rbit s Reg.sysWdtctl 31 = false ∨ s.rst.wdtCount ≠ 0 → exec .wdtExpire s = .next (settle s))

/-- Requests for a chip reset and the holds of the main die (R52, R66, R67, R77, R605).
Clauses rest on choices of the model, log entries 2, 31, 32. -/
def Obligations.ResetRequests : Prop :=
  (∀ s : State, Answers (exec .clockLoss s) fun t =>
    t.rst.clkHold = true ∧ t.rst.pllLock = false
      ∧ (if s.pf.active then ResetCause.clkloss ∈ t.rst.deferred else ResetCause.clkloss ∈ t.rst.pending))
  ∧ (∀ s : State, s.rst.clkHold = true → Answers (exec .clklossRelease s) fun t =>
      t.rst.clkHold = false ∧ t.rst.xtalOk = true ∧ t.rst.pllLock = true
        ∧ (s.rst.tempHold = false → s.rst.pinLow = false → s.tap.active = false → t.rst.inChipReset = false)
        ∧ regsSameBut s t [aFlive .sys] ∧ t.mem = s.mem ∧ t.datum = s.datum)
  ∧ (∀ s : State, Answers (exec .nresetAssert s) fun t =>
      t.rst.pinLow = true ∧ (if s.pf.active then ResetCause.pin ∈ t.rst.deferred else ResetCause.pin ∈ t.rst.pending))
  ∧ (∀ s : State, Answers (exec .nresetRelease s) fun t =>
      t.rst.pinLow = false ∧ t.regs = s.regs ∧ t.mem = s.mem
        ∧ t.rst.inChipReset = (s.rst.inChipReset && (s.rst.clkHold || s.rst.tempHold || (s.tap.active && drivesPins s.tap.instr))))
  ∧ (∀ (v : Word) (s : State), v.toNat / 2 ^ 16 = 0xC4E5 → v.toNat.testBit 0 = true → Answers (exec (.rstctlChip v) s) fun t =>
      if s.pf.active then ResetCause.soft ∈ t.rst.deferred else ResetCause.soft ∈ t.rst.pending)
  ∧ (∀ (v : Word) (s : State), v.toNat / 2 ^ 16 ≠ 0xC4E5 ∨ v.toNat.testBit 0 = false → exec (.rstctlChip v) s = .next (settle s))

/-- A chip reset in effect (R66, R67, R78): what it keeps, what it clears, and the cause it records. Then a block reset (R68)
of a block whose whole window it clears: the registers of the block take their reset values, its fault registers keep theirs,
and so does every other block.
Clauses rest on choices of the model, log entries 2, 13, 27, 30. -/
def Obligations.ResetEffects : Prop :=
  (∀ s : State, s.rst.pending ≠ [] → allParked s = true → Answers (exec .chipReset s) fun t =>
      t.rst.pending = [] ∧ t.rst.inChipReset = resetHeld s ∧ t.tick = s.tick ∧ t.mem = [] ∧ t.boot = .resetReleased
        ∧ rn t Reg.sysRstcause % 2 ^ 32 = causeBits s.rst.pending (rn s Reg.sysRstcause) % 2 ^ 32
        ∧ t.evr.recs = s.evr.recs ∧ t.evr.opsec = s.evr.opsec ∧ t.evr.pcyc = s.evr.pcyc
        ∧ t.datum = { s.datum with loaded := [] } ∧ t.media = s.media ∧ t.fct.map = s.fct.map ∧ t.fct.data = s.fct.data
        ∧ (t.core 0).run = .running ∧ (t.core 0).pc = 0 ∧ (∀ c : Fin 8, c ≠ 0 → (t.core c).run = .reset)
        ∧ (∀ (c : Fin 8) (r : BitVec 5), gAt t c r = 0)
        ∧ (∀ a, windowBase ≤ a → isPmuReg a = false → a ≠ Reg.sysRstcause → rget t a = regReset a))
  ∧ (∀ (v : Word) (s : State) (b : Blk), v.toNat / 2 ^ 16 = 0xC4E5 → s.rst.pending = [] →
      b ∈ [Blk.lat, .fct, .loc, .cdc, .cqu, .hpa, .hpb, .buf, .spd, .dma, .evr, .cal, .tst] → lineOf b 0 = v.toNat % 256 →
      Answers (exec (.blockReset v) s) fun t =>
        (∀ a, blkBase b ≤ a → a < blkBase b + 0xFF00 → rget t a = regReset a)
          ∧ (∀ a, a < blkBase b ∨ blkBase b + 0xFF00 ≤ a → rget t a = rget s a)
          ∧ (b = .dma → ∀ c : Fin 32, t.dmaCh c = DmaSt.reset) ∧ t.mem = s.mem ∧ t.tick = s.tick)

/-- The power-fail sequence (R61, R64, R82, R377, R627), and the return of the input.
Clauses rest on choices of the model, log entries 2, 33, 40, 74, 206. -/
def Obligations.PowerFailSequence : Prop :=
  (∀ s : State, s.pf.active = false → s.pf.railsOff = false → Answers (exec .powerFailDetect s) fun t =>
    t.pf.active = true ∧ t.pf.step3 = true ∧ t.pf.inputOk = false ∧ t.pmu.waitQ = [] ∧ t.cqu.stopped = true ∧ rbit t Reg.pmuPfstat 0 = true
      ∧ (∀ q : Fin 17, vget t.queues q = []) ∧ t.cqu.q17 = []
      ∧ (∀ a : Fin 16, (t.act a).st = if (s.act a).st = .parked then .parked else .retract)
      ∧ (∀ i : Fin 8, (t.spn i).st = if (s.spn i).st = .stopped then .stopped else .rectify))
  ∧ (∀ s : State, s.pf.active = true → s.pf.railsOff = false →
      exec .powerFailDetect s = .next (settle { s with pf := { s.pf with inputOk := false } }))
  ∧ (∀ s : State, s.pf.active = true → Answers (exec .pfFlushDone s) fun t =>
      rbit t Reg.pmuPfstat 2 = true
        ∧ t.obj.pfRecord = some (if rf s Reg.pmuPfctl 8 8 = 0 then [] else s.obj.chunks.filter fun e => e.2.staged)
        ∧ t.obj.chunks = s.obj.chunks ∧ regsSameBut s t [Reg.pmuPfstat] ∧ t.mem = s.mem)
  ∧ (∀ s : State, s.pf.active = true → Answers (exec .pfHoldupExpire s) fun t =>
      rn t Reg.sysRstcause = 0x21 ∧ t.pmu.overShort = 0xFF ∧ t.pmu.overRect = 0 ∧ t.pmu.pgood = 0 ∧ t.mem = [] ∧ t.tick = 0
        ∧ t.pf.active = false ∧ t.boot = (if s.pf.inputOk then .softStart else .off)
        ∧ (∀ c : Fin 8, (t.core c).run = .reset) ∧ t.media = s.media ∧ t.obj.pfRecord = s.obj.pfRecord)
  ∧ (∀ s : State, Answers (exec .inputReturn s) fun t =>
      t.pf.inputOk = true ∧ (s.pf.active = true → rbit t Reg.pmuPfstat 3 = true)
        ∧ (s.pf.active = false → s.pf.railsOff = true → t.boot = .softStart ∧ t.pf.railsOff = false)
        ∧ regsSameBut s t [Reg.pmuPfstat] ∧ t.mem = s.mem)
  ∧ (∀ s : State, s.boot = .off → s.pf.railsOff = false → exec .powerOn s = .next (settle { s with boot := .softStart }))

/-- Main-die power-on reset by a supply, and the reset of the Datum die (R66, R78).
Clauses rest on choices of the model, log entries 2, 33, 211. -/
def Obligations.SupplyResets : Prop :=
  (∀ (vio : Bool) (s : State), Answers (exec (.mainPor vio) s) fun t =>
    rn t Reg.sysRstcause = 1 ∧ t.tick = 0 ∧ t.mem = [] ∧ t.pmu.pgood = 0 ∧ (∀ c : Fin 8, (t.core c).run = .reset)
      ∧ t.boot = (if vio || s.pf.active then .off else .softStart) ∧ t.pf = (if vio then PfSt.reset else s.pf) ∧ t.datum = { s.datum with loaded := [] } ∧ t.media = s.media
      ∧ (∀ a, a ≠ Reg.sysRstcause → isPmuReg a = true → rget t a = if vio then regReset a else rget s a)
      ∧ (∀ a, a ≠ Reg.sysRstcause → isPmuReg a = false → rget t a = regReset a))
  ∧ (∀ s : State, quiet s .dtm → Answers (exec .datumPor s) fun t =>
      t.datum.clkvalid = false ∧ t.datum.clock = s.datum.savedTime * 2 ^ 15 ∧ t.datum.recs = s.datum.recsSaved
        ∧ t.datum.keys = s.datum.keys ∧ t.datum.rules = s.datum.rules ∧ t.datum.chain = s.datum.chain
        ∧ t.datum.bytes = s.datum.bytes ∧ t.mem = s.mem)

/-- Rails, gates and the power budget (R54–R56, R58, R60).
Clauses rest on choices of the model, log entries 2, 67, 68, 211. -/
def Obligations.RailsAndBudget : Prop :=
  (∀ (r : Fin 6) (v : Word) (s : State), Answers (exec (.railctlWrite r v) s) fun t =>
    rn t (Reg.pmuRailctl r) = clampNat (railLo r) (railHi r) (v.toNat % 2 ^ 12) ∧ regsSameBut s t [Reg.pmuRailctl r]
      ∧ t.mem = s.mem ∧ railTarget t r = railTarget s r)
  ∧ (∀ (r : Fin 6) (s : State), r ≠ 0 → quiet s .pmu → Answers (exec (.railfault r) s) fun t =>
      t.pmu.pgood.toNat.testBit r = false ∧ rbit t (aFlive .pmu) r = true
        ∧ (rbit s (aFlive .pmu) r = false → rbit t (aFstat .pmu) r = true)
        ∧ regsSameBut s t [aFlive .pmu, aFstat .pmu] ∧ t.mem = s.mem)
  ∧ (∀ s : State, Answers (exec (.railfault 0) s) fun t =>
      rn t Reg.sysRstcause = 1 ∧ t.mem = [] ∧ t.tick = 0 ∧ (∀ c : Fin 8, (t.core c).run = .reset)
        ∧ t.pf = s.pf ∧ (if allParked s then t.boot = (if s.pf.active then .off else .softStart) else t.rst.rail0 = true))
  ∧ (∀ (r : Fin 6) (s : State), Answers (exec (.railReturn r) s) fun t =>
      t.pmu.pgood.toNat.testBit r = true ∧ rbit t (aFlive .pmu) r = false ∧ regsSameBut s t [aFlive .pmu] ∧ t.mem = s.mem)
  ∧ (∀ (v : Word) (s : State), Answers (exec (.gateWrite v) s) fun t =>
      (∀ n : Fin 8, rbit t Reg.pmuGate n = v.toNat.testBit n)
        ∧ (∀ a : Fin 16, rbit t Reg.pmuGate (8 + a.val) = (v.toNat.testBit (8 + a.val) && decide ((s.act a).st = .parked)))
        ∧ regsSameBut s t [Reg.pmuGate] ∧ t.mem = s.mem)
  ∧ (∀ (v : Word) (s : State), Answers (exec (.budgetWrite v) s) fun t =>
      rn t Reg.pmuBudget % 2 ^ 16 = clampNat 300 4000 (v.toNat % 2 ^ 16) ∧ regsSameBut s t [Reg.pmuBudget] ∧ t.spns = s.spns
        ∧ t.pmu = s.pmu)
  ∧ (∀ (o : RotorObs) (s : State) (i : Fin 8) (l : List (Fin 8)), s.pmu.waitQ = i :: l → grantFits s = true →
      (s.spn i).st = .waitgrant → rotorClass s i o = 0 → Answers (exec (.spinGrant o) s) fun t =>
        t.pmu.waitQ = l.filter (fun j => decide (j ≠ i)) ∧ t.pmu.starting.toNat.testBit i = true ∧ (t.spn i).st = .locate
          ∧ (∀ j : Fin 8, j ≠ i → t.spn j = s.spn j) ∧ t.regs = s.regs ∧ t.mem = s.mem)

/-- Start-up from the rails to the host ports (R69, R71–R76, R425, R427, R438).
Clauses rest on choices of the model, log entries 2, 7, 34, 35, 36. -/
def Obligations.StartUp : Prop :=
  (∀ s : State, s.boot = .softStart → Answers (exec (.railsGood 0) s) fun t =>
    t.boot = .resetReleased ∧ t.tick = 0 ∧ t.pmu.pgood = 0x3F ∧ t.ms.spdTestDone = true ∧ t.ms.spdTestFail = 0
      ∧ (t.core 0).run = .running ∧ (t.core 0).pc = 0 ∧ rf t Reg.sysBootstat 0 8 = 7
      ∧ (∀ r : Fin 6, rbit t (aFlive .pmu) r = false) ∧ regsSameBut s t [Reg.sysBootstat, aFlive .pmu])
  ∧ (∀ (aOk bOk : Bool) (s : State), s.boot = .resetReleased → aOk = true ∨ bOk = true →
      Answers (exec (.bootVerdict aOk bOk) s) fun t =>
        t.boot = .imageVerified ∧ rf t Reg.sysBootstat 0 8 = 9
          ∧ rbit t Reg.sysBootstat 8 = !aOk ∧ rbit t Reg.sysBootstat 9 = !aOk ∧ rbit t Reg.sysBootstat 10 = false
          ∧ regsSameBut s t [Reg.sysBootstat] ∧ t.mem = s.mem)
  ∧ (∀ s : State, s.boot = .resetReleased → quiet s .sys → Answers (exec (.bootVerdict false false) s) fun t =>
      t.boot = .halted ∧ (t.core 0).run = .halted ∧ rbit t (aFstat .sys) 3 = true)
  ∧ (∀ s : State, s.boot = .imageVerified → Answers (exec .configLoad s) fun t =>
      t.boot = .configLoaded ∧ t.conf = (cfgParse s).conf ∧ t.rst.fresh = false)
  ∧ (∀ (gib rate : Nat) (s : State), s.boot = .configLoaded → gib ≠ 0 → Answers (exec (.dramTrainingDone gib rate true) s) fun t =>
      t.boot = .trained ∧ t.conf = { s.conf with dramGib := min s.conf.dramGib gib } ∧ t.ms.gib = gib ∧ t.ms.rate = rate
        ∧ t.ms.init = true ∧ t.ms.bufTestFail = false ∧ rf t Reg.sysBootstat 0 8 = 11 ∧ regsSameBut s t [Reg.sysBootstat])
  ∧ (∀ s : State, s.boot = .trained → Answers (exec .bufInitDone s) fun t =>
      t.boot = .bufferReady ∧ t.ms.ready = true ∧ t.ms.init = false ∧ (∀ a, a < 0x10_0000_0000 → mget t.mem a = 0)
        ∧ (∀ a, 0x10_0000_0000 ≤ a → mget t.mem a = mget s.mem a) ∧ (∀ w, w < 0x1_0000_0000 → eccOf t w = none))
  ∧ (∀ s : State, Answers (exec .hostrdySet s) fun t =>
      rbit t Reg.sysBootctl 0 = true ∧ (s.boot = .bufferReady → t.boot = .hostReady) ∧ (s.boot ≠ .bufferReady → t.boot = s.boot)
        ∧ regsSameBut s t [Reg.sysBootctl, Reg.sysBootstat] ∧ t.mem = s.mem)

/-- Interrupt routing (R40–R43).
Clauses rest on choices of the model, log entries 2, 58. -/
def Obligations.RoutingRules : Prop :=
  (∀ (n : Fin 128) (v : Word) (s : State), Answers (exec (.irqrouteWrite n v) s) fun t =>
    (∀ c : Fin 8, routeNames t n c = v.toNat.testBit c) ∧ routePrio t n = fld v.toNat 16 4 ∧ routeMode1 t n = v.toNat.testBit 24
      ∧ routeEn t n = v.toNat.testBit 31 ∧ (rget t (Reg.cpcIrqroute n) ≠ rget s (Reg.cpcIrqroute n) → assignee t n = none)
      ∧ regsSameBut s t [Reg.cpcIrqroute n] ∧ t.mem = s.mem)
  ∧ (∀ (v : Word) (s : State), v.toNat % 256 ≠ 0 → Answers (exec (.nmtrouteWrite v) s) fun t =>
      rn t Reg.cpcNmtroute % 256 = v.toNat % 256 ∧ regsSameBut s t [Reg.cpcNmtroute] ∧ t.mem = s.mem)
  ∧ (∀ (v : Word) (s : State), v.toNat % 256 = 0 → exec (.nmtrouteWrite v) s = .next (settle s))
  ∧ (∀ (n : Fin 128) (s : State) (c : Fin 8), routeMode1 s n = true → lineLevel s n = true → assignee s n = none →
      canTake s n c = true → (∀ d : Fin 8, d < c → canTake s n d = false) → Answers (exec (.lineAssignment n) s) fun t =>
        assignee t n = some c.val ∧ t.regs = s.regs ∧ t.mem = s.mem)

/-- SWINT (R44): SET and CLR act on the latches of lines 96 to 103, SET wins where both name a core, the latches are the levels
of those lines and show in IRQPEND3, and the reserved half of the word does nothing. -/
def Obligations.SoftwareInterrupts : Prop :=
  (∀ (v : Word) (s : State), Answers (exec (.swintWrite v) s) fun t =>
    (∀ c : Fin 8, lineLevel t (96 + c.val) = (v.toNat.testBit c || (lineLevel s (96 + c.val) && !v.toNat.testBit (8 + c.val)))
      ∧ (regRead t Reg.cpcIrqpend3 0).1.testBit c = lineLevel t (96 + c.val))
    ∧ t.regs = s.regs ∧ t.mem = s.mem ∧ t.resp = s.resp)
  ∧ (∀ (v : Word) (s : State), exec (.swintWrite v) s = exec (.swintWrite (v &&& 0x0000_FFFF)) s)

/-- The fault registers as software writes them (R532, R536–R538, R540).
Clauses rest on choices of the model, log entries 2, 28. -/
def Obligations.FaultRegisterWrites : Prop :=
  (∀ (b : Blk) (v : DWord) (s : State), blkPresent s b = true → Answers (exec (.fstatWrite b v) s) fun t =>
    rget t (aFstat b) = rget s (aFstat b) &&& ~~~(v &&& ~~~rget s (aFlive b))
      ∧ rbit t (aFctl b) 31 = decide (v &&& rget s (aFlive b) ≠ 0)
      ∧ (rget t (aFstat b) = 0 → fcapOf t b = Fcap.empty) ∧ (rget t (aFstat b) ≠ 0 → fcapOf t b = fcapOf s b)
      ∧ (∀ k, k < 8 → unacked s b k = true → unacked t b k = false → rf t (aFreact b) (16 + 2 * k) 2 = 0)
      ∧ regsSameBut s t [aFstat b, aFreact b, aFctl b] ∧ t.mem = s.mem)
  ∧ (∀ (b : Blk) (v : Word) (s : State), blkPresent s b = true → Answers (exec (.fmaskWrite b v) s) fun t =>
      rf t (aFmask b) 0 16 = v.toNat % 2 ^ 16 ∧ regsSameBut s t [aFmask b] ∧ t.mem = s.mem)
  ∧ (∀ (b : Blk) (v : DWord) (w : Word) (s : State), blkPresent s b = false →
      exec (.fstatWrite b v) s = .next (settle s) ∧ exec (.fmaskWrite b w) s = .next (settle s))
  ∧ (∀ (v : Word) (s : State), Answers (exec (.frstsrcHoldClear v) s) fun t =>
      rbit t Reg.pmuFrstsrc 30 = (rbit s Reg.pmuFrstsrc 30 && !v.toNat.testBit 30)
        ∧ (∀ i, i ≠ 30 → rbit t Reg.pmuFrstsrc i = rbit s Reg.pmuFrstsrc i) ∧ regsSameBut s t [Reg.pmuFrstsrc])

/-- General inputs (R543–R546).
Clauses rest on choices of the model, log entries 2, 3, 39. -/
def Obligations.GeneralInputs : Prop :=
  (∀ (i : Fin 9) (active : Bool) (s : State), (input s i).level ≠ active → Answers (exec (.inputEdge i active) s) fun t =>
    (input t i).level = active
      ∧ (active = true → (input s i).masked = false → (input t i).trig = true)
      ∧ (active = false → (input t i).trig = (input s i).trig) ∧ (∀ j : Fin 9, j ≠ i → input t j = input s j))
  ∧ (∀ (i : Fin 9) (s : State), i ≠ 0 → quiet s .sys → (input s i).level = false → Answers (exec (.inputEdge i true) s) fun t =>
      rf t (Reg.sysIncnt i) 0 16 = min 65535 (rf s (Reg.sysIncnt i) 0 16 + 1))
  ∧ (∀ (i : Fin 9) (s : State), (input s i).level = true → rf s (Reg.sysIncfg i) 24 8 ≠ 0 → (input s i).masked = false →
      Answers (exec (.inputRetrigger i) s) fun t =>
        (input t i).trig = true ∧ (input t i).level = true ∧ (∀ j : Fin 9, j ≠ i → input t j = input s j))
  ∧ (∀ (i : Fin 9) (s : State), (input s i).level = true → Answers (exec (.inputStuck i) s) fun t =>
      (input t i).faulty = true ∧ rbit t (aFlive .sys) (32 + i.val) = true ∧ (∀ j : Fin 9, j ≠ i → input t j = input s j))
  ∧ (∀ (i : Fin 9) (v : Word) (s : State), Answers (exec (.instatWrite i v) s) fun t =>
      (input t i).masked = ((input s i).masked && !(v.toNat.testBit 30 && !(input s i).level))
        ∧ (input t i).faulty = ((input s i).faulty && !(v.toNat.testBit 29 && !(input s i).level))
        ∧ (input t i).trig = ((input s i).trig && !v.toNat.testBit 28) ∧ (input t i).level = (input s i).level
        ∧ (∀ j : Fin 9, j ≠ i → input t j = input s j) ∧ regsSameBut s t [aFlive .sys] ∧ t.mem = s.mem)

/-- Commands to a spindle controller and the way to speed (R357–R369).
Clauses rest on choices of the model, log entries 2, 69. -/
def Obligations.SpindleStarts : Prop :=
  (∀ (i : Fin 8) (s : State), spnHears s i = true → (s.spn i).st = .stopped → (s.spn i).failed = false →
    Answers (exec (.start i) s) fun t =>
      (t.spn i).st = .listen ∧ (t.spn i).t0 = s.tick.toNat ∧ (t.spn i).err = 0
        ∧ rn t (Reg.spnStarts i) = min 0xFFFF_FFFF (rn s (Reg.spnStarts i) + 1) ∧ (∀ j : Fin 8, j ≠ i → t.spn j = s.spn j)
        ∧ regsSameBut s t [Reg.spnStarts i] ∧ t.mem = s.mem)
  ∧ (∀ (i : Fin 8) (s : State), (s.spn i).st = .run → Answers (exec (.start i) s) fun t =>
      t.spns = s.spns ∧ rn t (Reg.spnCmdign i) = min 0xFFFF_FFFF (rn s (Reg.spnCmdign i) + 1))
  ∧ (∀ (i : Fin 8) (turns : Bool) (s : State), spnHears s i = true → (s.spn i).st ∈ [SpnState.locate, .ramp, .accel] →
      Answers (exec (.stop i turns) s) fun t =>
        (t.spn i).st = .brake ∧ (t.spn i).duty = 0 ∧ t.pmu.starting.toNat.testBit i = false ∧ t.regs = s.regs ∧ t.mem = s.mem)
  ∧ (∀ (i : Fin 8) (turns : Bool) (s : State), spnHears s i = true → (s.spn i).st = .run → spnParked s i = true →
      Answers (exec (.stop i turns) s) fun t => (t.spn i).st = .brake ∧ t.acts = s.acts ∧ t.regs = s.regs)
  ∧ (∀ (i : Fin 8) (s : State), spnHears s i = true → (s.spn i).st = .stopped → Answers (exec (.clrfail i) s) fun t =>
      t.spn i = { s.spn i with failed := false, tries := 0 } ∧ (∀ j : Fin 8, j ≠ i → t.spn j = s.spn j) ∧ t.regs = s.regs)
  ∧ (∀ (i : Fin 8) (o : RotorObs) (s : State), (s.spn i).st = .listen → rotorClass s i o = 3 →
      Answers (exec (.listenWindowEnd i o) s) fun t =>
        (t.spn i).st = .brake ∧ (t.spn i).cls = 3 ∧ (t.spn i).autoRestart = true ∧ (t.spn i).amp = o.amp ∧ t.pmu = s.pmu)
  ∧ (∀ (i : Fin 8) (o : RotorObs) (s : State), (s.spn i).st = .listen → rotorClass s i o ≠ 3 →
      rn s Reg.pmuBasew + rf s Reg.pmuSpinpwr 0 16 ≤ rn s Reg.pmuBudget → s.pmu.waitQ ≠ [] →
      Answers (exec (.listenWindowEnd i o) s) fun t =>
        (t.spn i).st = .waitgrant ∧ (t.spn i).cls = rotorClass s i o ∧ t.pmu.waitQ = s.pmu.waitQ ++ [i] ∧ t.regs = s.regs)
  ∧ (∀ (i : Fin 8) (contrast : Nat) (angle : BitVec 6) (s : State), (s.spn i).st = .locate → (s.spn i).inject = false →
      Answers (exec (.locateDone i contrast angle) s) fun t =>
        (t.spn i).st = .ramp ∧ (t.spn i).sector = 1 ∧ (t.spn i).rampSq = 0 ∧ t.regs = s.regs ∧ t.mem = s.mem)

/-- The drive of a spindle (R356–R360, R366, R369).
Clauses rest on choices of the model, log entries 2, 68, 73, 220. -/
def Obligations.SpindleDrive : Prop :=
  (∀ (i : Fin 8) (lag : Nat) (s : State), (s.spn i).st = .run → Answers (exec (.commutationInstant i lag) s) fun t =>
    t.spn i = { s.spn i with sector := ((s.spn i).sector + 1) % 6 } ∧ (∀ j : Fin 8, j ≠ i → t.spn j = s.spn j)
      ∧ t.regs = s.regs ∧ t.mem = s.mem)
  ∧ (∀ (i : Fin 8) (lag : Nat) (s : State), (s.spn i).st = .ramp → (s.spn i).inject = false → atHandover s i = false →
      Answers (exec (.commutationInstant i lag) s) fun t =>
        (t.spn i).st = .ramp ∧ (t.spn i).sector = ((s.spn i).sector + 1) % 6
          ∧ (t.spn i).rampSq = (s.spn i).rampSq + 5120 * rf s (Reg.spnRamp i) 16 16 / polePairs s i ∧ t.regs = s.regs)
  ∧ (∀ (i : Fin 8) (e : CommEv) (s : State), (s.spn i).st = .ramp → atHandover s i = false → observerBad s i e = false →
      Answers (exec (.commutationEvent i e) s) fun t =>
        (t.spn i).st = .ramp ∧ (t.spn i).amp = e.amp
          ∧ (t.spn i).ivals = (e.interval :: (s.spn i).ivals).take (6 * polePairs s i)
          ∧ (t.spn i).spd = speedOver (polePairs s i) (6 * polePairs s i) (t.spn i).ivals
          ∧ (∀ j : Fin 8, j ≠ i → t.spn j = s.spn j) ∧ t.mem = s.mem)
  ∧ (∀ (i : Fin 8) (e : CommEv) (s : State), (s.spn i).st = .ramp → atHandover s i = true → eventMatched e = true →
      hoSync s i ≤ (s.spn i).hosync + 1 → Answers (exec (.commutationEvent i e) s) fun t =>
        (t.spn i).st = .accel ∧ (t.spn i).ref = 16 * s.conf.handover ∧ t.mem = s.mem)
  ∧ (∀ (i : Fin 8) (s : State), (s.spn i).st = .accel → Answers (exec (.refStep i) s) fun t =>
      (t.spn i).refMilli = min (1000 * target16 s) ((s.spn i).refMilli + 16 * (s.spn i).accel)
        ∧ (t.spn i).ref = (t.spn i).refMilli / 1000 ∧ (t.spn i).st = .accel ∧ t.regs = s.regs ∧ t.mem = s.mem)
  ∧ (∀ (i : Fin 8) (s : State), (s.spn i).st = .brake → (s.spn i).failing = false → (s.spn i).autoRestart = false →
      Answers (exec (.brakeDone i) s) fun t =>
        (t.spn i).st = .stopped ∧ (t.spn i).atspeed = false ∧ t.pmu.starting.toNat.testBit i = false
          ∧ t.pmu.running.toNat.testBit i = false ∧ rbit t (Reg.spnIrqstat i) 1 = true
          ∧ regsSameBut s t [Reg.spnIrqstat i] ∧ t.mem = s.mem)

/-- What a spindle controller does when the rotor does not follow (R367, R368, R370, R372, R374, R376).
Clauses rest on choices of the model, log entries 2, 71. -/
def Obligations.SpindleLosses : Prop :=
  (∀ (i : Fin 8) (s : State), (s.spn i).st = .run → quiet s .spn → Answers (exec (.rotorLoss i) s) fun t =>
    (t.spn i).st = .coast ∧ (t.spn i).losscause = 1 ∧ (t.spn i).atspeed = false ∧ rbit t (aFstat .spn) (8 + i.val) = true
      ∧ rn t (Reg.spnSyncloss i) = min 0xFFFF_FFFF (rn s (Reg.spnSyncloss i) + 1) ∧ t.acts = s.acts ∧ t.mem = s.mem)
  ∧ (∀ (i : Fin 8) (s : State), (s.spn i).st = .accel → (s.spn i).catching = false → quiet s .spn →
      Answers (exec (.lockedRotor i) s) fun t =>
        (t.spn i).st = .brake ∧ (t.spn i).failcause = 1 ∧ (t.spn i).failing = true ∧ rbit t (aFstat .spn) i = true
          ∧ rn t (Reg.spnStartfails i) = min 0xFFFF_FFFF (rn s (Reg.spnStartfails i) + 1)
          ∧ t.pmu.starting.toNat.testBit i = false ∧ t.acts = s.acts ∧ t.mem = s.mem)
  ∧ (∀ (i : Fin 8) (s : State), (s.spn i).st = .coast → spnParked s i = true → Answers (exec (.catchTimeout i) s) fun t =>
      (t.spn i).st = .brake ∧ (t.spn i).duty = 0 ∧ t.acts = s.acts ∧ t.regs = s.regs ∧ t.mem = s.mem)
  ∧ (∀ (i : Fin 8) (s : State), (s.spn i).st = .run → spnParked s i = false → quiet s .spn →
      Answers (exec (.zeroCrossingTimeout i) s) fun t =>
        (t.spn i).st = .rectify ∧ (t.spn i).atspeed = false ∧ rbit t (aFstat .spn) (24 + i.val) = true
          ∧ (∀ a : Fin 16, spnOf a = i → (t.act a).st = if (s.act a).st = .parked then .parked else .retract))
  ∧ (∀ (i : Fin 8) (s : State), (s.spn i).st = .run → quiet s .spn → Answers (exec (.overcurrent i) s) fun t =>
      (t.spn i).st = .coast ∧ (t.spn i).losscause = 2 ∧ rbit t (aFstat .spn) (8 + i.val) = true
        ∧ rbit t (aFstat .spn) (16 + i.val) = true ∧ t.acts = s.acts ∧ t.mem = s.mem)

/-- Commands of an actuator (R336, R338, R342–R347, R350, R628): LOAD, UNLOAD, SEEK, MANUAL, AUTO, STEP_PLUS, STEP_MINUS, the ends
of the profiles, and what is ignored.
Clauses rest on choices of the model, log entries 2, 76. -/
def Obligations.RadiusCommands : Prop :=
  (∀ (a : Fin 16) (s : State), actPresent s a = true → rbit s Reg.radGctl 0 = true → (s.act a).st = .parked → atSpeed s (spnOf a) = true →
    Answers (exec (.load a) s) fun t =>
      (t.act a).st = .load ∧ (t.act a).profile = loadSegs s a ∧ (t.act a).vcode = firstCode (loadSegs s a) ∧ (t.act a).mcode = 0
        ∧ (∀ b : Fin 16, b ≠ a → t.act b = s.act b) ∧ t.regs = s.regs ∧ t.mem = s.mem)
  ∧ (∀ (a : Fin 16) (s : State), actPresent s a = true →
      rbit s Reg.radGctl 0 = false ∨ (s.act a).st ≠ .parked ∨ atSpeed s (spnOf a) = false →
      Answers (exec (.load a) s) fun t =>
        t.acts = s.acts ∧ rn t (Reg.radCmdign a) = min 0xFFFF_FFFF (rn s (Reg.radCmdign a) + 1) ∧ regsSameBut s t [Reg.radCmdign a])
  ∧ (∀ (a : Fin 16) (s : State), actPresent s a = true → rbit s Reg.radGctl 0 = true →
      (s.act a).st ∈ [ActState.load, .manual, .seek, .settle, .track] →
      (∀ n, sliceOfAct s a = some n → (s.slice n).op = none) → Answers (exec (.unload a) s) fun t =>
        (t.act a).st = .unload ∧ (t.act a).profile = unldSegs s a ∧ (t.act a).vcode = unldFirst s a ∧ (t.act a).mcode = 0
          ∧ (∀ b : Fin 16, b ≠ a → t.act b = s.act b) ∧ t.regs = s.regs ∧ t.mem = s.mem)
  ∧ (∀ (a : Fin 16) (firmware : Bool) (s : State), actPresent s a = true → rbit s Reg.radGctl 0 = true → actAuto (s.act a).st = true →
      Answers (exec (.seek a firmware) s) fun t =>
        (if firmware && cquControls s a then t.acts = s.acts ∧ rn t (Reg.radCmdign a) = min 0xFFFF_FFFF (rn s (Reg.radCmdign a) + 1)
         else (t.act a).st = .seek ∧ (t.act a).goal = (rf s (Reg.radTarget a) 0 24 : Int) * 65536 ∧ (t.act a).r = (s.act a).r
           ∧ (t.act a).v = (if (s.act a).st = .seek then (s.act a).v else 0) ∧ t.regs = s.regs)
          ∧ (∀ b : Fin 16, b ≠ a → t.act b = s.act b) ∧ t.mem = s.mem)
  ∧ (∀ (a : Fin 16) (keep : Bool) (s : State), actPresent s a = true → rbit s Reg.radGctl 0 = true →
      (s.act a).st ∈ [ActState.load, .seek, .settle, .track] → (∀ n, sliceOfAct s a = some n → (s.slice n).op = none) →
      Answers (exec (.manual a keep) s) fun t =>
        (t.act a).st = .manual ∧ (t.act a).mcode = 0 ∧ (t.act a).vcode = code16 (rn t (Reg.radMancur a))
          ∧ rn t (Reg.radMancur a) = (if keep && actAuto (s.act a).st then unsgn 16 (s.act a).vcode else rn s (Reg.radMancur a))
          ∧ (∀ b : Fin 16, b ≠ a → t.act b = s.act b) ∧ regsSameBut s t [Reg.radMancur a] ∧ t.mem = s.mem)
  ∧ (∀ (a : Fin 16) (s : State), actPresent s a = true → rbit s Reg.radGctl 0 = true → (s.act a).st = .manual → (s.act a).sampleOk = true →
      Answers (exec (.auto a) s) fun t =>
        (t.act a).st = .settle ∧ (t.act a).r = (s.act a).ymeas ∧ (t.act a).bump = some (s.act a).vcode
          ∧ rn t (Reg.radTarget a) = ((s.act a).acq.headD (0, 0)).2 % 2 ^ 24
          ∧ (∀ b : Fin 16, b ≠ a → t.act b = s.act b) ∧ regsSameBut s t [Reg.radTarget a] ∧ t.mem = s.mem)
  ∧ (∀ (a : Fin 16) (s : State), actPresent s a = true → rbit s Reg.radGctl 0 = true → (s.act a).st = .track →
      Answers (exec (.stepPlus a false) s) fun t =>
        (t.act a).st = .track ∧ (t.act a).r = (s.act a).r + 65536 ∧ rf t (Reg.radTarget a) 0 24 = (rf s (Reg.radTarget a) 0 24 + 1) % 2 ^ 24
          ∧ (∀ b : Fin 16, b ≠ a → t.act b = s.act b) ∧ regsSameBut s t [Reg.radTarget a] ∧ t.mem = s.mem)
  ∧ (∀ (a : Fin 16) (s : State), actPresent s a = true → rbit s Reg.radGctl 0 = true → (s.act a).st = .track →
      Answers (exec (.stepMinus a false) s) fun t =>
        (t.act a).st = .track ∧ (t.act a).r = (s.act a).r - 65536
          ∧ rf t (Reg.radTarget a) 0 24 = (rf s (Reg.radTarget a) 0 24 + (2 ^ 24 - 1)) % 2 ^ 24
          ∧ (∀ b : Fin 16, b ≠ a → t.act b = s.act b) ∧ regsSameBut s t [Reg.radTarget a] ∧ t.mem = s.mem)
  ∧ (∀ (a : Fin 16) (s : State), actPresent s a = true → rbit s Reg.radGctl 0 = true → (s.act a).st ≠ .track →
      Answers (exec (.stepPlus a false) s) fun t =>
        t.acts = s.acts ∧ rn t (Reg.radStepign a) = min 0xFFFF_FFFF (rn s (Reg.radStepign a) + 1) ∧ regsSameBut s t [Reg.radStepign a])
  ∧ (∀ (a : Fin 16) (s : State), (s.act a).st = .load → sliceOfAct s a = none → quiet s .rad →
      Answers (exec (.loadProfileEnd a) s) fun t =>
        (t.act a).st = .retract ∧ (t.act a).cause = 2 ∧ rbit t (aFstat .rad) (16 + a.val) = true ∧ rbit t (Reg.radIrqstat a) 3 = true
          ∧ (∀ b : Fin 16, b ≠ a → t.act b = s.act b) ∧ regsSameBut s t [aFstat .rad, Reg.radIrqstat a] ∧ t.mem = s.mem)
  ∧ (∀ (a : Fin 16) (s : State), (s.act a).st ∈ [ActState.unload, .retract] → s.rst.rail0 = false →
      Answers (exec (.unloadProfileEnd a) s) fun t =>
        (t.act a).st = .parked ∧ (t.act a).vcode = 0 ∧ (t.act a).mcode = 0 ∧ rbit t (Reg.radIrqstat a) 2 = true
          ∧ (∀ b : Fin 16, b ≠ a → t.act b = s.act b) ∧ t.mem = s.mem)

/-- Registers of Radius that act when written, and the servo sample (R324, R330, R332, R335, R340, R342, R347, R349, R628).
Clauses rest on choices of the model, log entries 2, 76, 77. -/
def Obligations.RadiusRegisters : Prop :=
  (∀ (a : Fin 16) (v : Word) (s : State), actPresent s a = true → Answers (exec (.targetWrite a v) s) fun t =>
    rf t (Reg.radTarget a) 0 24 = v.toNat % 2 ^ 24
      ∧ ((s.act a).st = .track → (t.act a).st = .settle ∧ (t.act a).r = (v.toNat % 2 ^ 24 : Nat) * 65536)
      ∧ ((s.act a).st = .seek → (t.act a).st = .seek ∧ (t.act a).goal = (v.toNat % 2 ^ 24 : Nat) * 65536 ∧ (t.act a).r = (s.act a).r)
      ∧ ((s.act a).st ∈ [ActState.parked, .load, .manual, .unload, .retract] → t.acts = s.acts)
      ∧ (∀ b : Fin 16, b ≠ a → t.act b = s.act b) ∧ regsSameBut s t [Reg.radTarget a] ∧ t.mem = s.mem)
  ∧ (∀ (a : Fin 16) (v : Word) (s : State), actPresent s a = true → Answers (exec (.offsetWrite a v) s) fun t =>
      sgn 16 (rn t (Reg.radOffset a)) = clampInt (-0x4000) 0x4000 (sgn 16 v.toNat) ∧ t.acts = s.acts
        ∧ regsSameBut s t [Reg.radOffset a] ∧ t.mem = s.mem)
  ∧ (∀ (a : Fin 16) (v : Word) (s : State), actPresent s a = true → Answers (exec (.lawcfgWrite a v) s) fun t =>
      rf t (Reg.radLawcfg a) 16 16 = v.toNat / 2 ^ 16
        ∧ (∀ i, i < 16 → rbit s (Reg.radLawcfg a) (16 + i) = false → (t.act a).newBq.toNat.testBit i = v.toNat.testBit (16 + i))
        ∧ (t.act a).st = (s.act a).st ∧ (∀ b : Fin 16, b ≠ a → t.act b = s.act b) ∧ regsSameBut s t [Reg.radLawcfg a] ∧ t.mem = s.mem)
  ∧ (∀ (a : Fin 16) (w : Fin 512) (v : Word) (s : State), actPresent s a = true → Answers (exec (.coefficientWrite a w v) s) fun t =>
      rn t (coefAddr a w.val) % 2 ^ 24 = v.toNat % 2 ^ 24 ∧ t.acts = s.acts ∧ regsSameBut s t [coefAddr a w.val] ∧ t.mem = s.mem)
  ∧ (∀ (a : Fin 16) (w : Fin 128) (v : Word) (s : State), actPresent s a = true → Answers (exec (.stateWordWrite a w v) s) fun t =>
      (if actAuto (s.act a).st then rn t (swordAddr a w.val) = rn s (swordAddr a w.val) else rn t (swordAddr a w.val) % 2 ^ 32 = v.toNat)
        ∧ t.acts = s.acts ∧ regsSameBut s t [swordAddr a w.val] ∧ t.mem = s.mem)
  ∧ (∀ (a : Fin 16) (i : Fin 8) (v : Word) (s : State), actPresent s a = true → Answers (exec (.unldsegWrite a i v) s) fun t =>
      tget (0 : Word) t.pmu.unldAon (8 * a.val + i.val) = v ∧ t.acts = s.acts ∧ regsSameBut s t [Reg.radUnldseg a i] ∧ t.mem = s.mem)
  ∧ (∀ (a : Fin 16) (v : Word) (s : State), actPresent s a = false →
      exec (.targetWrite a v) s = .next (settle s) ∧ exec (.offsetWrite a v) s = .next (settle s) ∧ exec (.lawcfgWrite a v) s = .next (settle s))
  ∧ (∀ (v : Word) (s : State), Answers (exec (.gctlEnClear v) s) fun t =>
      rbit t Reg.radGctl 0 = false ∧ (∀ a : Fin 16, (t.act a).st = if (s.act a).st = .parked then .parked else .retract)
        ∧ ∀ a : Fin 16, WusSrc.servo ∈ (vget t.links a).live)
  ∧ (∀ (v : Word) (s : State), Answers (exec (.gctlEnSet v) s) fun t =>
      rbit t Reg.radGctl 0 = true ∧ t.acts = s.acts ∧ t.links = s.links ∧ regsSameBut s t [Reg.radGctl] ∧ t.mem = s.mem)
  ∧ (∀ (lane : Fin 8) (s0 s1 : ServoSample) (demod : Nat) (s : State), actPresent s (act0 lane) = true → actPresent s (act1 lane) = false →
      actAuto (s.act (act0 lane)).st = true → s0.coefPar = false → sliceOfAct s (act0 lane) = none →
      (s.act (act0 lane)).bad + 1 < rf s (Reg.radPlaus (act0 lane)) 28 4 → Answers (exec (.servoWedge lane s0 s1 demod) s) fun t =>
        (t.act (act0 lane)).execs = (s.act (act0 lane)).execs + 1 ∧ actAuto (t.act (act0 lane)).st = true
          ∧ (t.act (act0 lane)).vcode.natAbs ≤ rf s (Reg.radVcmlim (act0 lane)) 0 16
          ∧ (t.act (act0 lane)).mcode.natAbs ≤ rf s (Reg.radVcmlim (act0 lane)) 16 16
          ∧ (∀ b : Fin 16, b ≠ act0 lane → t.act b = s.act b) ∧ t.mem = s.mem)

/-- Register reads and writes by address (R2, R9–R13, R30): the plain write, the read of a whole register, the halves of a
64-bit one, and a master that does not reach the windows.
Clauses rest on choices of the model, log entries 2, 14, 15, 22, 24. -/
def Obligations.RegisterAccess : Prop :=
  (∀ (m a : Nat) (v : DWord) (s : State) (b : Blk) (r : RegRow) (i : Nat), regReach s m a = true → regAt a = some (b, r, i) → regStart r a = a →
    regBlank s b r i = false → regFixed s b = false → ownWrite b r = false → Answers (exec (.registerWrite m a v) s) fun t =>
      rget t a = writtenValue r (rget s a) (if r.w64 then v else (v.truncate 32).zeroExtend 64)
        ∧ regsSameBut s t [a] ∧ t.mem = s.mem ∧ t.resp = s.resp)
  ∧ (∀ (m a : Nat) (v : DWord) (s : State) (b : Blk) (r : RegRow) (i : Nat), regReach s m a = true → regAt a = some (b, r, i) →
      regBlank s b r i = true ∨ regFixed s b = true → exec (.registerWrite m a v) s = .next (settle s))
  ∧ (∀ (m a : Nat) (v : DWord) (s : State), regReach s m a = true → regAt a = none → exec (.registerWrite m a v) s = .next (settle s))
  ∧ (∀ (m a : Nat) (v : DWord) (s : State), regReach s m a = false → exec (.registerWrite m a v) s = .next (settle (fabricError s a 2 m)))
  ∧ (∀ (m a : Nat) (inc : DWord) (s : State) (b : Blk) (r : RegRow) (i : Nat), regReach s m a = true → regAt a = some (b, r, i) → regStart r a = a →
      regBlank s b r i = false → regFixed s b = false → ownRead b r = false → Answers (exec (.rcRead m a inc) s) fun t =>
        t.resp.data.toNat &&& (r.named - (r.named &&& r.wo)) = regShown s b r i a &&& r.named &&& (r.full - r.wo) ∧ t.resp.err = false
          ∧ (r.rc = 0 → t.regs = s.regs)
          ∧ (r.rc ≠ 0 → rget t a = (rget s a &&& ~~~(BitVec.ofNat 64 r.rc)) ||| (inc &&& BitVec.ofNat 64 r.rc)) ∧ t.mem = s.mem)
  ∧ (∀ (m a : Nat) (s : State) (b : Blk) (r : RegRow) (i : Nat), regReach s m a = true → regAt a = some (b, r, i) → r.w64 = true → a % 8 = 0 →
      Answers (exec (.readLowHalf m a) s) fun t =>
        t.resp.data.toNat = (regRead s a 0).1 % 2 ^ 32
          ∧ t.rshadow.find? (fun e => decide (e.1 = shadowKey m a)) = some (shadowKey m a, BitVec.ofNat 32 ((regRead s a 0).1 / 2 ^ 32)))
  ∧ (∀ (m a : Nat) (v : Word) (s : State), regReach s m a = true → isWide a = true → a % 8 = 0 → a ≠ Reg.evrPost →
      Answers (exec (.writeLowHalf m a v) s) fun t =>
        t.wshadow.find? (fun e => decide (e.1 = shadowKey m a)) = some (shadowKey m a, v) ∧ t.regs = s.regs ∧ t.mem = s.mem)
  ∧ (∀ (m a : Nat) (v low : Word) (s : State) (b : Blk) (r : RegRow) (i : Nat), regReach s m (a + 4) = true → regAt (a + 4) = some (b, r, i) → r.w64 = true → a % 8 = 0 →
      regBlank s b r i = false → regFixed s b = false → ownWrite b r = false →
      s.wshadow.find? (fun e => decide (e.1 = shadowKey m (a + 4))) = some (shadowKey m (a + 4), low) →
      Answers (exec (.writeHighHalf m (a + 4) v) s) fun t =>
        rget t a = writtenValue r (rget s a) (v ++ low) ∧ regsSameBut s t [a] ∧ t.mem = s.mem
          ∧ t.wshadow.find? (fun e => decide (e.1 = shadowKey m (a + 4))) = none)

/-- The links of the host ports: LINK_TRAINED, LINK_RETRAIN, CORRECTABLE_LINK_ERROR, POISONED_TLP, COMPLETION_TIMEOUT,
UR_OR_CA_RECEIVED, PERST_DEASSERT, LINK_POWER_STATE (R86–R89, R94).
Clauses rest on choices of the model, log entries 2, 147, 148, 203. -/
def Obligations.HostLinks : Prop :=
  (∀ (p : Port) (rate width : Nat) (flit : Bool) (s : State), portExists s p = true → (s.port p).perst = false → rate ≤ rateLimit s p → p ∉ s.cqu.cut →
    widthOk s width = true → rate < 5 ∨ flit = true → Answers (exec (.linkTrained p rate width flit) s) fun t =>
      (t.port p).linkUp = true ∧ (t.port p).inRec = false ∧ (t.port p).clkreq = true ∧ (t.port p).rate = rate ∧ (t.port p).width = width ∧ (t.port p).flit = flit ∧ (t.port p).pm = .l0
        ∧ t.port (otherPort p) = s.port (otherPort p) ∧ t.regs = s.regs ∧ t.mem = s.mem)
  ∧ (∀ (p : Port) (v : Word) (s : State), portExists s p = true → (s.port p).linkUp = true → Answers (exec (.linkRetrain p v) s) fun t =>
      rf t (Reg.hpLinkctl (portNum p)) 0 3 = min s.conf.maxRate (v.toNat % 8)
        ∧ rn t (Reg.hpRecovcnt (portNum p)) = min 0xFFFF_FFFF (rn s (Reg.hpRecovcnt (portNum p)) + 1)
        ∧ (t.port p).linkUp = true ∧ (t.port p).inRec = true
        ∧ regsSameBut s t [Reg.hpLinkctl (portNum p), Reg.hpRecovcnt (portNum p)] ∧ t.mem = s.mem)
  ∧ (∀ (p : Port) (replay recovery : Bool) (s : State), linkCarries s p = true →
      Answers (exec (.correctableLinkError p { replay := replay, recovery := recovery }) s) fun t =>
        rn t (Reg.hpErrcor (portNum p)) = min 0xFFFF_FFFF (rn s (Reg.hpErrcor (portNum p)) + 1)
          ∧ cfgBit (t.port p) (capAer + 0x10) (if replay then 12 else 0) = true
          ∧ (recovery = false → t.port p = aerCor (s.port p) (if replay then 12 else 0) ∧ regsSameBut s t [Reg.hpErrcor (portNum p)])
          ∧ (recovery = true → (t.port p).inRec = true
              ∧ rn t (Reg.hpRecovcnt (portNum p)) = min 0xFFFF_FFFF (rn s (Reg.hpRecovcnt (portNum p)) + 1))
          ∧ t.port (otherPort p) = s.port (otherPort p) ∧ t.mem = s.mem)
  ∧ (∀ (p : Port) (k : Nat) (s : State), linkCarries s p = true → quiet s (blkOfPort p) →
      (tagAt s k).st = .active → (tagAt s k).port = p → (tagAt s k).dead = false → (tagAt s k).mops = 0 → calm s →
      Answers (exec (.poisonedTlp p (.cmd k)) s) fun t =>
        Completed s t k scTransfer 0 ∧ rbit t (aFstat (blkOfPort p)) 0 = true
          ∧ rn t (Reg.hpErrunc (portNum p)) = min 0xFFFF_FFFF (rn s (Reg.hpErrunc (portNum p)) + 1)
          ∧ cfgBit (t.port p) (capAer + 4) 12 = true
          ∧ ((tagAt s k).cmd.op ≠ .zoneAppend → t.obj.chunks = s.obj.chunks) ∧ t.obj.nss = s.obj.nss ∧ t.mem = s.mem)
  ∧ (∀ (p : Port) (k : Nat) (s : State), linkCarries s p = true → quiet s (blkOfPort p) →
      (tagAt s k).st = .active → (tagAt s k).port = p → (tagAt s k).dead = false → (tagAt s k).mops = 0 → calm s →
      Answers (exec (.completionTimeout p (.cmd k)) s) fun t =>
        Completed s t k scTransfer 0 ∧ rbit t (aFstat (blkOfPort p)) 1 = true
          ∧ rn t (Reg.hpErrunc (portNum p)) = min 0xFFFF_FFFF (rn s (Reg.hpErrunc (portNum p)) + 1)
          ∧ cfgBit (t.port p) (capAer + 4) 14 = true
          ∧ ((tagAt s k).cmd.op ≠ .zoneAppend → t.obj.chunks = s.obj.chunks) ∧ t.obj.nss = s.obj.nss ∧ t.mem = s.mem)
  ∧ (∀ (p : Port) (k : Nat) (s : State), linkCarries s p = true → quiet s (blkOfPort p) →
      (tagAt s k).st = .active → (tagAt s k).port = p → (tagAt s k).dead = false → (tagAt s k).mops = 0 → calm s →
      Answers (exec (.urOrCaReceived p (.cmd k)) s) fun t =>
        Completed s t k scTransfer 0 ∧ rbit t (aFstat (blkOfPort p)) 1 = true ∧ cfgBit (t.port p) (capAer + 4) 20 = true
          ∧ ((tagAt s k).cmd.op ≠ .zoneAppend → t.obj.chunks = s.obj.chunks) ∧ t.obj.nss = s.obj.nss ∧ t.mem = s.mem)
  ∧ (∀ (p : Port) (k : Nat) (s : State), linkCarries s p = true → quiet s (blkOfPort p) →
      (tagAt s k).st = .active → (tagAt s k).port = p → (tagAt s k).dead = false → (tagAt s k).mops ≠ 0 →
      Answers (exec (.urOrCaReceived p (.cmd k)) s) fun t =>
        (tagAt t k).st = .active ∧ (tagAt t k).aborted = true ∧ (tagAt t k).sct = 0 ∧ (tagAt t k).sc = 4 ∧ (∀ w ∈ t.cqu.waitOps, w.tag ≠ k)
          ∧ rbit t (aFstat (blkOfPort p)) 1 = true ∧ t.obj.chunks = s.obj.chunks ∧ t.obj.nss = s.obj.nss ∧ t.mem = s.mem)
  ∧ (∀ (p : Port) (s : State), portExists s p = true → (s.port p).perst = true → Answers (exec (.perstDeassert p) s) fun t =>
      t.port p = { s.port p with perst := false, clkreq := true, dstate := 0, wake := false } ∧ t.port (otherPort p) = s.port (otherPort p)
        ∧ t.regs = s.regs ∧ t.mem = s.mem)
  ∧ (∀ (p : Port) (pm : LinkPm) (s : State), portExists s p = true → (s.port p).linkUp = true → pmAllowed (s.port p) pm = true →
      Answers (exec (.linkPowerState p pm) s) fun t =>
        t.port p = { s.port p with pm := pm, inRec := false, clkreq := asksClock pm, ltssm := (t.port p).ltssm }
          ∧ t.port (otherPort p) = s.port (otherPort p) ∧ t.regs = s.regs ∧ t.mem = s.mem)

/-- Resets of a port and its controller, enabling, shutdown, configuration and doorbells (R69, R90, R94, R95, R98, R100, R123).
Clauses rest on choices of the model, log entries 2, 117, 149, 150, 151, 187. -/
def Obligations.HostControllers : Prop :=
  (∀ (p : Port) (s : State), linkCarries s p = true → quiet s (blkOfPort p) →
    Answers (exec (.uncorrectableLinkError p) s) fun t =>
      rbit t (aFstat (blkOfPort p)) 2 = true ∧ (t.port p).en = false ∧ (t.port p).sqs = [] ∧ (t.port p).cqs = [] ∧ (t.port p).held = []
        ∧ rn t (Reg.hpErrunc (portNum p)) = min 0xFFFF_FFFF (rn s (Reg.hpErrunc (portNum p)) + 1))
  ∧ (∀ (p : Port) (s : State), portExists s p = true → (s.port p).linkUp = true → quiet s (blkOfPort p) →
      Answers (exec (.linkDown p) s) fun t =>
        (t.port p).linkUp = false ∧ (t.port p).rate = 0 ∧ (t.port p).width = 0 ∧ rbit t (aFstat (blkOfPort p)) 3 = true
          ∧ (t.port p).en = false ∧ (t.port p).sqs = [] ∧ (t.port p).cqs = [])
  ∧ (∀ (p : Port) (s : State), portExists s p = true → (s.port p).perst = false → Answers (exec (.perstAssert p) s) fun t =>
      (t.port p).perst = true ∧ (t.port p).linkUp = false ∧ (t.port p).bar0 = 0 ∧ (t.port p).bme = false ∧ (t.port p).en = false
        ∧ (t.port p).sqs = [] ∧ (t.port p).cqs = [] ∧ (t.port p).dstate = if (s.port p).dstate = 3 then 4 else 0)
  ∧ (∀ (p : Port) (dw : Nat) (v : Word) (s : State), linkCarries s p = true → dieHeld s = false →
      Answers (exec (.configurationRequest p (.write dw v)) s) fun t =>
        (if rbit s Reg.sysBootctl 0 then t.port p = cfgWrite { s.port p with cfgAnswer := 2 } (4 * dw) v.toNat
         else t.port p = { s.port p with cfgAnswer := 1 })
          ∧ (rbit s Reg.sysBootctl 0 = true → dw = 1 → (t.port p).bme = v.toNat.testBit 2)
          ∧ (rbit s Reg.sysBootctl 0 = true → dw = 4 →
              (t.port p).bar0 = (s.port p).bar0 / 2 ^ 32 * 2 ^ 32 + v.toNat / 2 ^ 17 * 2 ^ 17)
          ∧ t.port (otherPort p) = s.port (otherPort p) ∧ t.regs = s.regs ∧ t.mem = s.mem)
  ∧ (∀ (p : Port) (dw : Nat) (s : State), linkCarries s p = true → dieHeld s = false → rbit s Reg.sysBootctl 0 = true →
      Answers (exec (.configurationRequest p (.read dw)) s) fun t =>
        t.port p = { s.port p with cfgAnswer := 2 } ∧ t.resp.data = BitVec.ofNat 64 (cfgRead s p (4 * dw)) ∧ t.resp.err = false
          ∧ (dw = 2 → t.resp.data.toNat / 2 ^ 8 % 2 ^ 24 = 0x010802) ∧ t.regs = s.regs ∧ t.mem = s.mem)
  ∧ (∀ (p : Port) (off : Nat) (s : State), memEnabled s p = true → off % 4 = 0 → off < 0x1000 ∨ 0x1408 ≤ off →
      Answers (exec (.configurationRequest p (.memRead off)) s) fun t =>
        t.resp.data = BitVec.ofNat 64 (barRead (s.port p) off) ∧ t.resp.err = false ∧ t.ports = s.ports ∧ t.regs = s.regs ∧ t.mem = s.mem)
  ∧ (∀ (p : Port) (i : Nat) (v : Word) (s : State), memEnabled s p = true → i < 0x400 → i % 4 ≠ 3 → i % 4 ≠ 0 →
      Answers (exec (.configurationRequest p (.memWrite (0x1_0000 + 4 * i) v)) s) fun t =>
        mtabAt (t.port p) i = v ∧ (∀ j, j ≠ i → mtabAt (t.port p) j = mtabAt (s.port p) j)
          ∧ t.port (otherPort p) = s.port (otherPort p) ∧ t.regs = s.regs ∧ t.mem = s.mem)
  ∧ (∀ (p : Port) (q : Sq) (qid value : Nat) (s : State), hostReaches s p = true → (s.port p).en = true →
      (s.port p).sqs.find? (fun q => decide (q.qid = qid)) = some q → q.stopped = false → value < q.size →
      Answers (exec (.sqTailDoorbell p qid value) s) fun t =>
        (t.port p).sqs.find? (fun q => decide (q.qid = qid)) = some { q with tail := value } ∧ (t.port p).cqs = (s.port p).cqs
          ∧ t.port (otherPort p) = s.port (otherPort p) ∧ t.regs = s.regs ∧ t.mem = s.mem)
  ∧ (∀ (p : Port) (q : Sq) (qid value : Nat) (s : State), hostReaches s p = true → (s.port p).en = true →
      (s.port p).sqs.find? (fun q => decide (q.qid = qid)) = some q → q.stopped = false → q.size ≤ value → (s.port p).aers = [] →
      Answers (exec (.sqTailDoorbell p qid value) s) fun t =>
        (t.port p).sqs.find? (fun q => decide (q.qid = qid)) = some { q with stopped := true }
          ∧ ∃ e ∈ (t.port p).held, e.ty = 0 ∧ e.info = 1)
  ∧ (∀ (p : Port) (q : Cq) (qid value : Nat) (s : State), hostReaches s p = true → (s.port p).en = true →
      (s.port p).cqs.find? (fun q => decide (q.qid = qid)) = some q → q.stopped = false → value < q.size → s.cqu.compq = [] →
      Answers (exec (.cqHeadDoorbell p qid value) s) fun t =>
        (t.port p).cqs.find? (fun q => decide (q.qid = qid)) = some { q with head := value } ∧ (t.port p).sqs = (s.port p).sqs
          ∧ t.port (otherPort p) = s.port (otherPort p) ∧ t.regs = s.regs ∧ t.mem = s.mem)
  ∧ (∀ (p : Port) (s : State), hostReaches s p = true → (s.port p).en = false → (s.port p).rdy = false → Answers (exec (.ccEnSet p) s) fun t =>
      (t.port p).en = true ∧ (t.port p).rdy = true ∧ (t.port p).sqs = [adminSq (s.port p)] ∧ (t.port p).cqs = [adminCq (s.port p)] ∧ (t.port p).shst = 0
        ∧ t.port (otherPort p) = s.port (otherPort p) ∧ t.regs = s.regs ∧ t.mem = s.mem)
  ∧ (∀ (p : Port) (s : State), hostReaches s p = true → (s.port p).en = true → Answers (exec (.ccEnClear p) s) fun t =>
      (t.port p).en = false ∧ (t.port p).sqs = [] ∧ (t.port p).cqs = [] ∧ (t.port p).aers = [] ∧ (t.port p).held = [])
  ∧ (∀ (p : Port) (s : State), hostReaches s p = true → (s.port p).en = true → Answers (exec (.normalShutdown p) s) fun t =>
      (t.port p).shn = 1 ∧ (t.port p).shst = 2
        ∧ (if servesOnly s p && rbit s Reg.radGctl 0 then
            ∀ a : Fin 16, actPresent s a = true → (t.act a).st ∈ [ActState.parked, .unload, .retract] else t.acts = s.acts ∨ servesOnly s p))
  ∧ (∀ (p : Port) (v : Word) (s : State), portExists s p = true → (∀ q : Port, (s.port q).aers = []) →
      Answers (exec (.aenpostWrite p v) s) fun t =>
        (∀ q : Port, portExists s q = true → ∃ e ∈ (t.port q).held, e.ty = v.toNat % 8 ∧ e.info = v.toNat / 2 ^ 8 % 256)
          ∧ t.regs = s.regs ∧ t.mem = s.mem)
  ∧ (∀ (v : Word) (k : Nat) (rest : List Nat) (s : State), s.conf.hostcfg1 = true → (s.port .a).aers = k :: rest →
      v.toNat % 8 ∉ (s.port .a).maskedTypes → Answers (exec (.aenpostWrite .a v) s) fun t =>
        (t.port .a).aers = rest ∧ v.toNat % 8 ∈ (t.port .a).maskedTypes
          ∧ (t.port .a).events = { ty := v.toNat % 8, info := v.toNat / 2 ^ 8 % 256, log := v.toNat / 2 ^ 24 % 256 } :: (s.port .a).events)
  ∧ (∀ (p : Port) (k : Nat) (bytes : List Byte) (s : State), linkCarries s p = true → fetches (tagAt s k) p = true →
      Answers (exec (.hostReadCompletion p (.cmd k) bytes) s) fun t =>
        (tagAt t k).cmd.data = ((tagAt s k).cmd.data ++ bytes.take (bytesAsked s p (tagAt s k))).take (hostDataLen (tagAt s k).cmd)
          ∧ (tagAt t k).st = .active
          ∧ (∀ j, j ≠ k → tagAt t j = tagAt s j) ∧ t.regs = s.regs ∧ t.mem = s.mem ∧ t.hostMem = s.hostMem)

/-- Entry to PS3 and its reversal (R119, R120, R149, R150).
Clauses rest on choices of the model, log entries 2, 122. -/
def Obligations.PowerStateEntry : Prop :=
  (∀ (p : Port) (s : State), (s.port p).rdy = true → (tget 0 (s.port p).features 0x0C).testBit 0 = true → s.cqu.tags = [] →
    s.cqu.psStep = 0 → (s.port p).ps ≠ 3 → (∀ n : Fin 8, (s.slice n).op = none) → Answers (exec (.autonomousPs3 p) s) fun t =>
      t.cqu.psStep = 1 ∧ t.cqu.psTarget = 3 ∧ t.cqu.psPort = p ∧ t.cqu.reversing = false ∧ (t.port p).lastOpPs = (s.port p).ps
        ∧ t.port (otherPort p) = s.port (otherPort p) ∧ t.regs = s.regs ∧ t.mem = s.mem)
  ∧ (∀ (p : Port) (s : State), (s.port p).rdy = true → (tget 0 (s.port p).features 0x0C).testBit 0 = true → s.cqu.tags = [] →
      s.cqu.psStep ≠ 0 → s.cqu.psUndo = false → s.cqu.reversing = false → s.cqu.psBoth = false → s.cqu.psPort ≠ p → (s.port p).ps ≠ 3 →
      Answers (exec (.autonomousPs3 p) s) fun t =>
        t.cqu = { s.cqu with psBoth := true } ∧ (t.port p).lastOpPs = (s.port p).ps ∧ t.regs = s.regs ∧ t.mem = s.mem)
  ∧ (∀ s : State, s.cqu.psStep = 1 → s.cqu.reversing = false → s.cqu.psUndo = false → rbit s Reg.radGctl 0 = true →
      (∀ n : Fin 8, (s.slice n).op = none) →
      Answers (exec .ps3Entry s) fun t =>
        t.cqu.psStep = 2 ∧ (∀ a : Fin 16, actPresent s a = true →
          (t.act a).st = if (s.act a).st = .parked then .parked else if (s.act a).st = .retract then .retract else .unload)
          ∧ t.spns = s.spns ∧ t.mem = s.mem)
  ∧ (∀ s : State, s.cqu.psStep = 3 → s.cqu.reversing = false → s.cqu.psUndo = false → Answers (exec .ps3Entry s) fun t =>
      t.cqu.psStep = 4 ∧ t.ms.selfref = true ∧ (t.port s.cqu.psPort).ps = 3 ∧ (s.cqu.psBoth = true → ∀ p : Port, (t.port p).ps = 3)
        ∧ t.regs = s.regs ∧ t.mem = s.mem)
  ∧ (∀ s : State, s.cqu.psStep = 4 → s.cqu.reversing = false → s.cqu.psUndo = false → turningMask s = 0 → Answers (exec .ps3Entry s) fun t =>
      t.cqu.psStep = 0 ∧ t.ports = s.ports ∧ t.regs = s.regs ∧ t.mem = s.mem)
  ∧ (∀ s : State, s.cqu.psStep = 4 → s.cqu.reversing = true → s.cqu.psUndo = false → Answers (exec .ps3Entry s) fun t =>
      t.cqu.psStep = 2 ∧ t.cqu.psUndo = true ∧ (∀ n : Fin 8, slicePresent s n = true → rbit t Reg.pmuGate n = false)
        ∧ t.ports = s.ports ∧ (s.ms.ready = true → t.ms.selfref = false))
  ∧ (∀ s : State, s.cqu.psUndo = true → fin8.any (spinsUp s) = false → Answers (exec .ps3Entry s) fun t =>
      t.cqu.psStep = 0 ∧ t.cqu.reversing = false ∧ t.cqu.psUndo = false
        ∧ (t.port s.cqu.psPort).ps = (s.port s.cqu.psPort).lastOpPs)
  ∧ (∀ s : State, s.cqu.psUndo = true → fin8.any (spinsUp s) = true → exec .ps3Entry s = .next (settle s))

/-- Arrival, locks and the ledger (R107, R108, R125–R133, R143, R144, R163).
Clauses rest on choices of the model, log entries 2, 103, 109, 114, 115, 204. -/
def Obligations.CommandArrivalRules : Prop :=
  (∀ (p : Port) (sqid k : Nat) (c : HostCmd) (s : State), freeTag s = some k → canFetch s p sqid = true →
    arrivalCheck s p sqid c = scOk → (arriveZone s c).1 = scOk → s.cqu.locks = [] →
    (lockReqs s c (arriveZone s c).2.1).length ≤ 1024 → calm s → retentionHit s c = false →
    Answers (exec (.commandArrival p sqid c) s) fun t =>
      (tagAt t k).st = (if destructive s c then .ledger else .active) ∧ (tagAt t k).cmd = c ∧ (tagAt t k).port = p
        ∧ (tagAt t k).aseq = s.cqu.aseq ∧ t.cqu.aseq = (s.cqu.aseq + 1) % 2 ^ 64
        ∧ t.cqu.locks = (lockReqs s c (arriveZone s c).2.1).map (lockOf k s.cqu.aseq) ∧ t.mem = s.mem)
  ∧ (∀ (p : Port) (sqid k : Nat) (c : HostCmd) (s : State), freeTag s = some k → canFetch s p sqid = true →
      arrivalCheck s p sqid c = scOk → (arriveZone s c).1 = scOk →
      s.cqu.locks.length + (lockReqs s c (arriveZone s c).2.1).length ≤ 1024 →
      (∃ l ∈ s.cqu.locks, l.aseq < s.cqu.aseq ∧ ∃ r ∈ lockReqs s c (arriveZone s c).2.1, conflicts (lockOf k s.cqu.aseq r) l = true) →
      Answers (exec (.commandArrival p sqid c) s) fun t =>
        (tagAt t k).st = .lockwait ∧ (tagAt t k).cmd = c
          ∧ t.cqu.locks = s.cqu.locks ++ (lockReqs s c (arriveZone s c).2.1).map (lockOf k s.cqu.aseq))
  ∧ (∀ (p : Port) (sqid k : Nat) (c : HostCmd) (s : State), freeTag s = some k → canFetch s p sqid = true →
      arrivalCheck s p sqid c ≠ scOk → s.cqu.locks.length ≤ 1024 → calm s → Answers (exec (.commandArrival p sqid c) s) fun t =>
        Completed (setTag (fetchEntry s p sqid) k (newTag s p sqid 0 c false)) t k (arrivalCheck s p sqid c) 0 ∧ t.obj = s.obj
          ∧ (vget t.cqu.turns (portIx p)).qid = sqid ∧ t.mem = s.mem)
  ∧ (∀ (p : Port) (sqid k : Nat) (c : HostCmd) (s : State), freeTag s = some k → canFetch s p sqid = true →
      arrivalCheck s p sqid c = scOk → (arriveZone s c).1 = scOk →
      1024 < s.cqu.locks.length + (lockReqs s c (arriveZone s c).2.1).length →
      exec (.commandArrival p sqid c) s = .next (settle { s with cqu := { s.cqu with stalled := some (p, sqid) } }))
  ∧ (∀ (k : Nat) (u s : State), (tagAt s k).st = .ledger → ledgerServes s = true → appendAll s (ledgerEnts s (tagAt s k).cmd) = some u →
      quiet s .dtm → Answers (exec (.ledgerAccept k) s) fun t =>
        tagAt t k = { tagAt s k with st := .active } ∧ (∀ j, j ≠ k → tagAt t j = tagAt s j)
          ∧ t.datum.chain.map entOf = s.datum.chain.map entOf ++ ledgerEnts s (tagAt s k).cmd ∧ t.mem = s.mem)
  ∧ (∀ (k : Nat) (s : State), appendAll s (ledgerEnts s (tagAt s k).cmd) = none → exec (.ledgerAccept k) s = .next (settle s))
  ∧ (∀ (k : Nat) (s : State), (tagAt s k).st = .ledger → (tagAt s k).dead = false → calm s → Answers (exec (.ledgerTimeout k) s) fun t =>
      Completed s t k scDatum 0 ∧ t.obj.nss = s.obj.nss
        ∧ ((tagAt s k).cmd.op ≠ .zoneAppend → t.obj = s.obj ∧ t.regs = s.regs) ∧ t.mem = s.mem)
  ∧ (∀ (k : Nat) (n : Ns) (slot : Fin 64) (s : State), nsOf s (tagAt s k).cmd.nsid = some n → n.slot = slot.val → ready s k (tagAt s k).cmd.op = true →
      keyLoaded s n = false → needsKey (tagAt s k) = true → calm s → quiet s .cdc → Answers (exec (.keyLoadTimeout k slot) s) fun t =>
        Completed s t k scDatum 0 ∧ rbit t (aFstat .cdc) 0 = true ∧ t.obj.nss = s.obj.nss
          ∧ ((tagAt s k).cmd.op ≠ .zoneAppend → t.obj = s.obj ∧ regsSameBut s t [aFstat .cdc]) ∧ t.mem = s.mem)
  ∧ (∀ (k : Nat) (n : Ns) (s : State), nsOf s (tagAt s k).cmd.nsid = some n → ready s k (tagAt s k).cmd.op = true → keyLoaded s n = true →
      dataRead s n (tagAt s k) = true → (tagAt s k).copy = none → (s.cqu.locks.any fun l => decide (l.tag = k) && !l.write) = true → calm s →
      Answers (exec (.readEntryRelease k) s) fun t =>
        (tagAt t k).copy = some (versions s n (tagAt s k)) ∧ t.cqu.locks = s.cqu.locks.filter (fun l => decide (l.tag ≠ k) || l.write)
          ∧ (tagAt t k).st = .active ∧ t.obj = s.obj ∧ t.regs = s.regs ∧ t.mem = s.mem)

/-- The NVM commands (R99, R103, R118, R135, R137, R157, R173): what each leaves when its media work has ended.
Clauses rest on choices of the model, log entries 2, 90, 104, 107, 108, 109, 110, 206. -/
def Obligations.NvmCommands : Prop :=
  (∀ (k : Nat) (n : Ns) (bs : List Byte) (s : State), nsOf s (tagAt s k).cmd.nsid = some n → ready s k .read = true → readable s n (tagAt s k) = true →
    calm s → rangeBytes (tagAt s k) (versions s n (tagAt s k)) n.slot (tagAt s k).cmd.slba (tagAt s k).cmd.nlb = some bs →
    Answers (exec (.read k) s) fun t =>
      Completed s t k (tagResult (tagAt s k)) 0
        ∧ t.hostMem = (sendRange s (tagAt s k) (versions s n (tagAt s k)) n.slot (tagAt s k).cmd.slba (tagAt s k).cmd.nlb 0).hostMem
        ∧ (dataBlock (tagAt s k).cmd (4096 * (tagAt s k).cmd.nlb) → hostReadBytes t (tagAt s k).cmd.prp bs.length = bs)
        ∧ t.obj = s.obj ∧ t.regs = s.regs ∧ t.mem = s.mem)
  ∧ (∀ (k : Nat) (n : Ns) (s : State), nsOf s (tagAt s k).cmd.nsid = some n → ready s k .read = true → readable s n (tagAt s k) = true →
      calm s → rangeBytes (tagAt s k) (versions s n (tagAt s k)) n.slot (tagAt s k).cmd.slba (tagAt s k).cmd.nlb = none →
      Answers (exec (.read k) s) fun t => Completed s t k (lostResult (tagAt s k)) 0 ∧ t.obj = s.obj ∧ t.mem = s.mem)
  ∧ (∀ (k : Nat) (n : Ns) (s : State), nsOf s (tagAt s k).cmd.nsid = some n → ready s k .verify = true → readable s n (tagAt s k) = true → calm s →
      Answers (exec (.verify k) s) fun t =>
        Completed s t k (if (rangeBytes (tagAt s k) (versions s n (tagAt s k)) n.slot (tagAt s k).cmd.slba (tagAt s k).cmd.nlb).isSome
          then tagResult (tagAt s k) else lostResult (tagAt s k)) 0 ∧ t.obj = s.obj ∧ t.hostMem = s.hostMem ∧ t.mem = s.mem)
  ∧ (∀ (k : Nat) (n : Ns) (bs : List Byte) (s : State), nsOf s (tagAt s k).cmd.nsid = some n → ready s k .compare = true → readable s n (tagAt s k) = true →
      calm s → dataIn (tagAt s k) (tagAt s k).cmd.nlb = true →
      rangeBytes (tagAt s k) (versions s n (tagAt s k)) n.slot (tagAt s k).cmd.slba (tagAt s k).cmd.nlb = some bs →
      Answers (exec (.compare k) s) fun t =>
        Completed s t k (if bs = (tagAt s k).cmd.data.take (4096 * (tagAt s k).cmd.nlb) then tagResult (tagAt s k) else scCompare) 0
          ∧ t.obj = s.obj ∧ t.hostMem = s.hostMem ∧ t.mem = s.mem)
  ∧ (∀ (k : Nat) (n : Ns) (s : State), nsOf s (tagAt s k).cmd.nsid = some n → ready s k .write = true → calm s →
      dataIn (tagAt s k) (tagAt s k).cmd.nlb = true → mergesPoison s n.slot (tagAt s k).cmd.slba (tagAt s k).cmd.nlb = false →
      canStage s k n (writeSet s n.slot (tagAt s k).cmd.slba (tagAt s k).cmd.nlb (tagAt s k).cmd.data) →
      Answers (exec (.write k) s) fun t =>
        Staged s t k (tagResult (tagAt s k)) 0 ∧ t.mem = s.mem
          ∧ stored s t (writeSet s n.slot (tagAt s k).cmd.slba (tagAt s k).cmd.nlb (tagAt s k).cmd.data))
  ∧ (∀ (k : Nat) (n : Ns) (s : State), nsOf s (tagAt s k).cmd.nsid = some n → ready s k .write = true → calm s → (tagAt s k).keys = [] →
      dataIn (tagAt s k) (tagAt s k).cmd.nlb = true → mergesPoison s n.slot (tagAt s k).cmd.slba (tagAt s k).cmd.nlb = false →
      overCapacity s (writeSet s n.slot (tagAt s k).cmd.slba (tagAt s k).cmd.nlb (tagAt s k).cmd.data) = true →
      Answers (exec (.write k) s) fun t => Completed s t k scCapacity 0 ∧ t.obj = s.obj ∧ t.mem = s.mem)
  ∧ (∀ (k : Nat) (n : Ns) (s : State), nsOf s (tagAt s k).cmd.nsid = some n → ready s k .writeZeroes = true → calm s →
      mergesPoison s n.slot (tagAt s k).cmd.slba (tagAt s k).cmd.nlb = false →
      canStage s k n (writeSet s n.slot (tagAt s k).cmd.slba (tagAt s k).cmd.nlb (zeros (4096 * (tagAt s k).cmd.nlb))) →
      Answers (exec (.writeZeroes k) s) fun t =>
        Staged s t k (tagResult (tagAt s k)) 0 ∧ t.mem = s.mem
          ∧ stored s t (writeSet s n.slot (tagAt s k).cmd.slba (tagAt s k).cmd.nlb (zeros (4096 * (tagAt s k).cmd.nlb))))
  ∧ (∀ (k : Nat) (n : Ns) (bs : List Byte) (s : State), nsOf s (tagAt s k).cmd.nsid = some n → ready s k .copy = true → keyLoaded s n = true → readable s n (tagAt s k) = true →
      calm s → copyBytes (tagAt s k) (versions s n (tagAt s k)) n.slot (tagAt s k).cmd.ranges = some bs →
      mergesPoison s n.slot (tagAt s k).cmd.slba (((tagAt s k).cmd.ranges.map (·.2)).sum) = false →
      canStage s k n (writeSet s n.slot (tagAt s k).cmd.slba (((tagAt s k).cmd.ranges.map (·.2)).sum) bs) →
      Answers (exec (.copy k) s) fun t =>
        Staged s t k (tagResult (tagAt s k)) 0 ∧ t.mem = s.mem
          ∧ stored s t (writeSet s n.slot (tagAt s k).cmd.slba (((tagAt s k).cmd.ranges.map (·.2)).sum) bs))
  ∧ (∀ (k : Nat) (s : State), ready s k .flush = true → calm s → Answers (exec (.flush k) s) fun t =>
      Completed s t k scOk 0 ∧ t.obj = s.obj ∧ t.regs = s.regs ∧ t.mem = s.mem)
  ∧ (∀ (k : Nat) (n : Ns) (s : State), nsOf s (tagAt s k).cmd.nsid = some n → ready s k .dsm = true → (tagAt s k).dead = false → calm s →
      Answers (exec (.datasetManagement k) s) fun t =>
        Completed s t k scOk 0 ∧ t.mem = s.mem
          ∧ ∀ r ∈ (tagAt s k).cmd.ranges, ∀ c, r.1 ≤ 16 * c → 16 * c + 16 ≤ r.1 + r.2 → (chunkAt t (chunkKey (nsObject n.slot) c)).count = 0)

/-- The Zoned commands (R105, R135, R173).
Clauses rest on choices of the model, log entries 2, 111, 112, 206. -/
def Obligations.ZonedCommands : Prop :=
  (∀ (k : Nat) (n : Ns) (s : State), nsOf s (tagAt s k).cmd.nsid = some n → ready s k .zoneAppend = true → calm s →
    dataIn (tagAt s k) (tagAt s k).cmd.nlb = true → mergesPoison s n.slot (tagAt s k).zlba (tagAt s k).cmd.nlb = false →
    canStage s k n (writeSet s n.slot (tagAt s k).zlba (tagAt s k).cmd.nlb (tagAt s k).cmd.data) →
    (tagAt s k).sc = 0 → Answers (exec (.zoneAppend k) s) fun t =>
      Staged s t k scOk (tagAt s k).zlba ∧ t.mem = s.mem
        ∧ stored s t (writeSet s n.slot (tagAt s k).zlba (tagAt s k).cmd.nlb (tagAt s k).cmd.data))
  ∧ (∀ (k lba : Nat) (n : Ns) (s : State), nsOf s (tagAt s k).cmd.nsid = some n → ready s k .zoneAppend = true → calm s →
      dataIn (tagAt s k) (tagAt s k).cmd.nlb = true → (tagAt s k).keys = [] → (tagAt s k).assigned = true →
      overCapacity s (writeSet s n.slot (tagAt s k).zlba (tagAt s k).cmd.nlb (tagAt s k).cmd.data) = true →
      mergesPoison s n.slot (tagAt s k).zlba (tagAt s k).cmd.nlb = false → (tagAt s k).zlba + (tagAt s k).cmd.nlb ≤ 2 ^ 44 →
      (tagAt s k).zlba ≤ lba → lba < (tagAt s k).zlba + (tagAt s k).cmd.nlb →
      (chunkAt s (chunkKey (nsObject n.slot) (lba / 16))).poison = false → Answers (exec (.zoneAppend k) s) fun t =>
        Completed s t k scCapacity 0 ∧ lbaBytes (chunkAt t (chunkKey (nsObject n.slot) (lba / 16))) lba = zeros 4096 ∧ t.mem = s.mem)
  ∧ (∀ (k : Nat) (n : Ns) (s : State), nsOf s (tagAt s k).cmd.nsid = some n → ready s k .zoneReset = true → (tagAt s k).dead = false → calm s →
      Answers (exec (.zoneReset k) s) fun t =>
        Completed s t k scOk 0 ∧ t.mem = s.mem
          ∧ (∃ n', nsOf t (tagAt s k).cmd.nsid = some n' ∧ zoneAt n' ((tagAt s k).cmd.slba / 65536) = Zone.empty)
          ∧ (∀ c, c < 2 ^ 40 → c / 4096 = (tagAt s k).cmd.slba / 65536 → (chunkAt t (chunkKey (nsObject n.slot) c)).count = 0)
          ∧ t.obj.tombs.length = s.obj.tombs.length + 1)
  ∧ (∀ (k : Nat) (n : Ns) (s : State), nsOf s (tagAt s k).cmd.nsid = some n → ready s k .zoneFinish = true → calm s →
      Answers (exec (.zoneFinish k) s) fun t =>
        Completed s t k scOk 0 ∧ t.obj.chunks = s.obj.chunks ∧ t.mem = s.mem
          ∧ ∃ n', nsOf t (tagAt s k).cmd.nsid = some n' ∧ zoneAt n' ((tagAt s k).cmd.slba / 65536) = { st := .full, wp := 65536 })
  ∧ (∀ (k : Nat) (n : Ns) (s : State), nsOf s (tagAt s k).cmd.nsid = some n → ready s k .zoneOpen = true → calm s →
      (zoneAt n ((tagAt s k).cmd.slba / 65536)).st = .closed → zonesOpen n < 256 → Answers (exec (.zoneOpen k) s) fun t =>
        Completed s t k scOk 0 ∧ t.obj.chunks = s.obj.chunks ∧ t.mem = s.mem
          ∧ ∃ n', nsOf t (tagAt s k).cmd.nsid = some n'
            ∧ zoneAt n' ((tagAt s k).cmd.slba / 65536) = { zoneAt n ((tagAt s k).cmd.slba / 65536) with st := .explOpen })
  ∧ (∀ (k : Nat) (n : Ns) (s : State), nsOf s (tagAt s k).cmd.nsid = some n → ready s k .zoneOpen = true → calm s →
      (zoneAt n ((tagAt s k).cmd.slba / 65536)).st = .full → Answers (exec (.zoneOpen k) s) fun t =>
        Completed s t k scZoneState 0 ∧ t.obj = s.obj ∧ t.mem = s.mem)
  ∧ (∀ (k : Nat) (n : Ns) (s : State), nsOf s (tagAt s k).cmd.nsid = some n → ready s k .zoneClose = true → calm s →
      zoneIsActive (zoneAt n ((tagAt s k).cmd.slba / 65536)) = true → Answers (exec (.zoneClose k) s) fun t =>
        Completed s t k scOk 0 ∧ t.obj.chunks = s.obj.chunks ∧ t.mem = s.mem
          ∧ ∃ n', nsOf t (tagAt s k).cmd.nsid = some n'
            ∧ zoneAt n' ((tagAt s k).cmd.slba / 65536) = { zoneAt n ((tagAt s k).cmd.slba / 65536) with st := .closed })
  ∧ (∀ (k : Nat) (n : Ns) (s : State), nsOf s (tagAt s k).cmd.nsid = some n → ready s k .zoneRecv = true → calm s →
      Answers (exec (.zoneManagementReceive k) s) fun t =>
        Completed s t k scOk 0 ∧ t.obj = s.obj ∧ t.mem = s.mem
          ∧ ∃ bs, HostGets s t k bs ∧ bs.take 8 = toBytes 8 (n.size / 65536 - (tagAt s k).cmd.slba / 65536)
            ∧ ∀ i, i < min (n.size / 65536 - (tagAt s k).cmd.slba / 65536) (((tagAt s k).cmd.hostLen - 64) / 64) →
                (bs.drop (64 + 64 * i)).take 64 = zoneDescriptor n ((tagAt s k).cmd.slba / 65536 + i))

/-- The Key Value commands (R106, R118, R136, R157, R172, R173).
Clauses rest on choices of the model, log entries 2, 112, 113, 190. -/
def Obligations.KeyValueCommands : Prop :=
  (∀ (k : Nat) (n : Ns) (s : State), nsOf s (tagAt s k).cmd.nsid = some n → ready s k .kvStore = true → calm s →
    (tagAt s k).cmd.hostLen ≤ (tagAt s k).cmd.data.length → (tagAt s k).cmd.hostLen ≤ 4294963200 → (tagAt s k).cmd.opts = 0 →
    (kvFind n (tagAt s k).cmd.key).isSome = true ∨ n.nextSerial ≤ lastSerial →
    canStage s k n (storeSet s n (tagAt s k).cmd) → Answers (exec (.kvStore k) s) fun t =>
      Staged s t k (tagResult (tagAt s k)) 0 ∧ t.mem = s.mem
        ∧ (∀ e ∈ storeSet s n (tagAt s k).cmd, (chunkAt t e.1).data = e.2 ∧ (chunkAt t e.1).staged = true)
        ∧ (∀ j, keyHandle j ≠ storeHandle n (tagAt s k).cmd.key → chunkAt t j = chunkAt s j)
        ∧ ∃ n', nsOf t (tagAt s k).cmd.nsid = some n' ∧ kvFind n' (tagAt s k).cmd.key
          = some { key := (tagAt s k).cmd.key, handle := storeHandle n (tagAt s k).cmd.key, vallen := (tagAt s k).cmd.hostLen })
  ∧ (∀ (k : Nat) (n : Ns) (s : State), nsOf s (tagAt s k).cmd.nsid = some n → ready s k .kvStore = true → calm s →
      (tagAt s k).cmd.hostLen ≤ (tagAt s k).cmd.data.length → (tagAt s k).cmd.opts = 1 → (tagAt s k).keys = [] →
      (kvFind n (tagAt s k).cmd.key).isSome = true →
      Answers (exec (.kvStore k) s) fun t => Completed s t k scKeyExists 0 ∧ t.obj = s.obj ∧ t.mem = s.mem)
  ∧ (∀ (k : Nat) (n : Ns) (e : Nat × Chunk) (bs : List Byte) (s : State), nsOf s (tagAt s k).cmd.nsid = some n → ready s k .kvRetrieve = true →
      readable s n (tagAt s k) = true → calm s →
      (versions s n (tagAt s k)).find? (fun e => decide (keyChunk e.1 = objRecordChunk)) = some e → lost (tagAt s k) e.1 e.2 = false →
      valueParts (tagAt s k) (versions s n (tagAt s k)) (keyHandle e.1) 0
        ((min (ofBytes ((e.2.data.drop 0x18).take 8)) (tagAt s k).cmd.hostLen + 65535) / 65536) = [some bs] →
      Answers (exec (.kvRetrieve k) s) fun t =>
        Completed s t k (tagResult (tagAt s k)) (ofBytes ((e.2.data.drop 0x18).take 8)) ∧ t.obj = s.obj ∧ t.mem = s.mem
          ∧ HostGets s t k bs)
  ∧ (∀ (k : Nat) (n : Ns) (s : State), nsOf s (tagAt s k).cmd.nsid = some n → ready s k .kvRetrieve = true → keyLoaded s n = true →
      calm s → (tagAt s k).copy = none → kvFind n (tagAt s k).cmd.key = none → Answers (exec (.kvRetrieve k) s) fun t =>
        Completed s t k scNoKey 0 ∧ t.obj = s.obj ∧ t.hostMem = s.hostMem ∧ t.mem = s.mem)
  ∧ (∀ (k : Nat) (n : Ns) (o : KvObj) (s : State), nsOf s (tagAt s k).cmd.nsid = some n → ready s k .kvDelete = true → (tagAt s k).dead = false → calm s →
      kvFind n (tagAt s k).cmd.key = some o → Answers (exec (.kvDelete k) s) fun t =>
        Completed s t k scOk 0 ∧ (∀ c, c < 2 ^ 40 → (chunkAt t (chunkKey o.handle c)).count = 0) ∧ t.mem = s.mem
          ∧ ∃ n', nsOf t (tagAt s k).cmd.nsid = some n' ∧ kvFind n' (tagAt s k).cmd.key = none)
  ∧ (∀ (k : Nat) (n : Ns) (s : State), nsOf s (tagAt s k).cmd.nsid = some n → ready s k .kvExist = true → calm s →
      (tagAt s k).copy = none → Answers (exec (.kvExist k) s) fun t =>
        Completed s t k (if (kvFind n (tagAt s k).cmd.key).isSome then scOk else scNoKey) 0 ∧ t.obj = s.obj ∧ t.mem = s.mem)
  ∧ (∀ (k : Nat) (l : List (Nat × Chunk)) (s : State), ready s k .kvExist = true → calm s → (tagAt s k).copy = some l →
      Answers (exec (.kvExist k) s) fun t =>
        Completed s t k (if l.any fun e => decide (keyChunk e.1 = objRecordChunk) then scOk else scNoKey) 0 ∧ t.obj = s.obj ∧ t.mem = s.mem)
  ∧ (∀ (k : Nat) (s : State), ready s k .kvList = true → calm s → Answers (exec (.kvList k) s) fun t =>
      Completed s t k scOk 0 ∧ t.obj = s.obj ∧ t.mem = s.mem
        ∧ HostGets s t k
            (let es := fitEntries ((tagAt s k).cmd.hostLen - 4)
              (((sortKeys (tagAt s k).snap).filter fun j => keyBefore (tagAt s k).cmd.key j).map listEntry)
             toBytes 4 es.length ++ es.flatten))

/-- Queues and events of the admin commands: CREATE_IO_SQ, DELETE_IO_SQ, CREATE_IO_CQ, DELETE_IO_CQ, ABORT, ASYNC_EVENT_REQUEST,
SET_FEATURES, GET_FEATURES (R98, R112, R113, R116, R119, R145–R147).
Clauses rest on choices of the model, log entries 2, 102, 152, 156, 202. -/
def Obligations.AdminQueues : Prop :=
  (∀ (k qid size vector : Nat) (s : State), readyAdmin s k .adminOther = true → calm s → 1 ≤ qid → qid ≤ 128 → 2 ≤ size → size ≤ 4096 →
    vector < 256 → ((s.port (tagAt s k).port).cqs.any fun q => decide (q.qid = qid)) = false →
    Answers (exec (.createIoCq k qid size vector) s) fun t =>
      (∃ q, (t.port (tagAt s k).port).cqs.find? (fun q => decide (q.qid = qid)) = some q ∧ q.size = size ∧ q.vector = vector ∧ q.stopped = false)
        ∧ (t.port (tagAt s k).port).sqs = (s.port (tagAt s k).port).sqs ∧ t.obj = s.obj ∧ t.regs = s.regs ∧ t.mem = s.mem)
  ∧ (∀ (k qid size cqid : Nat) (s : State), readyAdmin s k .adminOther = true → calm s → 1 ≤ qid → qid ≤ 128 → 2 ≤ size → size ≤ 4096 →
      cqid ≠ 0 → ((s.port (tagAt s k).port).cqs.any fun q => decide (q.qid = cqid)) = true →
      ((s.port (tagAt s k).port).sqs.any fun q => decide (q.qid = qid)) = false →
      Answers (exec (.createIoSq k qid size cqid) s) fun t =>
        (t.port (tagAt s k).port).sqs.find? (fun q => decide (q.qid = qid))
          = some { qid := qid, size := size, cqid := cqid, tail := 0, head := 0, stopped := false } ∧ t.obj = s.obj ∧ t.regs = s.regs ∧ t.mem = s.mem)
  ∧ (∀ (k qid size cqid : Nat) (s : State), readyAdmin s k .adminOther = true → calm s → qid = 0 ∨ 128 < qid →
      Answers (exec (.createIoSq k qid size cqid) s) fun t => Completed s t k scQid 0 ∧ (t.port (tagAt s k).port).sqs = (s.port (tagAt s k).port).sqs)
  ∧ (∀ (k qid : Nat) (s : State), readyAdmin s k .adminOther = true → calm s → qid ≠ 0 →
      ((s.port (tagAt s k).port).sqs.any fun q => decide (q.qid = qid)) = true →
      (s.cqu.tags.any fun e => decide (e.2.port = (tagAt s k).port) && decide (e.2.sqid = qid)) = false →
      Answers (exec (.deleteIoSq k qid) s) fun t =>
        Completed s t k scOk 0 ∧ (∀ q ∈ (t.port (tagAt s k).port).sqs, q.qid ≠ qid) ∧ t.obj = s.obj ∧ t.regs = s.regs ∧ t.mem = s.mem)
  ∧ (∀ (k qid : Nat) (s : State), readyAdmin s k .adminOther = true → calm s → qid ≠ 0 →
      ((s.port (tagAt s k).port).cqs.any fun q => decide (q.qid = qid)) = true →
      ((s.port (tagAt s k).port).sqs.any fun q => decide (q.cqid = qid)) = false → Answers (exec (.deleteIoCq k qid) s) fun t =>
        Completed s t k scOk 0 ∧ (∀ q ∈ (t.port (tagAt s k).port).cqs, q.qid ≠ qid) ∧ t.obj = s.obj ∧ t.regs = s.regs ∧ t.mem = s.mem)
  ∧ (∀ (k sqid cid : Nat) (s : State), readyAdmin s k .adminOther = true → calm s →
      (s.cqu.tags.filter fun e => decide (e.2.port = (tagAt s k).port) && e.2.waits.isSome) = [] →
      abortTarget s (tagAt s k).port sqid cid = none → Answers (exec (.abort k sqid cid) s) fun t =>
        Completed s t k scOk 1 ∧ rf t Reg.cquAbortcnt 16 16 = min 65535 (rf s Reg.cquAbortcnt 16 16 + 1)
          ∧ regsSameBut s t [Reg.cquAbortcnt] ∧ t.obj = s.obj ∧ t.mem = s.mem)
  ∧ (∀ (k sqid cid u : Nat) (y : Tag) (s : State), readyAdmin s k .adminOther = true → calm s →
      (s.cqu.tags.filter fun e => decide (e.2.port = (tagAt s k).port) && e.2.waits.isSome) = [] →
      abortTarget s (tagAt s k).port sqid cid = some (u, y) → tagAt s u = y → abortable y = true → y.mops ≠ 0 → y.st = .active →
      Answers (exec (.abort k sqid cid) s) fun t =>
        (tagAt t u).aborted = true ∧ (tagAt t u).st = .active ∧ (∀ w ∈ t.cqu.waitOps, w.tag ≠ u) ∧ (tagAt t k).st = .completing
          ∧ (tagAt t k).waits = some u ∧ (tagAt t k).dw0 = 0 ∧ rf t Reg.cquAbortcnt 0 16 = min 65535 (rf s Reg.cquAbortcnt 0 16 + 1)
          ∧ t.obj.chunks = s.obj.chunks ∧ t.obj.nss = s.obj.nss ∧ t.mem = s.mem)
  ∧ (∀ (k : Nat) (s : State), readyAdmin s k .adminOther = true → (s.port (tagAt s k).port).aers.contains k = false →
      (s.port (tagAt s k).port).aers.length < 16 → (s.port (tagAt s k).port).held = [] → Answers (exec (.asyncEventRequest k) s) fun t =>
        (t.port (tagAt s k).port).aers = (s.port (tagAt s k).port).aers ++ [k] ∧ (tagAt t k).st = .active ∧ t.obj = s.obj ∧ t.mem = s.mem)
  ∧ (∀ (k fid value : Nat) (s : State), readyAdmin s k .adminOther = true → calm s → featureIds.contains fid = true → fid ≠ 2 →
      featureBad fid value = false → Answers (exec (.setFeatures k fid value) s) fun t =>
        Completed s t k scOk (if fid = 7 then queueCounts else 0)
          ∧ tget 0 (t.port (tagAt s k).port).features (featureKey fid value) = (if fid = 4 then value + 2 ^ 32 else value)
          ∧ t.obj = s.obj ∧ t.regs = s.regs ∧ t.mem = s.mem)
  ∧ (∀ (k value : Nat) (s : State), readyAdmin s k .adminOther = true → calm s → value % 32 < 3 → s.cqu.psStep = 0 →
      (s.port (tagAt s k).port).ps ≠ 3 → Answers (exec (.setFeatures k 2 value) s) fun t =>
        Completed s t k scOk 0 ∧ (t.port (tagAt s k).port).ps = value % 32 ∧ t.obj = s.obj ∧ regsSameBut s t [Reg.pmuGate] ∧ t.mem = s.mem)
  ∧ (∀ (k fid cdw11 : Nat) (s : State), readyAdmin s k .adminOther = true → calm s → featureIds.contains fid = true →
      fid ≠ 9 ∨ cdw11 % 2 ^ 16 < 256 → fid ≠ 4 ∨ fld cdw11 20 2 < 2 → Answers (exec (.getFeatures k { fid := fid, cdw11 := cdw11 }) s) fun t =>
        Completed s t k scOk (featureValue (s.port (tagAt s k).port) fid cdw11 % 2 ^ 32) ∧ t.obj = s.obj ∧ t.regs = s.regs ∧ t.mem = s.mem
          ∧ (fid ∈ [1, 5, 8, 0xB, 0xC] → featureValue (s.port (tagAt s k).port) fid cdw11 = tget 0 (s.port (tagAt s k).port).features fid))

/-- Logs, Identify, namespaces, firmware and self-test (R101, R102, R112–R117, R163, R173, R174, R590).
Clauses rest on choices of the model, log entries 2, 112, 154, 157, 188, 199, 200. -/
def Obligations.AdminNamespaces : Prop :=
  (∀ (k lpo csi : Nat) (s : State), readyAdmin s k .adminOther = true → calm s → lpo ≤ (parityLog s).length →
    Answers (exec (.getLogPage k 0xC1 { rae := true, lpo := lpo, csi := csi }) s) fun t =>
      Completed s t k scOk 0 ∧ t.obj = s.obj ∧ t.regs = s.regs ∧ t.mem = s.mem ∧ HostGets s t k ((parityLog s).drop lpo))
  ∧ (∀ (k csi : Nat) (s : State), readyAdmin s k .adminOther = true → calm s → Answers (exec (.getLogPage k 0xC0 { rae := true, lpo := 0, csi := csi }) s) fun t =>
      Completed s t k scOk 0 ∧ t.obj = { s.obj with critWarn := s.obj.critWarn &&& ~~~4 } ∧ t.mem = s.mem
        ∧ HostGets s t k ((s.obj.unrec.flatMap unrecBytes).take ((tagAt s k).cmd.hostLen / 64 * 64)))
  ∧ (∀ (k lpo csi : Nat) (rae : Bool) (s : State), readyAdmin s k .adminOther = true → calm s →
      Answers (exec (.getLogPage k 0x7F { rae := rae, lpo := lpo, csi := csi }) s) fun t =>
        Completed s t k scLogPage 0 ∧ t.obj = s.obj ∧ t.hostMem = s.hostMem ∧ t.mem = s.mem)
  ∧ (∀ (k cns csi : Nat) (bs : List Byte) (s s' : State), readyAdmin s k .adminOther = true → calm s →
      identifyData s (tagAt s k) cns csi = some (bs, s') → Answers (exec (.identify k { cns := cns, csi := csi }) s) fun t =>
        Completed s t k scOk 0 ∧ t.obj = s.obj ∧ t.regs = s.regs ∧ t.mem = s.mem ∧ HostGets s t k bs)
  ∧ (∀ (k cmdset size id : Nat) (nguid : List Byte) (s : State), readyAdmin s k .adminOther = true → calm s → quiet s .dtm → freeNsid s = some id →
      cmdset < 3 → nguid.length = 16 → cmdset = 1 ∨ (size ≠ 0 ∧ tooManyChunks size = false) → cmdset ≠ 2 ∨ size % 65536 = 0 →
      takesData s 4128 = true →
      Answers (exec (.namespaceCreate k cmdset 0 size nguid) s) fun t =>
        Completed s t k scOk id ∧ (tget MKey.none t.datum.keys (id - 1)).epoch = 1 ∧ t.mem = s.mem
          ∧ ∃ n, nsOf t id = some n ∧ n.cmdset = cmdset ∧ n.nguid = nguid ∧ n.size = (if cmdset = 1 then 0 else size) ∧ n.attA = false
            ∧ n.attB = false ∧ n.keyep = 1 ∧ n.created = clockSec s.datum ∧ (chunkAt t (nsRecordKey n)).data = nsRecordBody n)
  ∧ (∀ (k : Nat) (n : Ns) (s : State), readyAdmin s k .adminNsDelete = true → (tagAt s k).dead = false → calm s → nsOf s (tagAt s k).cmd.nsid = some n →
      (∀ p : Port, (s.port p).aers = []) → Answers (exec (.namespaceDelete k) s) fun t =>
        Completed s t k scOk 0 ∧ nsOf t (tagAt s k).cmd.nsid = none ∧ t.obj.tombs.length = s.obj.tombs.length + 1 ∧ t.mem = s.mem
          ∧ ∀ key, handleSlot (keyHandle key) = n.slot → (chunkAt t key).count = 0)
  ∧ (∀ (k nsid : Nat) (p : Port) (attach : Bool) (n : Ns) (s : State), readyAdmin s k .adminOther = true → calm s → nsOf s nsid = some n →
      portExists s p = true → n.attached p = !attach → (∀ q : Port, (s.port q).aers = []) →
      Answers (exec (.namespaceAttachment k nsid p attach) s) fun t =>
        Completed s t k scOk 0 ∧ nsOf t nsid = some (setAttached n p attach) ∧ nsid ∈ (t.port p).changed ∧ t.obj.chunks = s.obj.chunks ∧ t.regs = s.regs ∧ t.mem = s.mem)
  ∧ (∀ (k slot offset : Nat) (bytes : List Byte) (s : State), readyAdmin s k .adminOther = true → calm s → quiet s .dtm →
      Answers (exec (.firmwareImageDownload k slot offset bytes) s) fun t =>
        Completed s t k (datumStatus (writeSlot (norDraw s).2 slot offset bytes (norDraw s).1).1 scFwImage) 0
          ∧ t.datum = (writeSlot (norDraw s).2 slot offset bytes (norDraw s).1).2.2.datum)
  ∧ (∀ (k slot : Nat) (floor : Bool) (img : ImageInfo) (s : State), readyAdmin s k .adminOther = true → calm s → quiet s .dtm →
      Answers (exec (.firmwareCommit k slot floor img) s) fun t =>
        Completed s t k (datumStatus (commitSlot s slot floor img).1 scFwImage) 0 ∧ t.datum = (commitSlot s slot floor img).2.2.datum
          ∧ t.obj = s.obj ∧ t.mem = s.mem)
  ∧ (∀ (k : Nat) (extended pass : Bool) (s : State), readyAdmin s k .adminOther = true → calm s →
      Answers (exec (.deviceSelfTest k extended pass) s) fun t =>
        Completed s t k scOk 0 ∧ t.obj = { s.obj with selfTest := ((extended, pass) :: s.obj.selfTest).take 20 } ∧ t.regs = s.regs ∧ t.mem = s.mem)

/-- Format, Sanitize and Retention Query (R110, R111, R163, R591).
Clauses rest on choices of the model, log entries 2, 154, 155, 206. -/
def Obligations.FormatAndSanitize : Prop :=
  (∀ (k ses : Nat) (n : Ns) (s : State), readyAdmin s k .adminFormat = true → (tagAt s k).dead = false → calm s → quiet s .dtm → nsOf s (tagAt s k).cmd.nsid = some n → ses < 3 →
    takesData s 4128 = true → (∀ p : Port, (s.port p).aers = []) → Answers (exec (.formatNvm k 0 ses) s) fun t =>
      Completed s t k scOk 0 ∧ (tget MKey.none t.datum.keys n.slot).epoch = nextEpoch n.keyep ∧ t.mem = s.mem
        ∧ (∀ key, handleSlot (keyHandle key) = n.slot → key ≠ nsRecordKey n → (chunkAt t key).count = 0)
        ∧ ∃ n', nsOf t (tagAt s k).cmd.nsid = some n' ∧ n'.keyep = nextEpoch n.keyep ∧ n'.zones = [] ∧ n'.objs = [] ∧ n'.nguid = n.nguid
          ∧ n'.created = n.created)
  ∧ (∀ (k lbaf ses : Nat) (n : Ns) (s : State), readyAdmin s k .adminFormat = true → (tagAt s k).dead = false → calm s → nsOf s (tagAt s k).cmd.nsid = some n → lbaf ≠ 0 →
      Answers (exec (.formatNvm k lbaf ses) s) fun t => Completed s t k scFormat 0 ∧ t.obj = s.obj ∧ t.datum = s.datum ∧ t.mem = s.mem)
  ∧ (∀ (k : Nat) (s : State), readyAdmin s k .adminSanitize = true → s.obj.sanitizing = false → quiet s .dtm → Answers (exec (.sanitize k 4) s) fun t =>
      t.obj = { s.obj with sanitizing := true, sanCut := false, sanTick := s.tick.toNat } ∧ (tagAt t k).st = .active ∧ t.datum.keyDraws = s.datum.keyDraws + 64
        ∧ (∀ i, i < 64 → (tget MKey.none t.datum.keys i).epoch = nextEpoch (tget MKey.none s.datum.keys i).epoch) ∧ t.mem = s.mem)
  ∧ (∀ (k : Nat) (s : State), readyAdmin s k .adminSanitize = true → (tagAt s k).dead = false → s.obj.sanitizing = true → s.obj.sanCut = false →
      calm s → Answers (exec (.sanitize k 4) s) fun t =>
      Completed s t k scOk 0 ∧ t.obj.sanitizing = false ∧ t.obj.sanDone = true ∧ t.obj.tombs = [] ∧ t.fct.map = [] ∧ t.lat.images = []
        ∧ (∀ key, (∀ n ∈ s.obj.nss, key ≠ nsRecordKey n) → (chunkAt t key).count = 0) ∧ t.mem = s.mem)
  ∧ (∀ (k action : Nat) (s : State), (∀ e ∈ s.cqu.tags, e.2.cmd.op ≠ .adminSanitize) → (tagAt s k).cmd.op ≠ .adminSanitize →
      s.obj.sanitizing = true → s.obj.sanCut = true → Answers (exec (.sanitize k action) s) fun t =>
        t.obj = { s.obj with sanitizing := true, sanCut := false, sanTick := s.tick.toNat } ∧ t.datum.keyDraws = s.datum.keyDraws + 64)
  ∧ (∀ (k action : Nat) (s : State), readyAdmin s k .adminSanitize = true → (tagAt s k).dead = false → action ≠ 4 → calm s → Answers (exec (.sanitize k action) s) fun t =>
      Completed s t k scField 0 ∧ t.obj = s.obj ∧ t.datum = s.datum ∧ t.mem = s.mem)
  ∧ (∀ (k : Nat) (n : Ns) (s : State), readyAdmin s k .adminOther = true → calm s → nsOf s (tagAt s k).cmd.nsid = some n →
      Answers (exec (.retentionQuery k) s) fun t =>
        Completed s t k scOk (s.datum.rules.filter fun r => ruleMeets r.2 n.slot (queryScope n (tagAt s k).cmd)).length
          ∧ HostGets s t k ((s.datum.rules.filter fun r => ruleMeets r.2 n.slot (queryScope n (tagAt s k).cmd)).flatMap fun r => ruleBytes r.2)
          ∧ t.obj = s.obj ∧ t.datum = s.datum ∧ t.regs = s.regs ∧ t.mem = s.mem)

/-- Groups of Lattice: WINDOW_FLUSH, LAT_SEAL, GROUP_CLOSE, PARITY_BAND_DONE, IMGLOST, RECONSTRUCT, BAND_RELEASE, LAT_RESV (R300,
R303, R305–R307, R311, R314, R320).
Clauses rest on choices of the model, log entries 2, 124, 125, 126, 134. -/
def Obligations.LatticeGroups : Prop :=
  (∀ (n : Fin 8) (bk first held g j : Nat) (s : State), (s.slice n).win = some (bk, first, held) →
    groupOf s (bk / 2 ^ 21) (bk % 2 ^ 21) = some (g, j) → j < 8 → Answers (exec (.windowFlush n) s) fun t =>
      (t.slice n).win = none ∧ vget (groupAt t g).fill (Fin.ofNat 8 j) = first + held
        ∧ (bandSlots ≤ first + held → mem8 (groupAt t g).sealed_ j = true) ∧ (∀ h, h ≠ g → groupAt t h = groupAt s h))
  ∧ (∀ (v : Word) (g j : Nat) (s : State), groupOf s (fld v.toNat 29 3) (fld v.toNat 0 21) = some (g, j) → j < 8 →
      isDataMember s g j = true → (groupAt s g).st = .open_ → Answers (exec (.latSeal v) s) fun t =>
        mem8 (groupAt t g).sealed_ j = true ∧ (groupAt t g).st = .open_)
  ∧ (∀ (g : Nat) (s : State), latticeOn s = true → (groupAt s g).st = .open_ →
      ((dataMembers s g).all fun j => mem8 (groupAt s g).sealed_ j) = true → Answers (exec (.groupClose g) s) fun t =>
        (groupAt t g).st = (if parityToDo s g = [] then .closed
          else if (parityToDo s g).all fun j => !serves s (memberOf s g j).1 then .pending else .closing)
          ∧ (∀ h, h ≠ g → groupAt t h = groupAt s h) ∧ t.regs = s.regs ∧ t.mem = s.mem)
  ∧ (∀ (g j : Nat) (s : State), latticeOn s = true → (groupAt s g).st = .closing → (groupAt s g).imgOk = true → j < 8 →
      (parityToDo s g).contains j = true → serves s (memberOf s g j).1 = true → Answers (exec (.parityBandDone g j) s) fun t =>
        mem8 (groupAt t g).parDone j = true ∧ mem8 (groupAt t g).stale j = false
          ∧ ((∀ q p, q < bandSlots → bandPlace s (memberOf s g j).1 (memberOf s g j).2 q = some p → p.track < 2 ^ 24 ∧ p.pos < 2 ^ 12) →
              ∀ q p, q < bandSlots → bandPlace s (memberOf s g j).1 (memberOf s g j).2 q = some p →
                recordAt t p = { n := p.n, info := imageAt s g (roleOf s g j - s.conf.k) q })
          ∧ ((parityToDo s g).all (fun i => decide (i = j)) = true → (groupAt t g).st = .closed))
  ∧ (∀ (g : Nat) (s : State), latticeOn s = true → (groupAt s g).st ∈ [GroupState.open_, .closing, .pending] → quiet s .lat →
      Answers (exec (.imglost g) s) fun t =>
        rbit t (aFstat .lat) 1 = true ∧ (groupAt t g).imgOk = (rebuildImages s g).1 ∧ (groupAt t g).st = (groupAt s g).st
          ∧ t.media = s.media ∧ regsSameBut s t [aFstat .lat] ∧ t.mem = s.mem)
  ∧ (∀ (i : Fin 8) (band slot g j : Nat) (failed : List Nat) (b : List Byte) (s : State), groupOf s i band = some (g, j) →
      latticeOn s = true → slot < bandSlots → (groupAt s g).st ≠ .free → (groupAt s g).st ≠ .reserved →
      reconstructSlot s failed g j slot = some b → Answers (exec (.reconstruct i band slot failed) s) fun t =>
        t.lat = { s.lat with out := b } ∧ rn t Reg.latRecon = min 0xFFFF_FFFF (rn s Reg.latRecon + 1)
          ∧ regsSameBut s t [Reg.latRecon] ∧ t.mem = s.mem)
  ∧ (∀ (i : Fin 8) (band slot g j : Nat) (failed : List Nat) (s : State), groupOf s i band = some (g, j) →
      latticeOn s = true → slot < bandSlots → (groupAt s g).st ≠ .free → (groupAt s g).st ≠ .reserved →
      reconstructSlot s failed g j slot = none → Answers (exec (.reconstruct i band slot failed) s) fun t =>
        t.lat = s.lat ∧ rn t Reg.latReconfail = min 0xFFFF_FFFF (rn s Reg.latReconfail + 1) ∧ rbit t Reg.latIrqstat 2 = true ∧ t.mem = s.mem)
  ∧ (∀ (i : Fin 8) (band g j : Nat) (s : State), (chunksInBand s i band).isEmpty = true → groupOf s i band = some (g, j) → j < 8 →
      isDataMember s g j = true → s.conf.m ≠ 0 → Answers (exec (.bandRelease i band) s) fun t =>
        (if (dataMembers s g).all fun i => decide (i = j) || mem8 (groupAt s g).released i then groupAt t g = Group.free
          else mem8 (groupAt t g).released j = true ∧ (groupAt t g).st = (groupAt s g).st)
          ∧ (∀ h, h ≠ g → groupAt t h = groupAt s h) ∧ t.regs = s.regs ∧ t.mem = s.mem)
  ∧ (∀ (v : Word) (s : State), fld v.toNat 0 24 < groupCount s → Answers (exec (.latResv v) s) fun t =>
      (groupAt t (fld v.toNat 0 24)).st = (match (groupAt s (fld v.toNat 0 24)).st, v.toNat.testBit 31 with
        | .free, true => .reserved
        | .reserved, false => .free
        | st, _ => st)
        ∧ (∀ h, h ≠ fld v.toNat 0 24 → groupAt t h = groupAt s h) ∧ t.regs = s.regs ∧ t.mem = s.mem)

/-- Rebuild, spindles out of and back in service, migration (R308–R318).
Clauses rest on choices of the model, log entries 2, 127, 128, 130, 132. -/
def Obligations.LatticeService : Prop :=
  (∀ (v : Word) (b : Nat) (s : State), v.toNat.testBit 30 = false → s.lat.rb = none →
    canRebuild s (Fin.ofNat 8 (fld v.toNat 8 3)) (v.toNat.testBit 0) = true →
    leastFrom 0 (rebuildBands s (Fin.ofNat 8 (fld v.toNat 8 3)) (v.toNat.testBit 0)) = some b → Answers (exec (.rebuildStart v) s) fun t =>
      t.lat.rb = some { spindle := Fin.ofNat 8 (fld v.toNat 8 3), inPlace := v.toNat.testBit 0, band := b, paused := false }
        ∧ regsSameBut s t [Reg.latRbctl] ∧ t.mem = s.mem)
  ∧ (∀ (r : Rebuild) (s : State), s.lat.rb = some r → rn s Reg.latRbctl < 2 ^ 30 → Answers (exec .rebuildStop s) fun t =>
      t.lat.rb = some { r with paused := true } ∧ regsSameBut s t [Reg.latRbctl] ∧ t.mem = s.mem)
  ∧ (∀ (r : Rebuild) (g j : Nat) (s : State), s.lat.rb = some r → quiet s .lat → r.paused = false → r.inPlace = true → j < 8 →
      groupOf s r.spindle r.band = some (g, j) → s.obj.readers.contains (r.spindle.val, r.band) = false → (rebuildMember s g j).1 = true →
      Answers (exec .rebuildBandDone s) fun t =>
        rn t Reg.latRbdone = min 0xFFFF_FFFF (rn s Reg.latRbdone + 1) ∧ rbit t Reg.latIrqstat 0 = true ∧ mem8 (groupAt t g).stale j = false
          ∧ vget t.lat.rebuilt r.spindle = vget s.lat.rebuilt r.spindle + 1)
  ∧ (∀ (k : Nat) (i : Fin 8) (s : State), readyAdmin s k .adminOther = true → k < 4096 → calm s → svcOf s i = .inService →
      s.conf.m < outCount s + 1 → Answers (exec (.spindleOutOfService k i false) s) fun t =>
        Completed s t k scOutOfService 0 ∧ t.lat = s.lat ∧ t.spns = s.spns ∧ t.regs = s.regs ∧ t.mem = s.mem)
  ∧ (∀ (k : Nat) (i : Fin 8) (force : Bool) (s : State), serviceReady s k = true → svcOf s i = .inService →
      4096 ≤ k ∨ force = true ∨ outCount s + 1 ≤ s.conf.m → Answers (exec (.spindleOutOfService k i force) s) fun t =>
        svcOf t i = .outOfService ∧ (∀ j : Fin 8, j ≠ i → svcOf t j = svcOf s j))
  ∧ (∀ (k : Nat) (i : Fin 8) (originOk : Bool) (s : State), readyAdmin s k .adminOther = true → svcOf s i = .outOfService →
      Answers (exec (.spindleReturn k i originOk) s) fun t =>
        (svcOf t i = .rejoin ∨ svcOf t i = .inService) ∧ vget t.lat.dirty i = [] ∧ mem8 t.lat.ovf i.val = false ∧ t.media = s.media)
  ∧ (∀ (k : Nat) (i : Fin 8) (originOk : Bool) (s : State), readyAdmin s k .adminOther = true → svcOf s i = .inService → calm s →
      Answers (exec (.spindleReturn k i originOk) s) fun t => Completed s t k scSequence 0 ∧ t.lat = s.lat ∧ t.regs = s.regs ∧ t.mem = s.mem)
  ∧ (∀ (k : Nat) (i : Fin 8) (s : State), readyAdmin s k .adminOther = true → svcOf s i = .outOfService →
      Answers (exec (.spindleReplace k i) s) fun t =>
        (svcOf t i = .rejoin ∨ svcOf t i = .inService)
          ∧ ∀ p : Place, p.head < 16 → p.track < 2 ^ 24 → p.pos < 2 ^ 12 →
              recordAt t p = if p.act / 2 = i.val then MediaRec.none else recordAt s p)
  ∧ (∀ (k ringAddr ringSize prodAddr : Nat) (s : State), readyAdmin s k .adminOther = true → ringOk ringAddr ringSize = true →
      s.lat.mig.active = false → Answers (exec (.migrationStart k ringAddr ringSize prodAddr) s) fun t =>
        t.lat.mig.active = true ∧ t.lat.mig.ringAddr = ringAddr ∧ t.lat.mig.ringSize = ringSize ∧ t.lat.mig.prodAddr = prodAddr
          ∧ t.lat.mig.prod = 0 ∧ t.lat.mig.cons = 0
          ∧ (calm s → (∀ i, bandsBetween s i 0 (2 ^ 21) = []) → t.obj = s.obj ∧ t.mem = s.mem))
  ∧ (∀ (k : Nat) (s : State), readyAdmin s k .adminOther = true → s.lat.mig.active = true → Answers (exec (.migrationStop k) s) fun t =>
      t.lat.mig = { s.lat.mig with active := false } ∧ rbit t Reg.latIrqstat 1 = true ∧ (calm s → t.obj = s.obj ∧ t.mem = s.mem))
  ∧ (∀ (k cons : Nat) (s : State), readyAdmin s k .adminOther = true → calm s → s.lat.mig.active = true → s.lat.mig.cons ≤ cons →
      cons ≤ s.lat.mig.prod → Answers (exec (.migrationAdvance k cons) s) fun t =>
        Completed s t k scOk 0 ∧ t.lat.mig = { s.lat.mig with cons := cons } ∧ t.obj = s.obj ∧ t.regs = s.regs ∧ t.mem = s.mem)
  ∧ (∀ (i : Fin 8) (handle chunk : Nat) (n : Ns) (s : State), nsOf s (handleSlot handle + 1) = some n → s.lat.mig.active = true →
      migrationTurn s i (chunkAt s (chunkKey handle chunk)) = true → keyLoaded s n = true →
      s.lat.mig.prod + (ringRecord n (chunkKey handle chunk) (chunkAt s (chunkKey handle chunk))).length - s.lat.mig.cons ≤ s.lat.mig.ringSize →
      Answers (exec (.migrationRecord i handle chunk) s) fun t =>
        hostReadBytes t s.lat.mig.prodAddr 8
          = toBytes 8 (s.lat.mig.prod + (ringRecord n (chunkKey handle chunk) (chunkAt s (chunkKey handle chunk))).length)
          ∧ t.lat.mig.prod = s.lat.mig.prod + (ringRecord n (chunkKey handle chunk) (chunkAt s (chunkKey handle chunk))).length
          ∧ t.lat.mig.cons = s.lat.mig.cons ∧ t.lat.mig.active = true
          ∧ t.lat.mig.next = if (chunkAt s (chunkKey handle chunk)).staged = false ∧ (chunkAt s (chunkKey handle chunk)).tier = 0
              then vset s.lat.mig.next i ((chunkAt s (chunkKey handle chunk)).loc % 2 ^ 37 + (chunkAt s (chunkKey handle chunk)).count)
              else s.lat.mig.next)

/-- Assignment, clocks and equalizers of the read side (R2, R50, R211–R214, R224, R242).
Clauses rest on choices of the model, log entries 2, 80, 88, 89. -/
def Obligations.SliceAssignment : Prop :=
  (∀ (n : Fin 8) (firmware : Bool) (v : Word) (s : State), slicePresent s n = true → firmware = rbit s (Reg.chdCtl n) 1 →
    (v.toNat.testBit 31 = true → takenByOther s n (Fin.ofNat 16 (v.toNat % 16)) = false ∧ actPresent s (v.toNat % 16) = true) →
    sliceIdle s n = true → Answers (exec (.assignWrite n firmware v) s) fun t =>
      (t.slice n).valid = v.toNat.testBit 31 ∧ (t.slice n).act.val = v.toNat % 16 ∧ (t.slice n).dir = v.toNat.testBit 8
        ∧ (t.slice n).pend = none ∧ ∀ m : Fin 8, m ≠ n → (t.slice m).valid = (s.slice m).valid ∧ (t.slice m).act = (s.slice m).act)
  ∧ (∀ (n : Fin 8) (firmware : Bool) (v : Word) (s : State), slicePresent s n = true → firmware = rbit s (Reg.chdCtl n) 1 →
      (v.toNat.testBit 31 = true → takenByOther s n (Fin.ofNat 16 (v.toNat % 16)) = false ∧ actPresent s (v.toNat % 16) = true) →
      sliceIdle s n = false → exec (.assignWrite n firmware v) s = .next (settle
        (modSlice s n fun x => { x with pend := some (v.toNat.testBit 31, v.toNat.testBit 8, Fin.ofNat 16 (v.toNat % 16)) })))
  ∧ (∀ (n : Fin 8) (firmware : Bool) (v : Word) (s : State), slicePresent s n = true → firmware = rbit s (Reg.chdCtl n) 1 → v.toNat.testBit 31 = true →
      takenByOther s n (Fin.ofNat 16 (v.toNat % 16)) = true ∨ actPresent s (v.toNat % 16) = false → quiet s (.chd n) →
      Answers (exec (.assignWrite n firmware v) s) fun t =>
        t.slices = s.slices ∧ rbit t (aFstat (.chd n)) 2 = true ∧ regsSameBut s t [aFstat (.chd n)] ∧ t.mem = s.mem)
  ∧ (∀ (n : Fin 8) (firmware : Bool) (v : Word) (s : State), slicePresent s n = false ∨ firmware ≠ rbit s (Reg.chdCtl n) 1 →
      exec (.assignWrite n firmware v) s = .next (settle s))
  ∧ (∀ (n : Fin 8) (v d : Bool) (a : Fin 16) (s : State), (s.slice n).pend = some (v, d, a) → sliceIdle s n = true →
      (v = true → takenByOther s n a = false) → Answers (exec (.assignTakeEffect n) s) fun t =>
        (t.slice n).valid = v ∧ (t.slice n).dir = d ∧ (t.slice n).act = a ∧ (t.slice n).pend = none ∧ ∀ m : Fin 8, m ≠ n → (t.slice m).valid = (s.slice m).valid ∧ (t.slice m).act = (s.slice m).act)
  ∧ (∀ (n : Fin 8) (d : Bool) (a : Fin 16) (s : State), (s.slice n).pend = some (true, d, a) → sliceIdle s n = true → takenByOther s n a = true →
      quiet s (.chd n) → Answers (exec (.assignTakeEffect n) s) fun t =>
        t.slice n = { s.slice n with pend := none } ∧ rbit t (aFstat (.chd n)) 2 = true ∧ regsSameBut s t [aFstat (.chd n)])
  ∧ (∀ (n : Fin 8) (s : State), (s.slice n).pend = none ∨ sliceIdle s n = false → exec (.assignTakeEffect n) s = .next (settle s))
  ∧ (∀ (a : Fin 16) (v : Word) (s : State), sliceOfAct s a = none → frontPresent s a = true →
      rn s (Reg.afeSynth a) ≠ clampNat 3495253 23767722 (v.toNat % 2 ^ 25) → Answers (exec (.afeSynthWrite a v) s) fun t =>
        rn t (Reg.afeSynth a) = clampNat 3495253 23767722 (v.toNat % 2 ^ 25) ∧ (vget t.afes a).lock = false
          ∧ (vget t.afes a).settling = true ∧ regsSameBut s t [Reg.afeSynth a] ∧ t.mem = s.mem)
  ∧ (∀ (a : Fin 16) (v : Word) (s : State), sliceOfAct s a ≠ none ∨ frontPresent s a = false
      ∨ rn s (Reg.afeSynth a) = clampNat 3495253 23767722 (v.toNat % 2 ^ 25) → exec (.afeSynthWrite a v) s = .next (settle s))
  ∧ (∀ (a : Fin 16) (s : State), (vget s.afes a).settling = true → exec (.synthSettled a) s
      = .next (settle (modAfe s a fun x => { x with lock := true, settling := false })))
  ∧ (∀ (a : Fin 16) (s : State), (vget s.afes a).settling = false → exec (.synthSettled a) s = .next (settle s))
  ∧ (∀ (a : Fin 16) (s : State), (vget s.afes a).lock = true → (s.act a).st ≠ .parked ∨ rbit s (Reg.afeCtl a) 0 = true → quiet s .afe →
      Answers (exec (.synthunlock a) s) fun t =>
        (vget t.afes a).lock = false ∧ (vget t.afes a).settling = true ∧ rbit t (aFstat .afe) a.val = true ∧ regsSameBut s t [aFstat .afe])
  ∧ (∀ (a : Fin 16) (s : State), (vget s.afes a).lock = true → (s.act a).st = .parked → rbit s (Reg.afeCtl a) 0 = false →
      exec (.synthunlock a) s = .next (settle (modAfe s a fun x => { x with lock := false, settling := true })))
  ∧ (∀ (a : Fin 16) (s : State), (vget s.afes a).lock = false → exec (.synthunlock a) s = .next (settle s))
  ∧ (∀ (n : Fin 8) (s : State), slicePresent s n = true → (s.slice n).op = none → Answers (exec (.eqLoad n) s) fun t =>
      (∀ k, k < 65 → rn t (eqReg n k) = (shadowAt s n k).toNat) ∧ (t.slice n).loadPend = false
        ∧ regsSameBut s t ((List.range 65).map (eqReg n)) ∧ t.mem = s.mem)
  ∧ (∀ (n : Fin 8) (o : MediaOp) (s : State), slicePresent s n = true → (s.slice n).op = some o →
      exec (.eqLoad n) s = .next (settle (modSlice s n fun x => { x with loadPend := true })))
  ∧ (∀ (n : Fin 8) (s : State), slicePresent s n = false → exec (.eqLoad n) s = .next (settle s))

/-- Slots of a read and of a write, and the ends of their units (R206, R217–R221, R227–R232, R239, R243–R249, R252, R253, R259, R301).
Clauses rest on choices of the model, log entries 2, 84, 85, 90, 93, 98, 208, 212, 213, 215. -/
def Obligations.SliceSlots : Prop :=
  (∀ (n : Fin 8) (e : SlotEv) (o : MediaOp) (s : State), (s.slice n).op = some o → readsNow s n o = true → (s.slice n).bufs.length < 8 →
    (opEntry s o o.done).rmode = 0 → Answers (exec (.slotStart n e) s) fun t =>
      let slot := o.d.slot + o.done
      let ps := readPieces o.d.wedgebits (if o.d.slots = 0 then slot else slot % o.d.slots)
      let fresh := o.done = 0 || (o.d.slots ≠ 0 && slot % o.d.slots = 0)
      let got := (switched s n e).segs
      let l := loopSlot (loopCfg s n) o.d.wedgebits fresh e.phase0 (-32) ps got (startLoops s n fresh)
      (∃ b, (t.slice n).bufs = (s.slice n).bufs ++ [b] ∧ b.slot = slot ∧ b.idx = o.done ∧ b.recIdx = none
        ∧ b.rsMiss = l.misses ∧ b.lockLoss = l.hit ∧ b.xa = ((slotSamples ps got).take 37376).map (·.a)
        ∧ b.cands = if got = [] then [] else candidates (rf s (Reg.chdSyncctl n) 0 3) (((slotSamples ps got).take 37376).map (·.d)))
        ∧ (t.slice n).freq = l.freq ∧ (t.slice n).phase = l.phase ∧ (t.slice n).lock = l.lock ∧ (t.slice n).lost = l.lost
        ∧ (t.slice n).op.map (fun p => (p.done, p.ended)) = some (o.done + 1, decide (o.done + 1 = o.d.count)) ∧ t.mem = s.mem)
  ∧ (∀ (n : Fin 8) (e : SlotEv) (o : MediaOp) (b : CwBuf) (rest : List CwBuf) (s : State), (s.slice n).op = some o → readsNow s n o = true →
      (s.slice n).bufs = b :: rest → rest.length = 7 → (∀ x ∈ rest, x.idx ≠ b.idx) → b.recIdx = none →
      rbit s (Reg.chdCtl n) 2 = false → Answers (exec (.slotStart n e) s) fun t =>
        (t.slice n).bufs.length = 8 ∧ (t.slice n).bufs.take 7 = rest
          ∧ rn t (Reg.chdBudgetcnt n) = min 0xFFFF_FFFF (rn s (Reg.chdBudgetcnt n) + 1)
          ∧ rn t (Reg.chdUnitfail n) = min 0xFFFF_FFFF (rn s (Reg.chdUnitfail n) + 1) ∧ rbit t (Reg.chdIrqstat n) 0 = true)
  ∧ (∀ (n : Fin 8) (e : SlotEv) (s : State), (∀ o, (s.slice n).op = some o → readsNow s n o = false) →
      exec (.slotStart n e) s = .next (settle s))
  ∧ (∀ (n k : Fin 8) (o : MediaOp) (b : CwBuf) (s : State), (s.slice n).op = some o → o.d.kind = 1 → (s.slice n).bufs[k.val]? = some b →
      b.recIdx = none → Answers (exec (.unitDecodeDone n k none false) s) fun t =>
        let marked := rbit s (Reg.chdDefctl n) 1 && decide (3840 < markedAt b (b.cands.headD { off := 0, score := 0 }).off)
        let passes := !marked && (firstPass o b.slot (decodeUnit s n o b).1 0).isSome
        (∀ x ∈ (t.slice n).bufs, x.idx ≠ b.idx)
          ∧ (b.cands ≠ [] → passes = true → rn t (Reg.chdUnitok n) = min 0xFFFF_FFFF (rn s (Reg.chdUnitok n) + 1)
              ∧ rn t (Reg.chdUnitfail n) = rn s (Reg.chdUnitfail n))
          ∧ (b.cands ≠ [] → passes = false → rn t (Reg.chdUnitfail n) = min 0xFFFF_FFFF (rn s (Reg.chdUnitfail n) + 1)
              ∧ rn t (Reg.chdUnitok n) = rn s (Reg.chdUnitok n) ∧ rbit t (Reg.chdIrqstat n) 0 = true)
          ∧ (b.cands = [] → rn t (Reg.chdSyncmiss n) = min 0xFFFF_FFFF (rn s (Reg.chdSyncmiss n) + 1) ∧ rbit t (Reg.chdIrqstat n) 0 = true)
          ∧ (b.cands = [] ∨ passes = false → b.slot < dataSlots → ladderAt s (opMaddr o b.slot) = none →
              ∃ l, ladderAt t (opMaddr o b.slot) = some l ∧ l.step = 1 ∧ l.cause = (if (opTag o).isSome then 1 else 2) ∧ l.tags = (opTag o).toList))
  ∧ (∀ (n k : Fin 8) (par : Option (List (Fin 8))) (ovf : Bool) (s : State), (s.slice n).op = none ∨ (s.slice n).bufs[k.val]? = none →
      exec (.unitDecodeDone n k par ovf) s = .next (settle s))
  ∧ (∀ (n : Fin 8) (o : MediaOp) (prof : List Byte) (s s' s'' : State), (s.slice n).op = some o → o.d.kind = 2 → o.writing = false →
      o.ended = false → o.done = 0 → (o.d.close = true → o.d.slot + o.d.count = dataSlots) → writeReady s n = true →
      admission s o.d ≠ .order → admission s o.d ≠ .wait →
      busRead s (masterChd n) (profAddr s n o.d.profile) 64 none = (some prof, s') →
      busReadNat s' (masterChd n) (wptrAddr s' n (maddrSpindle o.d.band) (maddrBand o.d.band)) 4 = (some o.d.slot, s'') →
      Answers (exec (.writeOpStart n) s) fun t =>
        (t.slice n).op.map (·.writing) = some true ∧ (t.slice n).code = profLaserw prof ∧ (t.slice n).prof = prof ∧ (t.slice n).acc = 0
          ∧ (∀ g, admission s o.d = .opens g → (groupAt t g).st = .open_) ∧ t.media = s.media)
  ∧ (∀ (n : Fin 8) (o : MediaOp) (prof : List Byte) (w : Nat) (s s' s'' : State), (s.slice n).op = some o → o.d.kind = 2 → o.writing = false →
      o.ended = false → o.done = 0 → (o.d.close = true → o.d.slot + o.d.count = dataSlots) → writeReady s n = true →
      admission s o.d ≠ .order → admission s o.d ≠ .wait →
      busRead s (masterChd n) (profAddr s n o.d.profile) 64 none = (some prof, s') →
      busReadNat s' (masterChd n) (wptrAddr s' n (maddrSpindle o.d.band) (maddrBand o.d.band)) 4 = (some w, s'') → w ≠ o.d.slot →
      Answers (exec (.writeOpStart n) s) fun t =>
        (t.slice n).op.map (fun p => (p.ended, p.writing)) = some (true, false) ∧ t.media = s.media)
  ∧ (∀ (n : Fin 8) (o : MediaOp) (s : State), (s.slice n).op = some o → o.d.kind = 2 → o.writing = false → o.ended = false → o.done = 0 →
      writeReady s n = true → admission s o.d = .order ∨ (o.d.close = true ∧ o.d.slot + o.d.count ≠ dataSlots) →
      Answers (exec (.writeOpStart n) s) fun t =>
        (t.slice n).op.map (fun p => (p.ended, p.writing)) = some (true, false) ∧ t.media = s.media)
  ∧ (∀ (n : Fin 8) (verify : List Nat) (o : MediaOp) (info : List Byte) (s s' : State), (s.slice n).op = some o → o.d.kind = 2 →
      o.writing = true → o.ended = false → o.done < opSlots o → (s.act (s.slice n).act).st = .track →
      slotInfo s n o o.done = (some info, s') → Answers (exec (.slotWrite n true verify) s) fun t =>
        recordAt t (descPlace o.d (o.d.slot + o.done)) = { n := (descPlace o.d (o.d.slot + o.done)).n, info := info }
          ∧ rn t (Reg.chdUnitswr n) = min 0xFFFF_FFFF (rn s' (Reg.chdUnitswr n) + 1))
  ∧ (∀ (n : Fin 8) (verify : List Nat) (o : MediaOp) (s : State), (s.slice n).op = some o → o.d.kind = 2 → o.writing = true →
      o.ended = false → o.done < opSlots o → (s.act (s.slice n).act).st = .track → Answers (exec (.slotWrite n false verify) s) fun t =>
        (t.slice n).op.map (fun p => (p.ended, p.writing)) = some (true, false) ∧ t.media = s.media ∧ (t.slice n).code = 0
          ∧ rn t (Reg.chdUnderrun n) = min 0xFFFF_FFFF (rn s (Reg.chdUnderrun n) + 1))
  ∧ (∀ (n : Fin 8) (mon : Nat) (s : State), writingNow (s.slice n) = true →
      let p := (s.slice n).prof
      let err : Int := (profNat p 0x10 1 : Int) - (mon % 256 : Nat)
      let lim : Int := (profNat p 0x12 2 % 1024 * 2 ^ (profNat p 0x0F 1 % 16) : Nat)
      let off := profNat p 0x11 1 < err.natAbs
      (s.slice n).devs < 3 ∨ ¬ off → Answers (exec (.laserLoopUpdate n mon) s) fun t =>
        (t.slice n).acc = clampInt (-lim) lim ((s.slice n).acc + err) ∧ (t.slice n).trim = (t.slice n).acc / ((2 ^ (profNat p 0x0F 1 % 16) : Nat) : Int)
          ∧ (t.slice n).code = (clampInt 0 1023 ((profLaserw p : Int) + (t.slice n).trim)).toNat ∧ (t.slice n).mon = mon % 256
          ∧ (t.slice n).devs = (if off then (s.slice n).devs + 1 else 0)
          ∧ (t.slice n).op = (s.slice n).op ∧ t.regs = s.regs ∧ t.mem = s.mem)
  ∧ (∀ (n : Fin 8) (mon : Nat) (o : MediaOp) (s : State), (s.slice n).op = some o → o.writing = true → o.d.kind = 2 → o.ended = false →
      (s.slice n).devs = 3 → profNat (s.slice n).prof 0x11 1 < ((profNat (s.slice n).prof 0x10 1 : Int) - (mon % 256 : Nat)).natAbs →
      Answers (exec (.laserLoopUpdate n mon) s) fun t =>
        (t.slice n).op.map (fun p => (p.ended, p.writing)) = some (true, false) ∧ (t.slice n).devs = 0 ∧ (t.slice n).code = 0
          ∧ rn t (Reg.chdLaserdev n) = min 0xFFFF_FFFF (rn s (Reg.chdLaserdev n) + 1) ∧ t.media = s.media)
  ∧ (∀ (n : Fin 8) (mon : Nat) (s : State), writingNow (s.slice n) = false → exec (.laserLoopUpdate n mon) s = .next (settle s))
  ∧ (∀ (n k : Fin 8) (par : Option (List (Fin 8))) (ovf : Bool) (o : MediaOp) (b : CwBuf) (s : State), (s.slice n).op = some o → o.d.kind = 1 →
      (s.slice n).bufs[k.val]? = some b → quiet s (.chd n) → Answers (exec (.unitDecodeDone n k par ovf) s) fun t =>
        (∀ x ∈ (t.slice n).bufs, x.idx ≠ b.idx) ∧ (par.isSome = true → rbit t (aFstat (.chd n)) 0 = true ∧ rbit t (Reg.chdIrqstat n) 0 = true)
          ∧ (ovf = true → rbit t (aFstat (.chd n)) 1 = true))

/-- The preamplifier link, write-unsafe, and the outer-code decoder (R254–R259, R272–R276, R291, R292).
Clauses rest on choices of the model, log entries 2, 94. -/
def Obligations.LinksAndOuterCode : Prop :=
  (∀ (n : Fin 8) (v : Word) (s : State), slicePresent s n = true → (s.slice n).psBusy = false → Answers (exec (.pscmdWrite n v) s) fun t =>
    (t.slice n).psBusy = true ∧ (t.slice n).psFrame = v.truncate 16 ∧ (v.toNat.testBit 30 = true → (t.slice n).psDone = false) ∧ (∀ m : Fin 8, m ≠ n → t.slice m = s.slice m) ∧ t.regs = s.regs ∧ t.mem = s.mem)
  ∧ (∀ (n : Fin 8) (v : Word) (s : State), (s.slice n).psBusy = true ∨ slicePresent s n = false → exec (.pscmdWrite n v) s = .next (settle s))
  ∧ (∀ (n : Fin 8) (data : Byte) (s : State), (s.slice n).psBusy = true → (s.slice n).valid = true → (s.slice n).op = none →
      Answers (exec (.psFrameDone n data) s) fun t =>
        (t.slice n).psBusy = false ∧ (t.slice n).psDone = true ∧ (t.slice n).frames = (s.slice n).psFrame :: (s.slice n).frames
          ∧ ((s.slice n).psFrame.toNat.testBit 15 = true → rn t (Reg.chdPsresp n) = data.toNat) ∧ regsSameBut s t [Reg.chdPsresp n] ∧ t.mem = s.mem)
  ∧ (∀ (link : Fin 16) (s : State), (vget s.links link).live.contains .pin = false → Answers (exec (.writeUnsafe link .pin) s) fun t =>
      WusSrc.pin ∈ (vget t.links link).live ∧ (vget t.links link).holding = false
        ∧ ∀ n, sliceOfAct s link = some n → (s.slice n).op = none → rn t (Reg.chdWuscnt n) = min 0xFFFF_FFFF (rn s (Reg.chdWuscnt n) + 1))
  ∧ (∀ (link : Fin 16) (n : Fin 8) (o : MediaOp) (s : State), (vget s.links link).live.contains .pin = false → sliceOfAct s link = some n →
      (s.slice n).op = some o → o.d.kind = 2 → o.writing = true → o.ended = false → Answers (exec (.writeUnsafe link .pin) s) fun t =>
        (t.slice n).op.map (fun p => (p.ended, p.writing)) = some (true, false) ∧ (t.slice n).code = 0 ∧ t.media = s.media)
  ∧ (∀ (link : Fin 16) (s : State), (vget s.links link).live.contains .pin = true → Answers (exec (.writeUnsafeAbsent link .pin) s) fun t =>
      (vget t.links link).live = (vget s.links link).live.filter (fun x => x ≠ WusSrc.pin)
        ∧ ((vget t.links link).live = [] → (vget t.links link).holding = true) ∧ t.slices = s.slices ∧ t.regs = s.regs ∧ t.mem = s.mem)
  ∧ (∀ (link : Fin 16) (s : State), (vget s.links link).live = [] → Answers (exec (.wusholdExpire link) s) fun t =>
      (vget t.links link).holding = false ∧ (vget t.links link).live = [] ∧ (∀ b : Fin 16, b ≠ link → vget t.links b = vget s.links b)
        ∧ t.regs = s.regs ∧ t.mem = s.mem)
  ∧ (∀ (n : Fin 8) (v : Word) (s : State), slicePresent s n = true → v.toNat.testBit 0 = true → (s.slice n).oc = false →
      Answers (exec (.ocDecodeStart n v) s) fun t =>
        (t.slice n).oc = true ∧ (t.slice n).ocSingle = v.toNat.testBit 1 ∧ rbit t Reg.pmuGate n = false
          ∧ regsSameBut s t [Reg.chdOcctl n, Reg.pmuGate] ∧ t.mem = s.mem)
  ∧ (∀ (n : Fin 8) (v : Word) (s : State), slicePresent s n = false → exec (.ocDecodeStart n v) s = .next (settle s))
  ∧ (∀ (n : Fin 8) (table : List Byte) (s0 s1 : List Byte) (s s' s'' : State), (s.slice n).oc = true →
      busRead s (masterChd n) (rf s (Reg.chdOcrows n) 9 27 * 512) 512 none = (some table, s') →
      ((ocRows table (rn s' (Reg.chdOcerase n))).any fun w => w.unwritten && w.erased) = false →
      ocSyndromes s' n (ocRows table (rn s' (Reg.chdOcerase n))) (zeros 4128) (zeros 4128) = (some (s0, s1), s'') →
      ocDecide (ocRows table (rn s' (Reg.chdOcerase n))) (s''.slice n).ocSingle s0 s1 = .clean →
      Answers (exec (.ocDecodeDone n) s) fun t => (t.slice n).oc = false ∧ rn t (Reg.chdOcstat n) = 2 ^ 30 ∧ t.mem = s''.mem)
  ∧ (∀ (n : Fin 8) (s s' : State), (s.slice n).oc = true →
      busRead s (masterChd n) (rf s (Reg.chdOcrows n) 9 27 * 512) 512 none = (none, s') → Answers (exec (.ocDecodeDone n) s) fun t =>
        (t.slice n).oc = false ∧ rn t (Reg.chdOcstat n) = 2 ^ 30 + 2 ^ 29 ∧ rn t (Reg.chdOcfail n) = min 0xFFFF_FFFF (rn s' (Reg.chdOcfail n) + 1))

/-- Media operations of commands and posted descriptors (R26, R36, R138–R141, R171, R182, R271, R472–R476).
Clauses rest on choices of the model, log entries 2, 79, 96, 97, 205. -/
def Obligations.MediaOperations : Prop :=
  (∀ (k : Nat) (n : Fin 8) (d : Desc) (us : List Nat) (s : State), (tagAt s k).st = .active → (tagAt s k).dead = false →
    (tagAt s k).aborted = false → cquSlice s n = true → cquStarts s = true → s.cqu.waitOps = [] → s.cqu.q17 = [] → d.kind = 1 →
    descCheck s d 0 = 0 → descPlaced s d = true → readUnits s (tagAt s k) d = some us → bandAway s d.band = false → opAdmitted s d = true →
    takenByOther s n (Fin.ofNat 16 d.act) = false → (s.spn (Fin.ofNat 8 (d.act / 2))).st ≠ .stopped →
    Answers (exec (.mediaOpStart k n d) s) fun t =>
      (t.slice n).op.map (fun o => (o.src, o.d)) = some (.tag k, d) ∧ (t.slice n).valid = true ∧ (t.slice n).act = Fin.ofNat 16 d.act
        ∧ (tagAt t k).mops = (tagAt s k).mops + 1 ∧ (tagAt t k).got = (tagAt s k).got ++ us ∧ t.cqu.mops = s.cqu.mops + 1
        ∧ t.obj.readers = s.obj.readers ++ [(maddrSpindle d.band, maddrBand d.band)])
  ∧ (∀ (k : Nat) (n : Fin 8) (d : Desc) (u : Nat) (s : State), (tagAt s k).st = .active → (tagAt s k).dead = false →
      (tagAt s k).aborted = false → cquSlice s n = true → cquStarts s = true → s.cqu.waitOps = [] → s.cqu.q17 = [] → d.kind = 2 →
      isLbaWrite (tagAt s k).cmd.op = false → (tagAt s k).keys ≠ [] → descCheck s d 0 = 0 → descPlaced s d = true →
      writeUnits s (tagAt s k) d = some u → opAdmitted s d = true →
      takenByOther s n (Fin.ofNat 16 d.act) = false → (s.spn (Fin.ofNat 8 (d.act / 2))).st ≠ .stopped →
      Answers (exec (.mediaOpStart k n d) s) fun t =>
        (t.slice n).op.map (fun o => (o.src, o.d, o.first, o.units)) = some (.tag k, d, (tagAt s k).wunits, u)
          ∧ (t.slice n).valid = true ∧ (t.slice n).dir = true ∧ (t.slice n).act = Fin.ofNat 16 d.act
          ∧ (tagAt t k).mops = (tagAt s k).mops + 1 ∧ (tagAt t k).wunits = (tagAt s k).wunits + u ∧ t.obj = s.obj)
  ∧ (∀ (k : Nat) (n : Fin 8) (d : Desc) (us : List Nat) (s : State), (tagAt s k).st = .active → (tagAt s k).dead = false →
      (tagAt s k).aborted = false → s.cqu.stopped = false → s.cqu.psStep = 0 → s.cqu.waitOps = [] → s.cqu.q17 = [] → d.kind = 1 →
      descCheck s d 0 = 4 → descPlaced s d = true → readUnits s (tagAt s k) d = some us → bandAway s d.band = false → opAdmitted s d = true →
      ((s.spn (Fin.ofNat 8 (d.act / 2))).st = .stopped → spnHears s (Fin.ofNat 8 (d.act / 2)) = true ∧ (s.spn (Fin.ofNat 8 (d.act / 2))).failed = false) →
      Answers (exec (.mediaOpStart k n d) s) fun t =>
        t.cqu.waitOps = [{ tag := k, first := (tagAt s k).wunits, units := 0, tick := s.tick.toNat, d := d }] ∧ t.slices = s.slices
          ∧ (tagAt t k).mops = (tagAt s k).mops)
  ∧ (∀ (k : Nat) (n : Fin 8) (d : Desc) (s : State), (tagAt s k).st = .active → (tagAt s k).dead = false → (tagAt s k).aborted = false →
      s.cqu.stopped = false → s.cqu.psStep = 0 → calm s → s.cqu.waitOps = [] → (tagAt s k).mops = 0 → descCheck s d 0 = 1 →
      Answers (exec (.mediaOpStart k n d) s) fun t => Completed s t k scAddress 0 ∧ t.slices = s.slices)
  ∧ (∀ (k : Nat) (n : Fin 8) (o : MediaOp) (s : State), (s.slice n).op = some o → o.src = .tag k → o.ended = true → (s.slice n).bufs = [] →
      o.d.kind = 1 → s.cqu.waitOps = [] → s.cqu.q17 = [] → 2 ≤ (tagAt s k).mops → Answers (exec (.mediaOpDone k n) s) fun t =>
        (t.slice n).op = none ∧ (tagAt t k).mops = (tagAt s k).mops - 1 ∧ (tagAt t k).st = (tagAt s k).st ∧ t.cqu.mops = s.cqu.mops - 1
          ∧ rbit t (Reg.chdIrqstat n) 1 = true ∧ t.obj.readers = s.obj.readers.erase (maddrSpindle o.d.band, maddrBand o.d.band) ∧ t.mem = s.mem)
  ∧ (∀ (k : Nat) (n : Fin 8) (o : MediaOp) (s : State), (s.slice n).op = some o → o.src = .tag k → o.ended = true → (s.slice n).bufs = [] →
      o.d.kind = 1 → s.cqu.waitOps = [] → s.cqu.q17 = [] → (tagAt s k).mops = 1 → (tagAt s k).dead = false → (tagAt s k).aborted = true →
      calm s → Answers (exec (.mediaOpDone k n) s) fun t =>
        (t.slice n).op = none ∧ Completed s t k ((tagAt s k).sct, (tagAt s k).sc) 0)
  ∧ (∀ (k : Nat) (n : Fin 8) (s : State), (∀ o, (s.slice n).op = some o → o.src ≠ .tag k ∨ o.ended = false ∨ (s.slice n).bufs ≠ []) →
      exec (.mediaOpDone k n) s = .next (settle s))
  ∧ (∀ (n : Fin 8) (a : Nat) (bs : List Byte) (s s' : State), sliceServes s n = true → rbit s (Reg.chdCtl n) 1 = true →
      queueHead s n = some a → busRead s (masterChd n) a 64 none = (some bs, s') →
      slotCheck s' n (s.slice n).act.val (descAt s'.mem a) = 0 → descWaits s' n (descAt s'.mem a) = false → Answers (exec (.descriptorStart n) s) fun t =>
        (t.slice n).op.map (fun o => (o.src, o.d)) = some (.queue (s.slice n).act.val a, descAt s'.mem a)
          ∧ vget t.queues (Fin.ofNat 17 (s.slice n).act.val) = (vget s.queues (Fin.ofNat 17 (s.slice n).act.val)).drop 1)
  ∧ (∀ (n : Fin 8) (a : Nat) (bs : List Byte) (s s' : State), sliceServes s n = true → rbit s (Reg.chdCtl n) 1 = true →
      queueHead s n = some a → busRead s (masterChd n) a 64 none = (some bs, s') →
      slotCheck s' n (s.slice n).act.val (descAt s'.mem a) ≠ 0 → descWaits s' n (descAt s'.mem a) = false → Answers (exec (.descriptorStart n) s) fun t =>
        (t.slice n).op = none ∧ rbit t (Reg.chdIrqstat n) 1 = true
          ∧ vget t.queues (Fin.ofNat 17 (s.slice n).act.val) = (vget s.queues (Fin.ofNat 17 (s.slice n).act.val)).drop 1)
  ∧ (∀ (n : Fin 8) (a tick : Nat) (d : Desc) (bs : List Byte) (s s' : State), sliceServes s n = true → cquSlice s n = true → cquStarts s = true →
      nextOp s n = some (.desc a tick d) → busRead { s with cqu := { s.cqu with q17 := s.cqu.q17.erase (a, tick) } } (masterChd n) a 64 none = (some bs, s') →
      check17 s' n (descAt s'.mem a) = 0 → Answers (exec (.descriptorStart n) s) fun t =>
        (t.slice n).op.map (fun o => (o.src, o.d)) = some (.queue 17 a, descAt s'.mem a) ∧ t.cqu.q17 = s'.cqu.q17
          ∧ (t.slice n).act = Fin.ofNat 16 (descAt s'.mem a).act ∧ t.cqu.mops = s'.cqu.mops + 1)
  ∧ (∀ (n : Fin 8) (s : State), sliceServes s n = false → exec (.descriptorStart n) s = .next (settle s))
  ∧ (∀ (n : Fin 8) (a : Nat) (bs : List Byte) (s s' : State), (vget s.queues 16).head? = some a → sliceServes s n = true →
      busRead (rbitSet (popQueue s 16) Reg.pmuGate n false) (masterChd n) a 64 none = (some bs, s') →
      (descAt s'.mem a).kind = 3 → descCheck s' (descAt s'.mem a) 0 = 0 → targetZero s' n = false →
      ((List.range (descAt s'.mem a).count).any fun i => decide ((slotEntry s'.mem (descAt s'.mem a).aux i).rmode ≠ 0)
        || !(slotEntry s'.mem (descAt s'.mem a).aux i).sampv) = false → Answers (exec (.replay n) s) fun t =>
        (t.slice n).op.map (fun o => (o.src, o.d)) = some (.queue 16 a, descAt s'.mem a) ∧ (t.slice n).bufs.length = 1
          ∧ rbit t Reg.pmuGate n = false ∧ vget t.queues 16 = (vget s.queues 16).drop 1)
  ∧ (∀ (n : Fin 8) (a : Nat) (bs : List Byte) (s s' : State), (vget s.queues 16).head? = some a → sliceServes s n = true →
      busRead (rbitSet (popQueue s 16) Reg.pmuGate n false) (masterChd n) a 64 none = (some bs, s') →
      (descAt s'.mem a).kind ≠ 3 → Answers (exec (.replay n) s) fun t =>
        (t.slice n).op = none ∧ rbit t (Reg.chdIrqstat n) 1 = true ∧ vget t.queues 16 = (vget s.queues 16).drop 1)
  ∧ (∀ (n : Fin 8) (s : State), vget s.queues 16 = [] ∨ sliceServes s n = false → exec (.replay n) s = .next (settle s))
  ∧ (∀ (n : Fin 8) (q a : Nat) (o : MediaOp) (s : State), (s.slice n).op = some o → o.src = .queue q a → q ≠ 17 → o.ended = true →
      (s.slice n).bufs = [] → o.d.kind ≠ 2 → Answers (exec (.descriptorDone n) s) fun t =>
        (t.slice n).op = none ∧ rbit t (Reg.chdIrqstat n) 1 = true
          ∧ ((busWriteNat s (masterChd n) a 4 (putFld (putFld (readNat s.mem a 4) 28 3 o.opres) 31 1 1)).1 = true →
            readNat t.mem a 4 = putFld (putFld (readNat s.mem a 4) 28 3 o.opres) 31 1 1))
  ∧ (∀ (n : Fin 8) (s : State), (∀ o, (s.slice n).op = some o → (∃ k, o.src = .tag k) ∨ o.ended = false ∨ (s.slice n).bufs ≠ []) →
      exec (.descriptorDone n) s = .next (settle s))

/-- The map of Locus (R169, R178–R181, R184, R187).
Clauses rest on choices of the model, log entries 2, 118, 142. -/
def Obligations.LocusMap : Prop :=
  (∀ (v : DWord) (s : State), Answers (exec (.wseqWrite v) s) fun t =>
    rn t Reg.cdcWseq = (if v.toNat % 2 ^ 56 < rn s Reg.cdcWseq then rn s Reg.cdcWseq else v.toNat % 2 ^ 56)
      ∧ regsSameBut s t [Reg.cdcWseq] ∧ t.obj = s.obj ∧ t.mem = s.mem)
  ∧ (∀ (handle chunk : Nat) (s : State), rbit s Reg.locCtl 0 = true →
      Answers (exec (.locusLookup handle chunk) s) fun t =>
        t.resp.data = (if (chunkAt s (chunkKey handle chunk)).count = 0 then 0
          else BitVec.ofNat 64 (locusEntry (chunkKey handle chunk) (chunkAt s (chunkKey handle chunk))))
          ∧ (if (s.obj.cache.find? fun e => decide (e.1 = chunkKey handle chunk)).isSome
              then rn t Reg.locHits = min 0xFFFF_FFFF (rn s Reg.locHits + 1)
              else rn t Reg.locMisses = min 0xFFFF_FFFF (rn s Reg.locMisses + 1))
          ∧ regsSameBut s t [Reg.locHits, Reg.locMisses] ∧ t.mem = s.mem)
  ∧ (∀ (handle chunk oldLoc oldGenlo newTier newLoc : Nat) (s : State), (chunkAt s (chunkKey handle chunk)).count ≠ 0 →
      (chunkAt s (chunkKey handle chunk)).loc = oldLoc → (chunkAt s (chunkKey handle chunk)).gen % 4096 = oldGenlo % 4096 →
      Answers (exec (.relocationUpdate handle chunk oldLoc oldGenlo newTier newLoc) s) fun t =>
        chunkAt t (chunkKey handle chunk) = { chunkAt s (chunkKey handle chunk) with tier := newTier % 2, loc := newLoc % 2 ^ 40, staged := false, dirty := true }
          ∧ (∀ k, k ≠ chunkKey handle chunk → chunkAt t k = chunkAt s k) ∧ t.regs = s.regs ∧ t.mem = s.mem)
  ∧ (∀ (handle chunk oldLoc oldGenlo newTier newLoc : Nat) (s : State), (chunkAt s (chunkKey handle chunk)).loc ≠ oldLoc →
      Answers (exec (.relocationUpdate handle chunk oldLoc oldGenlo newTier newLoc) s) fun t =>
        rn t Reg.locCasfail = min 0xFFFF_FFFF (rn s Reg.locCasfail + 1) ∧ t.obj = s.obj ∧ regsSameBut s t [Reg.locCasfail] ∧ t.mem = s.mem)
  ∧ (∀ s : State, Answers (exec .locusFlush s) fun t =>
      (∀ e ∈ s.obj.cache, chunkAt t e.1 = { chunkAt s e.1 with dirty := false })
        ∧ (∀ k, k ∉ s.obj.cache.map (·.1) → chunkAt t k = chunkAt s k) ∧ t.regs = s.regs ∧ t.mem = s.mem)
  ∧ (∀ s : State, s.cqu.tags = [] → s.ms.ready = true → Answers (exec .mapRebuild s) fun t =>
      let u := loadZones s
      let f := readAll u
      t.obj.cache = [] ∧ (∀ k, (chunkAt s k).staged = true → (chunkAt t k).data = (chunkAt s k).data ∧ (chunkAt t k).staged = true)
        ∧ (∀ k, (chunkAt s k).staged = false → (chunkAt t k).count = match liveRecord u f (handleSlot (keyHandle k)) with
          | none => 0
          | some rec => ((liveVersion f rec k (objectTest u f rec k)).map fun v => v.tag.units).getD 0)
        ∧ t.media = s.media ∧ t.mem = s.mem)

/-- Recovery, relocation, patrol, refresh and the replay after a power failure (R65, R115, R118, R181, R264–R270, R280, R281,
R284–R287, R290).
Clauses rest on choices of the model, log entries 2, 106, 119, 120, 222, 223. -/
def Obligations.RecoveryAndPatrol : Prop :=
  (∀ (maddr : Nat) (l : Ladder) (s : State), ladderAt s maddr = some l → l.waiting = false → l.step ≤ 5 →
    Answers (exec (.ladderStep maddr .passed) s) fun t => ladderAt t maddr = none ∧ t.obj.chunks = s.obj.chunks ∧ t.media = s.media)
  ∧ (∀ (maddr : Nat) (info : List Byte) (l : Ladder) (s : State), ladderAt s maddr = some l → l.waiting = false → 6 ≤ l.step →
      recoveredOk s maddr info = true → Answers (exec (.ladderStep maddr (.rebuilt info)) s) fun t =>
        ladderAt t maddr = none ∧ (tget BandNote.none t.bands (bandKey (maddrSpindle maddr) (maddrBand maddr))).refreshDays = some 0
          ∧ t.obj.chunks = s.obj.chunks ∧ t.media = s.media)
  ∧ (∀ (maddr : Nat) (info : List Byte) (l : Ladder) (s : State), ladderAt s maddr = some l → l.waiting = false → 6 ≤ l.step →
      recoveredOk s maddr info = false → exec (.ladderStep maddr (.rebuilt info)) s = exec (.ladderStep maddr .failed) s)
  ∧ (∀ (maddr : Nat) (l : Ladder) (s : State), ladderAt s maddr = some l → l.waiting = false → l.step < lastStep s →
      Answers (exec (.ladderStep maddr .failed) s) fun t =>
        (∃ l', ladderAt t maddr = some l' ∧ l'.step = l.step + 1 ∧ l'.tags = l.tags) ∧ t.obj.chunks = s.obj.chunks)
  ∧ (∀ (maddr key : Nat) (l : Ladder) (s : State), ladderAt s maddr = some l → l.waiting = false → lastStep s ≤ l.step → ownerOf s maddr = some key →
      (chunkAt s key).staged = false → calm s → Answers (exec (.ladderStep maddr .failed) s) fun t =>
        ladderAt t maddr = none ∧ chunkAt t key = { chunkAt s key with poison := true, dirty := true }
          ∧ (∀ j, j ≠ key → chunkAt t j = chunkAt s j) ∧ t.mem = s.mem)
  ∧ (∀ (k m : Nat) (l : Ladder) (s : State), tlerOf s k ≠ 0 → ladderAt s m = some l → l.tags.contains k = true → l.step ≤ 5 →
      Answers (exec (.tlerExpire k) s) fun t =>
        (∃ l', ladderAt t m = some l' ∧ l'.tags = [] ∧ l'.background = true ∧ l'.step = l.step)
          ∧ ((tagAt s k).sc = 0 → (tagAt t k).sct = 2 ∧ (tagAt t k).sc = 0x81) ∧ t.obj = s.obj ∧ t.regs = s.regs ∧ t.mem = s.mem)
  ∧ (∀ (handle chunk newMaddr : Nat) (s : State), (chunkAt s (chunkKey handle chunk)).count ≠ 0 → (chunkAt s (chunkKey handle chunk)).staged = false →
      bandTakes s newMaddr (chunkAt s (chunkKey handle chunk)).count = true → Answers (exec (.relocateChunk handle chunk newMaddr) s) fun t =>
        chunkAt t (chunkKey handle chunk) = { chunkAt s (chunkKey handle chunk) with tier := 0, loc := locOfMaddr newMaddr, staged := false, dirty := true }
          ∧ ∀ j, j ≠ chunkKey handle chunk → chunkAt t j = chunkAt s j)
  ∧ (∀ (handle chunk newMaddr : Nat) (s : State), (chunkAt s (chunkKey handle chunk)).staged = true → tombAt s handle chunk = none →
      Answers (exec (.relocateChunk handle chunk newMaddr) s) fun t =>
        rn t Reg.locCasfail = min 0xFFFF_FFFF (rn s Reg.locCasfail + 1) ∧ t.obj = s.obj ∧ t.media = s.media ∧ t.mem = s.mem)
  ∧ (∀ (i : Fin 8) (band hard soft years : Nat) (deep : Bool) (s : State), s.lat.mig.active = false → atSpeed s i = true → band < 2 ^ 21 →
      Answers (exec (.patrolBand i band hard soft years deep) s) fun t =>
        (tget BandNote.none t.bands (bandKey i band)).hard = hard ∧ (tget BandNote.none t.bands (bandKey i band)).soft = soft
          ∧ (deep = true → (tget BandNote.none t.bands (bandKey i band)).refreshDays = some 0)
          ∧ (8 ≤ hard → ∃ d, (tget BandNote.none t.bands (bandKey i band)).refreshDays = some d ∧ d ≤ 7) ∧ t.regs = s.regs ∧ t.mem = s.mem)
  ∧ (∀ (i : Fin 8) (behind : Nat) (s : State), 7 < behind → s.pmu.waitQ = [] → (s.spn i).st = .stopped → s.lat.mig.active = false →
      spnHears s i = true → (s.spn i).failed = false → Answers (exec (.patrolSpinup i behind) s) fun t =>
        (t.spn i).st = .listen ∧ (∀ j : Fin 8, j ≠ i → t.spn j = s.spn j) ∧ t.mem = s.mem)
  ∧ (∀ (i : Fin 8) (band : Nat) (s : State), s.obj.readers.contains (i.val, band) = false →
      (∀ g j, groupOf s i band = some (g, j) → (groupAt s g).st ≠ .rebuild) →
      dirtyFits s (((chunksInBand s i band).map fun k => 4128 * (chunkAt s k).count).sum) = true → Answers (exec (.bandRefresh i band) s) fun t =>
        (∀ k ∈ chunksInBand s i band, (chunkAt s k).count ≠ 0 → (chunkAt t k).staged = true ∧ (chunkAt t k).data = (chunkAt s k).data)
          ∧ tget BandNote.none t.bands (bandKey i band) = BandNote.none ∧ t.regs = s.regs ∧ t.mem = s.mem)
  ∧ (∀ (rec : SMap Chunk) (s : State), s.obj.pfRecord = some rec → s.ms.ready = true → (rec.map (·.1)).Nodup →
      (∀ i ∈ zonelessSpindles s, serves s i = false) → Answers (exec (.powerFailReplay true []) s) fun t =>
        t.obj.pfRecord = none ∧ (∀ e ∈ rec, chunkAt t e.1 = e.2) ∧ (∀ k, k ∉ rec.map (·.1) → chunkAt t k = chunkAt s k)
          ∧ (s.boot = .bufferReady → rf t Reg.sysBootstat 0 8 = 13 ∧ t.geom = (loadZones s).geom)
          ∧ regsSameBut s t [Reg.sysBootstat] ∧ t.mem = s.mem)
  ∧ (∀ (ok : Bool) (missing : List (Nat × Nat)) (s : State), s.obj.pfRecord = none → rbit s Reg.sysRstcause 5 = true → calm s →
      (∀ i ∈ zonelessSpindles s, serves s i = false) → Answers (exec (.powerFailReplay ok missing) s) fun t =>
        t.obj = { s.obj with critWarn := s.obj.critWarn ||| 16 } ∧ regsSameBut s t [Reg.sysBootstat] ∧ t.mem = s.mem)

/-- The flash tier: bring-up, reads, programs, checkpoints (R385, R392–R394, R397–R399, R402, R404, R412, R413).
Clauses rest on choices of the model, log entries 2, 136, 138, 141, 224, 225, 226. -/
def Obligations.FlashTier : Prop :=
  (∀ (ts : List TargetInfo) (g : Nat) (s : State), s.ms.ready = true → s.fct.ready = false → s.pf.active = false → refGeom ts = some g →
    Answers (exec (.facetBringup ts) s) fun t =>
      t.fct.ready = true ∧ t.fct.geom = putBit g 0 true ∧ rbit t Reg.fctCtl 0 = true ∧ t.fct.victim = none
        ∧ (s.fct.formatted = false → t.fct.map = [] ∧ t.fct.journal = [] ∧ t.fct.formatted = true)
        ∧ (s.fct.formatted = true → t.fct.jseq = s.fct.jFlash ∧ t.fct.data = s.fct.data) ∧ (calm s → t.obj.chunks = s.obj.chunks) ∧ t.mem = s.mem)
  ∧ (∀ (ts : List TargetInfo) (s : State), s.ms.ready = true → s.fct.ready = false → s.pf.active = false → refGeom ts = none →
      Answers (exec (.facetBringup ts) s) fun t =>
        rbit t Reg.fctCtl 0 = true ∧ t.fct = s.fct ∧ regsSameBut s t [Reg.fctCtl, Reg.sysBootstat])
  ∧ (∀ (f : Nat) (r : FlashReads) (s : State), s.fct.ready = true → flaValid s f = true → flashAt s f = none →
      Answers (exec (.flashRead f r) s) fun t =>
        t.resp.data = (if tget 0 s.fct.disk f = 0 then 0 else BitVec.ofNat 64 (ofBytes ((diskInfo s f).take 8))) ∧ t.resp.err = false
          ∧ t.fct.map = s.fct.map ∧ t.obj = s.obj ∧ t.mem = s.mem)
  ∧ (∀ (f k : Nat) (r : FlashReads) (s : State), s.fct.ready = true → flaValid s f = true → flashAt s f = some k →
      (slotEnd s (k / 2 ^ 24) (k % 2 ^ 24) r).step ≤ 3 → Answers (exec (.flashRead f r) s) fun t =>
        t.resp.data = BitVec.ofNat 64 (ofBytes ((codewordInfo (slotSeed s (k / 2 ^ 24) (k % 2 ^ 24))
            (tget [] s.fct.data (slotRef (k / 2 ^ 24) (k % 2 ^ 24)))).take 8))
          ∧ t.resp.err = false ∧ t.fct.map = s.fct.map ∧ t.fct.data = s.fct.data ∧ t.fct.weak = s.fct.weak
          ∧ (flaSpace f ≠ 0 ∨ ownerOfFla s f = none → t.obj = s.obj) ∧ t.mem = s.mem)
  ∧ (∀ (f k : Nat) (r : FlashReads) (s : State), s.fct.ready = true → flaValid s f = true → flashAt s f = some k → flaSpace f ≠ 0 →
      (flaSpace f = 2 → (slotEnd s (k / 2 ^ 24) (k % 2 ^ 24) r).step ≤ 4) → Answers (exec (.flashRead f r) s) fun t =>
        let e := slotEnd s (k / 2 ^ 24) (k % 2 ^ 24) r
        t.resp.err = decide (e.step = 5)
          ∧ rn t Reg.fctXorreb = (if e.step = 4 then min 0xFFFF_FFFF (rn s Reg.fctXorreb + 1) else rn s Reg.fctXorreb)
          ∧ rn t Reg.fctUncorr = (if e.step = 5 then min 0xFFFF_FFFF (rn s Reg.fctUncorr + 1) else rn s Reg.fctUncorr)
          ∧ rbit t Reg.fctIrqstat 2 = (rbit s Reg.fctIrqstat 2 || decide (e.step = 5)) ∧ (e.step = 4 → k / 2 ^ 24 ∈ t.fct.weak)
          ∧ t.fct.map = s.fct.map ∧ t.fct.data = s.fct.data ∧ t.obj = s.obj ∧ t.mem = s.mem)
  ∧ (∀ (f k key : Nat) (r : FlashReads) (s : State), s.fct.ready = true → flaValid s f = true → flashAt s f = some k →
      (slotEnd s (k / 2 ^ 24) (k % 2 ^ 24) r).step = 5 → flaSpace f = 0 → ownerOfFla s f = some key → (chunkAt s key).staged = false → calm s →
      Answers (exec (.flashRead f r) s) fun t =>
        t.resp.err = true ∧ chunkAt t key = { chunkAt s key with poison := true, dirty := true } ∧ t.mem = s.mem)
  ∧ (∀ (stream n f : Nat) (bs : List Byte) (s s' : State), mayProgram s stream = true → flaValid s f = true →
      streamSpace stream = some (flaSpace f) → ensureSb s stream = some (n, s') → 1 ≤ pageRoom s' (sbAt s' n) →
      (sbAt s' n).slots.length + fDie s.fct.geom ≤ 2 ^ 24 → bs.length = 4128 →
      Answers (exec (.flashProgram stream [(f, bs)] none) s) fun t =>
        flashBytes t f = bs ∧ (∀ g, g ≠ f → flashAt t g = flashAt s g) ∧ t.regs = s.regs ∧ t.obj = s.obj ∧ t.mem = s.mem)
  ∧ (∀ (stream n f : Nat) (bs : List Byte) (plane : Fin 4) (s s' : State), mayProgram s stream = true → flaValid s f = true →
      streamSpace stream = some (flaSpace f) → ensureSb s stream = some (n, s') → 1 ≤ pageRoom s' (sbAt s' n) → quiet s .fct →
      Answers (exec (.flashProgram stream [(f, bs)] (some plane)) s) fun t =>
        rbit t (aFstat .fct) 0 = true ∧ (sbAt t n).st = .closed ∧ n ∈ t.fct.weak ∧ t.fct.map = s.fct.map ∧ t.mem = s.mem)
  ∧ (∀ (f : Nat) (bs : List Byte) (m : Nat × Nat) (s : State), s.fct.ready = true → s.fct.mode = .retired → flaValid s f = true →
      flaSpace f ≠ 0 → reservedBand s = some m → bandPtr s m.1 m.2 ≠ 0 → Answers (exec (.flashProgram 15 [(f, bs)] none) s) fun t =>
        tget 0 t.fct.disk f = maddrOf m.1 m.2 (bandPtr s m.1 m.2) + 1 ∧ flashAt t f = none
          ∧ (∀ g, g ≠ f → flashAt t g = flashAt s g ∧ tget 0 t.fct.disk g = tget 0 s.fct.disk g))
  ∧ (∀ (stream : Nat) (l : List (Nat × List Byte)) (fail : Option (Fin 4)) (s : State), stream ≠ 15 → mayProgram s stream = false →
      exec (.flashProgram stream l fail) s = .next (settle s))
  ∧ (∀ s : State, s.fct.ready = true → s.pf.step3 = false → Answers (exec .checkpoint s) fun t =>
      t.fct = { s.fct with ckptSeq := s.fct.ckptSeq + 1, ckptJ := s.fct.jseq, ckptMap := s.fct.map, journal := [], jFlash := s.fct.jseq }
        ∧ t.regs = s.regs ∧ t.obj = s.obj ∧ t.mem = s.mem)

/-- Dies that fail, reclaim, fold, erase and patrol (R401, R405–R407, R410, R413).
Clauses rest on choices of the model, log entries 2, 139, 141, 225. -/
def Obligations.FlashReclaim : Prop :=
  (∀ (die : Fin 256) (s : State), s.fct.ready = true → s.fct.dies.contains die.val = true → dieFailed s die = false → quiet s .fct →
    Answers (exec (.dieFail die) s) fun t =>
      dieFailed t die = true ∧ rbit t (aFstat .fct) 2 = true ∧ rbit t Reg.fctIrqstat 3 = true ∧ t.fct.map = s.fct.map
        ∧ (∀ e ∈ s.fct.sbs, e.2.st ≠ .erased → e.1 / 16384 = die.val % 32 / fctDpg s → e.1 ∈ t.fct.weak) ∧ t.mem = s.mem)
  ∧ (∀ (v : Nat) (s : State), s.fct.ready = true → rbit s Reg.fctCtl 2 = true → s.pf.step3 = false → s.fct.victim = some v →
      s.fct.folding = false → (sbAt s v).st = .closed → copiesDurable s = true → Answers (exec .reclaim s) fun t =>
        sbAt t v = { sbAt s v with st := .erasing } ∧ t.fct.jFlash = t.fct.jseq ∧ t.fct.map = s.fct.map ∧ t.regs = s.regs ∧ t.mem = s.mem)
  ∧ (∀ (v : Nat) (s : State), s.fct.ready = true → rbit s Reg.fctCtl 2 = true → s.pf.step3 = false → s.fct.victim = none →
      (∀ e ∈ s.fct.sbs, e.2.st ≠ .unknown) → nextVictim s = some v → (sbAt s v).st = .closed → validFlas s v = [] →
      Answers (exec .reclaim s) fun t =>
        (sbAt t v).st = .erasing ∧ t.fct.victim = some v ∧ t.fct.folding = false ∧ rget t Reg.fctVictim = BitVec.ofNat 64 v
          ∧ rget t Reg.fctVscore = BitVec.ofNat 64 (unsgn 32 (sbScore s v)) ∧ t.obj = s.obj ∧ t.mem = s.mem)
  ∧ (∀ s : State, s.fct.ready = true → rbit s Reg.fctCtl 2 = true → s.pf.step3 = false → s.fct.victim = none →
      (∀ e ∈ s.fct.sbs, e.2.st ≠ .unknown) → nextVictim s = none → exec .reclaim s = .next (settle s))
  ∧ (∀ (v : Nat) (s : State), s.fct.ready = true → rbit s Reg.fctCtl 3 = true → s.pf.step3 = false → s.fct.victim = none →
      freeSlc s < rf s Reg.fctSlccfg 16 8 → foldVictim s = some v → validFlas s v = [] → Answers (exec .fold s) fun t =>
        t.fct.victim = some v ∧ t.fct.folding = true ∧ (sbAt t v).st = (sbAt s v).st ∧ t.obj = s.obj ∧ t.mem = s.mem)
  ∧ (∀ (v : Nat) (s : State), s.fct.ready = true → rbit s Reg.fctCtl 3 = true → s.pf.step3 = false → s.fct.victim = some v →
      s.fct.folding = true → (sbAt s v).st = .closed → copiesDurable s = true → Answers (exec .fold s) fun t =>
        sbAt t v = { sbAt s v with st := .erasing } ∧ t.fct.victim = some v ∧ t.fct.map = s.fct.map ∧ t.regs = s.regs)
  ∧ (∀ s : State, s.fct.ready = true → rbit s Reg.fctCtl 3 = true → s.pf.step3 = false → s.fct.victim = none →
      rf s Reg.fctSlccfg 16 8 ≤ freeSlc s → exec .fold s = .next (settle s))
  ∧ (∀ (v : Nat) (s : State), s.fct.victim = some v → (sbAt s v).st = .erasing → Answers (exec (.flashEraseDone none) s) fun t =>
      sbAt t v = { sbAt s v with st := .erased, slots := [], members := [], pec := (sbAt s v).pec + 1 } ∧ t.fct.victim = none
        ∧ t.fct.data = s.fct.data.filter (fun e => decide (e.1 / 2 ^ 24 ≠ v)) ∧ t.fct.map = s.fct.map ∧ t.mem = s.mem)
  ∧ (∀ (v m d : Nat) (plane : Fin 4) (s : State), s.fct.victim = some v → (sbAt s v).st = .erasing → (sbAt s v).members[m]? = some d →
      quiet s .fct → Answers (exec (.flashEraseDone (some (m, plane))) s) fun t => rbit t (aFstat .fct) 1 = true ∧ t.fct.victim = none)
  ∧ (∀ (die : Fin 256) (plane : Fin 4) (block n : Nat) (x : Sb) (r : FlashReads) (s : State), s.fct.ready = true → rbit s Reg.fctCtl 1 = true →
      s.pf.step3 = false → (s.fct.sbs.find? fun e => e.1 % 16384 = block && e.2.members.contains die.val && e.2.slots ≠ []
        && e.2.st ≠ .unknown && e.2.st ≠ .erasing) = some (n, x) →
      (blockEnd s n ((posOf x.members die.val).getD 0) plane.val 0 r).step = 1 →
      Answers (exec (.flashPatrol die plane block [r]) s) fun t =>
        let e := blockEnd s n ((posOf x.members die.val).getD 0) plane.val 0 r
        t.fct.weak = (if (rf s Reg.fctPatrolctl 8 6 ≤ e.iters ∨ rf s Reg.fctPatrolctl 16 16 ≤ e.bits) ∧ s.fct.weak.contains n = false
            then s.fct.weak ++ [n] else s.fct.weak)
          ∧ (if programmedBlocks s ≤ s.fct.patrolPos + 1 then t.fct.patrolPos = 0 ∧ rbit t Reg.fctIrqstat 4 = true
            else t.fct.patrolPos = s.fct.patrolPos + 1)
          ∧ t.fct.map = s.fct.map ∧ t.mem = s.mem)

/-- Scrub, self-refresh, the logs of corrected errors, SPD.CLEAR and retirement (R423, R428, R429, R431, R437, R441, R442, R446).
Clauses rest on choices of the model, log entries 2, 143. -/
def Obligations.MemoryUpkeep : Prop :=
  (∀ s : State, scrubs s = true → eccOf s (scrubWord s.ms.scrubPos) = none → Answers (exec (.scrubRead none) s) fun t =>
    t.ms = { s.ms with scrubPos := if bufWords s ≤ scrubWord s.ms.scrubPos + 1 then 0 else scrubPlace (scrubWord s.ms.scrubPos + 1) }
      ∧ t.regs = s.regs ∧ t.mem = s.mem)
  ∧ (∀ (sym : Fin 36) (s : State), scrubs s = true → scrubWord s.ms.scrubPos < 0x1_0000_0000 →
      Answers (exec (.scrubRead (some (.corr sym))) s) fun t =>
        eccOf t (scrubWord s.ms.scrubPos) = none ∧ rn t Reg.bufCecnt = min 0xFFFF_FFFF (rn s Reg.bufCecnt + 1)
          ∧ (∀ w, w ≠ scrubWord s.ms.scrubPos → eccOf t w = eccOf s w) ∧ t.mem = s.mem)
  ∧ (∀ s : State, scrubs s = true → scrubWord s.ms.scrubPos < 0x1_0000_0000 → quiet s .buf →
      Answers (exec (.scrubRead (some .unc)) s) fun t =>
        eccOf t (scrubWord s.ms.scrubPos) = some .unc ∧ rn t Reg.bufUecnt = min 0xFFFF_FFFF (rn s Reg.bufUecnt + 1)
          ∧ rbit t (aFstat .buf) 0 = true ∧ t.mem = s.mem)
  ∧ (∀ s : State, s.ms.selfref = true → s.ms.ready = false → s.ms.init = false → s.ms.gib ≠ 0 → Answers (exec .bufSelfrefExit s) fun t =>
      t.ms = { s.ms with ready := true, selfref := false } ∧ t.regs = s.regs ∧ t.mem = s.mem)
  ∧ (∀ (spd : Bool) (v : Word) (s : State), Answers (exec (.celogclrWrite spd v) s) fun t =>
      (∀ i : Fin 16, vget t.ms.spdLog i = (if spd = true ∧ i.val = v.toNat % 16 then none else vget s.ms.spdLog i))
        ∧ (∀ i : Fin 16, vget t.ms.bufLog i = (if spd = false ∧ i.val = v.toNat % 16 then none else vget s.ms.bufLog i))
        ∧ t.regs = s.regs ∧ t.mem = s.mem)
  ∧ (∀ (v : Word) (s : State), v.toNat / 2 ^ 16 = 0xC4E5 → Answers (exec (.spdClear v) s) fun t =>
      (∀ (b : Fin 4) (a : Nat), v.toNat.testBit b = true → spdBase b ≤ a → a < spdBase b + spdSize b →
        mget t.mem a = 0 ∧ tget false t.ms.spdValid (a / 16) = false)
        ∧ (∀ a, (∀ b : Fin 4, v.toNat.testBit b = true → a < spdBase b ∨ spdBase b + spdSize b ≤ a) →
          mget t.mem a = mget s.mem a ∧ tget false t.ms.spdValid (a / 16) = tget false s.ms.spdValid (a / 16)) ∧ t.regs = s.regs)
  ∧ (∀ (v : Word) (s : State), v.toNat / 2 ^ 16 ≠ 0xC4E5 → exec (.spdClear v) s = .next (settle s) ∧ exec (.bankret v) s = .next (settle s))
  ∧ (∀ (b i : Fin 4) (v : Word) (s : State), vget s.ms.retire (retireIx b i) = none → Answers (exec (.pageRetire b i v) s) fun t =>
      rn t (Reg.spdRetire (retireIx b i).val) = min (v.toNat % 2 ^ 11) (spdLastPage b)
        ∧ vget t.ms.retire (retireIx b i) = (if v.toNat.testBit 31 then some (min (v.toNat % 2 ^ 11) (spdLastPage b), true) else none)
        ∧ (∀ j : Fin 16, j ≠ retireIx b i → vget t.ms.retire j = vget s.ms.retire j)
        ∧ regsSameBut s t [Reg.spdRetire (retireIx b i).val] ∧ t.mem = s.mem)
  ∧ (∀ (b i : Fin 4) (v : Word) (s : State), vget s.ms.retire (retireIx b i) ≠ none → exec (.pageRetire b i v) s = .next (settle s))
  ∧ (∀ (b i : Fin 4) (p : Nat) (s : State), vget s.ms.retire (retireIx b i) = some (p, true) →
      Answers (exec (.retireCopyDone b i) s) fun t =>
        vget t.ms.retire (retireIx b i) = some (p, false)
          ∧ (∀ j : Fin 16, j ≠ retireIx b i → vget t.ms.retire j = vget s.ms.retire j) ∧ t.mem = s.mem)
  ∧ (∀ (v : Word) (s : State), v.toNat / 2 ^ 16 = 0xC4E5 → Answers (exec (.bankret v) s) fun t =>
      (∀ b : Fin 4, t.ms.bankRet.toNat.testBit b = (s.ms.bankRet.toNat.testBit b || (v.toNat.testBit b && (b = 0 || b = 3))))
        ∧ t.regs = s.regs ∧ t.mem = s.mem)

/-- Register and immediate operations of the control cores (R447, R449, R451, R453, R454).
Clauses rest on choices of the model, log entries 2, 42, 43, 44. -/
def Obligations.CoreArithmetic : Prop :=
  (∀ p ∈ ([(Instr.add, fun a b => a + b), (Instr.sub, fun a b => a - b), (Instr.and, fun a b => a &&& b), (Instr.or, fun a b => a ||| b),
      (Instr.xor, fun a b => a ^^^ b), (Instr.sll, fun a b => a <<< (b.toNat % 64)), (Instr.srl, fun a b => a >>> (b.toNat % 64)),
      (Instr.sra, fun a b => a.sshiftRight (b.toNat % 64)), (Instr.ror, fun a b => a.rotateRight (b.toNat % 64)),
      (Instr.slt, fun a b => if a.toInt < b.toInt then 1 else 0), (Instr.sltu, fun a b => if a.toNat < b.toNat then 1 else 0),
      (Instr.min, fun a b => if a.toInt < b.toInt then a else b), (Instr.max, fun a b => if a.toInt < b.toInt then b else a),
      (Instr.minu, fun a b => if a.toNat < b.toNat then a else b), (Instr.maxu, fun a b => if a.toNat < b.toNat then b else a),
      (Instr.mul, fun a b => BitVec.ofNat 64 (a.toNat * b.toNat)), (Instr.mulh, fun a b => BitVec.ofInt 64 (a.toInt * b.toInt / 2 ^ 64)),
      (Instr.mulhu, fun a b => BitVec.ofNat 64 (a.toNat * b.toNat / 2 ^ 64)),
      (Instr.div, fun a b => if b = 0 then BitVec.ofInt 64 (-1) else BitVec.ofInt 64 (a.toInt.tdiv b.toInt)),
      (Instr.divu, fun a b => if b = 0 then BitVec.ofInt 64 (-1) else BitVec.ofNat 64 (a.toNat / b.toNat)),
      (Instr.rem, fun a b => if b = 0 then a else BitVec.ofInt 64 (a.toInt - b.toInt * a.toInt.tdiv b.toInt)),
      (Instr.remu, fun a b => BitVec.ofNat 64 (a.toNat % b.toNat))]
      : List ((Fin 8 → RForm → Instr) × (DWord → DWord → DWord))),
    ∀ (c : Fin 8) (o : RForm) (s : State),
      (canExecute s c = true → o.rsv = 0 → exec (p.1 c o) s
        = .next (settle (retired (fetched s c) c o.rd (p.2 (gAt (fetched s c) c o.ra) (gAt (fetched s c) c o.rb)))))
      ∧ (canExecute s c = true → o.rsv ≠ 0 → trapStackFull ((fetched s c).core c) = false → Answers (exec (p.1 c o) s) fun t =>
        TrapEntered ((fetched s c).core c) (t.core c) 1 0 0 none)
      ∧ (coreRuns s c = true → boundaryDue s c = false → (fetchAt s c (s.core c).pc.toNat).1 = false →
        inTrapTable ((fetched s c).core c) (s.core c).pc.toNat = false → trapStackFull ((fetched s c).core c) = false →
        Answers (exec (p.1 c o) s) fun t => TrapEntered ((fetched s c).core c) (t.core c) 3 0 (s.core c).pc.toNat none)
      ∧ (coreRuns s c = false → exec (p.1 c o) s = .next (settle s)))
  ∧ (∀ p ∈ ([(Instr.clz, fun a => BitVec.ofNat 64 (leadZeros 64 a.toNat)), (Instr.ctz, fun a => BitVec.ofNat 64 (trailZeros 64 a.toNat)),
      (Instr.popc, fun a => BitVec.ofNat 64 (popcount 64 a.toNat)), (Instr.bswap, fun a => BitVec.ofNat 64 (ofBytes (toBytes 8 a.toNat).reverse))]
      : List ((Fin 8 → RForm → Instr) × (DWord → DWord))),
    ∀ (c : Fin 8) (o : RForm) (s : State), canExecute s c = true →
      (o.rsv = 0 → o.rb = 0 → exec (p.1 c o) s = .next (settle (retired (fetched s c) c o.rd (p.2 (gAt (fetched s c) c o.ra)))))
      ∧ (o.rsv ≠ 0 ∨ o.rb ≠ 0 → trapStackFull ((fetched s c).core c) = false → Answers (exec (p.1 c o) s) fun t =>
        TrapEntered ((fetched s c).core c) (t.core c) 1 0 0 none))
  ∧ (∀ p ∈ ([(Instr.addi, fun a i => a + i.signExtend 64), (Instr.andi, fun a i => a &&& i.zeroExtend 64),
      (Instr.ori, fun a i => a ||| i.zeroExtend 64), (Instr.xori, fun a i => a ^^^ i.zeroExtend 64),
      (Instr.slti, fun a i => if a.toInt < i.toInt then 1 else 0), (Instr.sltiu, fun a i => if a.toNat < (i.signExtend 64).toNat then 1 else 0)]
      : List ((Fin 8 → IForm → Instr) × (DWord → BitVec 16 → DWord))),
    ∀ (c : Fin 8) (o : IForm) (s : State), canExecute s c = true →
      exec (p.1 c o) s = .next (settle (retired (fetched s c) c o.rd (p.2 (gAt (fetched s c) c o.ra) o.imm))))
  ∧ (∀ p ∈ ([(Instr.shiSll, fun a n => a <<< n), (Instr.shiSrl, fun a n => a >>> n), (Instr.shiSra, fun a n => a.sshiftRight n),
      (Instr.shiRor, fun a n => a.rotateRight n)] : List ((Fin 8 → ShForm → Instr) × (DWord → Nat → DWord))),
    ∀ (c : Fin 8) (o : ShForm) (s : State), canExecute s c = true →
      (o.rsv = 0 → exec (p.1 c o) s = .next (settle (retired (fetched s c) c o.rd (p.2 (gAt (fetched s c) c o.ra) o.cnt.toNat))))
      ∧ (o.rsv ≠ 0 → trapStackFull ((fetched s c).core c) = false → Answers (exec (p.1 c o) s) fun t =>
        TrapEntered ((fetched s c).core c) (t.core c) 1 0 0 none))
  ∧ (∀ (c : Fin 8) (o : KForm) (s : State), canExecute s c = true →
      exec (.ldc c o) s = .next (settle (retired (fetched s c) c o.rd (BitVec.ofInt 64 o.imm.toInt)))
        ∧ exec (.shc c o) s
          = .next (settle (retired (fetched s c) c o.rd (BitVec.ofNat 64 ((gAt (fetched s c) c o.rd).toNat * 2 ^ 21 + o.imm.toNat)))))
  ∧ (∀ (c : Fin 8) (o : FForm) (s : State), canExecute s c = true → o.pos.toNat + o.lenm1.toNat + 1 ≤ 64 →
      exec (.bfx c o) s = .next (settle (retired (fetched s c) c o.rd
          (BitVec.ofNat 64 ((gAt (fetched s c) c o.ra).toNat / 2 ^ o.pos.toNat % 2 ^ (o.lenm1.toNat + 1)))))
        ∧ exec (.bfxs c o) s = .next (settle (retired (fetched s c) c o.rd
          (BitVec.ofInt 64 (sgn (o.lenm1.toNat + 1) ((gAt (fetched s c) c o.ra).toNat / 2 ^ o.pos.toNat)))))
        ∧ Answers (exec (.bfi c o) s) fun t => (t.core c).pc = pcOf (((fetched s c).core c).pc + 4) ∧ (o.rd ≠ 0 → ∀ i, i < 64 → (gAt t c o.rd).toNat.testBit i =
          (if o.pos.toNat ≤ i ∧ i ≤ o.pos.toNat + o.lenm1.toNat then (gAt (fetched s c) c o.ra).toNat.testBit (i - o.pos.toNat)
            else (gAt (fetched s c) c o.rd).toNat.testBit i)) ∧ ∀ r, r ≠ o.rd → gAt t c r = gAt (fetched s c) c r)
  ∧ (∀ (c : Fin 8) (o : FForm) (s : State), canExecute s c = true → 64 < o.pos.toNat + o.lenm1.toNat + 1 →
      trapStackFull ((fetched s c).core c) = false → Answers (exec (.bfi c o) s) fun t => TrapEntered ((fetched s c).core c) (t.core c) 1 0 0 none)

/-- Loads, stores and atomics of the control cores (R432, R455–R457, R461, R501, R502).
Clauses rest on choices of the model, log entries 2, 42, 45. -/
def Obligations.CoreMemory : Prop :=
  (∀ p ∈ ([(Instr.ldB, 1, true), (Instr.ldBu, 1, false), (Instr.ldH, 2, true), (Instr.ldHu, 2, false), (Instr.ldW, 4, true),
      (Instr.ldWu, 4, false), (Instr.ldD, 8, false)] : List ((Fin 8 → IForm → MemEv → Instr) × Nat × Bool)),
    ∀ (c : Fin 8) (o : IForm) (e : MemEv) (s : State), canExecute s c = true →
      let f := fetched s c
      let a := (gAt f c o.ra + o.imm.signExtend 64).toNat
      let ext := fun v => if p.2.2 then BitVec.ofInt 64 (sgn (8 * p.2.1) v) else BitVec.ofNat 64 v
      (a % p.2.1 = 0 → plainBuffer f c a p.2.1 → e.upset = none →
        exec (p.1 c o e) s = .next (settle (retired f c o.rd (ext (readNat f.mem a p.2.1)))))
      ∧ (∀ x, a % p.2.1 = 0 → cachedAt f a = true → cacheOn f c false = true → lineAt (f.core c).dcache (a / 64) = some x → e.parity = false →
        x.valid.toNat.testBit (a % 64 / 16) = true →
        exec (p.1 c o e) s = .next (settle (retired (useLine f c false x) c o.rd (ext (ofBytes ((x.bytes.drop (a % 64)).take p.2.1))))))
      ∧ (a % p.2.1 ≠ 0 → trapStackFull (f.core c) = false → Answers (exec (p.1 c o e) s) fun t =>
        TrapEntered (f.core c) (t.core c) 2 0 a none ∧ t.mem = f.mem)
      ∧ (a % p.2.1 = 0 → regionOf f a = .none → trapStackFull (f.core c) = false → quiet f .sys → Answers (exec (p.1 c o e) s) fun t =>
        (t.core c).f0.cause = 3 ∧ (t.core c).f0.pc = (f.core c).pc ∧ (t.core c).g = (f.core c).g ∧ rbit t (aFstat .sys) 0 = true ∧ t.mem = f.mem))
  ∧ (∀ p ∈ ([(Instr.stB, 1), (Instr.stH, 2), (Instr.stW, 4), (Instr.stD, 8)] : List ((Fin 8 → IForm → MemEv → Instr) × Nat)),
    ∀ (c : Fin 8) (o : IForm) (e : MemEv) (s : State), canExecute s c = true →
      let f := fetched s c
      let a := (gAt f c o.ra + o.imm.signExtend 64).toNat
      (a % p.2 = 0 → plainBuffer f c a p.2 → rbit f Reg.bufInject 0 = false → Answers (exec (p.1 c o e) s) fun t =>
        bytesWritten f.mem t.mem a p.2 (gAt f c o.rd).toNat ∧ t.core c = advanced (f.core c) ∧ t.regs = f.regs ∧ t.obj = f.obj)
      ∧ (∀ x, a % p.2 = 0 → cachedAt f a = true → cacheOn f c false = true → lineAt (f.core c).dcache (a / 64) = some x → e.parity = false →
        x.valid.toNat.testBit (a % 64 / 16) = true → Answers (exec (p.1 c o e) s) fun t =>
          t.mem = f.mem ∧ lineAt (t.core c).dcache (a / 64)
            = some { x with bytes := mergeBytes x.bytes (a % 64) (toBytes p.2 ((gAt f c o.rd).toNat % 2 ^ (8 * p.2)))
                            dirty := BitVec.ofNat 4 (putBit x.dirty.toNat (a % 64 / 16) true) }
          ∧ (t.core c).pc = pcOf ((f.core c).pc + 4) ∧ (t.core c).g = (f.core c).g ∧ t.regs = f.regs)
      ∧ (a % p.2 ≠ 0 → trapStackFull (f.core c) = false → Answers (exec (p.1 c o e) s) fun t =>
        TrapEntered (f.core c) (t.core c) 2 0 a none ∧ t.mem = f.mem)
      ∧ (a % p.2 = 0 → regionOf f a = .none → quiet f .sys → Answers (exec (p.1 c o e) s) fun t =>
        (t.core c).werr = some ((f.core c).werr.getD a) ∧ (t.core c).pc = pcOf ((f.core c).pc + 4) ∧ t.mem = f.mem))
  ∧ (∀ p ∈ ([(Instr.aaddW, 4, true), (Instr.aaddD, 8, true), (Instr.aswpW, 4, false), (Instr.aswpD, 8, false)]
      : List ((Fin 8 → RForm → Instr) × Nat × Bool)),
    ∀ (c : Fin 8) (o : RForm) (b : Fin 4) (s : State), canExecute s c = true → o.rsv = 0 →
      let f := fetched s c
      let a := (gAt f c o.ra).toNat
      (a % p.2.1 = 0 → regionOf f a = .spd b → b ≠ 0 → inService f a (.spd b) = true → votedGroup (a / 16) = none → eccOf f (a / 16) = none →
        injectReg f (a / 16) = none → Answers (exec (p.1 c o) s) fun t =>
          (t.core c).pc = pcOf ((f.core c).pc + 4)
          ∧ (∀ r, gAt t c r = if r = o.rd ∧ r ≠ 0 then BitVec.ofNat 64 (readNat f.mem a p.2.1) else gAt f c r)
          ∧ bytesWritten f.mem t.mem a p.2.1 (if p.2.2 then readNat f.mem a p.2.1 + (gAt f c o.rb).toNat else (gAt f c o.rb).toNat)
          ∧ t.regs = f.regs)
      ∧ (a % p.2.1 ≠ 0 → trapStackFull (f.core c) = false → Answers (exec (p.1 c o) s) fun t =>
        TrapEntered (f.core c) (t.core c) 2 0 a none ∧ t.mem = f.mem)
      ∧ (a % p.2.1 = 0 → regionOf f a = .buf → trapStackFull (f.core c) = false → quiet f .sys → Answers (exec (p.1 c o) s) fun t =>
        (t.core c).f0.cause = 3 ∧ (t.core c).g = (f.core c).g ∧ rbit t (aFstat .sys) 0 = true ∧ t.mem = f.mem))

/-- Fences and cache maintenance (R444, R451, R462, R463, R502–R504, R507).
Clauses rest on choices of the model, log entries 2, 45, 49, 50. -/
def Obligations.CoreMaintenance : Prop :=
  (∀ p ∈ ([Instr.fenceW, Instr.fenceR, Instr.fence] : List (Fin 8 → RForm → Instr)), ∀ (c : Fin 8) (o : RForm) (s : State),
    canExecute s c = true →
      (o.rsv = 0 → o.rd = 0 → o.ra = 0 → o.rb = 0 → exec (p c o) s = .next (settle (modCore (fetched s c) c advanced)))
      ∧ (o.rsv ≠ 0 ∨ o.rd ≠ 0 ∨ o.ra ≠ 0 ∨ o.rb ≠ 0 → trapStackFull ((fetched s c).core c) = false →
        Answers (exec (p c o) s) fun t => TrapEntered ((fetched s c).core c) (t.core c) 1 0 0 none))
  ∧ (∀ p ∈ ([(Instr.cclean, false), (Instr.cinval, false), (Instr.cflush, false), (Instr.iinval, true), (Instr.cpre, false), (Instr.ipre, true)]
      : List ((Fin 8 → CForm → Instr) × Bool)), ∀ (c : Fin 8) (o : CForm) (s : State), canExecute s c = true →
    let f := fetched s c
    let a := effAddr f c o.ra o.imm
    cachedAt f a = false ∨ cacheOn f c p.2 = false → exec (p.1 c o) s = .next (settle (modCore f c advanced)))
  ∧ (∀ (c : Fin 8) (o : CForm) (s : State), canExecute s c = true →
      let f := fetched s c
      let a := effAddr f c o.ra o.imm
      (cachedAt f a = true → cacheOn f c false = true →
        (Answers (exec (.cinval c o) s) fun t => (t.core c).dcache = withoutLine (f.core c).dcache (a / 64) ∧ t.mem = f.mem
            ∧ (t.core c).pc = pcOf ((f.core c).pc + 4))
        ∧ (Answers (exec (.cflush c o) s) fun t => lineAt (t.core c).dcache (a / 64) = none ∧ (t.core c).pc = pcOf ((f.core c).pc + 4)
            ∧ ∀ x, lineAt (f.core c).dcache (a / 64) = some x → t.mem = (wbLine (modCore f c advanced) c x).2.mem)
        ∧ (Answers (exec (.cclean c o) s) fun t => (t.core c).pc = pcOf ((f.core c).pc + 4)
            ∧ ∀ x, lineAt (f.core c).dcache (a / 64) = some x →
              lineAt (t.core c).dcache (a / 64) = some { x with dirty := 0 } ∧ t.mem = (wbLine (modCore f c advanced) c x).2.mem)
        ∧ Answers (exec (.cpre c o) s) fun t => (lineAt (t.core c).dcache (a / 64)).isSome = true ∧ (t.core c).pc = pcOf ((f.core c).pc + 4))
      ∧ (cachedAt f a = true → cacheOn f c true = true →
        (Answers (exec (.iinval c o) s) fun t => (t.core c).icache = withoutLine (f.core c).icache (a / 64) ∧ t.mem = f.mem
            ∧ (t.core c).pc = pcOf ((f.core c).pc + 4))
        ∧ Answers (exec (.ipre c o) s) fun t => (lineAt (t.core c).icache (a / 64)).isSome = true ∧ (t.core c).pc = pcOf ((f.core c).pc + 4)))

/-- Branches and jumps (R449, R450, R459, R464).
Clauses rest on choices of the model, log entries 2, 42. -/
def Obligations.CoreControl : Prop :=
  (∀ p ∈ ([(Instr.beq, fun a b => decide (a = b)), (Instr.bne, fun a b => decide (a ≠ b)), (Instr.blt, fun a b => decide (a.toInt < b.toInt)),
      (Instr.bge, fun a b => decide (b.toInt ≤ a.toInt)), (Instr.bltu, fun a b => decide (a.toNat < b.toNat)),
      (Instr.bgeu, fun a b => decide (b.toNat ≤ a.toNat))] : List ((Fin 8 → BForm → Instr) × (DWord → DWord → Bool))),
    ∀ (c : Fin 8) (o : BForm) (s : State), canExecute s c = true →
      let f := fetched s c
      exec (p.1 c o) s = .next (settle (modCore f c fun k => { k with
        pcsamp := k.pc
        pc := if p.2 (gAt f c o.ra) (gAt f c o.rb) then pcOf (k.pc + 4 * o.off.signExtend 64) else pcOf (k.pc + 4) })))
  ∧ (∀ (c : Fin 8) (o : BForm) (s : State), canExecute s c = true → o.ra = 0 → o.rb = 0 → Answers (exec (.blb c o) s) fun t =>
      let k := (fetched s c).core c
      (t.core c).pc = (if k.stat.toNat.testBit 4 then pcOf (k.pc + 4 * o.off.signExtend 64) else pcOf (k.pc + 4))
        ∧ (t.core c).stat.toNat.testBit 4 = false ∧ (∀ i, i ≠ 4 → (t.core c).stat.toNat.testBit i = k.stat.toNat.testBit i)
        ∧ (t.core c).g = k.g ∧ t.mem = (fetched s c).mem)
  ∧ (∀ (c : Fin 8) (off : BitVec 26) (s : State), canExecute s c = true → exec (.j c off) s
      = .next (settle (modCore (fetched s c) c fun k => { k with pcsamp := k.pc, pc := pcOf (k.pc + 4 * off.signExtend 64) })))
  ∧ (∀ (c : Fin 8) (o : KForm) (s : State), canExecute s c = true → Answers (exec (.jl c o) s) fun t =>
      let k := (fetched s c).core c
      (t.core c).pc = pcOf (k.pc + 4 * o.imm.signExtend 64) ∧ (o.rd ≠ 0 → gAt t c o.rd = pcOf (k.pc + 4))
        ∧ (∀ r, r ≠ o.rd → gAt t c r = gAt (fetched s c) c r) ∧ (t.core c).stat = k.stat ∧ t.mem = (fetched s c).mem)
  ∧ (∀ (c : Fin 8) (o : IForm) (s : State), canExecute s c = true → Answers (exec (.jlr c o) s) fun t =>
      let k := (fetched s c).core c
      (t.core c).pc = pcOf (gAt (fetched s c) c o.ra + o.imm.signExtend 64) ∧ (o.rd ≠ 0 → gAt t c o.rd = pcOf (k.pc + 4))
        ∧ (∀ r, r ≠ o.rd → gAt t c r = gAt (fetched s c) c r) ∧ (t.core c).stat = k.stat ∧ t.mem = (fetched s c).mem)

/-- System operations and XOP (R447, R448, R465–R467, R469, R471, R473, R477, R482–R484, R491).
Clauses rest on choices of the model, log entries 2, 53, 54, 55, 57, 64. -/
def Obligations.CoreSystem : Prop :=
  (∀ (c : Fin 8) (o : RForm) (s : State), canExecute s c = true →
    let f := fetched s c
    (∀ v, sprRead f c o.rb.toNat = some v → o.rsv = 0 → o.ra = 0 → exec (.mfs c o) s = .next (settle (retired f c o.rd v)))
    ∧ (sprRead f c o.rb.toNat = none → trapStackFull (f.core c) = false → Answers (exec (.mfs c o) s) fun t =>
      TrapEntered (f.core c) (t.core c) 1 0 0 none)
    ∧ (∀ k, sprWrite (f.core c) o.rb.toNat (gAt f c o.ra) = some k → o.rsv = 0 → o.rd = 0 →
      exec (.mts c o) s = .next (settle (modCore f c fun _ => advanced k)))
    ∧ (sprWrite (f.core c) o.rb.toNat (gAt f c o.ra) = none → trapStackFull (f.core c) = false → Answers (exec (.mts c o) s) fun t =>
      TrapEntered (f.core c) (t.core c) 1 0 0 none)
    ∧ (o.rsv = 0 → o.rd = 0 → o.ra = 0 → trapStackFull (f.core c) = false → Answers (exec (.trap c o) s) fun t =>
      TrapEntered (f.core c) (t.core c) 5 (256 * o.rb.toNat) 0 none ∧ t.mem = f.mem ∧ t.regs = f.regs)
    ∧ (o.rsv = 0 → o.rd = 0 → o.ra = 0 → o.rb = 0 → statDepth (f.core c) ≠ 0 → Answers (exec (.reti c o) s) fun t =>
      (t.core c).pc = pcOf (f.core c).f0.pc ∧ (t.core c).stat = (f.core c).f0.stat ∧ (t.core c).ipri = (f.core c).f0.pri
        ∧ (t.core c).f0 = (f.core c).f1 ∧ (t.core c).f1 = (f.core c).f1 ∧ (t.core c).g = (f.core c).g ∧ t.mem = f.mem)
    ∧ (o.rsv = 0 → o.rd = 0 → o.ra = 0 → o.rb = 0 → statDepth (f.core c) = 0 → trapStackFull (f.core c) = false →
      Answers (exec (.reti c o) s) fun t => TrapEntered (f.core c) (t.core c) 1 0 0 none)
    ∧ (o.rsv = 0 → o.rd = 0 → o.ra = 0 → o.rb = 0 → Answers (exec (.wfi c o) s) fun t =>
      (t.core c).pc = pcOf ((f.core c).pc + 4) ∧ (t.core c).g = (f.core c).g ∧ (t.core c).stat = (f.core c).stat
        ∧ (wfiEnds t c = false → (t.core c).run = .waiting) ∧ (wfiEnds t c = true → dieHeld f = false → (t.core c).run = .running))
    ∧ (o.rsv = 0 → o.rd = 0 → o.ra = 0 → o.rb = 0 → Answers (exec (.halt c o) s) fun t =>
      (t.core c).run = .halted ∧ (t.core c).pc = pcOf ((f.core c).pc + 4) ∧ (t.core c).g = (f.core c).g ∧ t.mem = f.mem)
    ∧ (o.rsv = 0 → Answers (exec (.post c o) s) fun t =>
      let a := (gAt f c o.ra).toNat
      let q := (gAt f c o.rb).toNat % 32
      (o.rd ≠ 0 → gAt t c o.rd = BitVec.ofNat 64 (postResult f a q)) ∧ (∀ r, r ≠ o.rd → gAt t c r = gAt f c r)
        ∧ (t.core c).pc = pcOf ((f.core c).pc + 4)
        ∧ (∀ j, queueAt t j = if j = q ∧ postResult f a q = 0 ∧ f.pf.step3 = false then queueAt f j ++ [a]
            else if 17 < j then queueAt t j else queueAt f j)
        ∧ (f.pf.step3 = false ∨ postResult f a q ≠ 0 → t.mem = f.mem ∧ t.regs = f.regs))
    ∧ (o.rsv = 0 → f.pf.step3 = true →
      let a := (gAt f c o.ra).toNat
      let q := (gAt f c o.rb).toNat % 32
      exec (.post c o) s = .next (settle (retired (if postResult f a q = 0 then flushDesc f a else f) c o.rd
        (BitVec.ofNat 64 (postResult f a q))))))
  ∧ (∀ (c : Fin 8) (o : XForm) (es : List XopEv) (s : State), canExecute s c = true → o.rsv = 0 →
      rbit (fetched s c) (Reg.mcsXopent o.xop.toNat) 15 = false → trapStackFull ((fetched s c).core c) = false →
      Answers (exec (.xop c o es) s) fun t => TrapEntered ((fetched s c).core c) (t.core c) 6 0 0 none)
  ∧ (∀ (c : Fin 8) (o : XForm) (v : DWord) (s : State), canExecute s c = true → o.rsv = 0 →
      let f := fetched s c
      let a := overlay f (0x3800 + rf f (Reg.mcsXopent o.xop.toNat) 0 11)
      let w := csWord f a
      rbit f (Reg.mcsXopent o.xop.toNat) 15 = true → copyOk f c a = true → uf w 71 4 = 1 → uf w 67 4 = 2 → uf w 63 4 = 3 → uf w 60 3 = 0 →
      uf w 53 4 = 0 → uf w 34 3 = 3 → microAlu w (gAt f c o.ra) (gAt f c o.rb) = some v → Answers (exec (.xop c o []) s) fun t =>
        (o.rd ≠ 0 → gAt t c o.rd = v) ∧ (∀ r, r ≠ o.rd → gAt t c r = gAt f c r) ∧ (t.core c).pc = pcOf ((f.core c).pc + 4)
          ∧ t.mem = f.mem ∧ t.regs = f.regs)

/-- Events at the boundary of a core, and the registers that start, reset and steer it (R41, R42, R468–R470, R479, R481, R506, R511).
Clauses rest on choices of the model, log entries 2, 49, 52, 58, 207. -/
def Obligations.CoreEvents : Prop :=
  (∀ (c : Fin 8) (a : Nat) (s : State), atBoundary s c = true → nmtDue s c = false → (s.core c).werr = some a → trapStackFull (s.core c) = false →
    Answers (exec (.buserrw c) s) fun t => TrapEntered (s.core c) (t.core c) 4 0 a none ∧ (t.core c).werr = none ∧ t.mem = s.mem ∧ t.regs = s.regs)
  ∧ (∀ (c : Fin 8) (a : Nat) (s : State), atBoundary s c = true → nmtDue s c = false → (s.core c).werr = some a → trapStackFull (s.core c) = true →
      quiet s .cpc → Answers (exec (.buserrw c) s) fun t =>
        (t.core c).run = .halted ∧ rbit t (aFstat .cpc) c.val = true ∧ (t.core c).pc = (s.core c).pc ∧ t.mem = s.mem)
  ∧ (∀ (c : Fin 8) (s : State), atBoundary s c = true → nmtDue s c = true → Answers (exec (.takeNmt c) s) fun t =>
      TrapEntered (s.core c) (t.core c) 17 0 0 none ∧ (t.core c).nmt = false ∧ t.mem = s.mem ∧ t.regs = s.regs)
  ∧ (∀ (c : Fin 8) (n : Nat) (s : State), atBoundary s c = true → nmtDue s c = false → (s.core c).werr = none →
      bestLine (dropAssigns s) c = some n → Answers (exec (.takeInterrupt c) s) fun t =>
        TrapEntered (s.core c) (t.core c) 16 (2 ^ 16 * n) 0 (some (routePrio s n))
          ∧ (routeMode1 s n = true → assignee t n = some c.val) ∧ t.mem = s.mem ∧ t.regs = s.regs)
  ∧ (∀ (c : Fin 8) (v : Word) (s : State), v.toNat / 2 ^ 16 = 0xC4E5 → Answers (exec (.coreRun c v) s) fun t =>
      rbit t (Reg.cpcCorectl c) 0 = true
        ∧ ((s.core c).run = .reset → t.core c = { s.core c with run := .running, pc := BitVec.ofNat 64 (rn s (Reg.cpcStartpc c)) })
        ∧ ((s.core c).run = .running ∨ (s.core c).run = .halted → t.core c = s.core c) ∧ regsSameBut s t [Reg.cpcCorectl c] ∧ t.mem = s.mem)
  ∧ (∀ (c : Fin 8) (v : Word) (s : State), v.toNat / 2 ^ 16 = 0xC4E5 → v.toNat.testBit 0 = true → Answers (exec (.coreReset c v) s) fun t =>
      t.core c = { CoreSt.reset .running with pc := BitVec.ofNat 64 (rn s (Reg.cpcStartpc c)), nmt := (t.core c).nmt }
        ∧ ((s.core c).nmt = true → (t.core c).nmt = true) ∧ rbit t (Reg.cpcCorectl c) 0 = true)
  ∧ (∀ (c : Fin 8) (v : Word) (s : State), v.toNat / 2 ^ 16 = 0xC4E5 → v.toNat.testBit 0 = false → (s.core c).run ≠ .reset →
      Answers (exec (.coreReset c v) s) fun t =>
        t.core c = { CoreSt.reset .reset with nmt := (t.core c).nmt } ∧ ((s.core c).nmt = true → (t.core c).nmt = true)
          ∧ rbit t (Reg.cpcCorectl c) 0 = false)
  ∧ (∀ (c : Fin 8) (v : Word) (s : State), v.toNat / 2 ^ 16 ≠ 0xC4E5 →
      exec (.coreRun c v) s = .next (settle s) ∧ exec (.coreReset c v) s = .next (settle s))
  ∧ (∀ (c : Fin 8) (v : Word) (s : State), coreRuns s c = true → Answers (exec (.cachectlWrite c v) s) fun t =>
      cacheOn t c true = v.toNat.testBit 0 ∧ cacheOn t c false = v.toNat.testBit 1 ∧ lockMask t c true = fld v.toNat 4 3
        ∧ lockMask t c false = fld v.toNat 8 3 ∧ rbit t (Reg.cpcCachectl c) 12 = v.toNat.testBit 12
        ∧ rf t (Reg.cpcCachectl c) 13 2 = (if fld v.toNat 13 2 = 3 then rf s (Reg.cpcCachectl c) 13 2 else fld v.toNat 13 2)
        ∧ (t.core c).dcache = (if cacheOn s c false && !v.toNat.testBit 1 then [] else (s.core c).dcache)
        ∧ (t.core c).icache = (if cacheOn s c true && !v.toNat.testBit 0 then [] else (s.core c).icache))

/-- What the fetch of an instruction leaves as it was (R30, R444, R501, R505): of the cores the instruction cache and a pending
non-maskable trap alone change, and of the rest what is named here stays. -/
def Obligations.FetchFrame : Prop :=
  ∀ (s : State) (c d : Fin 8),
    (fetched s c).core d = { s.core d with nmt := ((fetched s c).core d).nmt, icache := ((fetched s c).core d).icache }
      ∧ (d ≠ c → ((fetched s c).core d).icache = (s.core d).icache) ∧ (fetched s c).tick = s.tick ∧ (fetched s c).conf = s.conf
      ∧ (∀ a, a < 0x10_0000_0000 → mget (fetched s c).mem a = mget s.mem a) ∧ (fetched s c).obj.chunks = s.obj.chunks ∧ (fetched s c).media = s.media
      ∧ (fetched s c).queues = s.queues ∧ (fetched s c).slices = s.slices ∧ (fetched s c).acts = s.acts ∧ (fetched s c).spns = s.spns

/-- Microcode images (R492, R495–R499).
Clauses rest on choices of the model, log entries 2, 65. -/
def Obligations.MicrocodeImages : Prop :=
  (∀ (v : Word) (s : State), loadBusy s = false → imgCheck s = 0 → Answers (exec (.mcsLoadStart v) s) fun t =>
    t.mcs.load = some (imgKind s, BitVec.ofNat 32 (imgBuild s)) ∧ rbit t Reg.mcsLoadstat 31 = true ∧ rf t Reg.mcsLoadstat 28 2 = 2
      ∧ t.mcs.words = s.mcs.words ∧ regsSameBut s t [Reg.mcsLoadctl, Reg.mcsLoadstat] ∧ t.mem = s.mem)
  ∧ (∀ (v : Word) (s : State), loadBusy s = false → imgCheck s ≠ 0 → Answers (exec (.mcsLoadStart v) s) fun t =>
      t.mcs.load = none ∧ rbit t Reg.mcsLoadstat 31 = false ∧ rbit t Reg.mcsLoadstat 30 = true ∧ rf t Reg.mcsLoadstat 0 4 = imgCheck s
        ∧ t.mcs.words = s.mcs.words ∧ regsSameBut s t [Reg.mcsLoadctl, Reg.mcsLoadstat] ∧ t.mem = s.mem)
  ∧ (∀ (v : Word) (s : State), loadBusy s = true → Answers (exec (.mcsLoadStart v) s) fun t =>
      t.mcs = s.mcs ∧ regsSameBut s t [Reg.mcsLoadctl])
  ∧ (∀ (sigOk : Bool) (k : Nat) (build : Word) (s : State), s.mcs.load = some (k, build) → mailboxUp s = true →
      judgeMicrocode s k build.toNat sigOk = 0 → Answers (exec (.mcsVerdict sigOk) s) fun t =>
        rf t Reg.mcsLoadstat 0 4 = 1 ∧ rbit t Reg.mcsLoadstat 30 = true ∧ t.mcs.load = none
          ∧ (∀ i, i < imgWords s → tget 0 t.mcs.words (kindBase k + i) = imgWord s i)
          ∧ (∀ i, imgWords s ≤ i → i < 2048 → tget 0 t.mcs.words (kindBase k + i) = 0)
          ∧ (∀ a, a < kindBase k → tget 0 t.mcs.words a = tget 0 s.mcs.words a)
          ∧ (k = 1 → t.mcs.vbuild = some build ∧ t.mcs.cbuild = s.mcs.cbuild ∧ ∀ n, n < 64 → rn t (Reg.mcsOvl n) = imgOvl s n)
          ∧ (k = 2 → t.mcs.cbuild = build ∧ t.mcs.vbuild = s.mcs.vbuild ∧ ∀ n, n < 256 → rn t (Reg.mcsXopent n) = imgXop s n) ∧ t.mem = s.mem)
  ∧ (∀ (sigOk : Bool) (k : Nat) (build : Word) (s : State), s.mcs.load = some (k, build) → mailboxUp s = true →
      judgeMicrocode s k build.toNat sigOk ≠ 0 → Answers (exec (.mcsVerdict sigOk) s) fun t =>
        rf t Reg.mcsLoadstat 0 4 ∈ [3, 4, 6] ∧ t.mcs = { s.mcs with load := none } ∧ regsSameBut s t [Reg.mcsLoadstat] ∧ t.mem = s.mem)
  ∧ (∀ s : State, s.mcs.load.isSome = true → Answers (exec .mcsVerdictTimeout s) fun t =>
      rf t Reg.mcsLoadstat 0 4 = 6 ∧ rbit t Reg.mcsLoadstat 31 = false ∧ t.mcs = { s.mcs with load := none } ∧ regsSameBut s t [Reg.mcsLoadstat]
        ∧ t.mem = s.mem)

/-- What the DMA operations move, fill and compare within the buffer (R516–R518, R521).
Clauses rest on choices of the model, log entries 2, 144, 145. -/
def Obligations.DmaTransfers : Prop :=
  (∀ (c : Fin 32) (d : DmaDesc) (s : State), dmaReady s c d 1 → calmBuffer s → d.sw = d.dw → d.len ≠ 0 → d.len % d.sw = 0 → d.src % d.sw = 0 →
    d.dst % d.sw = 0 → inBuffer s d.src d.len → inBuffer s d.dst d.len → dmaClash s d = false → Answers (exec (.dmaCopy c .ok) s) fun t =>
      (∀ i, i < d.len → mget t.mem (d.dst + i) = mget s.mem (d.src + i))
        ∧ (∀ x, x < d.dst ∨ d.dst + d.len ≤ x → mget t.mem x = mget s.mem x)
        ∧ (t.dmaCh c).readback = some 0 ∧ (t.dmaCh c).lastWr = some (d.dst + d.len - 1) ∧ (∀ k : Fin 32, k ≠ c → t.dmaCh k = s.dmaCh k)
        ∧ t.regs = s.regs)
  ∧ (∀ (c : Fin 32) (d : DmaDesc) (s : State), dmaReady s c d 2 → calmBuffer s → d.sw = d.esize → d.dw = d.esize → d.idxcnt ≠ 0 → d.aux % 4 = 0 →
      d.src % d.esize = 0 → d.dst % d.esize = 0 → (∀ i, i < d.idxcnt → inBuffer s ((d.aux + 4 * i) / 64 * 64) 64) →
      (∀ i, i < d.idxcnt → dmaIndex s d i % d.esize = 0 ∧ inBuffer s (d.src + dmaIndex s d i) d.esize) →
      inBuffer s d.src 1 → inBuffer s d.dst (d.idxcnt * d.esize) → dmaClash s d = false → Answers (exec (.gather c .ok) s) fun t =>
        (∀ i j, i < d.idxcnt → j < d.esize → mget t.mem (d.dst + i * d.esize + j) = mget s.mem (d.src + dmaIndex s d i + j))
          ∧ (∀ x, x < d.dst ∨ d.dst + d.idxcnt * d.esize ≤ x → mget t.mem x = mget s.mem x)
          ∧ (t.dmaCh c).readback = some 0 ∧ (t.dmaCh c).elem = d.idxcnt ∧ t.regs = s.regs)
  ∧ (∀ (c : Fin 32) (d : DmaDesc) (s : State), dmaReady s c d 3 → calmBuffer s → d.sw = d.esize → d.dw = d.esize → d.idxcnt ≠ 0 → d.aux % 4 = 0 →
      d.src % d.esize = 0 → d.dst % d.esize = 0 → (∀ i, i < d.idxcnt → inBuffer s ((d.aux + 4 * i) / 64 * 64) 64) →
      (∀ i, i < d.idxcnt → dmaIndex s d i % d.esize = 0 ∧ inBuffer s (d.dst + dmaIndex s d i) d.esize) →
      (∀ i j, i < j → j < d.idxcnt → dmaIndex s d i ≠ dmaIndex s d j) →
      inBuffer s d.dst 1 → inBuffer s d.src (d.idxcnt * d.esize) → dmaClash s d = false → Answers (exec (.scatter c .ok) s) fun t =>
        (∀ i j, i < d.idxcnt → j < d.esize → mget t.mem (d.dst + dmaIndex s d i + j) = mget s.mem (d.src + i * d.esize + j))
          ∧ (∀ x, (∀ i, i < d.idxcnt → x < d.dst + dmaIndex s d i ∨ d.dst + dmaIndex s d i + d.esize ≤ x) → mget t.mem x = mget s.mem x)
          ∧ (t.dmaCh c).readback = some 0 ∧ (t.dmaCh c).elem = d.idxcnt ∧ t.regs = s.regs)
  ∧ (∀ (c : Fin 32) (d : DmaDesc) (s : State), dmaReady s c d 4 → calmBuffer s → d.len ≠ 0 → d.len % d.dw = 0 → d.dst % d.dw = 0 →
      inBuffer s d.dst d.len → Answers (exec (.fill c .ok) s) fun t =>
        (∀ i, i < d.len → mget t.mem (d.dst + i) = BitVec.ofNat 8 (d.aux / 256 ^ (i % 8)))
          ∧ (∀ x, x < d.dst ∨ d.dst + d.len ≤ x → mget t.mem x = mget s.mem x)
          ∧ (t.dmaCh c).readback = some 0 ∧ (t.dmaCh c).lastWr = some (d.dst + d.len - 1) ∧ t.regs = s.regs)
  ∧ (∀ (c : Fin 32) (d : DmaDesc) (s : State), dmaReady s c d 5 → calmBuffer s → d.chain = false → d.len % max d.sw d.dw = 0 →
      d.src % d.sw = 0 → d.dst % d.dw = 0 → inBuffer s d.src d.len → inBuffer s d.dst d.len → Answers (exec (.dmaCompare c .ok) s) fun t =>
        (t.dmaCh c).busy = false
          ∧ ((∀ i, i < d.len → mget s.mem (d.src + i) = mget s.mem (d.dst + i)) →
            (t.dmaCh c).result = 0 ∧ (t.dmaCh c).mismatch = BitVec.allOnes 64)
          ∧ (∀ j, j < d.len → mget s.mem (d.src + j) ≠ mget s.mem (d.dst + j) →
            (∀ i, i < j → mget s.mem (d.src + i) = mget s.mem (d.dst + i)) → (t.dmaCh c).result = 1 ∧ (t.dmaCh c).mismatch = BitVec.ofNat 64 j))

/-- The start, the end and the abort of a DMA descriptor (R513, R519, R522, R525, R527).
Clauses rest on choices of the model, log entries 2, 146. -/
def Obligations.DmaControl : Prop :=
  (∀ (c : Fin 32) (v : DWord) (bs : List Byte) (s s' : State), rbit s Reg.dmaCtl 0 = true → (s.dmaCh c).busy = false → s.pf.step3 = false →
    dmaTableRegion s (fld v.toNat 6 42 * 64) = true → busRead s (masterDma c) (fld v.toNat 6 42 * 64) 64 none = (some bs, s') →
    dmaFormatBad s' (dmaParse bs) = false → Answers (exec (.dmaStart c v) s) fun t =>
      (t.dmaCh c).busy = true ∧ (t.dmaCh c).desc = some (dmaParse bs) ∧ (t.dmaCh c).cur = fld v.toNat 6 42 * 64 ∧ (t.dmaCh c).elem = 0
        ∧ (t.dmaCh c).readback = none ∧ (∀ k : Fin 32, k ≠ c → t.dmaCh k = s.dmaCh k))
  ∧ (∀ (c : Fin 32) (v : DWord) (bs : List Byte) (s s' : State), rbit s Reg.dmaCtl 0 = true → (s.dmaCh c).busy = false → s.pf.step3 = false →
      dmaTableRegion s (fld v.toNat 6 42 * 64) = true → busRead s (masterDma c) (fld v.toNat 6 42 * 64) 64 none = (some bs, s') →
      dmaFormatBad s' (dmaParse bs) = true → quiet s .dma → Answers (exec (.dmaStart c v) s) fun t =>
        (t.dmaCh c).busy = false ∧ (t.dmaCh c).result = 5 ∧ rbit t Reg.dmaDonestat c.val = true ∧ rbit t (aFstat .dma) 1 = true)
  ∧ (∀ (c : Fin 32) (v : DWord) (s : State), rbit s Reg.dmaCtl 0 = true → (s.dmaCh c).busy = false → s.pf.step3 = false →
      dmaTableRegion s (fld v.toNat 6 42 * 64) = false → quiet s .dma → Answers (exec (.dmaStart c v) s) fun t =>
        (t.dmaCh c).busy = false ∧ (t.dmaCh c).result = 7 ∧ rbit t Reg.dmaDonestat c.val = true ∧ rbit t (aFstat .dma) 1 = true ∧ t.mem = s.mem)
  ∧ (∀ (c : Fin 32) (v : DWord) (s : State), (s.dmaCh c).busy = true → Answers (exec (.dmaStart c v) s) fun t =>
      rn t (Reg.dmaChstartign c.val) = min 0xFFFF_FFFF (rn s (Reg.dmaChstartign c.val) + 1) ∧ t.dmas = s.dmas
        ∧ regsSameBut s t [Reg.dmaChstartign c.val] ∧ t.mem = s.mem)
  ∧ (∀ (c : Fin 32) (d : DmaDesc) (l : Nat) (s : State), (s.dmaCh c).desc = some d → (s.dmaCh c).readback = some 0 → (s.dmaCh c).lastWr = some l →
      d.chain = false → d.dstHost = true ∨ (busRead s (masterDma c) (readbackAddr d l) d.dw none).1.isSome = true →
      Answers (exec (.dmaReadbackDone c false) s) fun t =>
        (t.dmaCh c).busy = false ∧ (t.dmaCh c).result = 0 ∧ (t.dmaCh c).readback = none ∧ (d.irq = true → rbit t Reg.dmaDonestat c.val = true)
          ∧ rn t (Reg.dmaChdone c.val) = min 0xFFFF_FFFF (rn s (Reg.dmaChdone c.val) + 1))
  ∧ (∀ (c : Fin 32) (d : DmaDesc) (r l : Nat) (s : State), (s.dmaCh c).desc = some d → (s.dmaCh c).readback = some r → (s.dmaCh c).lastWr = some l →
      quiet s .dma → Answers (exec (.dmaReadbackDone c true) s) fun t =>
        (t.dmaCh c).busy = false ∧ (t.dmaCh c).result = 3 ∧ (t.dmaCh c).erraddr = readbackAddr d l ∧ rbit t (aFstat .dma) 0 = true)
  ∧ (∀ (c : Fin 32) (v : Word) (d : DmaDesc) (s : State), v.toNat.testBit 0 = true → (s.dmaCh c).busy = true → (s.dmaCh c).desc = some d →
      (s.dmaCh c).readback = none → dmaOpOf d = 5 ∨ dmaHeld s d = true → Answers (exec (.dmaAbort c v) s) fun t =>
        (t.dmaCh c).busy = false ∧ (t.dmaCh c).result = 6 ∧ rbit t Reg.dmaDonestat c.val = true)
  ∧ (∀ (c : Fin 32) (v : Word) (d : DmaDesc) (s : State), v.toNat.testBit 0 = true → dmaReady s c d 4 → calmBuffer s → d.len % d.dw = 0 →
      d.dst % d.dw = 0 → inBuffer s d.dst d.len → Answers (exec (.dmaAbort c v) s) fun t =>
        ((t.dmaCh c).busy = false ∧ (t.dmaCh c).result = 6
          ∨ (t.dmaCh c).readback = some 6 ∧ (t.dmaCh c).aborting = true
            ∧ ∀ x, x < d.dst ∨ d.dst + d.len ≤ x → mget t.mem x = mget s.mem x))
  ∧ (∀ (c : Fin 32) (v : Word) (d : DmaDesc) (r : Nat) (s : State), v.toNat.testBit 0 = true → (s.dmaCh c).busy = true →
      (s.dmaCh c).desc = some d → (s.dmaCh c).readback = some r → Answers (exec (.dmaAbort c v) s) fun t =>
        t.dmaCh c = { s.dmaCh c with aborting := true, readback := some (if r = 0 then 6 else r) } ∧ t.regs = s.regs ∧ t.mem = s.mem)
  ∧ (∀ (c : Fin 32) (v : Word) (s : State), v.toNat.testBit 0 = false ∨ (s.dmaCh c).busy = false → exec (.dmaAbort c v) s = .next (settle s))

/-- The event recorder and the operating second (R548–R550, R552, R554, R555, R557, R564, R580).
Clauses rest on choices of the model, log entries 2, 161, 167. -/
def Obligations.EventRecorder : Prop :=
  (∀ (ch : Fin 96) (v : BitVec 32) (s : State), ch.val < 88 → rbit s Reg.evrCtl 0 = true → evrChannelPresent s ch.val = true →
    s.evr.queue.length < 64 → Answers (exec (.evrSample ch v) s) fun t =>
      t.evr = { s.evr with queue := s.evr.queue ++ [(ch.val, v, (s.evr.opsec, s.evr.pcyc))] } ∧ t.regs = s.regs ∧ t.mem = s.mem)
  ∧ (∀ (ch : Fin 96) (v : BitVec 32) (s : State), ch.val < 88 → rbit s Reg.evrCtl 0 = true → evrChannelPresent s ch.val = true →
      64 ≤ s.evr.queue.length → quiet s .evr → Answers (exec (.evrSample ch v) s) fun t =>
        t.evr = s.evr ∧ rn t Reg.evrDropped = min 0xFFFF_FFFF (rn s Reg.evrDropped + 1) ∧ rbit t (aFstat .evr) 0 = true ∧ t.mem = s.mem)
  ∧ (∀ (ch : Fin 96) (v : BitVec 32) (s : State), rbit s Reg.evrCtl 0 = false → exec (.evrSample ch v) s = .next (settle s))
  ∧ (∀ (ch : Nat) (v : BitVec 32) (st : Nat × Nat) (rest : List (Nat × BitVec 32 × (Nat × Nat))) (s : State),
      s.evr.queue = (ch, v, st) :: rest → Answers (exec .evrApply s) fun t =>
        t.evr.queue = rest ∧ recOf t ch = recAdd (rn s (Reg.evrChcfg ch)) (recOf s ch) v st ∧ (∀ k, k ≠ ch → recOf t k = recOf s k)
          ∧ t.regs = s.regs ∧ t.datum = s.datum ∧ t.mem = s.mem)
  ∧ (∀ (v : DWord) (s : State), 90 ≤ fld v.toNat 32 7 → fld v.toNat 32 7 < 96 → rbit s Reg.evrCtl 0 = true →
      Answers (exec (.evrPost v) s) fun t =>
        t.evr = { s.evr with fwd := s.evr.fwd ++ [(fld v.toNat 32 7, BitVec.ofNat 32 v.toNat)] } ∧ t.regs = s.regs ∧ t.mem = s.mem)
  ∧ (∀ (v : DWord) (s : State), 60 ≤ fld v.toNat 32 7 → fld v.toNat 32 7 < 88 → rbit s Reg.evrCtl 0 = true → s.evr.queue.length < 64 →
      Answers (exec (.evrPost v) s) fun t =>
        t.evr.queue = s.evr.queue ++ [(fld v.toNat 32 7, BitVec.ofNat 32 v.toNat, (s.evr.opsec, s.evr.pcyc))] ∧ t.regs = s.regs)
  ∧ (∀ (v : DWord) (s : State), fld v.toNat 32 7 < 60 ∨ fld v.toNat 32 7 = 88 ∨ fld v.toNat 32 7 = 89 → Answers (exec (.evrPost v) s) fun t =>
      rn t Reg.evrDropped = min 0xFFFF_FFFF (rn s Reg.evrDropped + 1) ∧ t.evr = s.evr ∧ regsSameBut s t [Reg.evrDropped])
  ∧ (∀ (p : Nat × BitVec 32) (rest : List (Nat × BitVec 32)) (s : State), s.evr.fwd = p :: rest → quiet s .evr →
      Answers (exec .evrForwardTimeout s) fun t =>
        t.evr = { s.evr with fwd := rest } ∧ rn t Reg.evrDropped = min 0xFFFF_FFFF (rn s Reg.evrDropped + 1) ∧ rbit t (aFstat .evr) 1 = true)
  ∧ (∀ s : State, Answers (exec .windowRead s) fun t =>
      t.resp.data = BitVec.ofNat 64 (recWord (evrRec s (evrCursorCh s)) (evrCursorWord s)) ∧ t.resp.err = false
        ∧ evrCursorWord t = (if 47 ≤ evrCursorWord s then 0 else evrCursorWord s + 1)
        ∧ evrCursorCh t = (if evrCursorWord s < 47 then evrCursorCh s else if 95 ≤ evrCursorCh s then 0 else evrCursorCh s + 1)
        ∧ regsSameBut s t [Reg.evrCursor] ∧ t.evr = s.evr ∧ t.datum = s.datum)
  ∧ (∀ (v : Word) (s : State), rbit s Reg.evrCtl 1 = true → evrCursorCh s < 88 → evrCursorWord s < 45 → Answers (exec (.windowWrite v) s) fun t =>
      recOf t (evrCursorCh s) = recSet (recOf s (evrCursorCh s)) (evrCursorWord s) v ∧ evrCursorWord t = evrCursorWord s + 1
        ∧ (∀ k, k ≠ evrCursorCh s → recOf t k = recOf s k) ∧ regsSameBut s t [Reg.evrCursor] ∧ t.mem = s.mem)
  ∧ (∀ (v : Word) (s : State), rbit s Reg.evrCtl 1 = false ∨ 88 ≤ evrCursorCh s ∨ 45 ≤ evrCursorWord s →
      exec (.windowWrite v) s = .next (settle s))
  ∧ (∀ (v : Word) (s : State), v.toNat / 2 ^ 16 = 0xC4E5 → Answers (exec (.evrClear v) s) fun t =>
      (∀ k, k < 88 → recOf t k = (if v.toNat.testBit 8 ∨ k = fld v.toNat 0 7 then { Rec.cleared with seq := ((recOf s k).seq + 1) % 2 ^ 32 }
        else recOf s k)) ∧ t.regs = s.regs ∧ t.datum = s.datum ∧ t.mem = s.mem)
  ∧ (∀ s : State, Answers (exec .opsecAdvance s) fun t =>
      t.evr.opsec = (s.evr.opsec + 1) % 2 ^ 40 ∧ t.datum.clock = s.datum.clock + (2 ^ 15 - min s.datum.slewHold (2 ^ 15))
        ∧ t.datum.slewHold = s.datum.slewHold - min s.datum.slewHold (2 ^ 15) ∧ t.datum.clkvalid = s.datum.clkvalid)

/-- Calibration (R558, R559, R561–R563, R566).
Clauses rest on choices of the model, log entries 2, 160. -/
def Obligations.Calibration : Prop :=
  (∀ (k : Fin 6) (i : Fin 32) (target : Int) (s : State), calRuns s = true → s.cal.due.any (fun d => d.1 = k.val && d.2.1 = i.val) = true →
    calGap s k i = true → calFirst s k i = true → trimPresent s k i = true → rbit s Reg.calCtl 1 = false →
    -(2 ^ (trimWidth k - 1)) ≤ target → target < 2 ^ (trimWidth k - 1) → Answers (exec (.calMeasure k i target false) s) fun t =>
      sgn (trimWidth k) (rn t (trimReg k i)) = (if sgn (trimWidth k) (rn s (trimReg k i)) < target then sgn (trimWidth k) (rn s (trimReg k i)) + 1
          else if target < sgn (trimWidth k) (rn s (trimReg k i)) then sgn (trimWidth k) (rn s (trimReg k i)) - 1 else target)
        ∧ (∀ e ∈ t.cal.due, ¬(e.1 = k.val ∧ e.2.1 = i.val)) ∧ tget 0 t.cal.last (64 * k.val + i.val) = s.evr.opsec
        ∧ rn t (Reg.calCount k) = min 0xFFFF_FFFF (rn s (Reg.calCount k) + 1)
        ∧ regsSameBut s t [trimReg k i, Reg.calCount k, Reg.calLast k] ∧ t.mem = s.mem)
  ∧ (∀ (k : Fin 6) (i : Fin 32) (target : Int) (s : State), calRuns s = true → s.cal.due.any (fun d => d.1 = k.val && d.2.1 = i.val) = true →
      calGap s k i = true → calFirst s k i = true → trimPresent s k i = true → 2 ^ (trimWidth k - 1) ≤ target → quiet s .cal →
      Answers (exec (.calMeasure k i target false) s) fun t =>
        sgn (trimWidth k) (rn t (trimReg k i)) = 2 ^ (trimWidth k - 1) - 1 ∧ rbit t (aFstat .cal) 1 = true ∧ t.mem = s.mem)
  ∧ (∀ (k : Fin 6) (i : Fin 32) (target : Int) (s : State), exec (.calMeasure k i target true) s = .next (settle s))
  ∧ (∀ (v : Word) (s : State), fld v.toNat 0 3 < 6 → trimPresent s (fld v.toNat 0 3) (fld v.toNat 8 6) = true → Answers (exec (.calCmd v) s) fun t =>
      (∃ e ∈ t.cal.due, e.1 = fld v.toNat 0 3 ∧ e.2.1 = fld v.toNat 8 6) ∧ (∀ e ∈ s.cal.due, e ∈ t.cal.due) ∧ t.regs = s.regs ∧ t.mem = s.mem)
  ∧ (∀ (v : Word) (s : State), trimPresent s (fld v.toNat 0 3) (fld v.toNat 8 6) = false → exec (.calCmd v) s = .next (settle s))
  ∧ (∀ s : State, quiet s .cal → rbit s (aFlive .cal) 0 = false → Answers (exec .reflost s) fun t =>
      t.cal = { s.cal with refOk := false } ∧ rbit t (aFlive .cal) 0 = true ∧ rbit t (aFstat .cal) 0 = true
        ∧ regsSameBut s t [aFlive .cal, aFstat .cal] ∧ t.mem = s.mem)
  ∧ (∀ s : State, Answers (exec .refinReturn s) fun t =>
      t.cal = { s.cal with refOk := true } ∧ rbit t (aFlive .cal) 0 = false ∧ regsSameBut s t [aFlive .cal] ∧ t.mem = s.mem)

/-- The mailbox, the port, and the requests for images, configuration and calibration (R73, R496, R567, R568, R579, R588–R590, R596,
R597, R599, R601).
Clauses rest on choices of the model, log entries 2, 168, 169, 171. -/
def Obligations.DatumLinks : Prop :=
  (∀ (v : Word) (s : State), v.toNat / 2 ^ 16 = 0xC4E5 → v.toNat.testBit 0 = true → s.dtm.busy = false → Answers (exec (.mailboxDoor v) s) fun t =>
    t.dtm.busy = true ∧ t.datum.mboxRes = (if mailboxUp s && !requestCodes.contains (reqCmd s) then some (respFrame (reqCmd s) 1 []) else none)
      ∧ t.regs = s.regs ∧ t.mem = s.mem)
  ∧ (∀ (v : Word) (s : State), v.toNat / 2 ^ 16 ≠ 0xC4E5 ∨ s.dtm.busy = true → exec (.mailboxDoor v) s = .next (settle s))
  ∧ (∀ (f : List Byte) (s : State), s.datum.mboxRes = some f → s.dtm.busy = true → Answers (exec .mailboxResponse s) fun t =>
      t.dtm.busy = false ∧ t.datum.mboxRes = none ∧ t.dtm.linkUp = true ∧ rbit t Reg.dtmIrqstat 0 = true
        ∧ (∀ i, i < 64 → rn t (Reg.dtmResp i) = ofBytes ((f.drop (4 * i)).take 4)) ∧ t.mem = s.mem)
  ∧ (∀ s : State, s.dtm.busy = true → quiet s .dtm → Answers (exec .mailboxTimeout s) fun t =>
      t.dtm.busy = false ∧ t.dtm.linkUp = false ∧ rn t (Reg.dtmResp 0) = reqCmd s + 0xFF00 ∧ rbit t Reg.dtmIrqstat 0 = true
        ∧ rbit t (aFstat .dtm) 0 = true ∧ t.mem = s.mem)
  ∧ (∀ (req : List Byte) (s : State), portHears s = true → s.datum.portReq = none → Answers (exec (.portRequestFrame req) s) fun t =>
      (if portCodes.contains (req.headD 0).toNat then t.datum = { s.datum with portReq := some req, portRes := none }
        else replied t .port (req.headD 0).toNat (if requestCodes.contains (req.headD 0).toNat then 8 else 1) [])
        ∧ t.regs = s.regs ∧ t.mem = s.mem)
  ∧ (∀ s : State, portHears s = true → Answers (exec .portResponseRead s) fun t =>
      t.datum = { s.datum with portOut := s.datum.portRes.getD [], portRes := none } ∧ t.regs = s.regs ∧ t.mem = s.mem)
  ∧ (∀ s : State, portHears s = true → Answers (exec .portStatusRead s) fun t =>
      t.datum.portOut.length = 1 ∧ t.datum.portReq = s.datum.portReq ∧ t.datum.portRes = s.datum.portRes ∧ t.regs = s.regs ∧ t.mem = s.mem)
  ∧ (∀ (a b : ImageInfo) (s : State), asks s .mailbox 0x01 → Answers (exec (.bootreq a b) s) fun t =>
      (judge a (vget s.datum.floors 0) = 0 → replied t .mailbox 0x01 0 (0 :: toBytes 4 a.entry))
        ∧ (judge a (vget s.datum.floors 0) ≠ 0 → judge b (vget s.datum.floors 0) = 0 → replied t .mailbox 0x01 0 (1 :: toBytes 4 b.entry))
        ∧ (judge a (vget s.datum.floors 0) ≠ 0 → judge b (vget s.datum.floors 0) ≠ 0 →
          replied t .mailbox 0x01 (if judge b (vget s.datum.floors 0) = 1 then 2 else judge b (vget s.datum.floors 0)) [])
        ∧ t.datum.floors = s.datum.floors)
  ∧ (∀ (kind build : Nat) (sigOk : Bool) (s : State), asks s .mailbox 0x02 → kind = 1 ∨ kind = 2 → quiet s .dtm →
      (Answers (exec (.datumVerify kind build sigOk false) s) fun t =>
        replied t .mailbox 0x02 (judgeMicrocode s kind build sigOk) [] ∧ t.datum.floors = s.datum.floors)
      ∧ (judgeMicrocode s kind build sigOk = 0 → Answers (exec (.datumVerify kind build sigOk true) s) fun t =>
        replied t .mailbox 0x02 0 [] ∧ vget t.datum.floors (if kind = 1 then 1 else 2)
          = max (vget s.datum.floors (if kind = 1 then 1 else 2)) build ∧ vget t.datum.floors 0 = vget s.datum.floors 0))
  ∧ (∀ (slot offset : Nat) (bytes : List Byte) (e : NorEv) (s : State), asks s .mailbox 0x03 → quiet s .dtm → slot < 2 → bytes ≠ [] →
      offset + bytes.length ≤ 2 ^ 21 → Answers (exec (.fwwrite slot offset bytes e) s) fun t =>
        replied t .mailbox 0x03 0 []
          ∧ (∀ i, i < bytes.length → tget 0xFF t.datum.bytes (slot * 2 ^ 21 + offset + i) = bytes.getD i 0)
          ∧ (∀ i, i < 2 ^ 21 → i < offset ∨ offset + bytes.length ≤ i →
            tget 0xFF t.datum.bytes (slot * 2 ^ 21 + i) = if offset = 0 then 0xFF else tget 0xFF s.datum.bytes (slot * 2 ^ 21 + i)))
  ∧ (∀ (slot : Nat) (floor : Bool) (img : ImageInfo) (s : State), asks s .mailbox 0x04 → quiet s .dtm → slot < 2 →
      judge img (vget s.datum.floors 0) = 0 → Answers (exec (.fwcommit slot floor img) s) fun t =>
        replied t .mailbox 0x04 0 [] ∧ vget t.datum.floors 0 = (if floor then max (vget s.datum.floors 0) img.build else vget s.datum.floors 0))
  ∧ (∀ (fresh : Bool) (s : State), asks s .port 0x10 → Answers (exec (.cfgread .port fresh) s) fun t =>
      replied t .port 0x10 0 (cfgBytes s 0 (if cfgLength s = 0 then 0x36 else cfgLength s)) ∧ t.datum.counters = s.datum.counters)
  ∧ (∀ s : State, asks s .mailbox 0x10 → quiet s .dtm → Answers (exec (.cfgread .mailbox true) s) fun t =>
      replied t .mailbox 0x10 0 (toBytes 8 (lastCounters s.datum).1 ++ toBytes 4 (((lastCounters s.datum).2 + 1) % 2 ^ 32)
          ++ cfgBytes s 0 (if cfgLength s = 0 then 0x36 else cfgLength s))
        ∧ t.datum.cfgFresh = some ((lastCounters s.datum).1, ((lastCounters s.datum).2 + 1) % 2 ^ 32)
        ∧ lastCounters t.datum = ((lastCounters s.datum).1, ((lastCounters s.datum).2 + 1) % 2 ^ 32))
  ∧ (∀ (bytes : List Byte) (e : NorEv) (s : State), asks s .mailbox 0x11 → quiet s .dtm → Answers (exec (.cfgwrite .mailbox bytes e) s) fun t =>
      replied t .mailbox 0x11 0 [] ∧ (∀ i, i < bytes.length → i < 4096 → tget 0xFF t.datum.bytes (cfgBase + i) = bytes.getD i 0)
        ∧ t.conf = s.conf)
  ∧ (∀ (bytes : List Byte) (e : NorEv) (s : State), asks s .port 0x11 → Answers (exec (.cfgwrite .port bytes e) s) fun t =>
      replied t .port 0x11 8 [] ∧ t.datum.bytes = s.datum.bytes ∧ t.conf = s.conf)
  ∧ (∀ (src : ReqSrc) (s : State), asks s src 0x12 → Answers (exec (.calread src) s) fun t => replied t src 0x12 0 calBytes ∧ t.datum.bytes = s.datum.bytes)

/-- Keys, chain and rules of the Datum die (R168, R183, R584–R587, R591–R596).
Clauses rest on choices of the model, log entries 2, 166, 168, 170, 173. -/
def Obligations.DatumKeysAndRules : Prop :=
  (∀ (slot : Fin 64) (epoch : Nat) (s : State), asks s .mailbox 0x20 → Answers (exec (.keyload slot epoch) s) fun t =>
    if (tget MKey.none s.datum.keys slot).draw ≠ 0 ∧ (tget MKey.none s.datum.keys slot).epoch = epoch then
      replied t .mailbox 0x20 0 [] ∧ tget MKey.none t.datum.loaded slot = tget MKey.none s.datum.keys slot ∧ t.datum.keys = s.datum.keys
    else replied t .mailbox 0x20 10 [] ∧ t.datum.loaded = s.datum.loaded)
  ∧ (∀ (slot : Fin 64) (e : NorEv) (s : State), asks s .mailbox 0x21 → quiet s .dtm → Answers (exec (.keynew slot e) s) fun t =>
      replied t .mailbox 0x21 0 []
        ∧ tget MKey.none t.datum.keys slot = { epoch := nextEpoch (tget MKey.none s.datum.keys slot).epoch, draw := s.datum.keyDraws + 1 }
        ∧ ∀ j, j ≠ slot.val → tget MKey.none t.datum.keys j = tget MKey.none s.datum.keys j)
  ∧ (∀ (e : NorEv) (s : State), asks s .mailbox 0x22 → quiet s .dtm → Answers (exec (.keyall e) s) fun t =>
      replied t .mailbox 0x22 0 [] ∧ ∀ j, j < 64 → tget MKey.none t.datum.keys j
        = { epoch := nextEpoch (tget MKey.none s.datum.keys j).epoch, draw := s.datum.keyDraws + j + 1 })
  ∧ (∀ (op nsslot nsid handle first last : Nat) (key : List Byte) (e : NorEv) (s : State), asks s .mailbox 0x30 → quiet s .dtm →
      Answers (exec (.chainappend op nsslot nsid handle first last key e) s) fun t =>
        if s.datum.rules.any (fun r => scopeHeld r.2 nsslot handle first last) then replied t .mailbox 0x30 5 [] ∧ t.datum.chain = s.datum.chain
        else if chainFull s.datum then replied t .mailbox 0x30 6 [] ∧ t.datum.chain = s.datum.chain
        else replied t .mailbox 0x30 0 (toBytes 8 s.datum.chainSeq) ∧ t.datum.chainSeq = s.datum.chainSeq + 1
          ∧ t.datum.chain = s.datum.chain ++ [{ seq := s.datum.chainSeq, time := clockStamp s.datum, op := op, nsslot := nsslot, nsid := nsid
                                                handle := handle, first := first, last := last, key := key }])
  ∧ (∀ (src : ReqSrc) (seq : Nat) (s : State), asks s src 0x31 → Answers (exec (.chainread src seq) s) fun t =>
      (if (s.datum.chain.filter fun e => decide (seq ≤ e.seq)) = [] then replied t src 0x31 10 []
        else replied t src 0x31 0 (((s.datum.chain.filter fun e => decide (seq ≤ e.seq)).take 3).flatMap chainBytes)) ∧ t.datum.chain = s.datum.chain)
  ∧ (∀ (src : ReqSrc) (sig : Sig) (seq : Nat) (s : State), asks s src 0x32 → quiet s .dtm → sigCheck s sig = 0 →
      Answers (exec (.chainack src sig seq) s) fun t =>
        replied t src 0x32 0 [] ∧ t.datum.chainAck = max s.datum.chainAck (min seq (s.datum.chainSeq - 1)) ∧ t.datum.lastCseq = sig.cseq
          ∧ ∀ e ∈ s.datum.chain, t.datum.chainAck < e.seq → e ∈ t.datum.chain)
  ∧ (∀ (src : ReqSrc) (sig : Sig) (seq : Nat) (s : State), asks s src 0x32 → sigCheck s sig ≠ 0 → Answers (exec (.chainack src sig seq) s) fun t =>
      replied t src 0x32 (sigCheck s sig) [] ∧ t.datum.chain = s.datum.chain ∧ t.datum.lastCseq = s.datum.lastCseq)
  ∧ (∀ (src : ReqSrc) (sig : Sig) (nswide hold : Bool) (nsslot : Fin 64) (handle first last until_ : Nat) (n : Fin 8) (s : State),
      asks s src 0x40 → quiet s .dtm → sigCheck s sig = 0 → lowestFree 0 s.datum.rules < 65536 → freeWindow s.datum = some n →
      Answers (exec (.ruleadd src sig nswide hold nsslot handle first last until_) s) fun t =>
        replied t src 0x40 0 (toBytes 2 (lowestFree 0 s.datum.rules))
          ∧ ruleOf t (lowestFree 0 s.datum.rules) = { st := 1, nswide := nswide, hold := hold, nsslot := nsslot.val, window := some n
                                                      handle := handle % 2 ^ 40, first := first, last := last, until_ := until_
                                                      created := clockStamp s.datum, cseq := sig.cseq }
          ∧ (∀ j, j ≠ lowestFree 0 s.datum.rules → ruleOf t j = ruleOf s j)
          ∧ (mailboxUp s = true → rbit t (Reg.locRwhandle n) 63 = true ∧ rn t (Reg.locRwfirst n) = first % 2 ^ 40 ∧ rn t (Reg.locRwlast n) = last % 2 ^ 40))
  ∧ (∀ (src : ReqSrc) (sig : Sig) (nswide hold : Bool) (nsslot : Fin 64) (handle first last until_ : Nat) (s : State),
      asks s src 0x40 → quiet s .dtm → sigCheck s sig = 0 → lowestFree 0 s.datum.rules < 65536 → freeWindow s.datum = none →
      Answers (exec (.ruleadd src sig nswide hold nsslot handle first last until_) s) fun t =>
        replied t src 0x40 9 [] ∧ t.datum.rules = s.datum.rules)
  ∧ (∀ (src : ReqSrc) (sig : Sig) (rule until_ : Nat) (hold : Bool) (s : State), asks s src 0x41 → quiet s .dtm → sigCheck s sig = 0 →
      ruleInForce (ruleOf s rule) = true → (ruleOf s rule).until_ ≤ until_ → Answers (exec (.ruleextend src sig rule until_ hold) s) fun t =>
        replied t src 0x41 0 [] ∧ ruleOf t rule = { ruleOf s rule with until_ := until_, hold := (ruleOf s rule).hold || hold, cseq := sig.cseq }
          ∧ ∀ j, j ≠ rule → ruleOf t j = ruleOf s j)
  ∧ (∀ (src : ReqSrc) (sig : Sig) (rule : Nat) (s : State), asks s src 0x42 → quiet s .dtm → sigCheck s sig = 0 → ruleInForce (ruleOf s rule) = true →
      Answers (exec (.rulerelease src sig rule) s) fun t =>
        replied t src 0x42 0 [] ∧ ruleOf t rule = { ruleOf s rule with hold := false, cseq := sig.cseq } ∧ ∀ j, j ≠ rule → ruleOf t j = ruleOf s j)
  ∧ (∀ (src : ReqSrc) (rule : Nat) (s : State), asks s src 0x43 → rule < 65534 → Answers (exec (.ruleread src rule) s) fun t =>
      replied t src 0x43 0 (ruleBytes (ruleOf s rule) ++ ruleBytes (ruleOf s (rule + 1)) ++ ruleBytes (ruleOf s (rule + 2))))
  ∧ (∀ (rule : Nat) (s : State), asks s .mailbox 0x44 → quiet s .dtm → (ruleOf s rule).st = 1 → Answers (exec (.sweepdone rule) s) fun t =>
      replied t .mailbox 0x44 0 [] ∧ ruleOf t rule = { ruleOf s rule with st := 2, window := none }
        ∧ (∀ k, (chunkAt s k).count ≠ 0 → ruleCovers (ruleOf s rule) (k / 2 ^ 40) (k % 2 ^ 40) = true → (chunkAt t k).ret = true)
        ∧ ∀ n, (ruleOf s rule).window = some n → rbit t (Reg.locRwhandle n) 63 = false)
  ∧ (∀ (rule : Nat) (s : State), quiet s .dtm → ruleInForce (ruleOf s rule) = true → s.datum.clkvalid = true → (ruleOf s rule).hold = false →
      (ruleOf s rule).until_ ≤ clockSec s.datum → Answers (exec (.ruleRelease rule) s) fun t =>
        ruleOf t rule = { ruleOf s rule with st := 3, window := none } ∧ (∀ j, j ≠ rule → ruleOf t j = ruleOf s j)
          ∧ ∀ k, (chunkAt s k).count ≠ 0 → ruleCovers (ruleOf s rule) (k / 2 ^ 40) (k % 2 ^ 40) = true →
            (∀ x ∈ t.datum.rules, ruleCovers x.2 (k / 2 ^ 40) (k % 2 ^ 40) = false) → (chunkAt t k).ret = false)
  ∧ (∀ (rule : Nat) (s : State), ruleInForce (ruleOf s rule) = false ∨ s.datum.clkvalid = false ∨ (ruleOf s rule).hold = true
      ∨ clockSec s.datum < (ruleOf s rule).until_ → exec (.ruleRelease rule) s = .next (settle s))
  ∧ (∀ (src : ReqSrc) (which : Fin 3) (key : List Byte) (s : State), asks s src 0x80 → quiet s .dtm →
      Answers (exec (.provision src which key) s) fun t =>
        let held := fun (d : DatumSt) => if which = 0 then d.cfw else if which = 1 then d.cmc else d.cust
        if (held s.datum).isSome then replied t src 0x80 13 [] ∧ held t.datum = held s.datum
        else replied t src 0x80 0 [] ∧ held t.datum = some key)

/-- Time, counters, records and the array of the Datum die (R549, R554, R570–R577, R580–R583, R596, R599, R600).
Clauses rest on choices of the model, log entries 2, 167, 169, 170, 172. -/
def Obligations.DatumTimeAndRecords : Prop :=
  (∀ (src : ReqSrc) (s : State), asks s src 0x50 → Answers (exec (.timeget src) s) fun t =>
    replied t src 0x50 0 (toBytes 8 (clockStamp s.datum)) ∧ t.datum.clock = s.datum.clock)
  ∧ (∀ (delta used : Int) (s : State), asks s .mailbox 0x51 → quiet s .dtm →
      used = (if s.datum.adjDay = clockSec s.datum / 86400 then s.datum.adj else 0) → -32768 ≤ used + delta → used + delta ≤ 32768 →
      Answers (exec (.clkadj delta) s) fun t =>
        replied t .mailbox 0x51 0 [] ∧ t.datum.clock = s.datum.clock + delta.toNat ∧ t.datum.slewHold = s.datum.slewHold + (-delta).toNat
          ∧ t.datum.adj = used + delta ∧ t.datum.clkvalid = s.datum.clkvalid)
  ∧ (∀ (delta : Int) (s : State), asks s .mailbox 0x51 →
      32768 < (if s.datum.adjDay = clockSec s.datum / 86400 then s.datum.adj else 0) + delta → Answers (exec (.clkadj delta) s) fun t =>
        replied t .mailbox 0x51 12 [] ∧ t.datum.clock = s.datum.clock)
  ∧ (∀ (src : ReqSrc) (sig : Sig) (time : Nat) (s : State), asks s src 0x52 → quiet s .dtm → sigCheck s sig = 0 →
      Answers (exec (.clkset src sig time) s) fun t =>
        if time < clockSec s.datum then replied t src 0x52 12 [] ∧ t.datum.clock = s.datum.clock ∧ t.datum.clkvalid = s.datum.clkvalid
        else replied t src 0x52 0 [] ∧ t.datum.clkvalid = true ∧ t.datum.clock = max s.datum.clock (time * 2 ^ 15))
  ∧ (∀ (opsec pcyc : Nat) (e : NorEv) (s : State), asks s .mailbox 0x60 → quiet s .dtm → opsec < 2 ^ 64 → pcyc < 2 ^ 32 →
      Answers (exec (.countsave opsec pcyc e) s) fun t =>
        replied t .mailbox 0x60 0 [] ∧ t.datum.counters.head? = some (opsec, clockStamp s.datum, pcyc) ∧ t.datum.savedTime = clockSec s.datum)
  ∧ (∀ (src : ReqSrc) (s : State), asks s src 0x61 → Answers (exec (.tierread src) s) fun t => replied t src 0x61 0 s.datum.tier)
  ∧ (∀ (bytes : List Byte) (e : NorEv) (s : State), asks s .mailbox 0x62 → quiet s .dtm → Answers (exec (.tierwrite .mailbox bytes e) s) fun t =>
      replied t .mailbox 0x62 0 [] ∧ t.datum.tier = bytes)
  ∧ (∀ (bytes : List Byte) (e : NorEv) (s : State), asks s .port 0x62 → Answers (exec (.tierwrite .port bytes e) s) fun t =>
      replied t .port 0x62 8 [] ∧ t.datum.tier = s.datum.tier)
  ∧ (∀ (ch : Fin 96) (v : BitVec 32) (s : State), asks s .mailbox 0x70 → Answers (exec (.evpost ch v) s) fun t =>
      if 90 ≤ ch.val then replied t .mailbox 0x70 0 []
        ∧ tget Rec.cleared t.datum.recs ch = recAdd (chcfgReset ch) (tget Rec.cleared s.datum.recs ch) v
          (clockSec s.datum % 2 ^ 40, (lastCounters s.datum).2)
      else replied t .mailbox 0x70 10 [] ∧ t.datum.recs = s.datum.recs)
  ∧ (∀ (src : ReqSrc) (s : State), asks s src 0x71 → Answers (exec (.status src) s) fun t =>
      replied t src 0x71 0 (toBytes 2 (usableSectors s) ++ toBytes 4 (maxErases s.datum) ++ [BitVec.ofNat 8 (bit01 s.datum.clkvalid)]
        ++ s.datum.floors.toList.flatMap (toBytes 4) ++ toBytes 2 s.datum.rotation))
  ∧ (∀ (sector : Fin 4096) (s : State), asks s .port 0x90 → (secOf s.datum sector).st = .blank →
      Answers (exec (.physread .port sector) s) fun t =>
        replied t .port 0x90 0 (0 :: secHeader s.datum sector ++ List.replicate 4096 0xFF) ∧ t.datum.sectors = s.datum.sectors)
  ∧ (∀ (sector : Fin 4096) (s : State), asks s .mailbox 0x90 → Answers (exec (.physread .mailbox sector) s) fun t => replied t .mailbox 0x90 1 [])
  ∧ (∀ (p : Nat) (s : State), s.datum.portReq = none → firstSec s.datum (· = .interrupted) 0 4096 = some p →
      (Answers (exec (.interruptedErase true) s) fun t =>
        secOf t.datum p = { st := .blank, logical := 0xFFFF, version := 0, ecount := (secOf s.datum p).ecount + 1 }
          ∧ (∀ q, q ≠ p → secOf t.datum q = secOf s.datum q) ∧ t.regs = s.regs)
      ∧ Answers (exec (.interruptedErase false) s) fun t =>
        (secOf t.datum p).st = .retired ∧ ∀ q, q ≠ p → secOf t.datum q = secOf s.datum q)
  ∧ (∀ (vbat : Int) (e : NorEv) (s : State), Answers (exec (.dailySave vbat e) s) fun t =>
      t.datum.clock = (clockSec s.datum / 86400 + 1) * 86400 * 2 ^ 15 ∧ t.datum.slewHold = 0 ∧ t.datum.recsSaved = t.datum.recs
        ∧ t.datum.savedTime = clockSec t.datum ∧ lastCounters t.datum = lastCounters s.datum
        ∧ (tget Rec.cleared t.datum.recs 89).total = min 0xFFFF_FFFF_FFFF_FFFF ((tget Rec.cleared s.datum.recs 89).total + 1))
  ∧ (∀ s : State, mailboxUp s = true → s.dtm.events.length < 16 → Answers (exec .vbatLow s) fun t =>
      t.dtm.events = s.dtm.events ++ [(7, 0)] ∧ rbit t Reg.dtmIrqstat 1 = true ∧ regsSameBut s t [Reg.dtmIrqstat] ∧ t.datum = s.datum ∧ t.mem = s.mem)
  ∧ (∀ s : State, mailboxUp s = false → Answers (exec .vbatLow s) fun t =>
      t.datum = { s.datum with evq := s.datum.evq ++ [(7, 0)] } ∧ t.regs = s.regs ∧ t.mem = s.mem)

/-- The test access port and the junction sensor (R602–R605, R607, R608, R621, R622).
Clauses rest on choices of the model, log entries 2, 176. -/
def Obligations.TestAndTemperature : Prop :=
  (∀ s : State, Answers (exec .tapReset s) fun t =>
    t.tap = { s.tap with active := false, instr := .idcode, refused := false } ∧ t.regs = s.regs ∧ t.mem = s.mem ∧ t.datum = s.datum)
  ∧ (∀ s : State, Answers (exec .idcode s) fun t =>
      t.resp.data = BitVec.ofNat 64 (idCode s) ∧ t.tap = { s.tap with active := true, instr := .idcode } ∧ t.regs = s.regs ∧ t.mem = s.mem)
  ∧ (∀ (capture load_ : BitVec 2318) (s : State), Answers (exec (.samplePreload capture load_) s) fun t =>
      t.tap = { s.tap with active := true, instr := .samplePreload, boundary := load_ } ∧ t.resp.data = capture.setWidth 64
        ∧ t.regs = s.regs ∧ t.mem = s.mem)
  ∧ (∀ (opcode : Byte) (s : State), 6 < opcode.toNat → Answers (exec (.bypass opcode) s) fun t =>
      t.tap = { s.tap with active := true, instr := .bypass } ∧ t.regs = s.regs ∧ t.mem = s.mem)
  ∧ (∀ p ∈ ([(Instr.extest, .extest), (Instr.extestPulse, .extestPulse), (Instr.extestTrain, .extestTrain), (Instr.clamp, .clamp),
      (Instr.highz, .highz)] : List (Instr × TapInstr)), ∀ s : State,
      (s.rst.pinLow = true → s.rst.inChipReset = true → Answers (exec p.1 s) fun t =>
        t.tap = { s.tap with active := true, instr := p.2 } ∧ t.rst = s.rst ∧ t.datum = { s.datum with portReq := none } ∧ t.regs = s.regs)
      ∧ (s.rst.pinLow = false ∨ s.rst.inChipReset = false → Answers (exec p.1 s) fun t =>
        t.tap = { s.tap with active := true, instr := .bypass, refused := true } ∧ t.datum = s.datum ∧ t.regs = s.regs ∧ t.mem = s.mem))
  ∧ (∀ (r : Int) (s : State), s.rst.inChipReset = false → quiet s .tst → -2 ^ 15 ≤ r → r < 2 ^ 15 → Answers (exec (.tempReading r) s) fun t =>
      t.tap.temp = some r ∧ t.tap.tempMax = some (match s.tap.tempMax with | none => r | some m => max m r)
        ∧ t.tap.hot = (if 1840 ≤ r then min 10 (s.tap.hot + 1) else 0)
        ∧ (s.tap.tempHi = false → t.tap.tempHi = decide (16 * (rf s Reg.tstThermctl 0 8 : Int) ≤ r))
        ∧ (s.tap.tempHi = false → 16 * (rf s Reg.tstThermctl 0 8 : Int) ≤ r → rbit s (aFlive .tst) 0 = false →
          rbit t (aFstat .tst) 0 = true ∧ rbit t Reg.tstIrqstat 0 = true))
  ∧ (∀ (r : Int) (s : State), s.rst.inChipReset = false → quiet s .tst → 1840 ≤ r → r < 2 ^ 15 → s.tap.hot = 9 → rbit s (aFlive .tst) 1 = false →
      Answers (exec (.tempReading r) s) fun t =>
        t.rst.tempHold = true ∧ (if s.pf.active then ResetCause.fault ∈ t.rst.deferred else ResetCause.fault ∈ t.rst.pending))
  ∧ (∀ (r : Int) (s : State), s.rst.inChipReset = true → s.rst.tempHold = true → -2 ^ 15 ≤ r → r < 1600 → Answers (exec (.tempReading r) s) fun t =>
      t.rst.tempHold = false ∧ t.rst.inChipReset = (s.rst.clkHold || s.rst.pinLow || (s.tap.active && drivesPins s.tap.instr))
        ∧ t.tap = s.tap ∧ t.regs = s.regs ∧ t.mem = s.mem)

/-- The state after reset (R19, R67, R342, R361, R447, R480, R543, R602). -/
def Obligations.StateAtReset : Prop :=
  Settled State.reset ∧ State.reset.pending = [] ∧ State.reset.tick = 0 ∧ State.reset.mem = [] ∧ Memory.wf State.reset.mem = true
    ∧ (∀ a, rget State.reset a = regReset a) ∧ (State.reset.core 0).run = .running
    ∧ (∀ c : Fin 8, c ≠ 0 → (State.reset.core c).run = .reset)
    ∧ (∀ c : Fin 8, (State.reset.core c).pc = 0 ∧ (State.reset.core c).stat = 0 ∧ ∀ r, gAt State.reset c r = 0)
    ∧ (∀ a : Fin 16, (State.reset.act a).st = .parked ∧ (State.reset.act a).vcode = 0 ∧ (State.reset.act a).mcode = 0)
    ∧ (∀ i : Fin 8, (State.reset.spn i).st = .stopped) ∧ State.reset.tap.instr = .idcode ∧ State.reset.cqu.tags = []

/-- Every step keeps a settled state settled: a MODE 1 assignment lasts no longer than its line is asserted, and no core goes on
waiting once its wait has ended (R42, R466). -/
def Obligations.SettledInvariant : Prop := ∀ s t : State, Settled s → step s = .next t → Settled t

/-- Unit tags, check codes, the scrambler and the codes of a slot (R166–R168, R203, R209, R272). -/
def Obligations.UnitsAndCodes : Prop :=
  (∀ (g : UnitTag) (body : List Byte), g.fits → body.length ≤ 4096 →
    parseTag (unitInfo g body) = g ∧ tcrcOk (unitInfo g body) = true ∧ dcrcOk (unitInfo g body) = true ∧ (unitInfo g body).length = 4128)
  ∧ crc32c [0x31, 0x32, 0x33, 0x34, 0x35, 0x36, 0x37, 0x38, 0x39] = 0xE306_9283
  ∧ crc16 [0x31, 0x32, 0x33, 0x34, 0x35, 0x36, 0x37, 0x38, 0x39] = 0x29B1
  ∧ (∀ (r : Nat) (x : List Bool), scrambleFrom r (scrambleFrom r x) = x)
  ∧ (∀ c : List Bool, c.length = 33024 → (ldpcParity c).length = 3840 ∧ ∀ i, i < 10 → ldpcCheck (c ++ ldpcParity c) i = List.replicate 384 false)
  ∧ (∀ a, 0 < a → a < 256 → gfMul a (gfInv a) = 1)
  ∧ (∀ a b, a < 256 → b < 256 → gfMul a b = gfMul b a ∧ gfMul a b < 256)

/-- The layout of parity groups and of the band outer code (R196, R293, R294). -/
def Obligations.ParityLayout : Prop :=
  (∀ (s : State) (spindle band g j : Nat), groupOf s spindle band = some (g, j) →
    memberOf s g j = (spindle, band) ∧ g < groupCount s ∧ j < groupW s ∧ band < bandMin s)
  ∧ (∀ (s : State) (g j : Nat), g < groupCount s → j < groupW s → groupOf s (memberOf s g j).1 (memberOf s g j).2 = some (g, j))
  ∧ (∀ (s : State) (g i j : Nat), groupW s ≤ (spindleList s).length → i < groupW s → j < groupW s → i ≠ j →
      (memberOf s g i).1 ≠ (memberOf s g j).1)
  ∧ (∀ (s : State) (g r : Nat), r < groupW s → roleOf s g (memberOfRole s g r) = r ∧ memberOfRole s g r < groupW s)
  ∧ (∀ (s : State) (g j : Nat), j < groupW s → (roleOf s g j + g) % groupW s = j)
  ∧ (∀ q, q < 67652 → outerGroup q < 1058 ∧ outerRow q < 64 ∧ outerSlot (outerGroup q) (outerRow q) = some q)
  ∧ (∀ g r q, g < 1058 → r < 64 → outerSlot g r = some q → q < 67652 ∧ outerGroup q = g ∧ outerRow q = r)

/-- How far apart the slots of one outer-code group lie, so that a lost track costs a group at most two units, and the least
number of tracks that holds a band (R191, R195, R197). -/
def Obligations.OuterCodeSpread : Prop :=
  (∀ n, wedgebitsValid n = true → 0 < slotsPerTrack n ∧ slotsPerTrack n ≤ 2055
    ∧ 67652 ≤ tracksPerBand (slotsPerTrack n) * slotsPerTrack n
    ∧ ∀ k, 67652 ≤ k * slotsPerTrack n → tracksPerBand (slotsPerTrack n) ≤ k)
  ∧ (∀ a b, a < b → b < 67652 → outerGroup a = outerGroup b → 998 ≤ b - a)
  ∧ (∀ a b c, a < b → b < c → c < 67652 → outerGroup a = outerGroup b → outerGroup b = outerGroup c → 2056 ≤ c - a)
  ∧ (∀ q n g, n ≤ 2055 → q + n ≤ 67652 → ((List.range n).filter fun i => decide (outerGroup (q + i) = g)).length ≤ 2)
end

