-- ==== Sys2Proof/Laws/State.lean ====
section
/-! SUPPORT. What each update of the state leaves alone, field by field, and what it writes; the end of every command. -/

namespace Sys2Proof.Machine

/-! ### `modCore` -/

section
variable (s : State) (c : Fin 8) (f : CoreSt → CoreSt)

@[simp] theorem modCore_pending : (modCore s c f).pending = s.pending := rfl
@[simp] theorem modCore_part : (modCore s c f).part = s.part := rfl
@[simp] theorem modCore_tick : (modCore s c f).tick = s.tick := rfl
@[simp] theorem modCore_regs : (modCore s c f).regs = s.regs := rfl
@[simp] theorem modCore_rshadow : (modCore s c f).rshadow = s.rshadow := rfl
@[simp] theorem modCore_wshadow : (modCore s c f).wshadow = s.wshadow := rfl
@[simp] theorem modCore_mem : (modCore s c f).mem = s.mem := rfl
@[simp] theorem modCore_hostMem : (modCore s c f).hostMem = s.hostMem := rfl
@[simp] theorem modCore_drawn : (modCore s c f).drawn = s.drawn := rfl
@[simp] theorem modCore_resp : (modCore s c f).resp = s.resp := rfl
@[simp] theorem modCore_conf : (modCore s c f).conf = s.conf := rfl
@[simp] theorem modCore_boot : (modCore s c f).boot = s.boot := rfl
@[simp] theorem modCore_rst : (modCore s c f).rst = s.rst := rfl
@[simp] theorem modCore_pf : (modCore s c f).pf = s.pf := rfl
@[simp] theorem modCore_pmu : (modCore s c f).pmu = s.pmu := rfl
@[simp] theorem modCore_fcaps : (modCore s c f).fcaps = s.fcaps := rfl
@[simp] theorem modCore_inputs : (modCore s c f).inputs = s.inputs := rfl
@[simp] theorem modCore_assigns : (modCore s c f).assigns = s.assigns := rfl
@[simp] theorem modCore_swint : (modCore s c f).swint = s.swint := rfl
@[simp] theorem modCore_mcs : (modCore s c f).mcs = s.mcs := rfl
@[simp] theorem modCore_ports : (modCore s c f).ports = s.ports := rfl
@[simp] theorem modCore_cqu : (modCore s c f).cqu = s.cqu := rfl
@[simp] theorem modCore_obj : (modCore s c f).obj = s.obj := rfl
@[simp] theorem modCore_geom : (modCore s c f).geom = s.geom := rfl
@[simp] theorem modCore_fmt : (modCore s c f).fmt = s.fmt := rfl
@[simp] theorem modCore_slices : (modCore s c f).slices = s.slices := rfl
@[simp] theorem modCore_links : (modCore s c f).links = s.links := rfl
@[simp] theorem modCore_afes : (modCore s c f).afes = s.afes := rfl
@[simp] theorem modCore_queues : (modCore s c f).queues = s.queues := rfl
@[simp] theorem modCore_media : (modCore s c f).media = s.media := rfl
@[simp] theorem modCore_ladders : (modCore s c f).ladders = s.ladders := rfl
@[simp] theorem modCore_bands : (modCore s c f).bands = s.bands := rfl
@[simp] theorem modCore_lat : (modCore s c f).lat = s.lat := rfl
@[simp] theorem modCore_acts : (modCore s c f).acts = s.acts := rfl
@[simp] theorem modCore_spns : (modCore s c f).spns = s.spns := rfl
@[simp] theorem modCore_fct : (modCore s c f).fct = s.fct := rfl
@[simp] theorem modCore_ms : (modCore s c f).ms = s.ms := rfl
@[simp] theorem modCore_dmas : (modCore s c f).dmas = s.dmas := rfl
@[simp] theorem modCore_evr : (modCore s c f).evr = s.evr := rfl
@[simp] theorem modCore_cal : (modCore s c f).cal = s.cal := rfl
@[simp] theorem modCore_datum : (modCore s c f).datum = s.datum := rfl
@[simp] theorem modCore_dtm : (modCore s c f).dtm = s.dtm := rfl
@[simp] theorem modCore_tap : (modCore s c f).tap = s.tap := rfl

end

/-! ### `modAct` -/

section
variable (s : State) (a : Fin 16) (f : ActSt → ActSt)

@[simp] theorem modAct_pending : (modAct s a f).pending = s.pending := rfl
@[simp] theorem modAct_part : (modAct s a f).part = s.part := rfl
@[simp] theorem modAct_tick : (modAct s a f).tick = s.tick := rfl
@[simp] theorem modAct_regs : (modAct s a f).regs = s.regs := rfl
@[simp] theorem modAct_rshadow : (modAct s a f).rshadow = s.rshadow := rfl
@[simp] theorem modAct_wshadow : (modAct s a f).wshadow = s.wshadow := rfl
@[simp] theorem modAct_mem : (modAct s a f).mem = s.mem := rfl
@[simp] theorem modAct_hostMem : (modAct s a f).hostMem = s.hostMem := rfl
@[simp] theorem modAct_drawn : (modAct s a f).drawn = s.drawn := rfl
@[simp] theorem modAct_resp : (modAct s a f).resp = s.resp := rfl
@[simp] theorem modAct_conf : (modAct s a f).conf = s.conf := rfl
@[simp] theorem modAct_boot : (modAct s a f).boot = s.boot := rfl
@[simp] theorem modAct_rst : (modAct s a f).rst = s.rst := rfl
@[simp] theorem modAct_pf : (modAct s a f).pf = s.pf := rfl
@[simp] theorem modAct_pmu : (modAct s a f).pmu = s.pmu := rfl
@[simp] theorem modAct_fcaps : (modAct s a f).fcaps = s.fcaps := rfl
@[simp] theorem modAct_inputs : (modAct s a f).inputs = s.inputs := rfl
@[simp] theorem modAct_assigns : (modAct s a f).assigns = s.assigns := rfl
@[simp] theorem modAct_swint : (modAct s a f).swint = s.swint := rfl
@[simp] theorem modAct_cores : (modAct s a f).cores = s.cores := rfl
@[simp] theorem modAct_mcs : (modAct s a f).mcs = s.mcs := rfl
@[simp] theorem modAct_ports : (modAct s a f).ports = s.ports := rfl
@[simp] theorem modAct_cqu : (modAct s a f).cqu = s.cqu := rfl
@[simp] theorem modAct_obj : (modAct s a f).obj = s.obj := rfl
@[simp] theorem modAct_geom : (modAct s a f).geom = s.geom := rfl
@[simp] theorem modAct_fmt : (modAct s a f).fmt = s.fmt := rfl
@[simp] theorem modAct_slices : (modAct s a f).slices = s.slices := rfl
@[simp] theorem modAct_links : (modAct s a f).links = s.links := rfl
@[simp] theorem modAct_afes : (modAct s a f).afes = s.afes := rfl
@[simp] theorem modAct_queues : (modAct s a f).queues = s.queues := rfl
@[simp] theorem modAct_media : (modAct s a f).media = s.media := rfl
@[simp] theorem modAct_ladders : (modAct s a f).ladders = s.ladders := rfl
@[simp] theorem modAct_bands : (modAct s a f).bands = s.bands := rfl
@[simp] theorem modAct_lat : (modAct s a f).lat = s.lat := rfl
@[simp] theorem modAct_spns : (modAct s a f).spns = s.spns := rfl
@[simp] theorem modAct_fct : (modAct s a f).fct = s.fct := rfl
@[simp] theorem modAct_ms : (modAct s a f).ms = s.ms := rfl
@[simp] theorem modAct_dmas : (modAct s a f).dmas = s.dmas := rfl
@[simp] theorem modAct_evr : (modAct s a f).evr = s.evr := rfl
@[simp] theorem modAct_cal : (modAct s a f).cal = s.cal := rfl
@[simp] theorem modAct_datum : (modAct s a f).datum = s.datum := rfl
@[simp] theorem modAct_dtm : (modAct s a f).dtm = s.dtm := rfl
@[simp] theorem modAct_tap : (modAct s a f).tap = s.tap := rfl

end

/-! ### `modSpn` -/

section
variable (s : State) (i : Fin 8) (f : SpnSt → SpnSt)

@[simp] theorem modSpn_pending : (modSpn s i f).pending = s.pending := rfl
@[simp] theorem modSpn_part : (modSpn s i f).part = s.part := rfl
@[simp] theorem modSpn_tick : (modSpn s i f).tick = s.tick := rfl
@[simp] theorem modSpn_regs : (modSpn s i f).regs = s.regs := rfl
@[simp] theorem modSpn_rshadow : (modSpn s i f).rshadow = s.rshadow := rfl
@[simp] theorem modSpn_wshadow : (modSpn s i f).wshadow = s.wshadow := rfl
@[simp] theorem modSpn_mem : (modSpn s i f).mem = s.mem := rfl
@[simp] theorem modSpn_hostMem : (modSpn s i f).hostMem = s.hostMem := rfl
@[simp] theorem modSpn_drawn : (modSpn s i f).drawn = s.drawn := rfl
@[simp] theorem modSpn_resp : (modSpn s i f).resp = s.resp := rfl
@[simp] theorem modSpn_conf : (modSpn s i f).conf = s.conf := rfl
@[simp] theorem modSpn_boot : (modSpn s i f).boot = s.boot := rfl
@[simp] theorem modSpn_rst : (modSpn s i f).rst = s.rst := rfl
@[simp] theorem modSpn_pf : (modSpn s i f).pf = s.pf := rfl
@[simp] theorem modSpn_pmu : (modSpn s i f).pmu = s.pmu := rfl
@[simp] theorem modSpn_fcaps : (modSpn s i f).fcaps = s.fcaps := rfl
@[simp] theorem modSpn_inputs : (modSpn s i f).inputs = s.inputs := rfl
@[simp] theorem modSpn_assigns : (modSpn s i f).assigns = s.assigns := rfl
@[simp] theorem modSpn_swint : (modSpn s i f).swint = s.swint := rfl
@[simp] theorem modSpn_cores : (modSpn s i f).cores = s.cores := rfl
@[simp] theorem modSpn_mcs : (modSpn s i f).mcs = s.mcs := rfl
@[simp] theorem modSpn_ports : (modSpn s i f).ports = s.ports := rfl
@[simp] theorem modSpn_cqu : (modSpn s i f).cqu = s.cqu := rfl
@[simp] theorem modSpn_obj : (modSpn s i f).obj = s.obj := rfl
@[simp] theorem modSpn_geom : (modSpn s i f).geom = s.geom := rfl
@[simp] theorem modSpn_fmt : (modSpn s i f).fmt = s.fmt := rfl
@[simp] theorem modSpn_slices : (modSpn s i f).slices = s.slices := rfl
@[simp] theorem modSpn_links : (modSpn s i f).links = s.links := rfl
@[simp] theorem modSpn_afes : (modSpn s i f).afes = s.afes := rfl
@[simp] theorem modSpn_queues : (modSpn s i f).queues = s.queues := rfl
@[simp] theorem modSpn_media : (modSpn s i f).media = s.media := rfl
@[simp] theorem modSpn_ladders : (modSpn s i f).ladders = s.ladders := rfl
@[simp] theorem modSpn_bands : (modSpn s i f).bands = s.bands := rfl
@[simp] theorem modSpn_lat : (modSpn s i f).lat = s.lat := rfl
@[simp] theorem modSpn_acts : (modSpn s i f).acts = s.acts := rfl
@[simp] theorem modSpn_fct : (modSpn s i f).fct = s.fct := rfl
@[simp] theorem modSpn_ms : (modSpn s i f).ms = s.ms := rfl
@[simp] theorem modSpn_dmas : (modSpn s i f).dmas = s.dmas := rfl
@[simp] theorem modSpn_evr : (modSpn s i f).evr = s.evr := rfl
@[simp] theorem modSpn_cal : (modSpn s i f).cal = s.cal := rfl
@[simp] theorem modSpn_datum : (modSpn s i f).datum = s.datum := rfl
@[simp] theorem modSpn_dtm : (modSpn s i f).dtm = s.dtm := rfl
@[simp] theorem modSpn_tap : (modSpn s i f).tap = s.tap := rfl

end

/-! ### `modSlice` -/

section
variable (s : State) (n : Fin 8) (f : SliceSt → SliceSt)

@[simp] theorem modSlice_pending : (modSlice s n f).pending = s.pending := rfl
@[simp] theorem modSlice_part : (modSlice s n f).part = s.part := rfl
@[simp] theorem modSlice_tick : (modSlice s n f).tick = s.tick := rfl
@[simp] theorem modSlice_regs : (modSlice s n f).regs = s.regs := rfl
@[simp] theorem modSlice_rshadow : (modSlice s n f).rshadow = s.rshadow := rfl
@[simp] theorem modSlice_wshadow : (modSlice s n f).wshadow = s.wshadow := rfl
@[simp] theorem modSlice_mem : (modSlice s n f).mem = s.mem := rfl
@[simp] theorem modSlice_hostMem : (modSlice s n f).hostMem = s.hostMem := rfl
@[simp] theorem modSlice_drawn : (modSlice s n f).drawn = s.drawn := rfl
@[simp] theorem modSlice_resp : (modSlice s n f).resp = s.resp := rfl
@[simp] theorem modSlice_conf : (modSlice s n f).conf = s.conf := rfl
@[simp] theorem modSlice_boot : (modSlice s n f).boot = s.boot := rfl
@[simp] theorem modSlice_rst : (modSlice s n f).rst = s.rst := rfl
@[simp] theorem modSlice_pf : (modSlice s n f).pf = s.pf := rfl
@[simp] theorem modSlice_pmu : (modSlice s n f).pmu = s.pmu := rfl
@[simp] theorem modSlice_fcaps : (modSlice s n f).fcaps = s.fcaps := rfl
@[simp] theorem modSlice_inputs : (modSlice s n f).inputs = s.inputs := rfl
@[simp] theorem modSlice_assigns : (modSlice s n f).assigns = s.assigns := rfl
@[simp] theorem modSlice_swint : (modSlice s n f).swint = s.swint := rfl
@[simp] theorem modSlice_cores : (modSlice s n f).cores = s.cores := rfl
@[simp] theorem modSlice_mcs : (modSlice s n f).mcs = s.mcs := rfl
@[simp] theorem modSlice_ports : (modSlice s n f).ports = s.ports := rfl
@[simp] theorem modSlice_cqu : (modSlice s n f).cqu = s.cqu := rfl
@[simp] theorem modSlice_obj : (modSlice s n f).obj = s.obj := rfl
@[simp] theorem modSlice_geom : (modSlice s n f).geom = s.geom := rfl
@[simp] theorem modSlice_fmt : (modSlice s n f).fmt = s.fmt := rfl
@[simp] theorem modSlice_links : (modSlice s n f).links = s.links := rfl
@[simp] theorem modSlice_afes : (modSlice s n f).afes = s.afes := rfl
@[simp] theorem modSlice_queues : (modSlice s n f).queues = s.queues := rfl
@[simp] theorem modSlice_media : (modSlice s n f).media = s.media := rfl
@[simp] theorem modSlice_ladders : (modSlice s n f).ladders = s.ladders := rfl
@[simp] theorem modSlice_bands : (modSlice s n f).bands = s.bands := rfl
@[simp] theorem modSlice_lat : (modSlice s n f).lat = s.lat := rfl
@[simp] theorem modSlice_acts : (modSlice s n f).acts = s.acts := rfl
@[simp] theorem modSlice_spns : (modSlice s n f).spns = s.spns := rfl
@[simp] theorem modSlice_fct : (modSlice s n f).fct = s.fct := rfl
@[simp] theorem modSlice_ms : (modSlice s n f).ms = s.ms := rfl
@[simp] theorem modSlice_dmas : (modSlice s n f).dmas = s.dmas := rfl
@[simp] theorem modSlice_evr : (modSlice s n f).evr = s.evr := rfl
@[simp] theorem modSlice_cal : (modSlice s n f).cal = s.cal := rfl
@[simp] theorem modSlice_datum : (modSlice s n f).datum = s.datum := rfl
@[simp] theorem modSlice_dtm : (modSlice s n f).dtm = s.dtm := rfl
@[simp] theorem modSlice_tap : (modSlice s n f).tap = s.tap := rfl

end

/-! ### `modDma` -/

section
variable (s : State) (c : Fin 32) (f : DmaSt → DmaSt)

@[simp] theorem modDma_pending : (modDma s c f).pending = s.pending := rfl
@[simp] theorem modDma_part : (modDma s c f).part = s.part := rfl
@[simp] theorem modDma_tick : (modDma s c f).tick = s.tick := rfl
@[simp] theorem modDma_regs : (modDma s c f).regs = s.regs := rfl
@[simp] theorem modDma_rshadow : (modDma s c f).rshadow = s.rshadow := rfl
@[simp] theorem modDma_wshadow : (modDma s c f).wshadow = s.wshadow := rfl
@[simp] theorem modDma_mem : (modDma s c f).mem = s.mem := rfl
@[simp] theorem modDma_hostMem : (modDma s c f).hostMem = s.hostMem := rfl
@[simp] theorem modDma_drawn : (modDma s c f).drawn = s.drawn := rfl
@[simp] theorem modDma_resp : (modDma s c f).resp = s.resp := rfl
@[simp] theorem modDma_conf : (modDma s c f).conf = s.conf := rfl
@[simp] theorem modDma_boot : (modDma s c f).boot = s.boot := rfl
@[simp] theorem modDma_rst : (modDma s c f).rst = s.rst := rfl
@[simp] theorem modDma_pf : (modDma s c f).pf = s.pf := rfl
@[simp] theorem modDma_pmu : (modDma s c f).pmu = s.pmu := rfl
@[simp] theorem modDma_fcaps : (modDma s c f).fcaps = s.fcaps := rfl
@[simp] theorem modDma_inputs : (modDma s c f).inputs = s.inputs := rfl
@[simp] theorem modDma_assigns : (modDma s c f).assigns = s.assigns := rfl
@[simp] theorem modDma_swint : (modDma s c f).swint = s.swint := rfl
@[simp] theorem modDma_cores : (modDma s c f).cores = s.cores := rfl
@[simp] theorem modDma_mcs : (modDma s c f).mcs = s.mcs := rfl
@[simp] theorem modDma_ports : (modDma s c f).ports = s.ports := rfl
@[simp] theorem modDma_cqu : (modDma s c f).cqu = s.cqu := rfl
@[simp] theorem modDma_obj : (modDma s c f).obj = s.obj := rfl
@[simp] theorem modDma_geom : (modDma s c f).geom = s.geom := rfl
@[simp] theorem modDma_fmt : (modDma s c f).fmt = s.fmt := rfl
@[simp] theorem modDma_slices : (modDma s c f).slices = s.slices := rfl
@[simp] theorem modDma_links : (modDma s c f).links = s.links := rfl
@[simp] theorem modDma_afes : (modDma s c f).afes = s.afes := rfl
@[simp] theorem modDma_queues : (modDma s c f).queues = s.queues := rfl
@[simp] theorem modDma_media : (modDma s c f).media = s.media := rfl
@[simp] theorem modDma_ladders : (modDma s c f).ladders = s.ladders := rfl
@[simp] theorem modDma_bands : (modDma s c f).bands = s.bands := rfl
@[simp] theorem modDma_lat : (modDma s c f).lat = s.lat := rfl
@[simp] theorem modDma_acts : (modDma s c f).acts = s.acts := rfl
@[simp] theorem modDma_spns : (modDma s c f).spns = s.spns := rfl
@[simp] theorem modDma_fct : (modDma s c f).fct = s.fct := rfl
@[simp] theorem modDma_ms : (modDma s c f).ms = s.ms := rfl
@[simp] theorem modDma_evr : (modDma s c f).evr = s.evr := rfl
@[simp] theorem modDma_cal : (modDma s c f).cal = s.cal := rfl
@[simp] theorem modDma_datum : (modDma s c f).datum = s.datum := rfl
@[simp] theorem modDma_dtm : (modDma s c f).dtm = s.dtm := rfl
@[simp] theorem modDma_tap : (modDma s c f).tap = s.tap := rfl

end

/-! ### `modPort` -/

section
variable (s : State) (p : Port) (f : PortSt → PortSt)

@[simp] theorem modPort_pending : (modPort s p f).pending = s.pending := rfl
@[simp] theorem modPort_part : (modPort s p f).part = s.part := rfl
@[simp] theorem modPort_tick : (modPort s p f).tick = s.tick := rfl
@[simp] theorem modPort_regs : (modPort s p f).regs = s.regs := rfl
@[simp] theorem modPort_rshadow : (modPort s p f).rshadow = s.rshadow := rfl
@[simp] theorem modPort_wshadow : (modPort s p f).wshadow = s.wshadow := rfl
@[simp] theorem modPort_mem : (modPort s p f).mem = s.mem := rfl
@[simp] theorem modPort_hostMem : (modPort s p f).hostMem = s.hostMem := rfl
@[simp] theorem modPort_drawn : (modPort s p f).drawn = s.drawn := rfl
@[simp] theorem modPort_resp : (modPort s p f).resp = s.resp := rfl
@[simp] theorem modPort_conf : (modPort s p f).conf = s.conf := rfl
@[simp] theorem modPort_boot : (modPort s p f).boot = s.boot := rfl
@[simp] theorem modPort_rst : (modPort s p f).rst = s.rst := rfl
@[simp] theorem modPort_pf : (modPort s p f).pf = s.pf := rfl
@[simp] theorem modPort_pmu : (modPort s p f).pmu = s.pmu := rfl
@[simp] theorem modPort_fcaps : (modPort s p f).fcaps = s.fcaps := rfl
@[simp] theorem modPort_inputs : (modPort s p f).inputs = s.inputs := rfl
@[simp] theorem modPort_assigns : (modPort s p f).assigns = s.assigns := rfl
@[simp] theorem modPort_swint : (modPort s p f).swint = s.swint := rfl
@[simp] theorem modPort_cores : (modPort s p f).cores = s.cores := rfl
@[simp] theorem modPort_mcs : (modPort s p f).mcs = s.mcs := rfl
@[simp] theorem modPort_cqu : (modPort s p f).cqu = s.cqu := rfl
@[simp] theorem modPort_obj : (modPort s p f).obj = s.obj := rfl
@[simp] theorem modPort_geom : (modPort s p f).geom = s.geom := rfl
@[simp] theorem modPort_fmt : (modPort s p f).fmt = s.fmt := rfl
@[simp] theorem modPort_slices : (modPort s p f).slices = s.slices := rfl
@[simp] theorem modPort_links : (modPort s p f).links = s.links := rfl
@[simp] theorem modPort_afes : (modPort s p f).afes = s.afes := rfl
@[simp] theorem modPort_queues : (modPort s p f).queues = s.queues := rfl
@[simp] theorem modPort_media : (modPort s p f).media = s.media := rfl
@[simp] theorem modPort_ladders : (modPort s p f).ladders = s.ladders := rfl
@[simp] theorem modPort_bands : (modPort s p f).bands = s.bands := rfl
@[simp] theorem modPort_lat : (modPort s p f).lat = s.lat := rfl
@[simp] theorem modPort_acts : (modPort s p f).acts = s.acts := rfl
@[simp] theorem modPort_spns : (modPort s p f).spns = s.spns := rfl
@[simp] theorem modPort_fct : (modPort s p f).fct = s.fct := rfl
@[simp] theorem modPort_ms : (modPort s p f).ms = s.ms := rfl
@[simp] theorem modPort_dmas : (modPort s p f).dmas = s.dmas := rfl
@[simp] theorem modPort_evr : (modPort s p f).evr = s.evr := rfl
@[simp] theorem modPort_cal : (modPort s p f).cal = s.cal := rfl
@[simp] theorem modPort_datum : (modPort s p f).datum = s.datum := rfl
@[simp] theorem modPort_dtm : (modPort s p f).dtm = s.dtm := rfl
@[simp] theorem modPort_tap : (modPort s p f).tap = s.tap := rfl

end

/-! ### `modLink` -/

section
variable (s : State) (a : Fin 16) (f : LinkSt → LinkSt)

@[simp] theorem modLink_pending : (modLink s a f).pending = s.pending := rfl
@[simp] theorem modLink_part : (modLink s a f).part = s.part := rfl
@[simp] theorem modLink_tick : (modLink s a f).tick = s.tick := rfl
@[simp] theorem modLink_regs : (modLink s a f).regs = s.regs := rfl
@[simp] theorem modLink_rshadow : (modLink s a f).rshadow = s.rshadow := rfl
@[simp] theorem modLink_wshadow : (modLink s a f).wshadow = s.wshadow := rfl
@[simp] theorem modLink_mem : (modLink s a f).mem = s.mem := rfl
@[simp] theorem modLink_hostMem : (modLink s a f).hostMem = s.hostMem := rfl
@[simp] theorem modLink_drawn : (modLink s a f).drawn = s.drawn := rfl
@[simp] theorem modLink_resp : (modLink s a f).resp = s.resp := rfl
@[simp] theorem modLink_conf : (modLink s a f).conf = s.conf := rfl
@[simp] theorem modLink_boot : (modLink s a f).boot = s.boot := rfl
@[simp] theorem modLink_rst : (modLink s a f).rst = s.rst := rfl
@[simp] theorem modLink_pf : (modLink s a f).pf = s.pf := rfl
@[simp] theorem modLink_pmu : (modLink s a f).pmu = s.pmu := rfl
@[simp] theorem modLink_fcaps : (modLink s a f).fcaps = s.fcaps := rfl
@[simp] theorem modLink_inputs : (modLink s a f).inputs = s.inputs := rfl
@[simp] theorem modLink_assigns : (modLink s a f).assigns = s.assigns := rfl
@[simp] theorem modLink_swint : (modLink s a f).swint = s.swint := rfl
@[simp] theorem modLink_cores : (modLink s a f).cores = s.cores := rfl
@[simp] theorem modLink_mcs : (modLink s a f).mcs = s.mcs := rfl
@[simp] theorem modLink_ports : (modLink s a f).ports = s.ports := rfl
@[simp] theorem modLink_cqu : (modLink s a f).cqu = s.cqu := rfl
@[simp] theorem modLink_obj : (modLink s a f).obj = s.obj := rfl
@[simp] theorem modLink_geom : (modLink s a f).geom = s.geom := rfl
@[simp] theorem modLink_fmt : (modLink s a f).fmt = s.fmt := rfl
@[simp] theorem modLink_slices : (modLink s a f).slices = s.slices := rfl
@[simp] theorem modLink_afes : (modLink s a f).afes = s.afes := rfl
@[simp] theorem modLink_queues : (modLink s a f).queues = s.queues := rfl
@[simp] theorem modLink_media : (modLink s a f).media = s.media := rfl
@[simp] theorem modLink_ladders : (modLink s a f).ladders = s.ladders := rfl
@[simp] theorem modLink_bands : (modLink s a f).bands = s.bands := rfl
@[simp] theorem modLink_lat : (modLink s a f).lat = s.lat := rfl
@[simp] theorem modLink_acts : (modLink s a f).acts = s.acts := rfl
@[simp] theorem modLink_spns : (modLink s a f).spns = s.spns := rfl
@[simp] theorem modLink_fct : (modLink s a f).fct = s.fct := rfl
@[simp] theorem modLink_ms : (modLink s a f).ms = s.ms := rfl
@[simp] theorem modLink_dmas : (modLink s a f).dmas = s.dmas := rfl
@[simp] theorem modLink_evr : (modLink s a f).evr = s.evr := rfl
@[simp] theorem modLink_cal : (modLink s a f).cal = s.cal := rfl
@[simp] theorem modLink_datum : (modLink s a f).datum = s.datum := rfl
@[simp] theorem modLink_dtm : (modLink s a f).dtm = s.dtm := rfl
@[simp] theorem modLink_tap : (modLink s a f).tap = s.tap := rfl

end

/-! ### `modAfe` -/

section
variable (s : State) (a : Fin 16) (f : AfeSt → AfeSt)

@[simp] theorem modAfe_pending : (modAfe s a f).pending = s.pending := rfl
@[simp] theorem modAfe_part : (modAfe s a f).part = s.part := rfl
@[simp] theorem modAfe_tick : (modAfe s a f).tick = s.tick := rfl
@[simp] theorem modAfe_regs : (modAfe s a f).regs = s.regs := rfl
@[simp] theorem modAfe_rshadow : (modAfe s a f).rshadow = s.rshadow := rfl
@[simp] theorem modAfe_wshadow : (modAfe s a f).wshadow = s.wshadow := rfl
@[simp] theorem modAfe_mem : (modAfe s a f).mem = s.mem := rfl
@[simp] theorem modAfe_hostMem : (modAfe s a f).hostMem = s.hostMem := rfl
@[simp] theorem modAfe_drawn : (modAfe s a f).drawn = s.drawn := rfl
@[simp] theorem modAfe_resp : (modAfe s a f).resp = s.resp := rfl
@[simp] theorem modAfe_conf : (modAfe s a f).conf = s.conf := rfl
@[simp] theorem modAfe_boot : (modAfe s a f).boot = s.boot := rfl
@[simp] theorem modAfe_rst : (modAfe s a f).rst = s.rst := rfl
@[simp] theorem modAfe_pf : (modAfe s a f).pf = s.pf := rfl
@[simp] theorem modAfe_pmu : (modAfe s a f).pmu = s.pmu := rfl
@[simp] theorem modAfe_fcaps : (modAfe s a f).fcaps = s.fcaps := rfl
@[simp] theorem modAfe_inputs : (modAfe s a f).inputs = s.inputs := rfl
@[simp] theorem modAfe_assigns : (modAfe s a f).assigns = s.assigns := rfl
@[simp] theorem modAfe_swint : (modAfe s a f).swint = s.swint := rfl
@[simp] theorem modAfe_cores : (modAfe s a f).cores = s.cores := rfl
@[simp] theorem modAfe_mcs : (modAfe s a f).mcs = s.mcs := rfl
@[simp] theorem modAfe_ports : (modAfe s a f).ports = s.ports := rfl
@[simp] theorem modAfe_cqu : (modAfe s a f).cqu = s.cqu := rfl
@[simp] theorem modAfe_obj : (modAfe s a f).obj = s.obj := rfl
@[simp] theorem modAfe_geom : (modAfe s a f).geom = s.geom := rfl
@[simp] theorem modAfe_fmt : (modAfe s a f).fmt = s.fmt := rfl
@[simp] theorem modAfe_slices : (modAfe s a f).slices = s.slices := rfl
@[simp] theorem modAfe_links : (modAfe s a f).links = s.links := rfl
@[simp] theorem modAfe_queues : (modAfe s a f).queues = s.queues := rfl
@[simp] theorem modAfe_media : (modAfe s a f).media = s.media := rfl
@[simp] theorem modAfe_ladders : (modAfe s a f).ladders = s.ladders := rfl
@[simp] theorem modAfe_bands : (modAfe s a f).bands = s.bands := rfl
@[simp] theorem modAfe_lat : (modAfe s a f).lat = s.lat := rfl
@[simp] theorem modAfe_acts : (modAfe s a f).acts = s.acts := rfl
@[simp] theorem modAfe_spns : (modAfe s a f).spns = s.spns := rfl
@[simp] theorem modAfe_fct : (modAfe s a f).fct = s.fct := rfl
@[simp] theorem modAfe_ms : (modAfe s a f).ms = s.ms := rfl
@[simp] theorem modAfe_dmas : (modAfe s a f).dmas = s.dmas := rfl
@[simp] theorem modAfe_evr : (modAfe s a f).evr = s.evr := rfl
@[simp] theorem modAfe_cal : (modAfe s a f).cal = s.cal := rfl
@[simp] theorem modAfe_datum : (modAfe s a f).datum = s.datum := rfl
@[simp] theorem modAfe_dtm : (modAfe s a f).dtm = s.dtm := rfl
@[simp] theorem modAfe_tap : (modAfe s a f).tap = s.tap := rfl

end

/-! ### `rset` -/

section
variable (s : State) (a : Nat) (v : DWord)

@[simp] theorem rset_pending : (rset s a v).pending = s.pending := rfl
@[simp] theorem rset_part : (rset s a v).part = s.part := rfl
@[simp] theorem rset_tick : (rset s a v).tick = s.tick := rfl
@[simp] theorem rset_rshadow : (rset s a v).rshadow = s.rshadow := rfl
@[simp] theorem rset_wshadow : (rset s a v).wshadow = s.wshadow := rfl
@[simp] theorem rset_mem : (rset s a v).mem = s.mem := rfl
@[simp] theorem rset_hostMem : (rset s a v).hostMem = s.hostMem := rfl
@[simp] theorem rset_drawn : (rset s a v).drawn = s.drawn := rfl
@[simp] theorem rset_resp : (rset s a v).resp = s.resp := rfl
@[simp] theorem rset_conf : (rset s a v).conf = s.conf := rfl
@[simp] theorem rset_boot : (rset s a v).boot = s.boot := rfl
@[simp] theorem rset_rst : (rset s a v).rst = s.rst := rfl
@[simp] theorem rset_pf : (rset s a v).pf = s.pf := rfl
@[simp] theorem rset_pmu : (rset s a v).pmu = s.pmu := rfl
@[simp] theorem rset_fcaps : (rset s a v).fcaps = s.fcaps := rfl
@[simp] theorem rset_inputs : (rset s a v).inputs = s.inputs := rfl
@[simp] theorem rset_assigns : (rset s a v).assigns = s.assigns := rfl
@[simp] theorem rset_swint : (rset s a v).swint = s.swint := rfl
@[simp] theorem rset_cores : (rset s a v).cores = s.cores := rfl
@[simp] theorem rset_mcs : (rset s a v).mcs = s.mcs := rfl
@[simp] theorem rset_ports : (rset s a v).ports = s.ports := rfl
@[simp] theorem rset_cqu : (rset s a v).cqu = s.cqu := rfl
@[simp] theorem rset_obj : (rset s a v).obj = s.obj := rfl
@[simp] theorem rset_geom : (rset s a v).geom = s.geom := rfl
@[simp] theorem rset_fmt : (rset s a v).fmt = s.fmt := rfl
@[simp] theorem rset_slices : (rset s a v).slices = s.slices := rfl
@[simp] theorem rset_links : (rset s a v).links = s.links := rfl
@[simp] theorem rset_afes : (rset s a v).afes = s.afes := rfl
@[simp] theorem rset_queues : (rset s a v).queues = s.queues := rfl
@[simp] theorem rset_media : (rset s a v).media = s.media := rfl
@[simp] theorem rset_ladders : (rset s a v).ladders = s.ladders := rfl
@[simp] theorem rset_bands : (rset s a v).bands = s.bands := rfl
@[simp] theorem rset_lat : (rset s a v).lat = s.lat := rfl
@[simp] theorem rset_acts : (rset s a v).acts = s.acts := rfl
@[simp] theorem rset_spns : (rset s a v).spns = s.spns := rfl
@[simp] theorem rset_fct : (rset s a v).fct = s.fct := rfl
@[simp] theorem rset_ms : (rset s a v).ms = s.ms := rfl
@[simp] theorem rset_dmas : (rset s a v).dmas = s.dmas := rfl
@[simp] theorem rset_evr : (rset s a v).evr = s.evr := rfl
@[simp] theorem rset_cal : (rset s a v).cal = s.cal := rfl
@[simp] theorem rset_datum : (rset s a v).datum = s.datum := rfl
@[simp] theorem rset_dtm : (rset s a v).dtm = s.dtm := rfl
@[simp] theorem rset_tap : (rset s a v).tap = s.tap := rfl

end

/-! ### `rsetN` -/

section
variable (s : State) (a n : Nat)

@[simp] theorem rsetN_pending : (rsetN s a n).pending = s.pending := rfl
@[simp] theorem rsetN_part : (rsetN s a n).part = s.part := rfl
@[simp] theorem rsetN_tick : (rsetN s a n).tick = s.tick := rfl
@[simp] theorem rsetN_rshadow : (rsetN s a n).rshadow = s.rshadow := rfl
@[simp] theorem rsetN_wshadow : (rsetN s a n).wshadow = s.wshadow := rfl
@[simp] theorem rsetN_mem : (rsetN s a n).mem = s.mem := rfl
@[simp] theorem rsetN_hostMem : (rsetN s a n).hostMem = s.hostMem := rfl
@[simp] theorem rsetN_drawn : (rsetN s a n).drawn = s.drawn := rfl
@[simp] theorem rsetN_resp : (rsetN s a n).resp = s.resp := rfl
@[simp] theorem rsetN_conf : (rsetN s a n).conf = s.conf := rfl
@[simp] theorem rsetN_boot : (rsetN s a n).boot = s.boot := rfl
@[simp] theorem rsetN_rst : (rsetN s a n).rst = s.rst := rfl
@[simp] theorem rsetN_pf : (rsetN s a n).pf = s.pf := rfl
@[simp] theorem rsetN_pmu : (rsetN s a n).pmu = s.pmu := rfl
@[simp] theorem rsetN_fcaps : (rsetN s a n).fcaps = s.fcaps := rfl
@[simp] theorem rsetN_inputs : (rsetN s a n).inputs = s.inputs := rfl
@[simp] theorem rsetN_assigns : (rsetN s a n).assigns = s.assigns := rfl
@[simp] theorem rsetN_swint : (rsetN s a n).swint = s.swint := rfl
@[simp] theorem rsetN_cores : (rsetN s a n).cores = s.cores := rfl
@[simp] theorem rsetN_mcs : (rsetN s a n).mcs = s.mcs := rfl
@[simp] theorem rsetN_ports : (rsetN s a n).ports = s.ports := rfl
@[simp] theorem rsetN_cqu : (rsetN s a n).cqu = s.cqu := rfl
@[simp] theorem rsetN_obj : (rsetN s a n).obj = s.obj := rfl
@[simp] theorem rsetN_geom : (rsetN s a n).geom = s.geom := rfl
@[simp] theorem rsetN_fmt : (rsetN s a n).fmt = s.fmt := rfl
@[simp] theorem rsetN_slices : (rsetN s a n).slices = s.slices := rfl
@[simp] theorem rsetN_links : (rsetN s a n).links = s.links := rfl
@[simp] theorem rsetN_afes : (rsetN s a n).afes = s.afes := rfl
@[simp] theorem rsetN_queues : (rsetN s a n).queues = s.queues := rfl
@[simp] theorem rsetN_media : (rsetN s a n).media = s.media := rfl
@[simp] theorem rsetN_ladders : (rsetN s a n).ladders = s.ladders := rfl
@[simp] theorem rsetN_bands : (rsetN s a n).bands = s.bands := rfl
@[simp] theorem rsetN_lat : (rsetN s a n).lat = s.lat := rfl
@[simp] theorem rsetN_acts : (rsetN s a n).acts = s.acts := rfl
@[simp] theorem rsetN_spns : (rsetN s a n).spns = s.spns := rfl
@[simp] theorem rsetN_fct : (rsetN s a n).fct = s.fct := rfl
@[simp] theorem rsetN_ms : (rsetN s a n).ms = s.ms := rfl
@[simp] theorem rsetN_dmas : (rsetN s a n).dmas = s.dmas := rfl
@[simp] theorem rsetN_evr : (rsetN s a n).evr = s.evr := rfl
@[simp] theorem rsetN_cal : (rsetN s a n).cal = s.cal := rfl
@[simp] theorem rsetN_datum : (rsetN s a n).datum = s.datum := rfl
@[simp] theorem rsetN_dtm : (rsetN s a n).dtm = s.dtm := rfl
@[simp] theorem rsetN_tap : (rsetN s a n).tap = s.tap := rfl

end

/-! ### `rfSet` -/

section
variable (s : State) (a l w x : Nat)

@[simp] theorem rfSet_pending : (rfSet s a l w x).pending = s.pending := rfl
@[simp] theorem rfSet_part : (rfSet s a l w x).part = s.part := rfl
@[simp] theorem rfSet_tick : (rfSet s a l w x).tick = s.tick := rfl
@[simp] theorem rfSet_rshadow : (rfSet s a l w x).rshadow = s.rshadow := rfl
@[simp] theorem rfSet_wshadow : (rfSet s a l w x).wshadow = s.wshadow := rfl
@[simp] theorem rfSet_mem : (rfSet s a l w x).mem = s.mem := rfl
@[simp] theorem rfSet_hostMem : (rfSet s a l w x).hostMem = s.hostMem := rfl
@[simp] theorem rfSet_drawn : (rfSet s a l w x).drawn = s.drawn := rfl
@[simp] theorem rfSet_resp : (rfSet s a l w x).resp = s.resp := rfl
@[simp] theorem rfSet_conf : (rfSet s a l w x).conf = s.conf := rfl
@[simp] theorem rfSet_boot : (rfSet s a l w x).boot = s.boot := rfl
@[simp] theorem rfSet_rst : (rfSet s a l w x).rst = s.rst := rfl
@[simp] theorem rfSet_pf : (rfSet s a l w x).pf = s.pf := rfl
@[simp] theorem rfSet_pmu : (rfSet s a l w x).pmu = s.pmu := rfl
@[simp] theorem rfSet_fcaps : (rfSet s a l w x).fcaps = s.fcaps := rfl
@[simp] theorem rfSet_inputs : (rfSet s a l w x).inputs = s.inputs := rfl
@[simp] theorem rfSet_assigns : (rfSet s a l w x).assigns = s.assigns := rfl
@[simp] theorem rfSet_swint : (rfSet s a l w x).swint = s.swint := rfl
@[simp] theorem rfSet_cores : (rfSet s a l w x).cores = s.cores := rfl
@[simp] theorem rfSet_mcs : (rfSet s a l w x).mcs = s.mcs := rfl
@[simp] theorem rfSet_ports : (rfSet s a l w x).ports = s.ports := rfl
@[simp] theorem rfSet_cqu : (rfSet s a l w x).cqu = s.cqu := rfl
@[simp] theorem rfSet_obj : (rfSet s a l w x).obj = s.obj := rfl
@[simp] theorem rfSet_geom : (rfSet s a l w x).geom = s.geom := rfl
@[simp] theorem rfSet_fmt : (rfSet s a l w x).fmt = s.fmt := rfl
@[simp] theorem rfSet_slices : (rfSet s a l w x).slices = s.slices := rfl
@[simp] theorem rfSet_links : (rfSet s a l w x).links = s.links := rfl
@[simp] theorem rfSet_afes : (rfSet s a l w x).afes = s.afes := rfl
@[simp] theorem rfSet_queues : (rfSet s a l w x).queues = s.queues := rfl
@[simp] theorem rfSet_media : (rfSet s a l w x).media = s.media := rfl
@[simp] theorem rfSet_ladders : (rfSet s a l w x).ladders = s.ladders := rfl
@[simp] theorem rfSet_bands : (rfSet s a l w x).bands = s.bands := rfl
@[simp] theorem rfSet_lat : (rfSet s a l w x).lat = s.lat := rfl
@[simp] theorem rfSet_acts : (rfSet s a l w x).acts = s.acts := rfl
@[simp] theorem rfSet_spns : (rfSet s a l w x).spns = s.spns := rfl
@[simp] theorem rfSet_fct : (rfSet s a l w x).fct = s.fct := rfl
@[simp] theorem rfSet_ms : (rfSet s a l w x).ms = s.ms := rfl
@[simp] theorem rfSet_dmas : (rfSet s a l w x).dmas = s.dmas := rfl
@[simp] theorem rfSet_evr : (rfSet s a l w x).evr = s.evr := rfl
@[simp] theorem rfSet_cal : (rfSet s a l w x).cal = s.cal := rfl
@[simp] theorem rfSet_datum : (rfSet s a l w x).datum = s.datum := rfl
@[simp] theorem rfSet_dtm : (rfSet s a l w x).dtm = s.dtm := rfl
@[simp] theorem rfSet_tap : (rfSet s a l w x).tap = s.tap := rfl

end

/-! ### `rbitSet` -/

section
variable (s : State) (a i : Nat) (b : Bool)

@[simp] theorem rbitSet_pending : (rbitSet s a i b).pending = s.pending := rfl
@[simp] theorem rbitSet_part : (rbitSet s a i b).part = s.part := rfl
@[simp] theorem rbitSet_tick : (rbitSet s a i b).tick = s.tick := rfl
@[simp] theorem rbitSet_rshadow : (rbitSet s a i b).rshadow = s.rshadow := rfl
@[simp] theorem rbitSet_wshadow : (rbitSet s a i b).wshadow = s.wshadow := rfl
@[simp] theorem rbitSet_mem : (rbitSet s a i b).mem = s.mem := rfl
@[simp] theorem rbitSet_hostMem : (rbitSet s a i b).hostMem = s.hostMem := rfl
@[simp] theorem rbitSet_drawn : (rbitSet s a i b).drawn = s.drawn := rfl
@[simp] theorem rbitSet_resp : (rbitSet s a i b).resp = s.resp := rfl
@[simp] theorem rbitSet_conf : (rbitSet s a i b).conf = s.conf := rfl
@[simp] theorem rbitSet_boot : (rbitSet s a i b).boot = s.boot := rfl
@[simp] theorem rbitSet_rst : (rbitSet s a i b).rst = s.rst := rfl
@[simp] theorem rbitSet_pf : (rbitSet s a i b).pf = s.pf := rfl
@[simp] theorem rbitSet_pmu : (rbitSet s a i b).pmu = s.pmu := rfl
@[simp] theorem rbitSet_fcaps : (rbitSet s a i b).fcaps = s.fcaps := rfl
@[simp] theorem rbitSet_inputs : (rbitSet s a i b).inputs = s.inputs := rfl
@[simp] theorem rbitSet_assigns : (rbitSet s a i b).assigns = s.assigns := rfl
@[simp] theorem rbitSet_swint : (rbitSet s a i b).swint = s.swint := rfl
@[simp] theorem rbitSet_cores : (rbitSet s a i b).cores = s.cores := rfl
@[simp] theorem rbitSet_mcs : (rbitSet s a i b).mcs = s.mcs := rfl
@[simp] theorem rbitSet_ports : (rbitSet s a i b).ports = s.ports := rfl
@[simp] theorem rbitSet_cqu : (rbitSet s a i b).cqu = s.cqu := rfl
@[simp] theorem rbitSet_obj : (rbitSet s a i b).obj = s.obj := rfl
@[simp] theorem rbitSet_geom : (rbitSet s a i b).geom = s.geom := rfl
@[simp] theorem rbitSet_fmt : (rbitSet s a i b).fmt = s.fmt := rfl
@[simp] theorem rbitSet_slices : (rbitSet s a i b).slices = s.slices := rfl
@[simp] theorem rbitSet_links : (rbitSet s a i b).links = s.links := rfl
@[simp] theorem rbitSet_afes : (rbitSet s a i b).afes = s.afes := rfl
@[simp] theorem rbitSet_queues : (rbitSet s a i b).queues = s.queues := rfl
@[simp] theorem rbitSet_media : (rbitSet s a i b).media = s.media := rfl
@[simp] theorem rbitSet_ladders : (rbitSet s a i b).ladders = s.ladders := rfl
@[simp] theorem rbitSet_bands : (rbitSet s a i b).bands = s.bands := rfl
@[simp] theorem rbitSet_lat : (rbitSet s a i b).lat = s.lat := rfl
@[simp] theorem rbitSet_acts : (rbitSet s a i b).acts = s.acts := rfl
@[simp] theorem rbitSet_spns : (rbitSet s a i b).spns = s.spns := rfl
@[simp] theorem rbitSet_fct : (rbitSet s a i b).fct = s.fct := rfl
@[simp] theorem rbitSet_ms : (rbitSet s a i b).ms = s.ms := rfl
@[simp] theorem rbitSet_dmas : (rbitSet s a i b).dmas = s.dmas := rfl
@[simp] theorem rbitSet_evr : (rbitSet s a i b).evr = s.evr := rfl
@[simp] theorem rbitSet_cal : (rbitSet s a i b).cal = s.cal := rfl
@[simp] theorem rbitSet_datum : (rbitSet s a i b).datum = s.datum := rfl
@[simp] theorem rbitSet_dtm : (rbitSet s a i b).dtm = s.dtm := rfl
@[simp] theorem rbitSet_tap : (rbitSet s a i b).tap = s.tap := rfl

end

/-! ### `rcount` -/

section
variable (s : State) (a n : Nat)

@[simp] theorem rcount_pending : (rcount s a n).pending = s.pending := rfl
@[simp] theorem rcount_part : (rcount s a n).part = s.part := rfl
@[simp] theorem rcount_tick : (rcount s a n).tick = s.tick := rfl
@[simp] theorem rcount_rshadow : (rcount s a n).rshadow = s.rshadow := rfl
@[simp] theorem rcount_wshadow : (rcount s a n).wshadow = s.wshadow := rfl
@[simp] theorem rcount_mem : (rcount s a n).mem = s.mem := rfl
@[simp] theorem rcount_hostMem : (rcount s a n).hostMem = s.hostMem := rfl
@[simp] theorem rcount_drawn : (rcount s a n).drawn = s.drawn := rfl
@[simp] theorem rcount_resp : (rcount s a n).resp = s.resp := rfl
@[simp] theorem rcount_conf : (rcount s a n).conf = s.conf := rfl
@[simp] theorem rcount_boot : (rcount s a n).boot = s.boot := rfl
@[simp] theorem rcount_rst : (rcount s a n).rst = s.rst := rfl
@[simp] theorem rcount_pf : (rcount s a n).pf = s.pf := rfl
@[simp] theorem rcount_pmu : (rcount s a n).pmu = s.pmu := rfl
@[simp] theorem rcount_fcaps : (rcount s a n).fcaps = s.fcaps := rfl
@[simp] theorem rcount_inputs : (rcount s a n).inputs = s.inputs := rfl
@[simp] theorem rcount_assigns : (rcount s a n).assigns = s.assigns := rfl
@[simp] theorem rcount_swint : (rcount s a n).swint = s.swint := rfl
@[simp] theorem rcount_cores : (rcount s a n).cores = s.cores := rfl
@[simp] theorem rcount_mcs : (rcount s a n).mcs = s.mcs := rfl
@[simp] theorem rcount_ports : (rcount s a n).ports = s.ports := rfl
@[simp] theorem rcount_cqu : (rcount s a n).cqu = s.cqu := rfl
@[simp] theorem rcount_obj : (rcount s a n).obj = s.obj := rfl
@[simp] theorem rcount_geom : (rcount s a n).geom = s.geom := rfl
@[simp] theorem rcount_fmt : (rcount s a n).fmt = s.fmt := rfl
@[simp] theorem rcount_slices : (rcount s a n).slices = s.slices := rfl
@[simp] theorem rcount_links : (rcount s a n).links = s.links := rfl
@[simp] theorem rcount_afes : (rcount s a n).afes = s.afes := rfl
@[simp] theorem rcount_queues : (rcount s a n).queues = s.queues := rfl
@[simp] theorem rcount_media : (rcount s a n).media = s.media := rfl
@[simp] theorem rcount_ladders : (rcount s a n).ladders = s.ladders := rfl
@[simp] theorem rcount_bands : (rcount s a n).bands = s.bands := rfl
@[simp] theorem rcount_lat : (rcount s a n).lat = s.lat := rfl
@[simp] theorem rcount_acts : (rcount s a n).acts = s.acts := rfl
@[simp] theorem rcount_spns : (rcount s a n).spns = s.spns := rfl
@[simp] theorem rcount_fct : (rcount s a n).fct = s.fct := rfl
@[simp] theorem rcount_ms : (rcount s a n).ms = s.ms := rfl
@[simp] theorem rcount_dmas : (rcount s a n).dmas = s.dmas := rfl
@[simp] theorem rcount_evr : (rcount s a n).evr = s.evr := rfl
@[simp] theorem rcount_cal : (rcount s a n).cal = s.cal := rfl
@[simp] theorem rcount_datum : (rcount s a n).datum = s.datum := rfl
@[simp] theorem rcount_dtm : (rcount s a n).dtm = s.dtm := rfl
@[simp] theorem rcount_tap : (rcount s a n).tap = s.tap := rfl

end

/-! ### `setMem` -/

section
variable (s : State) (m : Memory)

@[simp] theorem setMem_pending : (setMem s m).pending = s.pending := rfl
@[simp] theorem setMem_part : (setMem s m).part = s.part := rfl
@[simp] theorem setMem_tick : (setMem s m).tick = s.tick := rfl
@[simp] theorem setMem_regs : (setMem s m).regs = s.regs := rfl
@[simp] theorem setMem_rshadow : (setMem s m).rshadow = s.rshadow := rfl
@[simp] theorem setMem_wshadow : (setMem s m).wshadow = s.wshadow := rfl
@[simp] theorem setMem_hostMem : (setMem s m).hostMem = s.hostMem := rfl
@[simp] theorem setMem_drawn : (setMem s m).drawn = s.drawn := rfl
@[simp] theorem setMem_resp : (setMem s m).resp = s.resp := rfl
@[simp] theorem setMem_conf : (setMem s m).conf = s.conf := rfl
@[simp] theorem setMem_boot : (setMem s m).boot = s.boot := rfl
@[simp] theorem setMem_rst : (setMem s m).rst = s.rst := rfl
@[simp] theorem setMem_pf : (setMem s m).pf = s.pf := rfl
@[simp] theorem setMem_pmu : (setMem s m).pmu = s.pmu := rfl
@[simp] theorem setMem_fcaps : (setMem s m).fcaps = s.fcaps := rfl
@[simp] theorem setMem_inputs : (setMem s m).inputs = s.inputs := rfl
@[simp] theorem setMem_assigns : (setMem s m).assigns = s.assigns := rfl
@[simp] theorem setMem_swint : (setMem s m).swint = s.swint := rfl
@[simp] theorem setMem_cores : (setMem s m).cores = s.cores := rfl
@[simp] theorem setMem_mcs : (setMem s m).mcs = s.mcs := rfl
@[simp] theorem setMem_ports : (setMem s m).ports = s.ports := rfl
@[simp] theorem setMem_cqu : (setMem s m).cqu = s.cqu := rfl
@[simp] theorem setMem_obj : (setMem s m).obj = s.obj := rfl
@[simp] theorem setMem_geom : (setMem s m).geom = s.geom := rfl
@[simp] theorem setMem_fmt : (setMem s m).fmt = s.fmt := rfl
@[simp] theorem setMem_slices : (setMem s m).slices = s.slices := rfl
@[simp] theorem setMem_links : (setMem s m).links = s.links := rfl
@[simp] theorem setMem_afes : (setMem s m).afes = s.afes := rfl
@[simp] theorem setMem_queues : (setMem s m).queues = s.queues := rfl
@[simp] theorem setMem_media : (setMem s m).media = s.media := rfl
@[simp] theorem setMem_ladders : (setMem s m).ladders = s.ladders := rfl
@[simp] theorem setMem_bands : (setMem s m).bands = s.bands := rfl
@[simp] theorem setMem_lat : (setMem s m).lat = s.lat := rfl
@[simp] theorem setMem_acts : (setMem s m).acts = s.acts := rfl
@[simp] theorem setMem_spns : (setMem s m).spns = s.spns := rfl
@[simp] theorem setMem_fct : (setMem s m).fct = s.fct := rfl
@[simp] theorem setMem_ms : (setMem s m).ms = s.ms := rfl
@[simp] theorem setMem_dmas : (setMem s m).dmas = s.dmas := rfl
@[simp] theorem setMem_evr : (setMem s m).evr = s.evr := rfl
@[simp] theorem setMem_cal : (setMem s m).cal = s.cal := rfl
@[simp] theorem setMem_datum : (setMem s m).datum = s.datum := rfl
@[simp] theorem setMem_dtm : (setMem s m).dtm = s.dtm := rfl
@[simp] theorem setMem_tap : (setMem s m).tap = s.tap := rfl

end

/-! ### `setEcc` -/

section
variable (s : State) (w : Nat) (e : Option EccErr)

@[simp] theorem setEcc_pending : (setEcc s w e).pending = s.pending := rfl
@[simp] theorem setEcc_part : (setEcc s w e).part = s.part := rfl
@[simp] theorem setEcc_tick : (setEcc s w e).tick = s.tick := rfl
@[simp] theorem setEcc_regs : (setEcc s w e).regs = s.regs := rfl
@[simp] theorem setEcc_rshadow : (setEcc s w e).rshadow = s.rshadow := rfl
@[simp] theorem setEcc_wshadow : (setEcc s w e).wshadow = s.wshadow := rfl
@[simp] theorem setEcc_mem : (setEcc s w e).mem = s.mem := rfl
@[simp] theorem setEcc_hostMem : (setEcc s w e).hostMem = s.hostMem := rfl
@[simp] theorem setEcc_drawn : (setEcc s w e).drawn = s.drawn := rfl
@[simp] theorem setEcc_resp : (setEcc s w e).resp = s.resp := rfl
@[simp] theorem setEcc_conf : (setEcc s w e).conf = s.conf := rfl
@[simp] theorem setEcc_boot : (setEcc s w e).boot = s.boot := rfl
@[simp] theorem setEcc_rst : (setEcc s w e).rst = s.rst := rfl
@[simp] theorem setEcc_pf : (setEcc s w e).pf = s.pf := rfl
@[simp] theorem setEcc_pmu : (setEcc s w e).pmu = s.pmu := rfl
@[simp] theorem setEcc_fcaps : (setEcc s w e).fcaps = s.fcaps := rfl
@[simp] theorem setEcc_inputs : (setEcc s w e).inputs = s.inputs := rfl
@[simp] theorem setEcc_assigns : (setEcc s w e).assigns = s.assigns := rfl
@[simp] theorem setEcc_swint : (setEcc s w e).swint = s.swint := rfl
@[simp] theorem setEcc_cores : (setEcc s w e).cores = s.cores := rfl
@[simp] theorem setEcc_mcs : (setEcc s w e).mcs = s.mcs := rfl
@[simp] theorem setEcc_ports : (setEcc s w e).ports = s.ports := rfl
@[simp] theorem setEcc_cqu : (setEcc s w e).cqu = s.cqu := rfl
@[simp] theorem setEcc_obj : (setEcc s w e).obj = s.obj := rfl
@[simp] theorem setEcc_geom : (setEcc s w e).geom = s.geom := rfl
@[simp] theorem setEcc_fmt : (setEcc s w e).fmt = s.fmt := rfl
@[simp] theorem setEcc_slices : (setEcc s w e).slices = s.slices := rfl
@[simp] theorem setEcc_links : (setEcc s w e).links = s.links := rfl
@[simp] theorem setEcc_afes : (setEcc s w e).afes = s.afes := rfl
@[simp] theorem setEcc_queues : (setEcc s w e).queues = s.queues := rfl
@[simp] theorem setEcc_media : (setEcc s w e).media = s.media := rfl
@[simp] theorem setEcc_ladders : (setEcc s w e).ladders = s.ladders := rfl
@[simp] theorem setEcc_bands : (setEcc s w e).bands = s.bands := rfl
@[simp] theorem setEcc_lat : (setEcc s w e).lat = s.lat := rfl
@[simp] theorem setEcc_acts : (setEcc s w e).acts = s.acts := rfl
@[simp] theorem setEcc_spns : (setEcc s w e).spns = s.spns := rfl
@[simp] theorem setEcc_fct : (setEcc s w e).fct = s.fct := rfl
@[simp] theorem setEcc_dmas : (setEcc s w e).dmas = s.dmas := rfl
@[simp] theorem setEcc_evr : (setEcc s w e).evr = s.evr := rfl
@[simp] theorem setEcc_cal : (setEcc s w e).cal = s.cal := rfl
@[simp] theorem setEcc_datum : (setEcc s w e).datum = s.datum := rfl
@[simp] theorem setEcc_dtm : (setEcc s w e).dtm = s.dtm := rfl
@[simp] theorem setEcc_tap : (setEcc s w e).tap = s.tap := rfl

end

/-! ### `dropAssigns` -/

section
variable (s : State)

@[simp] theorem dropAssigns_pending : (dropAssigns s).pending = s.pending := rfl
@[simp] theorem dropAssigns_part : (dropAssigns s).part = s.part := rfl
@[simp] theorem dropAssigns_tick : (dropAssigns s).tick = s.tick := rfl
@[simp] theorem dropAssigns_regs : (dropAssigns s).regs = s.regs := rfl
@[simp] theorem dropAssigns_rshadow : (dropAssigns s).rshadow = s.rshadow := rfl
@[simp] theorem dropAssigns_wshadow : (dropAssigns s).wshadow = s.wshadow := rfl
@[simp] theorem dropAssigns_mem : (dropAssigns s).mem = s.mem := rfl
@[simp] theorem dropAssigns_hostMem : (dropAssigns s).hostMem = s.hostMem := rfl
@[simp] theorem dropAssigns_drawn : (dropAssigns s).drawn = s.drawn := rfl
@[simp] theorem dropAssigns_resp : (dropAssigns s).resp = s.resp := rfl
@[simp] theorem dropAssigns_conf : (dropAssigns s).conf = s.conf := rfl
@[simp] theorem dropAssigns_boot : (dropAssigns s).boot = s.boot := rfl
@[simp] theorem dropAssigns_rst : (dropAssigns s).rst = s.rst := rfl
@[simp] theorem dropAssigns_pf : (dropAssigns s).pf = s.pf := rfl
@[simp] theorem dropAssigns_pmu : (dropAssigns s).pmu = s.pmu := rfl
@[simp] theorem dropAssigns_fcaps : (dropAssigns s).fcaps = s.fcaps := rfl
@[simp] theorem dropAssigns_inputs : (dropAssigns s).inputs = s.inputs := rfl
@[simp] theorem dropAssigns_swint : (dropAssigns s).swint = s.swint := rfl
@[simp] theorem dropAssigns_cores : (dropAssigns s).cores = s.cores := rfl
@[simp] theorem dropAssigns_mcs : (dropAssigns s).mcs = s.mcs := rfl
@[simp] theorem dropAssigns_ports : (dropAssigns s).ports = s.ports := rfl
@[simp] theorem dropAssigns_cqu : (dropAssigns s).cqu = s.cqu := rfl
@[simp] theorem dropAssigns_obj : (dropAssigns s).obj = s.obj := rfl
@[simp] theorem dropAssigns_geom : (dropAssigns s).geom = s.geom := rfl
@[simp] theorem dropAssigns_fmt : (dropAssigns s).fmt = s.fmt := rfl
@[simp] theorem dropAssigns_slices : (dropAssigns s).slices = s.slices := rfl
@[simp] theorem dropAssigns_links : (dropAssigns s).links = s.links := rfl
@[simp] theorem dropAssigns_afes : (dropAssigns s).afes = s.afes := rfl
@[simp] theorem dropAssigns_queues : (dropAssigns s).queues = s.queues := rfl
@[simp] theorem dropAssigns_media : (dropAssigns s).media = s.media := rfl
@[simp] theorem dropAssigns_ladders : (dropAssigns s).ladders = s.ladders := rfl
@[simp] theorem dropAssigns_bands : (dropAssigns s).bands = s.bands := rfl
@[simp] theorem dropAssigns_lat : (dropAssigns s).lat = s.lat := rfl
@[simp] theorem dropAssigns_acts : (dropAssigns s).acts = s.acts := rfl
@[simp] theorem dropAssigns_spns : (dropAssigns s).spns = s.spns := rfl
@[simp] theorem dropAssigns_fct : (dropAssigns s).fct = s.fct := rfl
@[simp] theorem dropAssigns_ms : (dropAssigns s).ms = s.ms := rfl
@[simp] theorem dropAssigns_dmas : (dropAssigns s).dmas = s.dmas := rfl
@[simp] theorem dropAssigns_evr : (dropAssigns s).evr = s.evr := rfl
@[simp] theorem dropAssigns_cal : (dropAssigns s).cal = s.cal := rfl
@[simp] theorem dropAssigns_datum : (dropAssigns s).datum = s.datum := rfl
@[simp] theorem dropAssigns_dtm : (dropAssigns s).dtm = s.dtm := rfl
@[simp] theorem dropAssigns_tap : (dropAssigns s).tap = s.tap := rfl

end

/-! ### Indexed parts -/

@[simp] theorem vget_vset {α : Type} {n : Nat} (v : Vector α n) (i : Fin n) (x : α) : vget (vset v i x) i = x := by
  simp [vget, vset]

theorem vget_vset_ne {α : Type} {n : Nat} (v : Vector α n) {i j : Fin n} (x : α) (h : i ≠ j) :
    vget (vset v i x) j = vget v j := by
  simp only [vget, vset]
  exact Vector.getElem_set_ne _ _ (fun he => h (Fin.ext he))

@[simp] theorem modCore_core (s : State) (c : Fin 8) (f : CoreSt → CoreSt) : (modCore s c f).core c = f (s.core c) := by
  simp [modCore, State.core, vmod]

theorem modCore_core_ne (s : State) {c d : Fin 8} (f : CoreSt → CoreSt) (h : c ≠ d) : (modCore s c f).core d = s.core d := by
  simp [modCore, State.core, vmod, vget_vset_ne _ _ h]

@[simp] theorem modAct_act (s : State) (a : Fin 16) (f : ActSt → ActSt) : (modAct s a f).act a = f (s.act a) := by
  simp [modAct, State.act, vmod]

@[simp] theorem modSpn_spn (s : State) (i : Fin 8) (f : SpnSt → SpnSt) : (modSpn s i f).spn i = f (s.spn i) := by
  simp [modSpn, State.spn, vmod]

@[simp] theorem modSlice_slice (s : State) (n : Fin 8) (f : SliceSt → SliceSt) : (modSlice s n f).slice n = f (s.slice n) := by
  simp [modSlice, State.slice, vmod]

@[simp] theorem modDma_dmaCh (s : State) (c : Fin 32) (f : DmaSt → DmaSt) : (modDma s c f).dmaCh c = f (s.dmaCh c) := by
  simp [modDma, State.dmaCh, vmod]

@[simp] theorem modPort_port (s : State) (p : Port) (f : PortSt → PortSt) : (modPort s p f).port p = f (s.port p) := by
  simp [modPort, State.port, vmod]

/-! ### The end of a command -/

theorem wakeCore_pending (s : State) (c : Fin 8) : (wakeCore s c).pending = s.pending := by
  unfold wakeCore; split <;> rfl
theorem wakeCore_part (s : State) (c : Fin 8) : (wakeCore s c).part = s.part := by
  unfold wakeCore; split <;> rfl
theorem wakeCore_tick (s : State) (c : Fin 8) : (wakeCore s c).tick = s.tick := by
  unfold wakeCore; split <;> rfl
theorem wakeCore_regs (s : State) (c : Fin 8) : (wakeCore s c).regs = s.regs := by
  unfold wakeCore; split <;> rfl
theorem wakeCore_rshadow (s : State) (c : Fin 8) : (wakeCore s c).rshadow = s.rshadow := by
  unfold wakeCore; split <;> rfl
theorem wakeCore_wshadow (s : State) (c : Fin 8) : (wakeCore s c).wshadow = s.wshadow := by
  unfold wakeCore; split <;> rfl
theorem wakeCore_mem (s : State) (c : Fin 8) : (wakeCore s c).mem = s.mem := by
  unfold wakeCore; split <;> rfl
theorem wakeCore_hostMem (s : State) (c : Fin 8) : (wakeCore s c).hostMem = s.hostMem := by
  unfold wakeCore; split <;> rfl
theorem wakeCore_drawn (s : State) (c : Fin 8) : (wakeCore s c).drawn = s.drawn := by
  unfold wakeCore; split <;> rfl
theorem wakeCore_resp (s : State) (c : Fin 8) : (wakeCore s c).resp = s.resp := by
  unfold wakeCore; split <;> rfl
theorem wakeCore_conf (s : State) (c : Fin 8) : (wakeCore s c).conf = s.conf := by
  unfold wakeCore; split <;> rfl
theorem wakeCore_boot (s : State) (c : Fin 8) : (wakeCore s c).boot = s.boot := by
  unfold wakeCore; split <;> rfl
theorem wakeCore_rst (s : State) (c : Fin 8) : (wakeCore s c).rst = s.rst := by
  unfold wakeCore; split <;> rfl
theorem wakeCore_pf (s : State) (c : Fin 8) : (wakeCore s c).pf = s.pf := by
  unfold wakeCore; split <;> rfl
theorem wakeCore_pmu (s : State) (c : Fin 8) : (wakeCore s c).pmu = s.pmu := by
  unfold wakeCore; split <;> rfl
theorem wakeCore_fcaps (s : State) (c : Fin 8) : (wakeCore s c).fcaps = s.fcaps := by
  unfold wakeCore; split <;> rfl
theorem wakeCore_inputs (s : State) (c : Fin 8) : (wakeCore s c).inputs = s.inputs := by
  unfold wakeCore; split <;> rfl
theorem wakeCore_swint (s : State) (c : Fin 8) : (wakeCore s c).swint = s.swint := by
  unfold wakeCore; split <;> rfl
theorem wakeCore_mcs (s : State) (c : Fin 8) : (wakeCore s c).mcs = s.mcs := by
  unfold wakeCore; split <;> rfl
theorem wakeCore_ports (s : State) (c : Fin 8) : (wakeCore s c).ports = s.ports := by
  unfold wakeCore; split <;> rfl
theorem wakeCore_cqu (s : State) (c : Fin 8) : (wakeCore s c).cqu = s.cqu := by
  unfold wakeCore; split <;> rfl
theorem wakeCore_obj (s : State) (c : Fin 8) : (wakeCore s c).obj = s.obj := by
  unfold wakeCore; split <;> rfl
theorem wakeCore_geom (s : State) (c : Fin 8) : (wakeCore s c).geom = s.geom := by
  unfold wakeCore; split <;> rfl
theorem wakeCore_fmt (s : State) (c : Fin 8) : (wakeCore s c).fmt = s.fmt := by
  unfold wakeCore; split <;> rfl
theorem wakeCore_slices (s : State) (c : Fin 8) : (wakeCore s c).slices = s.slices := by
  unfold wakeCore; split <;> rfl
theorem wakeCore_links (s : State) (c : Fin 8) : (wakeCore s c).links = s.links := by
  unfold wakeCore; split <;> rfl
theorem wakeCore_afes (s : State) (c : Fin 8) : (wakeCore s c).afes = s.afes := by
  unfold wakeCore; split <;> rfl
theorem wakeCore_queues (s : State) (c : Fin 8) : (wakeCore s c).queues = s.queues := by
  unfold wakeCore; split <;> rfl
theorem wakeCore_media (s : State) (c : Fin 8) : (wakeCore s c).media = s.media := by
  unfold wakeCore; split <;> rfl
theorem wakeCore_ladders (s : State) (c : Fin 8) : (wakeCore s c).ladders = s.ladders := by
  unfold wakeCore; split <;> rfl
theorem wakeCore_bands (s : State) (c : Fin 8) : (wakeCore s c).bands = s.bands := by
  unfold wakeCore; split <;> rfl
theorem wakeCore_lat (s : State) (c : Fin 8) : (wakeCore s c).lat = s.lat := by
  unfold wakeCore; split <;> rfl
theorem wakeCore_acts (s : State) (c : Fin 8) : (wakeCore s c).acts = s.acts := by
  unfold wakeCore; split <;> rfl
theorem wakeCore_spns (s : State) (c : Fin 8) : (wakeCore s c).spns = s.spns := by
  unfold wakeCore; split <;> rfl
theorem wakeCore_fct (s : State) (c : Fin 8) : (wakeCore s c).fct = s.fct := by
  unfold wakeCore; split <;> rfl
theorem wakeCore_ms (s : State) (c : Fin 8) : (wakeCore s c).ms = s.ms := by
  unfold wakeCore; split <;> rfl
theorem wakeCore_dmas (s : State) (c : Fin 8) : (wakeCore s c).dmas = s.dmas := by
  unfold wakeCore; split <;> rfl
theorem wakeCore_evr (s : State) (c : Fin 8) : (wakeCore s c).evr = s.evr := by
  unfold wakeCore; split <;> rfl
theorem wakeCore_cal (s : State) (c : Fin 8) : (wakeCore s c).cal = s.cal := by
  unfold wakeCore; split <;> rfl
theorem wakeCore_datum (s : State) (c : Fin 8) : (wakeCore s c).datum = s.datum := by
  unfold wakeCore; split <;> rfl
theorem wakeCore_dtm (s : State) (c : Fin 8) : (wakeCore s c).dtm = s.dtm := by
  unfold wakeCore; split <;> rfl
theorem wakeCore_tap (s : State) (c : Fin 8) : (wakeCore s c).tap = s.tap := by
  unfold wakeCore; split <;> rfl

@[simp] theorem settle_pending (s : State) : (settle s).pending = s.pending := by
  simp [settle, overList, fin8, wakeCore_pending]
@[simp] theorem settle_part (s : State) : (settle s).part = s.part := by
  simp [settle, overList, fin8, wakeCore_part]
@[simp] theorem settle_tick (s : State) : (settle s).tick = s.tick := by
  simp [settle, overList, fin8, wakeCore_tick]
@[simp] theorem settle_regs (s : State) : (settle s).regs = s.regs := by
  simp [settle, overList, fin8, wakeCore_regs]
@[simp] theorem settle_rshadow (s : State) : (settle s).rshadow = s.rshadow := by
  simp [settle, overList, fin8, wakeCore_rshadow]
@[simp] theorem settle_wshadow (s : State) : (settle s).wshadow = s.wshadow := by
  simp [settle, overList, fin8, wakeCore_wshadow]
@[simp] theorem settle_mem (s : State) : (settle s).mem = s.mem := by
  simp [settle, overList, fin8, wakeCore_mem]
@[simp] theorem settle_hostMem (s : State) : (settle s).hostMem = s.hostMem := by
  simp [settle, overList, fin8, wakeCore_hostMem]
@[simp] theorem settle_drawn (s : State) : (settle s).drawn = s.drawn := by
  simp [settle, overList, fin8, wakeCore_drawn]
@[simp] theorem settle_resp (s : State) : (settle s).resp = s.resp := by
  simp [settle, overList, fin8, wakeCore_resp]
@[simp] theorem settle_conf (s : State) : (settle s).conf = s.conf := by
  simp [settle, overList, fin8, wakeCore_conf]
@[simp] theorem settle_boot (s : State) : (settle s).boot = s.boot := by
  simp [settle, overList, fin8, wakeCore_boot]
@[simp] theorem settle_rst (s : State) : (settle s).rst = s.rst := by
  simp [settle, overList, fin8, wakeCore_rst]
@[simp] theorem settle_pf (s : State) : (settle s).pf = s.pf := by
  simp [settle, overList, fin8, wakeCore_pf]
@[simp] theorem settle_pmu (s : State) : (settle s).pmu = s.pmu := by
  simp [settle, overList, fin8, wakeCore_pmu]
@[simp] theorem settle_fcaps (s : State) : (settle s).fcaps = s.fcaps := by
  simp [settle, overList, fin8, wakeCore_fcaps]
@[simp] theorem settle_inputs (s : State) : (settle s).inputs = s.inputs := by
  simp [settle, overList, fin8, wakeCore_inputs]
@[simp] theorem settle_swint (s : State) : (settle s).swint = s.swint := by
  simp [settle, overList, fin8, wakeCore_swint]
@[simp] theorem settle_mcs (s : State) : (settle s).mcs = s.mcs := by
  simp [settle, overList, fin8, wakeCore_mcs]
@[simp] theorem settle_ports (s : State) : (settle s).ports = s.ports := by
  simp [settle, overList, fin8, wakeCore_ports]
@[simp] theorem settle_cqu (s : State) : (settle s).cqu = s.cqu := by
  simp [settle, overList, fin8, wakeCore_cqu]
@[simp] theorem settle_obj (s : State) : (settle s).obj = s.obj := by
  simp [settle, overList, fin8, wakeCore_obj]
@[simp] theorem settle_geom (s : State) : (settle s).geom = s.geom := by
  simp [settle, overList, fin8, wakeCore_geom]
@[simp] theorem settle_fmt (s : State) : (settle s).fmt = s.fmt := by
  simp [settle, overList, fin8, wakeCore_fmt]
@[simp] theorem settle_slices (s : State) : (settle s).slices = s.slices := by
  simp [settle, overList, fin8, wakeCore_slices]
@[simp] theorem settle_links (s : State) : (settle s).links = s.links := by
  simp [settle, overList, fin8, wakeCore_links]
@[simp] theorem settle_afes (s : State) : (settle s).afes = s.afes := by
  simp [settle, overList, fin8, wakeCore_afes]
@[simp] theorem settle_queues (s : State) : (settle s).queues = s.queues := by
  simp [settle, overList, fin8, wakeCore_queues]
@[simp] theorem settle_media (s : State) : (settle s).media = s.media := by
  simp [settle, overList, fin8, wakeCore_media]
@[simp] theorem settle_ladders (s : State) : (settle s).ladders = s.ladders := by
  simp [settle, overList, fin8, wakeCore_ladders]
@[simp] theorem settle_bands (s : State) : (settle s).bands = s.bands := by
  simp [settle, overList, fin8, wakeCore_bands]
@[simp] theorem settle_lat (s : State) : (settle s).lat = s.lat := by
  simp [settle, overList, fin8, wakeCore_lat]
@[simp] theorem settle_acts (s : State) : (settle s).acts = s.acts := by
  simp [settle, overList, fin8, wakeCore_acts]
@[simp] theorem settle_spns (s : State) : (settle s).spns = s.spns := by
  simp [settle, overList, fin8, wakeCore_spns]
@[simp] theorem settle_fct (s : State) : (settle s).fct = s.fct := by
  simp [settle, overList, fin8, wakeCore_fct]
@[simp] theorem settle_ms (s : State) : (settle s).ms = s.ms := by
  simp [settle, overList, fin8, wakeCore_ms]
@[simp] theorem settle_dmas (s : State) : (settle s).dmas = s.dmas := by
  simp [settle, overList, fin8, wakeCore_dmas]
@[simp] theorem settle_evr (s : State) : (settle s).evr = s.evr := by
  simp [settle, overList, fin8, wakeCore_evr]
@[simp] theorem settle_cal (s : State) : (settle s).cal = s.cal := by
  simp [settle, overList, fin8, wakeCore_cal]
@[simp] theorem settle_datum (s : State) : (settle s).datum = s.datum := by
  simp [settle, overList, fin8, wakeCore_datum]
@[simp] theorem settle_dtm (s : State) : (settle s).dtm = s.dtm := by
  simp [settle, overList, fin8, wakeCore_dtm]
@[simp] theorem settle_tap (s : State) : (settle s).tap = s.tap := by
  simp [settle, overList, fin8, wakeCore_tap]

end Sys2Proof.Machine
end

