-- ==== Sys2Proof/Laws/Tables.lean ====
section
/-! SUPPORT. Sparse tables, registers and memory: reading what was written, leaving the rest alone, the canonical form. -/

namespace Sys2Proof.Machine

/-! ### Tables -/

section
variable {α : Type}

theorem tget_tins_same (d : α) (m : SMap α) (k : Nat) (v : α) : tget d (tins m k v) k = v := by
  induction m with
  | nil => simp [tins, tget]
  | cons e rest ih =>
    obtain ⟨k', v'⟩ := e
    by_cases h1 : k < k'
    · simp [tins, tget, h1]
    · by_cases h2 : k = k'
      · simp [tins, tget, h2]
      · have h3 : ¬ k' = k := fun h => h2 h.symm
        simp [tins, tget, h1, h2, h3, ih]

theorem tget_tins_ne (d : α) (m : SMap α) {k j : Nat} (v : α) (h : j ≠ k) : tget d (tins m k v) j = tget d m j := by
  induction m with
  | nil => simp [tins, tget, h.symm]
  | cons e rest ih =>
    obtain ⟨k', v'⟩ := e
    by_cases h1 : k < k'
    · simp [tins, tget, h1, h.symm]
    · by_cases h2 : k = k'
      · subst h2; simp [tins, tget, h.symm]
      · simp [tins, tget, h1, h2, ih]

theorem tget_drop_same (d : α) (m : SMap α) (k : Nat) : tget d (m.filter fun e => e.1 ≠ k) k = d := by
  induction m with
  | nil => rfl
  | cons e rest ih =>
    obtain ⟨k', v'⟩ := e
    by_cases h : k' = k
    · subst h; simpa using ih
    · simpa [h, tget] using ih

theorem tget_drop_ne (d : α) (m : SMap α) {k j : Nat} (h : j ≠ k) :
    tget d (m.filter fun e => e.1 ≠ k) j = tget d m j := by
  induction m with
  | nil => rfl
  | cons e rest ih =>
    obtain ⟨k', v'⟩ := e
    by_cases h1 : k' = k
    · subst h1; simpa [tget, h.symm] using ih
    · by_cases h2 : k' = j
      · subst h2; simp [tget, h1]
      · simpa [tget, h1, h2] using ih

variable [DecidableEq α]

/-- A key reads as it was written. -/
@[simp] theorem tget_tset_same (d : α) (m : SMap α) (k : Nat) (v : α) : tget d (tset d m k v) k = v := by
  by_cases h : v = d
  · subst h; simpa [tset] using tget_drop_same v m k
  · simpa [tset, h] using tget_tins_same d m k v

/-- Every other key reads as before, whatever its default. -/
theorem tget_tset_ne (d d' : α) (m : SMap α) {k j : Nat} (v : α) (h : j ≠ k) :
    tget d' (tset d m k v) j = tget d' m j := by
  by_cases hv : v = d
  · simpa [tset, hv] using tget_drop_ne d' m h
  · simpa [tset, hv] using tget_tins_ne d' m v h

theorem tableFrom_mono (d : Nat → α) {lo lo' : Nat} (m : SMap α) (h : lo' ≤ lo) (hm : tableFrom d lo m = true) :
    tableFrom d lo' m = true := by
  cases m with
  | nil => rfl
  | cons e rest =>
    obtain ⟨k, v⟩ := e
    simp only [tableFrom, Bool.and_eq_true, decide_eq_true_eq] at hm ⊢
    exact ⟨⟨by omega, hm.1.2⟩, hm.2⟩

theorem tableFrom_filter (d : Nat → α) (p : Nat × α → Bool) (lo : Nat) (m : SMap α) (hm : tableFrom d lo m = true) :
    tableFrom d lo (m.filter p) = true := by
  induction m generalizing lo with
  | nil => rfl
  | cons e rest ih =>
    obtain ⟨k, v⟩ := e
    simp only [tableFrom, Bool.and_eq_true, decide_eq_true_eq] at hm
    by_cases h : p (k, v) = true
    · simp only [List.filter_cons, h, if_true, tableFrom, Bool.and_eq_true, decide_eq_true_eq]
      exact ⟨hm.1, ih _ hm.2⟩
    · simp only [List.filter_cons, h]
      exact tableFrom_mono d _ (by omega) (ih _ hm.2)

theorem tableFrom_tins (d : Nat → α) (lo : Nat) (m : SMap α) (k : Nat) (v : α) (hl : lo ≤ k) (hv : v ≠ d k)
    (hm : tableFrom d lo m = true) : tableFrom d lo (tins m k v) = true := by
  induction m generalizing lo with
  | nil => simp [tins, tableFrom, hl, hv]
  | cons e rest ih =>
    obtain ⟨k', v'⟩ := e
    simp only [tableFrom, Bool.and_eq_true, decide_eq_true_eq] at hm
    by_cases h1 : k < k'
    · simp only [tins, h1, if_true, tableFrom, Bool.and_eq_true, decide_eq_true_eq]
      exact ⟨⟨hl, hv⟩, ⟨by omega, hm.1.2⟩, hm.2⟩
    · by_cases h2 : k = k'
      · subst h2
        simp only [tins, h1, if_true, if_false, tableFrom, Bool.and_eq_true, decide_eq_true_eq]
        exact ⟨⟨hl, hv⟩, hm.2⟩
      · simp only [tins, h1, h2, if_false, tableFrom, Bool.and_eq_true, decide_eq_true_eq]
        exact ⟨hm.1, ih (k' + 1) (by omega) hm.2⟩

/-- A write keeps the canonical form. -/
theorem tableWf_tset (d : Nat → α) (m : SMap α) (k : Nat) (v : α) (hm : tableWf d m = true) :
    tableWf d (tset (d k) m k v) = true := by
  by_cases h : v = d k
  · simpa [tset, h, tableWf] using tableFrom_filter d (fun e => decide (e.1 ≠ k)) 0 m hm
  · simpa [tset, h, tableWf] using tableFrom_tins d 0 m k v (Nat.zero_le _) h hm

end

/-! ### Registers -/

@[simp] theorem rget_rset_same (s : State) (a : Nat) (v : DWord) : rget (rset s a v) a = v := by
  simp [rget, rset]

theorem rget_rset_ne (s : State) {a b : Nat} (v : DWord) (h : b ≠ a) : rget (rset s a v) b = rget s b := by
  simp [rget, rset, tget_tset_ne _ _ _ _ h]

theorem rget_rsetN_same (s : State) (a n : Nat) : rget (rsetN s a n) a = BitVec.ofNat 64 n := by
  simp [rsetN]

theorem rget_rsetN_ne (s : State) {a b : Nat} (n : Nat) (h : b ≠ a) : rget (rsetN s a n) b = rget s b :=
  rget_rset_ne s _ h

theorem rget_rfSet_ne (s : State) {a b : Nat} (l w x : Nat) (h : b ≠ a) : rget (rfSet s a l w x) b = rget s b :=
  rget_rset_ne s _ h

theorem rget_rbitSet_ne (s : State) {a b : Nat} (i : Nat) (v : Bool) (h : b ≠ a) : rget (rbitSet s a i v) b = rget s b :=
  rget_rset_ne s _ h

theorem rget_rcount_ne (s : State) {a b : Nat} (n : Nat) (h : b ≠ a) : rget (rcount s a n) b = rget s b :=
  rget_rset_ne s _ h

/-- Every operation on registers keeps their table canonical. -/
theorem rset_regs_wf (s : State) (a : Nat) (v : DWord) (h : tableWf regReset s.regs = true) :
    tableWf regReset (rset s a v).regs = true := tableWf_tset regReset s.regs a v h

theorem clearRegs_wf (lo hi : Nat) (keep : Nat → Bool) (m : SMap DWord) (h : tableWf regReset m = true) :
    tableWf regReset (clearRegs lo hi keep m) = true := tableFrom_filter regReset _ 0 m h

/-! ### Memory -/

@[simp] theorem mget_mset_same (m : Memory) (a : Nat) (b : Byte) : mget (mset m a b) a = b := tget_tset_same 0 m a b

theorem mget_mset_ne (m : Memory) {a x : Nat} (b : Byte) (h : x ≠ a) : mget (mset m a b) x = mget m x :=
  tget_tset_ne 0 0 m b h

theorem mset_wf (m : Memory) (a : Nat) (b : Byte) (h : m.wf = true) : (mset m a b).wf = true :=
  tableWf_tset (fun _ => (0 : Byte)) m a b h

/-- Stores of any length keep the canonical form. -/
theorem writeBytes_wf (m : Memory) (a : Nat) (bs : List Byte) (h : m.wf = true) : (writeBytes m a bs).wf = true := by
  induction bs generalizing m a with
  | nil => exact h
  | cons b rest ih => exact ih _ _ (mset_wf m a b h)

theorem writeNat_wf (m : Memory) (a n v : Nat) (h : m.wf = true) : (writeNat m a n v).wf = true :=
  writeBytes_wf m a _ h

/-- A byte outside the stored ones reads as before. -/
theorem mget_writeBytes_out (m : Memory) (a x : Nat) (bs : List Byte) (h : x < a ∨ a + bs.length ≤ x) :
    mget (writeBytes m a bs) x = mget m x := by
  induction bs generalizing m a with
  | nil => rfl
  | cons b rest ih =>
    simp only [List.length_cons] at h
    rw [writeBytes, ih _ _ (by omega), mget_mset_ne _ _ (by omega)]

/-- The stored bytes read back. -/
theorem readBytes_writeBytes (m : Memory) (a : Nat) (bs : List Byte) :
    readBytes (writeBytes m a bs) a bs.length = bs := by
  induction bs generalizing m a with
  | nil => rfl
  | cons b rest ih =>
    simp only [List.length_cons, readBytes, writeBytes, List.cons.injEq]
    exact ⟨by rw [mget_writeBytes_out _ _ _ _ (by omega), mget_mset_same], ih _ _⟩

/-- A number of `n` bytes reads back. -/
theorem ofBytes_toBytes (n v : Nat) : ofBytes (toBytes n v) = v % 256 ^ n := by
  induction n generalizing v with
  | zero => simp [toBytes, ofBytes, Nat.mod_one]
  | succ n ih =>
    have h : v % 256 ^ (n + 1) = v % 256 + 256 * (v / 256 % 256 ^ n) := by rw [Nat.pow_succ', Nat.mod_mul (x := v)]
    rw [toBytes, ofBytes, ih, BitVec.toNat_ofNat, h]

theorem toBytes_length (n v : Nat) : (toBytes n v).length = n := by
  induction n generalizing v with
  | zero => rfl
  | succ n ih => simp [toBytes, ih]

theorem readNat_writeNat (m : Memory) (a n v : Nat) : readNat (writeNat m a n v) a n = v % 256 ^ n := by
  have h := readBytes_writeBytes m a (toBytes n v)
  rw [toBytes_length] at h
  rw [readNat, writeNat, h, ofBytes_toBytes]

theorem reset_mem_wf : State.reset.mem.wf = true := rfl
theorem reset_regs_wf : tableWf regReset State.reset.regs = true := rfl

/-! ### Fields of a number -/

theorem fld_putFld_same (v l w x : Nat) : fld (putFld v l w x) l w = x % 2 ^ w := by
  have hl : 0 < 2 ^ l := Nat.two_pow_pos l
  have hw : 0 < 2 ^ w := Nat.two_pow_pos w
  have hv : v / 2 ^ l * 2 ^ l + v % 2 ^ l = v := Nat.div_add_mod' v (2 ^ l)
  have ha : v / 2 ^ l / 2 ^ w * 2 ^ w + v / 2 ^ l % 2 ^ w = v / 2 ^ l := Nat.div_add_mod' _ (2 ^ w)
  have hp : (v / 2 ^ l / 2 ^ w * 2 ^ w + v / 2 ^ l % 2 ^ w) * 2 ^ l = v / 2 ^ l * 2 ^ l := by rw [ha]
  rw [Nat.add_mul] at hp
  have e : putFld v l w x = v % 2 ^ l + (v / 2 ^ l / 2 ^ w * 2 ^ w + x % 2 ^ w) * 2 ^ l := by
    rw [putFld, fld, Nat.add_mul]; omega
  rw [e, fld, Nat.add_mul_div_right _ _ hl, Nat.div_eq_of_lt (Nat.mod_lt _ hl), Nat.zero_add, Nat.mul_add_mod', Nat.mod_mod]

end Sys2Proof.Machine
end

