-- ==== Sys2Proof/Laws/Settle.lean ====
section
/-! SUPPORT. The end of a command: `settle` ends assignments and wakes cores, and changes nothing else. -/

namespace Sys2Proof.Machine

/-- A wake changes `run` of its core alone, and that only from waiting to running. -/
theorem wakeCore_core (s : State) (c d : Fin 8) :
    (wakeCore s c).core d = s.core d ∨ ((s.core d).run = .waiting ∧ (wakeCore s c).core d = { s.core d with run := .running }) := by
  unfold wakeCore
  split
  · rename_i h
    by_cases hd : c = d
    · subst hd
      simp only [Bool.and_eq_true, decide_eq_true_eq] at h
      exact .inr ⟨h.1.1, by simp⟩
    · exact .inl (modCore_core_ne s _ hd)
  · exact .inl rfl

theorem overWake_core (l : List (Fin 8)) (s : State) (d : Fin 8) :
    (overList l s wakeCore).core d = s.core d
      ∨ ((s.core d).run = .waiting ∧ (overList l s wakeCore).core d = { s.core d with run := .running }) := by
  induction l generalizing s with
  | nil => exact .inl rfl
  | cons c rest ih =>
    have hr := ih (wakeCore s c)
    have hw := wakeCore_core s c d
    simp only [overList, List.foldl_cons] at hr ⊢
    rcases hw with hw | ⟨hw1, hw2⟩ <;> rcases hr with hr | ⟨hr1, hr2⟩
    · exact .inl (hr.trans hw)
    · exact .inr ⟨by rw [← hw]; exact hr1, by rw [hr2, hw]⟩
    · exact .inr ⟨hw1, hr.trans hw2⟩
    · rw [hw2] at hr1; cases hr1

/-- What the end of a command does to a core. -/
theorem settle_core (s : State) (d : Fin 8) :
    (settle s).core d = s.core d ∨ ((s.core d).run = .waiting ∧ (settle s).core d = { s.core d with run := .running }) :=
  overWake_core fin8 (dropAssigns s) d

/-- A core that does not wait is left alone. -/
theorem settle_core_awake (s : State) (d : Fin 8) (h : (s.core d).run ≠ .waiting) : (settle s).core d = s.core d := by
  rcases settle_core s d with hs | ⟨hw, _⟩
  · exact hs
  · exact absurd hw h

@[simp] theorem settle_core_g (s : State) (d : Fin 8) : ((settle s).core d).g = (s.core d).g := by
  rcases settle_core s d with h | ⟨_, h⟩ <;> rw [h]
@[simp] theorem settle_core_pc (s : State) (d : Fin 8) : ((settle s).core d).pc = (s.core d).pc := by
  rcases settle_core s d with h | ⟨_, h⟩ <;> rw [h]
@[simp] theorem settle_core_stat (s : State) (d : Fin 8) : ((settle s).core d).stat = (s.core d).stat := by
  rcases settle_core s d with h | ⟨_, h⟩ <;> rw [h]
@[simp] theorem settle_core_f0 (s : State) (d : Fin 8) : ((settle s).core d).f0 = (s.core d).f0 := by
  rcases settle_core s d with h | ⟨_, h⟩ <;> rw [h]
@[simp] theorem settle_core_f1 (s : State) (d : Fin 8) : ((settle s).core d).f1 = (s.core d).f1 := by
  rcases settle_core s d with h | ⟨_, h⟩ <;> rw [h]
@[simp] theorem settle_core_tbase (s : State) (d : Fin 8) : ((settle s).core d).tbase = (s.core d).tbase := by
  rcases settle_core s d with h | ⟨_, h⟩ <;> rw [h]
@[simp] theorem settle_core_ipri (s : State) (d : Fin 8) : ((settle s).core d).ipri = (s.core d).ipri := by
  rcases settle_core s d with h | ⟨_, h⟩ <;> rw [h]
@[simp] theorem settle_core_scr (s : State) (d : Fin 8) : ((settle s).core d).scr = (s.core d).scr := by
  rcases settle_core s d with h | ⟨_, h⟩ <;> rw [h]
@[simp] theorem settle_core_lbaddr (s : State) (d : Fin 8) : ((settle s).core d).lbaddr = (s.core d).lbaddr := by
  rcases settle_core s d with h | ⟨_, h⟩ <;> rw [h]
@[simp] theorem settle_core_cycle (s : State) (d : Fin 8) : ((settle s).core d).cycle = (s.core d).cycle := by
  rcases settle_core s d with h | ⟨_, h⟩ <;> rw [h]
@[simp] theorem settle_core_werr (s : State) (d : Fin 8) : ((settle s).core d).werr = (s.core d).werr := by
  rcases settle_core s d with h | ⟨_, h⟩ <;> rw [h]
@[simp] theorem settle_core_nmt (s : State) (d : Fin 8) : ((settle s).core d).nmt = (s.core d).nmt := by
  rcases settle_core s d with h | ⟨_, h⟩ <;> rw [h]
@[simp] theorem settle_core_pcsamp (s : State) (d : Fin 8) : ((settle s).core d).pcsamp = (s.core d).pcsamp := by
  rcases settle_core s d with h | ⟨_, h⟩ <;> rw [h]
@[simp] theorem settle_core_lastCause (s : State) (d : Fin 8) : ((settle s).core d).lastCause = (s.core d).lastCause := by
  rcases settle_core s d with h | ⟨_, h⟩ <;> rw [h]
@[simp] theorem settle_core_dcache (s : State) (d : Fin 8) : ((settle s).core d).dcache = (s.core d).dcache := by
  rcases settle_core s d with h | ⟨_, h⟩ <;> rw [h]
@[simp] theorem settle_core_icache (s : State) (d : Fin 8) : ((settle s).core d).icache = (s.core d).icache := by
  rcases settle_core s d with h | ⟨_, h⟩ <;> rw [h]

theorem overWake_assigns (l : List (Fin 8)) (s : State) : (overList l s wakeCore).assigns = s.assigns := by
  induction l generalizing s with
  | nil => rfl
  | cons c rest ih =>
    simp only [overList, List.foldl_cons] at ih ⊢
    rw [ih, wakeCore]
    split <;> rfl

@[simp] theorem settle_assigns (s : State) : (settle s).assigns = s.assigns.filter fun e => lineLevel s e.1 :=
  overWake_assigns fin8 (dropAssigns s)

@[simp] theorem settle_rget (s : State) (a : Nat) : rget (settle s) a = rget s a := by simp [rget]
@[simp] theorem settle_rn (s : State) (a : Nat) : rn (settle s) a = rn s a := by simp [rn]
@[simp] theorem settle_rbit (s : State) (a i : Nat) : rbit (settle s) a i = rbit s a i := by simp [rbit]
@[simp] theorem settle_rf (s : State) (a l w : Nat) : rf (settle s) a l w = rf s a l w := by simp [rf]

/-- The end of a command in the terms of the statements. -/
theorem answers_settled (s : State) (p : State → Prop) (h : p (settle s)) : Answers (settled s) p := ⟨_, rfl, h⟩

end Sys2Proof.Machine
end

