-- ==== Sys2Proof/Laws/Frames.lean ====
section
/-! SUPPORT. What the shared operations can change. `busRest` blanks what a fault event, its plain reactions and an access to
memory can touch; `rest` blanks besides what the end of media operations and the unload before a reset touch. An
operation that leaves a view equal changes nothing outside the blanked parts. -/

namespace Sys2Proof.Machine

/-- A fold keeps whatever each of its steps keeps. -/
theorem overList_keeps {α β : Type} (p : State → β) (l : List α) (s : State) (f : State → α → State)
    (h : ∀ t x, p (f t x) = p t) : p (overList l s f) = p s := by
  induction l generalizing s with
  | nil => rfl
  | cons x rest ih => exact (ih (f s x)).trans (h s x)

/-- A choice keeps what both its sides keep. -/
theorem ite_keeps {β : Type} {p : State → β} {x : β} (b : Bool) (t u : State) (ht : p t = x) (hu : p u = x) :
    p (if b = true then t else u) = x := by
  cases b
  · exact hu
  · exact ht

/-- `s` with all blanked that a fault event of the plain kind or an access to memory can change. -/
def busRest (s : State) : State :=
  { s with
    regs := [], wshadow := [], mem := [], fcaps := [], cqu := CquSt.reset, lat := { s.lat with rb := none, mig := Migration.reset }
    ports := Vector.replicate 2 PortSt.reset
    obj := { s.obj with cache := [], unowned := 0 }, datum := { s.datum with loaded := [] }
    fct := { s.fct with ready := false, victim := none, folding := false, sbs := [] }
    ms := MemSt.reset, evr := { s.evr with queue := [], fwd := [], opsec := 0, pcyc := 0 }, cal := { s.cal with due := [] }
    dtm := { s.dtm with busy := false, events := [], ovf := false }
    tap := { s.tap with temp := none, tempMax := none, hot := 0, tempHi := false }
    afes := Vector.replicate 16 AfeSt.reset, mcs := { s.mcs with load := none }
    cores := s.cores.map fun (k : CoreSt) => { k with nmt := false }
    rst := { s.rst with pending := [], deferred := [], faultSrc := none } }

/-- `s` with all blanked that the end of media operations and the unload before a reset can change too. -/
def rest (s : State) : State :=
  { busRest s with
    slices := Vector.replicate 8 SliceSt.reset, links := Vector.replicate 16 LinkSt.reset
    acts := Vector.replicate 16 ActSt.reset, spns := Vector.replicate 8 SpnSt.reset
    pmu := { (busRest s).pmu with overRect := 0 }, obj := { (busRest s).obj with readers := [] } }

theorem rest_of_busRest {s t : State} (h : busRest t = busRest s) : rest t = rest s := by
  simp only [rest, h]

/-- Whatever a view shows is kept by an operation that keeps the view. -/
theorem busRest_proj {β : Type} {s t : State} (f : State → β) (hf : ∀ u, f (busRest u) = f u) (h : busRest t = busRest s) :
    f t = f s := by rw [← hf t, h, hf]

theorem rest_proj {β : Type} {s t : State} (f : State → β) (hf : ∀ u, f (rest u) = f u) (h : rest t = rest s) : f t = f s := by
  rw [← hf t, h, hf]

/-! Fields that the views blank, whatever is put there. -/

theorem busRest_regs (s : State) (m : SMap DWord) : busRest { s with regs := m } = busRest s := rfl
theorem busRest_mem (s : State) (m : Memory) : busRest { s with mem := m } = busRest s := rfl
theorem busRest_ms (s : State) (m : MemSt) : busRest { s with ms := m } = busRest s := rfl
theorem busRest_fcaps (s : State) (m : SMap Fcap) : busRest { s with fcaps := m } = busRest s := rfl
theorem busRest_cqu (s : State) (m : CquSt) : busRest { s with cqu := m } = busRest s := rfl
theorem busRest_queue (s : State) (q : List (Nat × BitVec 32 × (Nat × Nat))) :
    busRest { s with evr := { s.evr with queue := q } } = busRest s := rfl
theorem rest_slices (s : State) (m : Vector SliceSt 8) : rest { s with slices := m } = rest s := rfl
theorem rest_links (s : State) (m : Vector LinkSt 16) : rest { s with links := m } = rest s := rfl
theorem rest_acts (s : State) (m : Vector ActSt 16) : rest { s with acts := m } = rest s := rfl
theorem rest_spns (s : State) (m : Vector SpnSt 8) : rest { s with spns := m } = rest s := rfl
theorem rest_overRect (s : State) (m : BitVec 8) : rest { s with pmu := { s.pmu with overRect := m } } = rest s := rfl
theorem rest_rset (s : State) (a : Nat) (v : DWord) : rest (rset s a v) = rest s := rest_of_busRest (busRest_regs s _)
theorem rest_modSlice (s : State) (n : Fin 8) (f : SliceSt → SliceSt) : rest (modSlice s n f) = rest s := rest_slices s _
theorem rest_modLink (s : State) (a : Fin 16) (f : LinkSt → LinkSt) : rest (modLink s a f) = rest s := rest_links s _
theorem rest_modAct (s : State) (a : Fin 16) (f : ActSt → ActSt) : rest (modAct s a f) = rest s := rest_acts s _

/-! ### Fault events -/

theorem busRest_rset (s : State) (a : Nat) (v : DWord) : busRest (rset s a v) = busRest s := busRest_regs s _

theorem busRest_requestReset (s : State) (c : ResetCause) : busRest (requestReset s c) = busRest s := by
  unfold requestReset; split <;> split <;> rfl

theorem busRest_requestFaultReset (s : State) (b : Blk) (i : Nat) : busRest (requestFaultReset s b i) = busRest s := by
  unfold requestFaultReset
  dsimp only
  split
  · exact busRest_requestReset s .fault
  · exact busRest_requestReset s .fault

theorem map_nmt (v : Vector CoreSt 8) (c : Fin 8) (b : Bool) :
    (vmod v c fun k => { k with nmt := b }).map (fun (k : CoreSt) => { k with nmt := false })
      = v.map fun (k : CoreSt) => { k with nmt := false } := by
  apply Vector.ext
  intro i hi
  simp only [vmod, vset, vget, Vector.getElem_map, Vector.getElem_set]
  split
  · rename_i h; subst h; rfl
  · rfl

theorem busRest_setNmt (s : State) (c : Fin 8) (b : Bool) : busRest (modCore s c fun k => { k with nmt := b }) = busRest s := by
  unfold busRest
  simp only [modCore, map_nmt]

theorem busRest_deliverNmt (s : State) : busRest (deliverNmt s) = busRest s := by
  unfold deliverNmt
  apply overList_keeps
  intro t c
  split
  · exact busRest_setNmt t c true
  · rfl

theorem busRest_escalate (s : State) (b : Blk) (bits : List Nat) : busRest (escalate s b bits) = busRest s := by
  unfold escalate
  apply overList_keeps
  intro t k
  split
  · rfl
  · exact busRest_regs t _

theorem busRest_setFstat (s : State) (b : Blk) (bits : List Nat) : busRest (setFstat s b bits) = busRest s := by
  unfold setFstat
  apply overList_keeps
  intro t k
  exact busRest_regs t _

theorem busRest_capture (s : State) (b : Blk) (bits : List Nat) (c : Cap) : busRest (capture s b bits c) = busRest s := by
  unfold capture
  split
  · rfl
  · split
    · rfl
    · exact busRest_fcaps s _

theorem busRest_plainReset (s : State) (b : Blk) (bit : Nat) : busRest (plainReset s b bit) = busRest s := by
  cases b <;> try rfl
  case dtm =>
    simp only [plainReset]
    split
    · exact (busRest_rset _ _ _).trans (busRest_rset _ _ _)
    · rfl

/-- Reactions keep what the block resets keep. -/
theorem react_keeps {β : Type} (p : State → β) (f : State → Blk → Nat → State) (s : State) (b : Blk) (bits : List Nat)
    (hf : ∀ t i, p (f t b i) = p t) (hb : ∀ t t' : State, busRest t = busRest t' → p t = p t') :
    p (react f s b bits) = p s := by
  unfold react
  split
  · exact hb _ _ (busRest_requestFaultReset s b _)
  · have h1 : p (if bits.any (fun i => decide (reactionOf s b i = 1)) = true then deliverNmt s else s) = p s := by
      split
      · exact hb _ _ (busRest_deliverNmt s)
      · rfl
    dsimp only
    exact (overList_keeps p _ _ _ hf).trans h1

theorem raiseWith_keeps {β : Type} (p : State → β) (f : State → Blk → Nat → State) (s : State) (b : Blk) (bits : List Nat)
    (c : Cap) (hf : ∀ t i, p (f t b i) = p t) (hb : ∀ t t' : State, busRest t = busRest t' → p t = p t') :
    p (raiseWith f s b bits c) = p s := by
  unfold raiseWith
  split
  · rfl
  · refine (react_keeps p f _ b bits hf hb).trans (hb _ _ ?_)
    exact (busRest_capture _ b bits c).trans ((busRest_setFstat _ b bits).trans (busRest_escalate s b bits))

theorem busRest_raisePlain (s : State) (b : Blk) (bits : List Nat) (c : Cap) : busRest (raisePlain s b bits c) = busRest s :=
  raiseWith_keeps busRest plainReset s b bits c (fun t i => busRest_plainReset t b i) (fun _ _ h => h)

theorem busRest_rcount (s : State) (a n : Nat) : busRest (rcount s a n) = busRest s := busRest_regs s _

theorem busRest_evrPush (s : State) (ch : Nat) (v : BitVec 32) : busRest (evrPush s ch v) = busRest s := by
  unfold evrPush
  split
  · rfl
  · split
    · exact busRest_queue s _
    · exact (busRest_raisePlain _ _ _ _).trans (busRest_rcount _ _ _)

/-! ### Events of a quiet block -/

theorem bitsOfKind_zero (b : Blk) (p : Nat → Bool) : bitsOfKind b p 0 = [] := by
  simp [bitsOfKind]

theorem escalate_quiet (s : State) (b : Blk) (bits : List Nat) (h : rn s (aFstat b) = 0) : escalate s b bits = s := by
  have hk : ∀ k, unacked s b k = false := by intro k; simp [unacked, h, bitsOfKind_zero]
  unfold escalate overList
  induction List.range 8 with
  | nil => rfl
  | cons k rest ih => simp [hk]

theorem rn_rset_ne (s : State) {a b : Nat} (v : DWord) (h : b ≠ a) : rn (rset s a v) b = rn s b := by
  rw [rn, rn, rget_rset_ne s v h]

theorem aFreact_ne_aFstat (b : Blk) : aFreact b ≠ aFstat b := by
  intro h
  rw [aFreact, aFstat, Nat.add_left_cancel_iff] at h
  exact absurd h (by decide)

theorem setFstat_rn_ne (s : State) (b : Blk) (bits : List Nat) {a : Nat} (h : a ≠ aFstat b) :
    rn (setFstat s b bits) a = rn s a := by
  unfold setFstat
  exact overList_keeps (fun t => rn t a) _ _ _ fun t i => rn_rset_ne t _ h

theorem capture_regs (s : State) (b : Blk) (bits : List Nat) (c : Cap) : (capture s b bits c).regs = s.regs := by
  unfold capture
  split
  · rfl
  · split <;> rfl

theorem capture_rst (s : State) (b : Blk) (bits : List Nat) (c : Cap) : (capture s b bits c).rst = s.rst := by
  unfold capture
  split
  · rfl
  · split <;> rfl

theorem setFstat_rst (s : State) (b : Blk) (bits : List Nat) : (setFstat s b bits).rst = s.rst := by
  unfold setFstat
  exact overList_keeps (fun t => t.rst) _ _ _ fun t i => rbitSet_rst t _ i true

theorem reactionOf_zero (s : State) (b : Blk) (i : Nat) (h : rn s (aFreact b) = 0) : reactionOf s b i = 0 := by
  unfold reactionOf
  dsimp only
  split
  · rfl
  · simp [rf, fld, h]

/-- An event of a quiet block is recorded and captured, and nothing more follows. -/
theorem raiseWith_quiet (f : State → Blk → Nat → State) (s : State) (b : Blk) (bits : List Nat) (c : Cap) (hb : bits ≠ [])
    (h1 : rn s (aFstat b) = 0) (h2 : rn s (aFreact b) = 0) :
    raiseWith f s b bits c = capture (setFstat s b bits) b bits c := by
  have h3 : ∀ i, reactionOf (capture (setFstat s b bits) b bits c) b i = 0 := by
    intro i
    apply reactionOf_zero
    rw [rn, rget, capture_regs]
    exact (setFstat_rn_ne s b bits (aFreact_ne_aFstat b)).trans h2
  have h4 : ∀ n, n ≠ 0 → (bits.filter fun i => decide (reactionOf (capture (setFstat s b bits) b bits c) b i = n)) = [] := by
    intro n hn
    rw [List.filter_eq_nil_iff]
    intro i _
    simp [h3, hn.symm]
  have h5 : (bits.find? fun i => decide (reactionOf (capture (setFstat s b bits) b bits c) b i = 3)) = none := by
    rw [List.find?_eq_none]
    intro i _
    simp [h3]
  unfold raiseWith
  rw [if_neg hb, escalate_quiet s b bits h1]
  unfold react
  rw [h5]
  have h6 : (bits.any fun i => decide (reactionOf (capture (setFstat s b bits) b bits c) b i = 1)) = false := by simp [h3]
  simp only [h6]
  exact congrArg (fun l => overList l _ _) (h4 2 (by decide))

theorem raise_quiet (s : State) (b : Blk) (bits : List Nat) (c : Cap) (hb : bits ≠ []) (h : quiet s b) :
    raise s b bits c = capture (setFstat s b bits) b bits c := by
  unfold raise
  rw [raiseWith_quiet _ s b bits c hb h.2.1 h.2.2, unloadForReset, capture_rst, setFstat_rst, h.1]
  rfl

/-! ### Accesses to memory -/

theorem busRest_noteCe (s : State) (w sym : Nat) (b : Bool) : busRest (noteCe s w sym b) = busRest s := by
  unfold noteCe
  split
  · dsimp only
    split
    · exact (busRest_ms (rcount s Reg.bufCecnt 1) _).trans (busRest_rcount s _ 1)
    · exact (busRest_rcount _ _ _).trans ((busRest_ms _ _).trans (busRest_rcount _ _ _))
  · dsimp only
    split
    · refine (busRest_ms _ _).trans ?_
      exact busRest_rcount s _ 1
    · exact (busRest_rcount _ _ _).trans (busRest_rcount _ _ _)

theorem busRest_noteUe (s : State) (w ty m : Nat) : busRest (noteUe s w ty m) = busRest s := by
  unfold noteUe
  dsimp only
  split <;> exact (busRest_raisePlain _ _ _ _).trans (busRest_rcount _ _ _)

theorem busRest_setEcc (s : State) (w : Nat) (e : Option EccErr) : busRest (setEcc s w e) = busRest s := busRest_ms s _

theorem busRest_setWordValid (s : State) (w : Nat) : busRest (setWordValid s w) = busRest s := by
  unfold setWordValid
  split
  · rfl
  · exact busRest_ms s _

theorem busRest_upsetWord (s : State) (w : Nat) (u : Option EccErr) : busRest (upsetWord s w u) = busRest s := by
  unfold upsetWord
  split
  · rfl
  · split
    · exact busRest_setEcc _ _ _
    · rfl

theorem busRest_decodeWord (s : State) (w : Nat) : busRest (decodeWord s w).2 = busRest s := by
  unfold decodeWord
  split
  · rfl
  · split
    · rfl
    · exact (busRest_noteCe _ _ _ _).trans (busRest_setEcc _ _ _)
    · rfl

theorem busRest_putWord (s : State) (w : Nat) (bs : List Byte) : busRest (putWord s w bs) = busRest s := by
  unfold putWord
  exact (busRest_setEcc _ _ _).trans ((busRest_setWordValid _ w).trans (busRest_mem s _))

theorem busRest_raiseVote (s : State) (g w : Nat) (n : Bool) (ty m : Nat) : busRest (raiseVote s g w n ty m) = busRest s := by
  unfold raiseVote
  dsimp only
  split
  · split
    · exact (busRest_raisePlain _ _ _ _).trans (busRest_raisePlain _ _ _ _)
    · exact busRest_raisePlain _ _ _ _
  · split
    · split
      · exact (busRest_raisePlain _ _ _ _).trans (busRest_raisePlain _ _ _ _)
      · exact busRest_raisePlain _ _ _ _
    · exact busRest_raisePlain _ _ _ _

theorem busRest_votedRead (s : State) (g w ty m : Nat) : busRest (votedRead s g w ty m).2.2 = busRest s := by
  have hd : busRest (decodeWord (decodeWord (decodeWord s w).2 (w + 4)).2 (w + 8)).2 = busRest s :=
    (busRest_decodeWord _ _).trans ((busRest_decodeWord _ _).trans (busRest_decodeWord _ _))
  unfold votedRead
  dsimp only
  split
  · split
    · exact hd
    · refine (busRest_raiseVote _ _ _ _ _ _).trans ?_
      refine (busRest_regs _ _).trans ?_
      refine (overList_keeps busRest _ _ _ ?_).trans hd
      intro t e
      split
      · rfl
      · exact busRest_putWord _ _ _
  · exact (busRest_raiseVote _ _ _ _ _ _).trans ((busRest_regs _ _).trans hd)

theorem busRest_readWord (s : State) (m w ty : Nat) (u : Option EccErr) : busRest (readWord s m w ty u).2 = busRest s := by
  unfold readWord
  dsimp only
  split
  · exact (busRest_votedRead _ _ _ _ _).trans (busRest_upsetWord s w u)
  · split
    · exact (busRest_decodeWord _ _).trans (busRest_upsetWord s w u)
    · exact (busRest_noteUe _ _ _ _).trans ((busRest_decodeWord _ _).trans (busRest_upsetWord s w u))

theorem busRest_readWords (n : Nat) (s : State) (m w ty : Nat) (u : Option EccErr) :
    busRest (readWords s m w n ty u).2 = busRest s := by
  induction n generalizing s w u with
  | zero => rfl
  | succ n ih =>
    have h1 := busRest_readWord s m w ty u
    unfold readWords
    split
    · rename_i h; rw [h] at h1; exact h1
    · rename_i bs s1 h
      rw [h] at h1
      have h2 := ih s1 (w + 1) none
      split
      · rename_i h'; rw [h'] at h2; exact h2.trans h1
      · rename_i h'; rw [h'] at h2; exact h2.trans h1

theorem busRest_fabricError (s : State) (a ty m : Nat) : busRest (fabricError s a ty m) = busRest s :=
  busRest_raisePlain _ _ _ _

/-- A read of memory changes nothing but logs, error state and what fault events change. -/
theorem busRest_busRead (s : State) (m a n : Nat) (u : Option EccErr) : busRest (busRead s m a n u).2 = busRest s := by
  have hw : busRest (match readWords s m (a / 16) (wordSpan a n) 1 u with
      | (none, s) => ((none : Option (List Byte)), s)
      | (some bs, s) => (some ((bs.drop (a % 16)).take n), s)).2 = busRest s := by
    have h := busRest_readWords (wordSpan a n) s m (a / 16) 1 u
    generalize readWords s m (a / 16) (wordSpan a n) 1 u = q at h
    obtain ⟨x, t⟩ := q
    cases x <;> exact h
  have hf := busRest_fabricError s a 1 m
  rw [busRead]
  generalize fabricError s a 1 m = f at hf
  generalize regionOf s (a + n - 1) = r'
  generalize regionOf s a = r
  split
  · exact hf
  · cases r
    · exact hw
    · exact hw
    · rfl
    · exact hf
    · exact hf

theorem busRest_storeWord (s : State) (w : Nat) (bs : List Byte) : busRest (storeWord s w bs) = busRest s := by
  unfold storeWord
  split
  · exact (busRest_putWord _ _ _).trans ((busRest_putWord _ _ _).trans (busRest_putWord _ _ _))
  · exact busRest_putWord _ _ _

theorem busRest_writeWord (s : State) (m w p : Nat) (bs : List Byte) : busRest (writeWord s m w p bs).2 = busRest s := by
  unfold writeWord
  split
  · exact busRest_storeWord _ _ _
  · split
    · dsimp only
      split
      · exact (busRest_storeWord _ _ _).trans (busRest_votedRead _ _ _ _ _)
      · exact busRest_votedRead _ _ _ _ _
    · dsimp only
      split
      · exact (busRest_storeWord _ _ _).trans (busRest_decodeWord _ _)
      · exact (busRest_noteUe _ _ _ _).trans (busRest_decodeWord _ _)

theorem busRest_writeWords (n : Nat) (s : State) (m a : Nat) (bs : List Byte) :
    busRest (writeWords s m a n bs).2 = busRest s := by
  induction n generalizing s a bs with
  | zero => rfl
  | succ n ih => exact (ih _ _ _).trans (busRest_writeWord _ _ _ _ _)

theorem busRest_applyInject (s : State) (w : Nat) : busRest (applyInject s w) = busRest s := by
  unfold applyInject
  split
  · rfl
  · exact (busRest_regs _ _).trans (busRest_setEcc _ _ _)

/-- A write of memory changes nothing but memory, logs, error state and what fault events change. -/
theorem busRest_busWrite (s : State) (m a : Nat) (bs : List Byte) : busRest (busWrite s m a bs).2 = busRest s := by
  have hw : busRest (applyInject (writeWords s m a (wordSpan a bs.length) bs).2 (a / 16)) = busRest s :=
    (busRest_applyInject _ _).trans (busRest_writeWords _ _ _ _ _)
  have hf := busRest_fabricError s a 2 m
  rw [busWrite]
  generalize fabricError s a 2 m = f at hf
  generalize regionOf s (a + bs.length - 1) = r'
  generalize regionOf s a = r
  split
  · rfl
  · split
    · exact hf
    · cases r
      · exact hw
      · exact hw
      · exact hf
      · exact hf
      · exact hf

theorem busRest_busWriteNat (s : State) (m a n v : Nat) : busRest (busWriteNat s m a n v).2 = busRest s :=
  busRest_busWrite _ _ _ _

/-! ### The end of media operations -/

theorem busRest_putStatus (s : State) (n : Fin 8) (o : MediaOp) (i v : Nat) : busRest (putStatus s n o i v) = busRest s := by
  rw [putStatus]
  split
  · rfl
  · exact busRest_busWriteNat _ _ _ _ _

theorem busRest_countUnit (s : State) (n : Fin 8) (r : ReadStatus) : busRest (countUnit s n r) = busRest s := by
  have h1 : busRest (if r.result = 0 then rcount s (Reg.chdUnitok n) 1
      else
        let s := chdIrq s n 0
        if r.result = 1 || r.result = 3 then rcount s (Reg.chdUnitfail n) 1
        else if r.result = 2 then rcount s (Reg.chdSyncmiss n) 1 else s) = busRest s := by
    split
    · exact busRest_rcount _ _ _
    · dsimp only
      split
      · exact (busRest_rcount _ _ _).trans (busRest_regs _ _)
      · split
        · exact (busRest_rcount _ _ _).trans (busRest_regs _ _)
        · exact busRest_regs _ _
  unfold countUnit
  dsimp only
  split
  · exact (busRest_rcount _ _ _).trans h1
  · exact h1

theorem busRest_endUnit (s : State) (n : Fin 8) (o : MediaOp) (i : Nat) (r : ReadStatus) :
    busRest (endUnit s n o i r) = busRest s := by
  have h : busRest (countUnit (putStatus s n o i (readStatusWord r)) n r) = busRest s :=
    (busRest_countUnit _ _ _).trans (busRest_putStatus _ _ _ _ _)
  unfold endUnit
  dsimp only
  split
  · split
    · exact (busRest_evrPush _ _ _).trans ((busRest_evrPush _ _ _).trans ((busRest_rcount _ _ _).trans h))
    · exact (busRest_evrPush _ _ _).trans ((busRest_rcount _ _ _).trans h)
  · exact h

theorem busRest_endUnits (k : Nat) (s : State) (n : Fin 8) (o : MediaOp) (i result : Nat) :
    busRest (endUnits s n o i k result) = busRest s := by
  induction k generalizing s i with
  | zero => rfl
  | succ k ih => exact (ih _ _).trans (busRest_endUnit _ _ _ _ _)

theorem busRest_endSlot (s : State) (n : Fin 8) (o : MediaOp) (i l w r : Nat) : busRest (endSlot s n o i l w r) = busRest s := by
  unfold endSlot
  dsimp only
  split
  · exact (busRest_rcount _ _ _).trans (busRest_putStatus _ _ _ _ _)
  · exact (busRest_regs _ _).trans (busRest_putStatus _ _ _ _ _)

theorem busRest_endSlots (k : Nat) (s : State) (n : Fin 8) (o : MediaOp) (i result : Nat) :
    busRest (endSlots s n o i k result) = busRest s := by
  induction k generalizing s i with
  | zero => rfl
  | succ k ih => exact (ih _ _).trans (busRest_endSlot _ _ _ _ _ _ _)

/-- A waiting operation, and the entry that its read holds in the band-reader table. -/
theorem rest_addWait (s : State) (w : WaitOp) : rest (addWait s w) = rest s := by
  unfold addWait addReader
  split <;> rfl

theorem rest_requeue (s : State) (o : MediaOp) (i : Nat) : rest (requeue s o i) = rest s := by
  unfold requeue
  split
  · rfl
  · dsimp only
    split
    · rfl
    · exact rest_addWait s _

theorem rest_notRead (s : State) (n : Fin 8) : rest (notRead s n) = rest s := by
  unfold notRead
  split
  · rfl
  · split
    · exact (rest_modSlice _ _ _).trans
        ((rest_requeue _ _ _).trans (rest_of_busRest (busRest_endUnits _ _ _ _ _ _)))
    · rfl

theorem rest_notReadAct (s : State) (a : Fin 16) : rest (notReadAct s a) = rest s := by
  unfold notReadAct
  split
  · rfl
  · exact rest_notRead _ _

theorem rest_abandonWrite (s : State) (n : Fin 8) (w r : Nat) : rest (abandonWrite s n w r) = rest s := by
  unfold abandonWrite
  split
  · rfl
  · dsimp only
    split
    · refine (rest_modSlice _ _ _).trans ((rest_modSlice _ _ _).trans ((rest_requeue _ _ _).trans (rest_of_busRest ?_)))
      exact (busRest_endSlots _ _ _ _ _ _).trans (busRest_endSlot _ _ _ _ _ _ _)
    · rfl

theorem rest_wusAdd (s : State) (a : Fin 16) (src : WusSrc) : rest (wusAdd s a src) = rest s := by
  unfold wusAdd
  dsimp only
  split
  · rfl
  · split
    · exact rest_modLink _ _ _
    · exact (rest_abandonWrite _ _ _ _).trans ((rest_rset _ _ _).trans (rest_modLink _ _ _))

theorem rest_wusRemove (s : State) (a : Fin 16) (src : WusSrc) : rest (wusRemove s a src) = rest s := by
  unfold wusRemove
  dsimp only
  split
  · exact rest_modLink _ _ _
  · rfl

theorem rest_syncForce (s : State) : rest (syncForce s) = rest s := by
  unfold syncForce
  apply overList_keeps
  intro t a
  exact ite_keeps _ _ _ (rest_wusAdd t a .force) (rest_wusRemove t a .force)

theorem rest_toSequencer (s : State) (a : Fin 16) (st : ActState) : rest (toSequencer s a st) = rest s := rest_modAct _ _ _
theorem rest_radIrq (s : State) (a : Fin 16) (i : Nat) : rest (radIrq s a i) = rest s := rest_rset _ _ _

theorem rest_retractEntry (s : State) (a : Fin 16) (c : Nat) : rest (retractEntry s a c) = rest s := by
  have h : rest (notReadAct (radIrq (modAct (toSequencer s a .retract) a fun k => { k with cause := c }) a 3) a) = rest s :=
    (rest_notReadAct _ _).trans ((rest_radIrq _ _ _).trans ((rest_modAct _ _ _).trans (rest_toSequencer _ _ _)))
  unfold retractEntry
  split
  · rfl
  · rfl
  · exact (rest_radIrq _ _ _).trans (rest_modAct _ _ _)
  all_goals exact h

theorem rest_retractAll (s : State) (c : Nat) : rest (retractAll s c) = rest s := by
  unfold retractAll
  exact overList_keeps rest _ _ _ fun t a => rest_retractEntry t a c

theorem rest_unloadEntry (s : State) (a : Fin 16) : rest (unloadEntry s a) = rest s := by
  have h : rest (notReadAct (toSequencer s a .unload) a) = rest s :=
    (rest_notReadAct _ _).trans (rest_toSequencer _ _ _)
  unfold unloadEntry
  split
  · rfl
  · rfl
  · rfl
  all_goals exact h

theorem rest_rectifyAll (s : State) : rest (rectifyAll s) = rest s := (rest_spns _ _).trans (rest_overRect s _)

/-- The unload before a reset changes motion, links, slices and what ends with them. -/
theorem rest_unloadForReset (s : State) : rest (unloadForReset s) = rest s := by
  unfold unloadForReset
  split
  · rfl
  · exact (rest_retractAll _ _).trans (rest_rectifyAll _)

theorem rest_askReset (s : State) (c : ResetCause) : rest (askReset s c) = rest s :=
  (rest_unloadForReset _).trans (rest_of_busRest (busRest_requestReset s c))

end Sys2Proof.Machine
end

