-- ==== Sys2Proof/WellFormed.lean ====
section
/-! DEFINITION. Well-formed commands: every operand lies in the field that the spec gives it. Only operands whose Lean
type is wider than their field are checked. The meanings of this model take ill-formed commands too. -/

namespace Sys2Proof

/-- Slots of a band with its parity slots (R194, R196). -/
def bandWords : Nat := 67652

/-- Amplitude lies in 16 bits, speed in 18, an angle advanced in 16 (R363). -/
def wfRotor (o : RotorObs) : Bool := decide (o.amp < 2 ^ 16) && decide (o.spd < 2 ^ 18) && decide (o.adv < 2 ^ 16)

/-- An interval is a 32-bit count, an amplitude 16 bits, a distance at most half an electrical turn (R357, R366, R375). -/
def wfComm (e : CommEv) : Bool :=
  decide (e.interval < 2 ^ 32) && decide (e.amp < 2 ^ 16) && decide (e.dev ≤ 180) && decide (e.obsSpd < 2 ^ 24) && decide (e.obsAmp < 2 ^ 16)

/-- The 256 cells of a field and the 8 on either side; amplitudes of the bursts are sums over 32 cells of ADC codes (R325, R326). -/
def wfSample (x : ServoSample) : Bool :=
  decide (x.cells.length = 272) && decide (x.a.natAbs < 2 ^ 16) && decide (x.b.natAbs < 2 ^ 16)

/-- Fields of a submission queue entry (R104–R107): at most 256 ranges, a key of at most 16 bytes. -/
def wfHostCmd (c : HostCmd) : Bool :=
  decide (c.nsid < 2 ^ 32) && decide (c.cid < 2 ^ 16) && decide (c.slba < 2 ^ 64) && decide (c.nlb < 2 ^ 32)
    && decide (c.ranges.length ≤ 256) && decide (c.key.length ≤ 16) && decide (c.opts < 256) && decide (c.prp < 2 ^ 64)
    && decide (c.prp2 < 2 ^ 64)

/-- Fields of a media descriptor (R472). -/
def wfDesc (d : Desc) : Bool :=
  decide (d.kind < 16) && decide (d.act < 16) && decide (d.profile < 1024) && decide (d.count < 2 ^ 32)
    && decide (d.band < 2 ^ 64) && decide (d.slot < 2 ^ 32) && decide (d.wedgebits < 2 ^ 32)
    && decide (d.firstTrack < 2 ^ 32) && decide (d.slots < 2 ^ 16) && decide (d.head < 256) && decide (d.data < 2 ^ 64)
    && decide (d.status < 2 ^ 64) && decide (d.aux < 2 ^ 64) && decide (d.vstatus < 2 ^ 64)

/-- A 7-bit sample (R216). -/
def wfAdc (x : Int) : Bool := decide (-64 ≤ x) && decide (x ≤ 63)

/-- A resync field has 32 bits in its search window and 96 timing errors (R205, R220); samples are 7 bits wide (R216). -/
def wfSeg (e : SegEv) : Bool :=
  (decide (e.window = []) || decide (e.window.length = 32)) && (decide (e.rsErr = []) || decide (e.rsErr.length = 96))
    && e.bits.all fun b => wfAdc b.a && wfAdc b.b

def wfSlotEv (e : SlotEv) : Bool := e.segs.all wfSeg

/-- A rebuilt unit has 4,128 information bytes (R272). -/
def wfLadderEnd (e : LadderEnd) : Bool :=
  match e with
  | .rebuilt info => decide (info.length = 4128)
  | .passed => true
  | .failed => true
  | .lacksMembers _ => true

/-- Configuration space has 1,024 doublewords, BAR0 128 KiB (R91). -/
def wfCfg (r : CfgReq) : Bool :=
  match r with
  | .read dw => decide (dw < 1024)
  | .write dw _ => decide (dw < 1024)
  | .memRead off => decide (off < 2 ^ 17)
  | .memWrite off _ => decide (off < 2 ^ 17)

/-- A reduced width is that of 1, 2 or 4 lanes (R83, R88). -/
def wfPm (st : LinkPm) : Bool :=
  match st with
  | .l0p w => decide (w = 1 ∨ w = 2 ∨ w = 4)
  | .l0 => true
  | .l1 => true
  | .l11 => true
  | .l12 => true

/-- A unit address of the flash tier has 40 bits (R393). -/
def wfHwErr (e : HwErr) : Bool :=
  match e with
  | .tpcPar fla => decide (fla < 2 ^ 40)
  | .tagPar => true
  | .lockPar => true
  | .engPar => true
  | .cacheUe => true
  | .jrnLost => true

/-- A page program takes 1 to 24 pulses (R570). -/
def wfNor (e : NorEv) : Bool := e.pulses.all fun p => decide (1 ≤ p) && decide (p ≤ 24)

/-- BUILD, length, load offset and entry point are words (R495, R588). -/
def wfImage (i : ImageInfo) : Bool :=
  decide (i.build < 2 ^ 32) && decide (i.length < 2 ^ 32) && decide (i.loadoff < 2 ^ 32) && decide (i.entry < 2 ^ 64)

/-- A codeword occupies 4,608 bytes, and there are at most 15 levels of read retry (R386, R420). -/
def wfFlash (r : FlashReads) : Bool :=
  decide (r.hard.length = 4608) && decide (r.levels.length ≤ 15) && (r.levels.all fun l => decide (l.length = 4608))
    && decide (r.below.length = 4608) && decide (r.above.length = 4608)

def wfTarget (t : LinkTarget) : Bool :=
  match t with
  | .cmd tag => decide (tag < 4096)
  | .dma _ => true

/-- An error address is an internal or a host address. -/
def wfDma (e : DmaEv) : Bool :=
  match e with
  | .ok => true
  | .readErr a => decide (a < 2 ^ 64)
  | .writeErr a => decide (a < 2 ^ 64)
  | .hostErr a => decide (a < 2 ^ 64)
  | .busyRetry a _ => decide (a < 2 ^ 48)

/-- A command whose operands lie in their fields. -/
def wellFormed (i : Instr) : Bool :=
  match i with
  | .registerWrite m addr _ => decide (m < 256) && decide (addr < 2 ^ 48) && decide (addr % 4 = 0)
  | .rcRead m addr _ => decide (m < 256) && decide (addr < 2 ^ 48) && decide (addr % 4 = 0)
  | .readLowHalf m addr => decide (m < 256) && decide (addr < 2 ^ 48) && decide (addr % 8 = 0)
  | .writeLowHalf m addr _ => decide (m < 256) && decide (addr < 2 ^ 48) && decide (addr % 8 = 0)
  | .writeHighHalf m addr _ => decide (m < 256) && decide (addr < 2 ^ 48) && decide (addr % 8 = 4)
  | .deviceTick errs => errs.all wfHwErr
  | .irqrouteWrite _ _ => true
  | .nmtrouteWrite _ => true
  | .swintWrite _ => true
  | .lineAssignment _ => true
  | .clockLoss => true
  | .clklossRelease => true
  | .gateWrite _ => true
  | .railctlWrite _ _ => true
  | .railfault _ => true
  | .spinGrant obs => wfRotor obs
  | .budgetWrite _ => true
  | .powerFailDetect => true
  | .pfFlushDone => true
  | .pfHoldupExpire => true
  | .inputReturn => true
  | .mainPor _ => true
  | .nresetAssert => true
  | .rstctlChip _ => true
  | .chipReset => true
  | .blockReset _ => true
  | .perstAssert _ => true
  | .perstDeassert _ => true
  | .datumPor => true
  | .wdtctlWrite _ => true
  | .wdtkick _ => true
  | .wdtExpire => true
  | .powerOn => true
  | .railsGood _ => true
  | .bootVerdict _ _ => true
  | .configLoad => true
  | .dramTrainingDone gib rate _ => decide (gib < 256) && decide (rate < 2 ^ 16)
  | .bufInitDone => true
  | .hostrdySet => true
  | .linkTrained _ rate width _ => decide (rate < 2 ^ 16) && decide (width ≤ 16)
  | .linkRetrain _ _ => true
  | .correctableLinkError _ _ => true
  | .poisonedTlp _ t => wfTarget t
  | .completionTimeout _ t => wfTarget t
  | .urOrCaReceived _ t => wfTarget t
  | .uncorrectableLinkError _ => true
  | .linkDown _ => true
  | .sqTailDoorbell _ qid value => decide (qid < 2 ^ 16) && decide (value < 2 ^ 32)
  | .cqHeadDoorbell _ qid value => decide (qid < 2 ^ 16) && decide (value < 2 ^ 32)
  | .ccEnSet _ => true
  | .ccEnClear _ => true
  | .normalShutdown _ => true
  | .commandArrival _ sqid cmd => decide (sqid < 2 ^ 16) && wfHostCmd cmd
  | .readEntryRelease tag => decide (tag < 4096)
  | .ledgerAccept tag => decide (tag < 4096)
  | .ledgerTimeout tag => decide (tag < 4096)
  | .read tag => decide (tag < 4096)
  | .write tag => decide (tag < 4096)
  | .flush tag => decide (tag < 4096)
  | .writeZeroes tag => decide (tag < 4096)
  | .compare tag => decide (tag < 4096)
  | .verify tag => decide (tag < 4096)
  | .datasetManagement tag => decide (tag < 4096)
  | .copy tag => decide (tag < 4096)
  | .zoneAppend tag => decide (tag < 4096)
  | .zoneReset tag => decide (tag < 4096)
  | .zoneFinish tag => decide (tag < 4096)
  | .zoneOpen tag => decide (tag < 4096)
  | .zoneClose tag => decide (tag < 4096)
  | .zoneManagementReceive tag => decide (tag < 4096)
  | .kvStore tag => decide (tag < 4096)
  | .kvRetrieve tag => decide (tag < 4096)
  | .kvDelete tag => decide (tag < 4096)
  | .kvExist tag => decide (tag < 4096)
  | .kvList tag => decide (tag < 4096)
  | .createIoSq tag qid size cqid => decide (tag < 4096) && decide (qid < 2 ^ 16) && decide (1 ≤ size) && decide (size ≤ 65536) && decide (cqid < 2 ^ 16)
  | .deleteIoSq tag qid => decide (tag < 4096) && decide (qid < 2 ^ 16)
  | .createIoCq tag qid size vector => decide (tag < 4096) && decide (qid < 2 ^ 16) && decide (1 ≤ size) && decide (size ≤ 65536) && decide (vector < 2 ^ 16)
  | .deleteIoCq tag qid => decide (tag < 4096) && decide (qid < 2 ^ 16)
  | .getLogPage tag lid a => decide (tag < 4096) && decide (lid < 256) && decide (a.lpo < 2 ^ 64) && decide (a.csi < 256)
  | .identify tag a => decide (tag < 4096) && decide (a.cns < 256) && decide (a.csi < 256)
  | .abort tag sqid cid => decide (tag < 4096) && decide (sqid < 2 ^ 16) && decide (cid < 2 ^ 16)
  | .setFeatures tag fid value => decide (tag < 4096) && decide (fid < 256) && decide (value < 2 ^ 32)
  | .getFeatures tag a => decide (tag < 4096) && decide (a.fid < 256) && decide (a.cdw11 < 2 ^ 32)
  | .asyncEventRequest tag => decide (tag < 4096)
  | .aenpostWrite _ _ => true
  | .namespaceCreate tag cmdset lbaf size nguid => decide (tag < 4096) && decide (cmdset < 4) && decide (lbaf < 16) && decide (size < 2 ^ 64) && decide (nguid.length = 16)
  | .namespaceDelete tag => decide (tag < 4096)
  | .namespaceAttachment tag nsid _ _ => decide (tag < 4096) && decide (nsid < 2 ^ 32)
  | .firmwareImageDownload tag slot offset bytes => decide (tag < 4096) && decide (slot < 8) && decide (offset < 2 ^ 32) && decide (bytes.length ≤ 2 ^ 21)
  | .firmwareCommit tag slot _ img => decide (tag < 4096) && decide (slot < 8) && wfImage img
  | .deviceSelfTest tag _ _ => decide (tag < 4096)
  | .formatNvm tag lbaf ses => decide (tag < 4096) && decide (lbaf < 16) && decide (ses < 8)
  | .sanitize tag action => decide (tag < 4096) && decide (action < 8)
  | .retentionQuery tag => decide (tag < 4096)
  | .migrationStart tag ringAddr ringSize prodAddr => decide (tag < 4096) && decide (ringAddr < 2 ^ 64) && decide (ringSize < 2 ^ 64) && decide (prodAddr < 2 ^ 64)
  | .migrationStop tag => decide (tag < 4096)
  | .migrationAdvance tag cons => decide (tag < 4096) && decide (cons < 2 ^ 64)
  | .migrationRecord _ handle chunk => decide (handle < 2 ^ 40) && decide (chunk < 2 ^ 40)
  | .spindleOutOfService tag _ _ => decide (tag < 4096)
  | .spindleReturn tag _ _ => decide (tag < 4096)
  | .spindleReplace tag _ => decide (tag < 4096)
  | .autonomousPs3 _ => true
  | .ps3Entry => true
  | .mediaOpStart tag _ d => decide (tag < 4096) && wfDesc d
  | .mediaOpDone tag _ => decide (tag < 4096)
  | .keyLoadTimeout tag _ => decide (tag < 4096)
  | .wseqWrite _ => true
  | .locusLookup handle chunk => decide (handle < 2 ^ 40) && decide (chunk < 2 ^ 40)
  | .relocationUpdate handle chunk oldLoc oldGenlo newTier newLoc => decide (handle < 2 ^ 40) && decide (chunk < 2 ^ 40) && decide (oldLoc < 2 ^ 43) && decide (oldGenlo < 4096) && decide (newTier < 2) && decide (newLoc < 2 ^ 43)
  | .locusFlush => true
  | .mapRebuild => true
  | .assignWrite _ _ _ => true
  | .assignTakeEffect _ => true
  | .afeSynthWrite _ _ => true
  | .synthSettled _ => true
  | .synthunlock _ => true
  | .slotStart _ e => wfSlotEv e
  | .unitDecodeDone _ _ _ _ => true
  | .eqLoad _ => true
  | .writeOpStart _ => true
  | .slotWrite _ _ verify => verify.all (fun v => decide (v < 2 ^ 64))
  | .laserLoopUpdate _ mon => decide (mon < 256)
  | .pscmdWrite _ _ => true
  | .psFrameDone _ _ => true
  | .writeUnsafe _ _ => true
  | .wusholdExpire _ => true
  | .ladderStep maddr e => decide (maddr < 2 ^ 43) && wfLadderEnd e
  | .tlerExpire tag => decide (tag < 4096)
  | .relocateChunk handle chunk newMaddr => decide (handle < 2 ^ 40) && decide (chunk < 2 ^ 40) && decide (newMaddr < 2 ^ 43)
  | .ocDecodeStart _ _ => true
  | .ocDecodeDone _ => true
  | .patrolBand _ band hard soft years _ => decide (band < 2 ^ 21) && decide (hard ≤ 67652) && decide (soft ≤ 67652) && decide (years < 2 ^ 64)
  | .patrolSpinup _ behind => decide (behind < 2 ^ 64)
  | .bandRefresh _ band => decide (band < 2 ^ 21)
  | .powerFailReplay _ missing => missing.all (fun e => decide (e.1 < 2 ^ 40) && decide (e.2 < 2 ^ 40))
  | .windowFlush _ => true
  | .latSeal _ => true
  | .groupClose g => decide (g < 2 ^ 24)
  | .parityBandDone g j => decide (g < 2 ^ 24) && decide (j < 8)
  | .imglost g => decide (g < 2 ^ 24)
  | .reconstruct _ band slot failed => decide (band < 2 ^ 21) && decide (slot < bandWords) && failed.all (fun f => decide (f < 8))
  | .rebuildStart _ => true
  | .rebuildStop => true
  | .rebuildBandDone => true
  | .bandRelease _ band => decide (band < 2 ^ 21)
  | .latResv _ => true
  | .servoWedge _ s0 s1 demod => wfSample s0 && wfSample s1 && decide (demod < 2 ^ 16)
  | .load _ => true
  | .unload _ => true
  | .seek _ _ => true
  | .manual _ _ => true
  | .auto _ => true
  | .stepPlus _ _ => true
  | .stepMinus _ _ => true
  | .targetWrite _ _ => true
  | .offsetWrite _ _ => true
  | .lawcfgWrite _ _ => true
  | .coefficientWrite _ _ _ => true
  | .stateWordWrite _ _ _ => true
  | .unldsegWrite _ _ _ => true
  | .loadProfileEnd _ => true
  | .unloadProfileEnd _ => true
  | .gctlEnClear _ => true
  | .gctlEnSet _ => true
  | .start _ => true
  | .stop _ _ => true
  | .clrfail _ => true
  | .listenWindowEnd _ obs => wfRotor obs
  | .locateDone _ contrast _ => decide (contrast < 2 ^ 16)
  | .commutationEvent _ e => wfComm e
  | .refStep _ => true
  | .brakeDone _ => true
  | .rotorLoss _ => true
  | .catchTimeout _ => true
  | .overcurrent _ => true
  | .facetBringup targets => targets.all (fun x => decide (x.geom < 2 ^ 32))
  | .flashRead fla r => decide (fla < 2 ^ 40) && wfFlash r
  | .flashProgram stream slots _ => decide (stream < 16) && slots.all (fun e => decide (e.1 < 2 ^ 40) && decide (e.2.length ≤ 4128))
  | .checkpoint => true
  | .dieFail _ => true
  | .fold => true
  | .reclaim => true
  | .flashEraseDone _ => true
  | .flashPatrol _ _ block reads => decide (block < 16384) && reads.all wfFlash
  | .scrubRead _ => true
  | .bufSelfrefExit => true
  | .celogclrWrite _ _ => true
  | .spdClear _ => true
  | .pageRetire _ _ _ => true
  | .retireCopyDone _ _ => true
  | .bankret _ => true
  | .add _ _ => true
  | .sub _ _ => true
  | .and _ _ => true
  | .or _ _ => true
  | .xor _ _ => true
  | .sll _ _ => true
  | .srl _ _ => true
  | .sra _ _ => true
  | .ror _ _ => true
  | .slt _ _ => true
  | .sltu _ _ => true
  | .min _ _ => true
  | .max _ _ => true
  | .minu _ _ => true
  | .maxu _ _ => true
  | .mul _ _ => true
  | .mulh _ _ => true
  | .mulhu _ _ => true
  | .div _ _ => true
  | .divu _ _ => true
  | .rem _ _ => true
  | .remu _ _ => true
  | .clz _ _ => true
  | .ctz _ _ => true
  | .popc _ _ => true
  | .bswap _ _ => true
  | .addi _ _ => true
  | .andi _ _ => true
  | .ori _ _ => true
  | .xori _ _ => true
  | .slti _ _ => true
  | .sltiu _ _ => true
  | .shiSll _ _ => true
  | .shiSrl _ _ => true
  | .shiSra _ _ => true
  | .shiRor _ _ => true
  | .ldc _ _ => true
  | .shc _ _ => true
  | .bfx _ _ => true
  | .bfxs _ _ => true
  | .bfi _ _ => true
  | .ldB _ _ _ => true
  | .ldBu _ _ _ => true
  | .ldH _ _ _ => true
  | .ldHu _ _ _ => true
  | .ldW _ _ _ => true
  | .ldWu _ _ _ => true
  | .ldD _ _ _ => true
  | .stB _ _ _ => true
  | .stH _ _ _ => true
  | .stW _ _ _ => true
  | .stD _ _ _ => true
  | .aaddW _ _ => true
  | .aaddD _ _ => true
  | .aswpW _ _ => true
  | .aswpD _ _ => true
  | .fenceW _ _ => true
  | .fenceR _ _ => true
  | .fence _ _ => true
  | .cclean _ _ => true
  | .cinval _ _ => true
  | .cflush _ _ => true
  | .iinval _ _ => true
  | .cpre _ _ => true
  | .ipre _ _ => true
  | .beq _ _ => true
  | .bne _ _ => true
  | .blt _ _ => true
  | .bge _ _ => true
  | .bltu _ _ => true
  | .bgeu _ _ => true
  | .blb _ _ => true
  | .j _ _ => true
  | .jl _ _ => true
  | .jlr _ _ => true
  | .mfs _ _ => true
  | .mts _ _ => true
  | .trap _ _ => true
  | .reti _ _ => true
  | .wfi _ _ => true
  | .halt _ _ => true
  | .post _ _ => true
  | .xop _ _ _ => true
  | .buserrw _ => true
  | .takeNmt _ => true
  | .takeInterrupt _ => true
  | .coreRun _ _ => true
  | .coreReset _ _ => true
  | .cachectlWrite _ _ => true
  | .descriptorStart _ => true
  | .replay _ => true
  | .descriptorDone _ => true
  | .mcsLoadStart _ => true
  | .mcsVerdict _ => true
  | .mcsVerdictTimeout => true
  | .dmaStart _ _ => true
  | .dmaCopy _ e => wfDma e
  | .gather _ e => wfDma e
  | .scatter _ e => wfDma e
  | .fill _ e => wfDma e
  | .dmaCompare _ e => wfDma e
  | .dmaReadbackDone _ _ => true
  | .dmaAbort _ _ => true
  | .fstatWrite _ _ => true
  | .fmaskWrite _ _ => true
  | .frstsrcHoldClear _ => true
  | .inputEdge _ _ => true
  | .inputRetrigger _ => true
  | .inputStuck _ => true
  | .instatWrite _ _ => true
  | .evrSample _ _ => true
  | .evrApply => true
  | .evrPost _ => true
  | .evrForwardTimeout => true
  | .windowRead => true
  | .windowWrite _ => true
  | .evrClear _ => true
  | .opsecAdvance => true
  | .calMeasure _ _ _ _ => true
  | .calCmd _ => true
  | .reflost => true
  | .mailboxDoor _ => true
  | .mailboxResponse => true
  | .mailboxTimeout => true
  | .bootreq a b => wfImage a && wfImage b
  | .datumVerify kind build _ _ => decide (kind < 256) && decide (build < 2 ^ 32)
  | .fwwrite slot offset bytes e => decide (slot < 256) && decide (offset < 2 ^ 32) && decide (bytes.length ≤ 2 ^ 21) && wfNor e
  | .fwcommit slot _ img => decide (slot < 256) && wfImage img
  | .cfgread _ _ => true
  | .cfgwrite _ bytes e => decide (bytes.length ≤ 2 ^ 21) && wfNor e
  | .calread _ => true
  | .keyload _ epoch => decide (epoch < 256)
  | .keynew _ e => wfNor e
  | .keyall e => wfNor e
  | .chainappend op nsslot nsid handle first last key e => decide (op < 256) && decide (nsslot < 64) && decide (nsid < 2 ^ 32) && decide (handle < 2 ^ 40) && decide (first < 2 ^ 40) && decide (last < 2 ^ 40) && decide (key.length ≤ 16) && wfNor e
  | .chainread _ seq => decide (seq < 2 ^ 64)
  | .chainack _ sig seq => decide (sig.cseq < 2 ^ 64) && decide (seq < 2 ^ 64)
  | .ruleadd _ sig _ _ _ handle first last until_ => decide (sig.cseq < 2 ^ 64) && decide (handle < 2 ^ 40) && decide (first < 2 ^ 40) && decide (last < 2 ^ 40) && decide (until_ < 2 ^ 64)
  | .ruleextend _ sig rule until_ _ => decide (sig.cseq < 2 ^ 64) && decide (rule < 2 ^ 16) && decide (until_ < 2 ^ 64)
  | .rulerelease _ sig rule => decide (sig.cseq < 2 ^ 64) && decide (rule < 2 ^ 16)
  | .ruleread _ rule => decide (rule < 2 ^ 16)
  | .sweepdone rule => decide (rule < 2 ^ 16)
  | .ruleRelease rule => decide (rule < 2 ^ 16)
  | .timeget _ => true
  | .clkadj _ => true
  | .clkset _ sig time => decide (sig.cseq < 2 ^ 64) && decide (time < 2 ^ 64)
  | .countsave opsec pcyc e => decide (opsec < 2 ^ 64) && decide (pcyc < 2 ^ 32) && wfNor e
  | .tierread _ => true
  | .tierwrite _ bytes e => decide (bytes.length ≤ 2 ^ 21) && wfNor e
  | .evpost _ _ => true
  | .status _ => true
  | .provision _ _ key => decide (key.length ≤ 97)
  | .physread _ _ => true
  | .interruptedErase _ => true
  | .dailySave _ e => wfNor e
  | .vbatLow => true
  | .portRequestFrame req => decide (req.length ≤ 65536)
  | .portResponseRead => true
  | .portStatusRead => true
  | .tapReset => true
  | .extest => true
  | .idcode => true
  | .samplePreload _ _ => true
  | .extestPulse => true
  | .extestTrain => true
  | .clamp => true
  | .highz => true
  | .bypass _ => true
  | .tempReading _ => true
  | .nresetRelease => true
  | .configurationRequest _ r => wfCfg r
  | .linkPowerState _ st => wfPm st
  | .hostReadCompletion _ t bytes => wfTarget t && decide (bytes.length ≤ 2 ^ 21)
  | .writeUnsafeAbsent _ _ => true
  | .commutationInstant _ lag => decide (lag < 2 ^ 64)
  | .lockedRotor _ => true
  | .zeroCrossingTimeout _ => true
  | .railReturn _ => true
  | .refinReturn => true

end Sys2Proof
end

