-- ==== Sys2Proof/Tests/Slice0.lean ====
section
/-! SUPPORT. Tests of the model: what WellFormed refuses, check values that the spec gives, and, for every statement with
hypotheses, states and operands that meet them. -/

namespace Sys2Proof.Tests

open Sys2Proof.Machine

set_option maxRecDepth 100000
set_option Elab.async false

/-- The state after reset. -/
def z : State := State.reset
/-- Spindle 0 in a state. -/
def zSpn (st : SpnState) : State := modSpn z 0 fun x => { x with st := st }
/-- Actuator 0 in a state, with Radius enabled and its spindle at speed. -/
def zAct (st : ActState) : State :=
  modAct (modSpn (rsetN z Reg.radGctl 1) 0 fun x => { x with st := .run, atspeed := true }) 0 fun x => { x with st := st }
def zBoot (b : BootPhase) : State := { z with boot := b }
/-- A rotor at rest, and one that turns backwards. -/
def still : RotorObs := { amp := 0, adv := 0, forward := true, spd := 0, sector := 0 }
def backward : RotorObs := { amp := 1000, adv := 90, forward := false, spd := 1000, sector := 0 }
def noSample : ServoSample := { cells := List.replicate 272 false, a := 0, b := 0, coefPar := false, sat := 0, ampA := 0, ampB := 0 }
def comm (m : Bool) : CommEv := { interval := 2 ^ 32 - 1, dev := if m then 0 else 90, forward := true, sector := 0, amp := 100, obsSpd := 0, obsAmp := 65535 }

/-- Line 96 asserted, in MODE 1, routed to core 0, whose interrupts are enabled. -/
def zLine : State := modCore { rsetN z (Reg.cpcIrqroute 96) 0x8101_0001 with swint := 1 } 0 fun k => { k with stat := 1 }

/-- An active input. -/
def zInput (i : Fin 9) : State := { z with inputs := vset z.inputs i { InputSt.reset with level := true } }

/-- Spindle 0 in RAMP at the handover speed. -/
def zHandover : State := modSpn z 0 fun x => { x with st := .ramp, rampSq := 10 ^ 9, hosync := 15 }

/-- The row of a register and a condition on it. -/
theorem row_at (a : Nat) (p : Blk → RegRow → Nat → Bool)
    (h : (match regAt a with | some (b, r, i) => p b r i | none => false) = true) :
    ∃ b r i, regAt a = some (b, r, i) ∧ p b r i = true := by
  match e : regAt a with
  | none => rw [e] at h; cases h
  | some (b, r, i) => rw [e] at h; exact ⟨b, r, i, rfl, h⟩

/-- A namespace of a command set, and a state with it whose key is loaded and whose data are stored raw. -/
def zNs (set : Nat) : Ns :=
  { nsid := 1, cmdset := set, nguid := List.replicate 16 0, size := 2 ^ 20, attA := true, attB := true, keyep := 1, keyDraw := 1, created := 0, recGen := 0
    nextSerial := 2, zones := [(0, { st := .closed, wp := 5 }), (1, { st := .full, wp := 65536 })], objs := [{ key := [1], handle := 5, vallen := 3 }] }
def admSq : Sq := { qid := 0, size := 4096, cqid := 0, tail := 0, head := 0, stopped := false }
def ioSq : Sq := { admSq with qid := 1, cqid := 1, tail := 3 }
def admCq : Cq := { qid := 0, size := 4096, vector := 0, head := 0, tail := 0, entries := [], stopped := false }
def zHost (n : Ns) : State :=
  { modPort (rsetN (rsetN z Reg.cdcCtl 0) Reg.sysBootctl 1) .a (fun p => { p with
      perst := false, linkUp := true, en := true, rdy := true, bme := true, cfg := [(1, 2)], sqs := [admSq, ioSq]
      cqs := [admCq, { admCq with qid := 1 }] }) with
    obj := { z.obj with nss := [n] }, datum := { z.datum with loaded := [(0, { epoch := 1, draw := 1 })] } }
/-- That state with tag 0 in use. -/
def zTag (n : Ns) (x : Tag) : State := { zHost n with cqu := { (zHost n).cqu with tags := [(0, x)] } }
/-- An I/O command of one LBA, ACTIVE. -/
def io (op : HostOp) : Tag :=
  { Tag.free with
    st := .active, sqid := 1
    cmd := { HostCmd.none with op := op, nsid := 1, nlb := 1, hostLen := 4096, data := zeros 4096, key := [1] } }
/-- An admin command, ACTIVE. -/
def adm (op : HostOp) : Tag := { Tag.free with st := .active, admin := true, cmd := { HostCmd.none with op := op, nsid := 1, hostLen := 4096 } }
def zIo (set : Nat) (op : HostOp) : State := zTag (zNs set) (io op)
def zAdm (op : HostOp) : State := zTag (zNs 0) (adm op)
/-- No queues, so that the admin commands of the tests are the only ones. -/
def quietQueues (s : State) : State := modPort s .a fun p => { p with sqs := [], cqs := [] }

theorem packing_raw (s : State) (d : List Byte) (h : rf s Reg.cdcCtl 0 2 = 0) : (packing s d).2 = unitsOf d.length := by
  simp [packing, encoded, h]

/-- One LBA written to an absent chunk takes 16 units. -/
theorem one_lba (s : State) (d : List Byte) (h : rf s Reg.cdcCtl 0 2 = 0) (hc : (chunkAt s (chunkKey (nsObject 0) 0)).count = 0)
    (hd : d.length = 4096) : setUnits s (writeSet s 0 0 1 d) = 16 := by
  have hk : lbaKeys 0 0 1 = [chunkKey (nsObject 0) 0] := by decide +kernel
  have hc0 : keyChunk (chunkKey (nsObject 0) 0) = 0 := by decide +kernel
  have hb : (chunkBytes (chunkAt s (chunkKey (nsObject 0) 0))).length = 65536 := by
    unfold chunkBytes; rw [if_pos hc]; exact List.length_replicate
  generalize hB : chunkBytes (chunkAt s (chunkKey (nsObject 0) 0)) = B at hb
  have : (mergeChunk B 0 0 1 d).length = 65536 := by simp [mergeChunk, hb, hd]
  simp [setUnits, writeSet, hk, packing_raw s _ h, hc0, hB, this, unitsOf]

theorem can_one (s : State) (k : Nat) (n : Ns) (d : List Byte) (h : rf s Reg.cdcCtl 0 2 = 0)
    (hc : (chunkAt s (chunkKey (nsObject 0) 0)).count = 0) (hd : d.length = 4096) (hk : (tagAt s k).keys = [])
    (hcap : unitsUsed s + 16 ≤ capacityUnits s) (hdirty : takesData s (4128 * 16) = true) (hl : keyLoaded s n = true) :
    canStage s k n (writeSet s 0 0 1 d) := by
  have e := one_lba s d h hc hd
  refine ⟨hk, ?_, by rw [e]; exact hdirty, hl⟩
  unfold overCapacity; rw [e]; simp only [decide_eq_false_iff_not]; omega

theorem over_one (s : State) (d : List Byte) (h : rf s Reg.cdcCtl 0 2 = 0) (hc : (chunkAt s (chunkKey (nsObject 0) 0)).count = 0)
    (hd : d.length = 4096) (hcap : capacityUnits s < unitsUsed s) : overCapacity s (writeSet s 0 0 1 d) = true := by
  have hk : lbaKeys 0 0 1 = [chunkKey (nsObject 0) 0] := by decide +kernel
  have h0 : ((writeSet s 0 0 1 d).map fun e => (chunkAt s e.1).count).sum = 0 := by simp [writeSet, hk, hc]
  unfold overCapacity; rw [one_lba s d h hc hd, h0]; simp only [decide_eq_true_iff]; omega

/-- Lattice on, with group 0 in a state. -/
def zGroup (st : GroupState) (x : Group) : State :=
  { rsetN z Reg.latCtl 1 with lat := { z.lat with groups := [(0, { x with st := st })] } }
def zFull : Group := { Group.free with sealed_ := 0xFF, imgOk := true }
/-- Services of the spindles, over the state of an admin command. -/
def zSvc (l : List SpinService) : State :=
  { zAdm .adminOther with lat := { z.lat with svc := Vector.ofFn fun i => l.getD i.val .inService } }
def zMig : State := { zAdm .adminOther with lat := { z.lat with mig := { z.lat.mig with active := true, ringSize := 2 ^ 26 } } }

/-- What a read answered, and the state that it left. -/
theorem pair_get {α β : Type} (d : α) (p : Option α × β) (h : p.1.isSome = true) : p = (some (p.1.getD d), p.2) := by
  obtain ⟨a, b⟩ := p
  cases a with
  | none => cases h
  | some x => rfl
theorem pair_eq {α β : Type} (x : α) (p : Option α × β) (h : p.1 = some x) : p = (some x, p.2) := by
  obtain ⟨a, b⟩ := p
  cases h
  rfl
theorem pair_none {α β : Type} (p : Option α × β) (h : p.1.isNone = true) : p = (none, p.2) := by
  obtain ⟨a, b⟩ := p
  cases a with
  | none => rfl
  | some x => cases h
/-- A media operation that has just begun on slots 0 and 1 of band 0, and a state in which slice 0 runs one on actuator 0. -/
def mop (src : OpSrc) (kind : Nat) : MediaOp :=
  { src := src, done := 0, writing := false, opres := 0, ended := false, cfgErr := false, first := 0, units := 0, vdone := 0, ok := 0
    d := { kind := kind, act := 0, notag := false, close := false, profile := 0, count := 2, band := 0, slot := 0, wedgebits := 83320, firstTrack := 128
           slots := 1344, head := 0, data := 0, status := 0, aux := 0, vstatus := 0, clean := true } }
def zOp (o : MediaOp) (bufs : List CwBuf) : State :=
  modSlice { zAct .track with ms := { z.ms with ready := true }, links := Vector.replicate 16 { live := [], holding := false, wd := [] } } 0 fun x =>
    { x with valid := true, dir := decide (o.d.kind = 2), act := 0, op := some o, bufs := bufs }
/-- Slice 0 idle and enabled. -/
def zIdle (st : State) : State := modSlice (rsetN st (Reg.chdCtl 0) 1) 0 fun x => { x with op := none, bufs := [] }
def cwb (cands : List Cand) : CwBuf :=
  { slot := 0, idx := 0, cands := cands, xa := [], xb := [], y := [], gone := [], rsMiss := 0, lockLoss := false, recIdx := none, recBusy := false, recMism := false, recNew := false }
def slotEv : SlotEv := { segs := [], phase0 := 0 }
/-- A table of 64 unwritten rows at address 0 of the buffer. -/
def zOuter : State :=
  modSlice { z with ms := { z.ms with ready := true }, mem := (List.range 64).map fun r => (8 * r + 7, 0x80) } 0 fun x => { x with oc := true }

def cw : List Byte := zeros 4608
def flash0 : FlashReads := { hard := cw, levels := [], below := cw, above := cw, others := true }
def badFlash : FlashReads := { flash0 with hard := [] }
/-- An I/O command in tag 0 beside a slice. -/
def zBoth (st : State) (x : Tag) : State := { st with cqu := { st.cqu with tags := [(0, x)] } }
/-- Slice 0 idle under firmware, a descriptor at 0x1000 of the buffer posted to actuator 0 and to the replay queue. -/
def zPost (m : Memory) : State :=
  let s := rsetN (rsetN (zIdle (zOp (mop (.tag 0) 1) [])) (Reg.chdCtl 0) 3) (Reg.chdTarget 0) 1
  { s with mem := m, queues := vset (vset s.queues 0 [0x1000]) 16 [0x1000] }
def zChunk (c : Chunk) : State := { z with obj := { z.obj with chunks := [(chunkKey 9 0, c)] } }
def lad (step : Nat) : Ladder := { maddr := 0, step := step, cause := 0, tags := [0], recIdx := none, background := false, waiting := false }
/-- The flash ready with superblock 1 in a state, and the one slot of an address mapped. -/
def zFlash (st : SbState) (victim : Option Nat) : State :=
  { rsetN (rsetN z (Reg.fctSpacelim 1) 1000) Reg.fctCtl 0xE with
    fct := { z.fct with ready := true, dies := [0, 32, 64], sbs := [(1, { Sb.erased with st := st, stream := 1, slots := [2 ^ 36], members := [0, 32, 64] })]
                        map := [(2 ^ 36, 2 ^ 24 + 1)], geom := 512 * 2 ^ 32 + 384 * 2 ^ 16 + 10, victim := victim } }

/-- Core 0 about to execute at 0x1000 of the buffer, its caches off (0) or on (3). -/
def zCore (caches : Nat) : State :=
  modCore { rsetN z (Reg.cpcCachectl 0) caches with ms := { z.ms with ready := true } } 0 fun k => { k with run := .running, pc := 0x1000 }
def r0 : RForm := { rd := 0, ra := 0, rb := 0, rsv := 0 }
def i0 (imm : BitVec 16) : IForm := { rd := 1, ra := 0, imm := imm }
def noEv : MemEv := { busy := false, parity := false, upset := none }
/-- The line of 0x2000, held whole by the data cache. -/
def ln : Line := { line := 0x80, way := 0, valid := 0xF, dirty := 0, bytes := zeros 64 }
def zHit : State := modCore (zCore 3) 0 fun k => { k with dcache := [ln] }
def zAtom (a : DWord) : State := modCore (zCore 0) 0 fun k => { k with g := vset k.g 1 a }
/-- A customer image whose entry point for XOP 0 is a word that adds and ends. -/
def zXop : State :=
  { rsetN (zCore 0) (Reg.mcsXopent 0) 0x8000 with mcs := { z.mcs with words := [(0x3800, 0x0891_8000_000C_0000_004C)] } }

/-- A customer image of one word staged for a load, and a staged header that is none. -/
def stageWord (i : Nat) : DWord :=
  if i = 0 then 0x4953_434D else if i = 1 then 0x0001_B002 else if i = 2 then 5 else if i = 196 then 0x4C else if i = 197 then 0x8000_000C
  else if i = 198 then 0x0891 else 0
def zStage (f : Nat → DWord) : State :=
  { z with regs := (Reg.mcsLoadlen, 0x380) :: (List.range 200).map fun i => (Reg.mcsStage i, f i) }
/-- A DMA descriptor of an operation over the buffer, and a state in which channel 0 runs it. -/
def dsc (ctl len idxcnt esize : Nat) : DmaDesc :=
  { ctl := ctl, len := len, src := 0x1000, dst := 0x2000, aux := 0x3000, idxcnt := idxcnt, esize := esize, rsv := false, next := 0 }
def zDma (x : DmaSt) : State :=
  { rsetN z Reg.dmaCtl 1 with ms := { z.ms with ready := true }, dmas := vset z.dmas 0 x, mem := [(0x0, 0x04), (0x4, 0x10)] }
def chan (d : DmaDesc) : DmaSt := { DmaSt.reset with busy := true, desc := some d }
/-- A sample of a channel waits in the recorder. -/
def zEvr (n : Nat) : State := { rsetN z Reg.evrCtl 3 with evr := { z.evr with queue := List.replicate n (5, 7, (0, 0)), fwd := [(90, 1)] } }
def zCal (d : List (Nat × Nat × Nat)) : State := { rsetN z Reg.calCtl 1 with cal := { z.cal with due := d } }
theorem asks_mbox (s : State) (cmd : Nat) (h : mailboxUp s = true ∧ s.dtm.busy = true ∧ reqCmd s = cmd ∧ s.datum.mboxRes = none)
    (hu : 3341 ≤ usableSectors s) : asks s .mailbox cmd := ⟨h, hu⟩
theorem asks_port (s : State) (cmd : Nat) (h : portCmd s = some cmd) (hu : 3341 ≤ usableSectors s) : asks s .port cmd := ⟨h, hu⟩
/-- A request at the mailbox and one at the port, a customer key provisioned. -/
def zMbox (cmd : Nat) : State :=
  { rsetN z (Reg.dtmReq 0) cmd with dtm := { z.dtm with busy := true }, datum := { z.datum with cust := some [] } }
def zPort (cmd : Byte) : State := { z with datum := { z.datum with portReq := some [cmd], cust := some [] } }
/-- A rule in a state, over a state of the Datum die. -/
def withRule (s : State) (st : Nat) : State := { s with datum := { s.datum with rules := [(3, { Rule.free with st := st, window := some 0 })], clkvalid := true } }
def img0 : ImageInfo := { headerOk := true, sigOk := true, build := 5, length := 0, loadoff := 0, entry := 0, code := [] }
def nor : NorEv := { pulses := [], fail := false }
/-- Sector 9 was interrupted in an erase. -/
def zSec : State := { z with datum := { z.datum with sectors := [(9, { Sector.blank with st := .interrupted })] } }

/-- A write that waits for the ledger, the Datum die up; and with a rule that holds its namespace. -/
def zLedger : State := { zTag (zNs 0) { io .write with st := .ledger } with boot := .bufferReady }
def zLedgerHeld : State := { zLedger with datum := { z.datum with rules := [(3, { Rule.free with st := 2, window := some 0, nswide := true })] } }

/-- Eight units held, each in a buffer of its own. -/
def held8 : List CwBuf := (List.range 8).map fun i => { cwb [] with idx := i }

/-- A write operation about to begin, the write pointer of its band at 5. -/
def zOp5 : State := { zOp (mop (.queue 0 0) 2) [] with mem := [(0, 5)] }

/-- A read of both LBAs of a chunk that lies in slots 0 and 1 of band 0, and a Store of two units, staged. -/
def onDisk (s : State) (x : Tag) (staged : Bool) : State :=
  { zBoth s x with obj := { z.obj with nss := [zNs 0], chunks := [(chunkKey (nsObject 0) 0, { Chunk.absent with count := 2, raw := true, staged := staged, loc := 0, tier := 0 })] } }
def rd2 : Tag := { io .read with cmd := { (io .read).cmd with nlb := 2 } }
def st2 : Tag := { io .kvStore with keys := [chunkKey (nsObject 0) 0] }
/-- A descriptor posted to queue 17. -/
def z17 (m : Memory) : State :=
  let s := zIdle (zOp (mop (.tag 0) 1) [])
  { s with mem := m, cqu := { s.cqu with q17 := [(0x1000, 0)] } }

/-- A unit of chunk 0 of handle 9: its tag, and 4,096 zero bytes. -/
def unit9Tag : List Byte :=
  [0, 0, 0, 0, 9, 0, 0, 0, 0, 0, 0, 0, 0, 0, 0, 1, 0, 0, 0, 0, 0, 0, 1, 1, 0, 0, 152, 249, 65, 137, 228, 4]
def unit9 : List Byte := unit9Tag ++ zeros 4096

theorem crc_zeros : crc32c (zeros 4096) = 2566472073 := by
  have e : zeros 4096 = zeros 512 ++ (zeros 512 ++ (zeros 512 ++ (zeros 512 ++ (zeros 512 ++ (zeros 512 ++ (zeros 512 ++ zeros 512)))))) := by
    simp [zeros, -List.reduceReplicate, List.replicate_append_replicate]
  have h1 : (zeros 512).foldl (crcByteR 0x82F6_3B78) 4294967295 = 3473084991 := by decide +kernel
  have h2 : (zeros 512).foldl (crcByteR 0x82F6_3B78) 3473084991 = 290529667 := by decide +kernel
  have h3 : (zeros 512).foldl (crcByteR 0x82F6_3B78) 290529667 = 175100626 := by decide +kernel
  have h4 : (zeros 512).foldl (crcByteR 0x82F6_3B78) 175100626 = 1534491824 := by decide +kernel
  have h5 : (zeros 512).foldl (crcByteR 0x82F6_3B78) 1534491824 = 1307576961 := by decide +kernel
  have h6 : (zeros 512).foldl (crcByteR 0x82F6_3B78) 1307576961 = 3746741852 := by decide +kernel
  have h7 : (zeros 512).foldl (crcByteR 0x82F6_3B78) 3746741852 = 4151263722 := by decide +kernel
  have h8 : (zeros 512).foldl (crcByteR 0x82F6_3B78) 4151263722 = 1728495222 := by decide +kernel
  unfold crc32c
  rw [e]
  simp only [List.foldl_append, h1, h2, h3, h4, h5, h6, h7, h8]
  rfl

theorem unit9_ok (s : State) (maddr : Nat) (h : ownerOf s maddr = none) : recoveredOk s maddr unit9 = true := by
  have d : unit9.drop 32 = zeros 4096 := rfl
  have t : tcrcOk unit9 = true := by decide +kernel
  have f : tagField unit9 0x1A 4 = 2566472073 := by decide +kernel
  simp [recoveredOk, dcrcOk, t, d, f, crc_zeros, h]

/-- The flash with a unit of chunk 0 of an object in slot 0 of superblock 1. -/
def zUser : State :=
  { rsetN (zFlash .open_ none) (Reg.fctSpacelim 0) 1000 with
    fct := { (zFlash .open_ none).fct with sbs := [(1, { Sb.erased with st := .open_, stream := 1, slots := [5], members := [0, 32, 64] })], map := [(5, 2 ^ 24 + 1)] }
    obj := { z.obj with chunks := [(chunkKey 9 0, { Chunk.absent with count := 1, tier := 1, loc := 5 })] } }
/-- The flash tier retired, group 0 reserved, the write pointers of its bands at 1. -/
def zRetired : State :=
  { zFlash .open_ none with
    fct := { (zFlash .open_ none).fct with mode := .retired }, mem := [(0, 1)], ms := { z.ms with ready := true }
    lat := { z.lat with groups := [(0, { Group.free with st := .reserved })] } }

/-- States and operands that meet the hypotheses of the clauses of StepRunsFrontCommand. -/
theorem meets_StepRunsFrontCommand :
    (∃ (s : State), s.pending = []) :=
  ⟨z, by decide +kernel⟩

/-- States and operands that meet the hypotheses of the clauses of TickAndWatchdog. -/
theorem meets_TickAndWatchdog :
    (∃ (v : Word), v ≠ 0x0000_A5C3)
    ∧ (∃ (s : State), rbit s Reg.sysWdtctl 31 = true ∧ s.rst.wdtCount = 0)
    ∧ (∃ (s : State), (rbit s Reg.sysWdtctl 31 = false ∨ s.rst.wdtCount ≠ 0)) :=
  ⟨⟨0, by decide +kernel⟩,
   ⟨rsetN z Reg.sysWdtctl 0x8000_0001, by decide +kernel⟩,
   ⟨z, by decide +kernel⟩⟩

/-- States and operands that meet the hypotheses of the clauses of ResetRequests. -/
theorem meets_ResetRequests :
    (∃ (s : State), s.rst.clkHold = true)
    ∧ (∃ (v : Word), v.toNat / 2 ^ 16 = 0xC4E5 ∧ v.toNat.testBit 0 = true)
    ∧ (∃ (v : Word), (v.toNat / 2 ^ 16 ≠ 0xC4E5 ∨ v.toNat.testBit 0 = false)) :=
  ⟨⟨{ z with rst := { z.rst with clkHold := true } }, by decide +kernel⟩,
   ⟨0xC4E5_0001, by decide +kernel⟩,
   ⟨0xC4E5_0000, by decide +kernel⟩⟩

/-- States and operands that meet the hypotheses of the clauses of ResetEffects. -/
theorem meets_ResetEffects :
    (∃ (s : State), s.rst.pending ≠ [] ∧ allParked s = true)
    ∧ (∃ (v : Word) (s : State) (b : Blk), v.toNat / 2 ^ 16 = 0xC4E5 ∧ s.rst.pending = [] ∧ b ∈ [Blk.lat, .fct, .loc, .cdc, .cqu, .hpa, .hpb, .buf, .spd, .dma, .evr, .cal, .tst] ∧ lineOf b 0 = v.toNat % 256) :=
  ⟨⟨{ z with rst := { z.rst with pending := [.soft] } }, by decide +kernel⟩,
   ⟨0xC4E5_0021, z, .lat, by decide +kernel⟩⟩

/-- States and operands that meet the hypotheses of the clauses of PowerFailSequence. -/
theorem meets_PowerFailSequence :
    (∃ (s : State), s.pf.active = false ∧ s.pf.railsOff = false)
    ∧ (∃ (s : State), s.pf.active = true ∧ s.pf.railsOff = false)
    ∧ (∃ (s : State), s.pf.active = true)
    ∧ (∃ (s : State), s.pf.active = true)
    ∧ (∃ (s : State), s.boot = .off ∧ s.pf.railsOff = false) :=
  ⟨⟨z, by decide +kernel⟩,
   ⟨{ z with pf := { z.pf with active := true } }, by decide +kernel⟩,
   ⟨{ z with pf := { z.pf with active := true } }, by decide +kernel⟩,
   ⟨{ z with pf := { z.pf with active := true } }, by decide +kernel⟩,
   ⟨zBoot .off, by decide +kernel⟩⟩

/-- States and operands that meet the hypotheses of the clauses of SupplyResets. -/
theorem meets_SupplyResets :
    (∃ (s : State), quiet s .dtm) :=
  ⟨z, by unfold quiet; decide +kernel⟩

/-- States and operands that meet the hypotheses of the clauses of RailsAndBudget. -/
theorem meets_RailsAndBudget :
    (∃ (r : Fin 6) (s : State), r ≠ 0 ∧ quiet s .pmu)
    ∧ (∃ (o : RotorObs) (s : State) (i : Fin 8) (l : List (Fin 8)), s.pmu.waitQ = i :: l ∧ grantFits s = true ∧ (s.spn i).st = .waitgrant ∧ rotorClass s i o = 0) :=
  ⟨⟨1, z, by unfold quiet; decide +kernel⟩,
   ⟨still, { zSpn .waitgrant with pmu := { z.pmu with waitQ := [0, 1] } }, 0, [1], by decide +kernel⟩⟩

/-- States and operands that meet the hypotheses of the clauses of StartUp. -/
theorem meets_StartUp :
    (∃ (s : State), s.boot = .softStart)
    ∧ (∃ (aOk : Bool) (bOk : Bool) (s : State), s.boot = .resetReleased ∧ (aOk = true ∨ bOk = true))
    ∧ (∃ (s : State), s.boot = .resetReleased ∧ quiet s .sys)
    ∧ (∃ (s : State), s.boot = .imageVerified)
    ∧ (∃ (gib : Nat) (s : State), s.boot = .configLoaded ∧ gib ≠ 0)
    ∧ (∃ (s : State), s.boot = .trained) :=
  ⟨⟨zBoot .softStart, by decide +kernel⟩,
   ⟨true, false, z, by decide +kernel⟩,
   ⟨z, by unfold quiet; decide +kernel⟩,
   ⟨zBoot .imageVerified, by decide +kernel⟩,
   ⟨8, zBoot .configLoaded, by decide +kernel⟩,
   ⟨zBoot .trained, by decide +kernel⟩⟩

/-- States and operands that meet the hypotheses of the clauses of RoutingRules. -/
theorem meets_RoutingRules :
    (∃ (v : Word), v.toNat % 256 ≠ 0)
    ∧ (∃ (v : Word), v.toNat % 256 = 0)
    ∧ (∃ (n : Fin 128) (s : State) (c : Fin 8), routeMode1 s n = true ∧ lineLevel s n = true ∧ assignee s n = none ∧ canTake s n c = true ∧ (∀ d : Fin 8, d < c → canTake s n d = false)) :=
  ⟨⟨0x81, by decide +kernel⟩,
   ⟨0x100, by decide +kernel⟩,
   ⟨96, zLine, 0, by decide +kernel⟩⟩

/-- States and operands that meet the hypotheses of the clauses of FaultRegisterWrites. -/
theorem meets_FaultRegisterWrites :
    (∃ (b : Blk) (s : State), blkPresent s b = true)
    ∧ (∃ (b : Blk) (s : State), blkPresent s b = true)
    ∧ (∃ (b : Blk) (s : State), blkPresent s b = false) :=
  ⟨⟨.sys, z, by decide +kernel⟩,
   ⟨.sys, z, by decide +kernel⟩,
   ⟨.chd 7, { z with part := { is4804 := true, stepB0 := true } }, by decide +kernel⟩⟩

/-- States and operands that meet the hypotheses of the clauses of GeneralInputs. -/
theorem meets_GeneralInputs :
    (∃ (i : Fin 9) (active : Bool) (s : State), (input s i).level ≠ active)
    ∧ (∃ (i : Fin 9) (s : State), i ≠ 0 ∧ quiet s .sys ∧ (input s i).level = false)
    ∧ (∃ (i : Fin 9) (s : State), (input s i).level = true ∧ rf s (Reg.sysIncfg i) 24 8 ≠ 0 ∧ (input s i).masked = false)
    ∧ (∃ (i : Fin 9) (s : State), (input s i).level = true) :=
  ⟨⟨8, true, z, by decide +kernel⟩,
   ⟨8, z, by unfold quiet; decide +kernel⟩,
   ⟨0, zInput 0, by decide +kernel⟩,
   ⟨8, zInput 8, by decide +kernel⟩⟩

/-- States and operands that meet the hypotheses of the clauses of SpindleStarts. -/
theorem meets_SpindleStarts :
    (∃ (i : Fin 8) (s : State), spnHears s i = true ∧ (s.spn i).st = .stopped ∧ (s.spn i).failed = false)
    ∧ (∃ (i : Fin 8) (s : State), (s.spn i).st = .run)
    ∧ (∃ (i : Fin 8) (s : State), spnHears s i = true ∧ (s.spn i).st ∈ [SpnState.locate, .ramp, .accel])
    ∧ (∃ (i : Fin 8) (s : State), spnHears s i = true ∧ (s.spn i).st = .run ∧ spnParked s i = true)
    ∧ (∃ (i : Fin 8) (s : State), spnHears s i = true ∧ (s.spn i).st = .stopped)
    ∧ (∃ (i : Fin 8) (o : RotorObs) (s : State), (s.spn i).st = .listen ∧ rotorClass s i o = 3)
    ∧ (∃ (i : Fin 8) (o : RotorObs) (s : State), (s.spn i).st = .listen ∧ rotorClass s i o ≠ 3 ∧ rn s Reg.pmuBasew + rf s Reg.pmuSpinpwr 0 16 ≤ rn s Reg.pmuBudget ∧ s.pmu.waitQ ≠ [])
    ∧ (∃ (i : Fin 8) (s : State), (s.spn i).st = .locate ∧ (s.spn i).inject = false) :=
  ⟨⟨7, z, by decide +kernel⟩,
   ⟨0, zSpn .run, by decide +kernel⟩,
   ⟨0, zSpn .locate, by decide +kernel⟩,
   ⟨0, zSpn .run, by decide +kernel⟩,
   ⟨0, z, by decide +kernel⟩,
   ⟨0, backward, zSpn .listen, by decide +kernel⟩,
   ⟨0, still, { zSpn .listen with pmu := { z.pmu with waitQ := [1] } }, by decide +kernel⟩,
   ⟨0, zSpn .locate, by decide +kernel⟩⟩

/-- States and operands that meet the hypotheses of the clauses of SpindleDrive. -/
theorem meets_SpindleDrive :
    (∃ (i : Fin 8) (s : State), (s.spn i).st = .run)
    ∧ (∃ (i : Fin 8) (s : State), (s.spn i).st = .ramp ∧ (s.spn i).inject = false ∧ atHandover s i = false)
    ∧ (∃ (i : Fin 8) (e : CommEv) (s : State), (s.spn i).st = .ramp ∧ atHandover s i = false ∧ observerBad s i e = false)
    ∧ (∃ (i : Fin 8) (e : CommEv) (s : State), (s.spn i).st = .ramp ∧ atHandover s i = true ∧ eventMatched e = true ∧ hoSync s i ≤ (s.spn i).hosync + 1)
    ∧ (∃ (i : Fin 8) (s : State), (s.spn i).st = .accel)
    ∧ (∃ (i : Fin 8) (s : State), (s.spn i).st = .brake ∧ (s.spn i).failing = false ∧ (s.spn i).autoRestart = false) :=
  ⟨⟨0, zSpn .run, by decide +kernel⟩,
   ⟨0, zSpn .ramp, by decide +kernel⟩,
   ⟨0, comm false, zSpn .ramp, by decide +kernel⟩,
   ⟨0, comm true, zHandover, by decide +kernel⟩,
   ⟨0, zSpn .accel, by decide +kernel⟩,
   ⟨0, zSpn .brake, by decide +kernel⟩⟩

/-- States and operands that meet the hypotheses of the clauses of SpindleLosses. -/
theorem meets_SpindleLosses :
    (∃ (i : Fin 8) (s : State), (s.spn i).st = .run ∧ quiet s .spn)
    ∧ (∃ (i : Fin 8) (s : State), (s.spn i).st = .accel ∧ (s.spn i).catching = false ∧ quiet s .spn)
    ∧ (∃ (i : Fin 8) (s : State), (s.spn i).st = .coast ∧ spnParked s i = true)
    ∧ (∃ (i : Fin 8) (s : State), (s.spn i).st = .run ∧ spnParked s i = false ∧ quiet s .spn)
    ∧ (∃ (i : Fin 8) (s : State), (s.spn i).st = .run ∧ quiet s .spn) :=
  ⟨⟨0, zSpn .run, by unfold quiet; decide +kernel⟩,
   ⟨0, zSpn .accel, by unfold quiet; decide +kernel⟩,
   ⟨0, zSpn .coast, by decide +kernel⟩,
   ⟨0, modSpn (zAct .track) 0 fun x => { x with st := .run }, by unfold quiet; decide +kernel⟩,
   ⟨0, zSpn .run, by unfold quiet; decide +kernel⟩⟩

/-- States and operands that meet the hypotheses of the clauses of RadiusCommands. -/
theorem meets_RadiusCommands :
    (∃ (a : Fin 16) (s : State), actPresent s a = true ∧ rbit s Reg.radGctl 0 = true ∧ (s.act a).st = .parked ∧ atSpeed s (spnOf a) = true)
    ∧ (∃ (a : Fin 16) (s : State), actPresent s a = true ∧ (rbit s Reg.radGctl 0 = false ∨ (s.act a).st ≠ .parked ∨ atSpeed s (spnOf a) = false))
    ∧ (∃ (a : Fin 16) (s : State), actPresent s a = true ∧ rbit s Reg.radGctl 0 = true ∧ (s.act a).st ∈ [ActState.load, .manual, .seek, .settle, .track] ∧ (∀ n, sliceOfAct s a = some n → (s.slice n).op = none))
    ∧ (∃ (a : Fin 16) (s : State), actPresent s a = true ∧ rbit s Reg.radGctl 0 = true ∧ actAuto (s.act a).st = true)
    ∧ (∃ (a : Fin 16) (s : State), actPresent s a = true ∧ rbit s Reg.radGctl 0 = true ∧ (s.act a).st ∈ [ActState.load, .seek, .settle, .track] ∧ (∀ n, sliceOfAct s a = some n → (s.slice n).op = none))
    ∧ (∃ (a : Fin 16) (s : State), actPresent s a = true ∧ rbit s Reg.radGctl 0 = true ∧ (s.act a).st = .manual ∧ (s.act a).sampleOk = true)
    ∧ (∃ (a : Fin 16) (s : State), actPresent s a = true ∧ rbit s Reg.radGctl 0 = true ∧ (s.act a).st = .track)
    ∧ (∃ (a : Fin 16) (s : State), actPresent s a = true ∧ rbit s Reg.radGctl 0 = true ∧ (s.act a).st = .track)
    ∧ (∃ (a : Fin 16) (s : State), actPresent s a = true ∧ rbit s Reg.radGctl 0 = true ∧ (s.act a).st ≠ .track)
    ∧ (∃ (a : Fin 16) (s : State), (s.act a).st = .load ∧ sliceOfAct s a = none ∧ quiet s .rad)
    ∧ (∃ (a : Fin 16) (s : State), (s.act a).st ∈ [ActState.unload, .retract] ∧ s.rst.rail0 = false) :=
  ⟨⟨0, zAct .parked, by decide +kernel⟩,
   ⟨0, zAct .track, by decide +kernel⟩,
   ⟨0, zAct .track, by decide +kernel⟩,
   ⟨0, zAct .track, by decide +kernel⟩,
   ⟨0, zAct .track, by decide +kernel⟩,
   ⟨0, modAct (zAct .manual) 0 fun x => { x with sampleOk := true }, by decide +kernel⟩,
   ⟨0, zAct .track, by decide +kernel⟩,
   ⟨0, zAct .track, by decide +kernel⟩,
   ⟨0, zAct .settle, by decide +kernel⟩,
   ⟨0, zAct .load, by unfold quiet; decide +kernel⟩,
   ⟨0, zAct .retract, by decide +kernel⟩⟩

/-- States and operands that meet the hypotheses of the clauses of RadiusRegisters. -/
theorem meets_RadiusRegisters :
    (∃ (a : Fin 16) (s : State), actPresent s a = true)
    ∧ (∃ (a : Fin 16) (s : State), actPresent s a = true)
    ∧ (∃ (a : Fin 16) (s : State), actPresent s a = true)
    ∧ (∃ (a : Fin 16) (s : State), actPresent s a = true)
    ∧ (∃ (a : Fin 16) (s : State), actPresent s a = true)
    ∧ (∃ (a : Fin 16) (s : State), actPresent s a = true)
    ∧ (∃ (a : Fin 16) (s : State), actPresent s a = false)
    ∧ (∃ (lane : Fin 8) (s0 : ServoSample) (s : State), actPresent s (act0 lane) = true ∧ actPresent s (act1 lane) = false ∧ actAuto (s.act (act0 lane)).st = true ∧ s0.coefPar = false ∧ sliceOfAct s (act0 lane) = none ∧ (s.act (act0 lane)).bad + 1 < rf s (Reg.radPlaus (act0 lane)) 28 4) :=
  ⟨⟨14, z, by decide +kernel⟩,
   ⟨0, z, by decide +kernel⟩,
   ⟨0, z, by decide +kernel⟩,
   ⟨0, z, by decide +kernel⟩,
   ⟨0, z, by decide +kernel⟩,
   ⟨0, z, by decide +kernel⟩,
   ⟨1, z, by decide +kernel⟩,
   ⟨0, noSample, zAct .track, by decide +kernel⟩⟩

/-- States and operands that meet the hypotheses of the clauses of RegisterAccess. -/
theorem meets_RegisterAccess :
    (∃ (m : Nat) (a : Nat) (s : State) (b : Blk) (r : RegRow) (i : Nat), regReach s m a = true ∧ regAt a = some (b, r, i) ∧ regStart r a = a ∧ regBlank s b r i = false ∧ regFixed s b = false ∧ ownWrite b r = false)
    ∧ (∃ (m : Nat) (a : Nat) (s : State) (b : Blk) (r : RegRow) (i : Nat), regReach s m a = true ∧ regAt a = some (b, r, i) ∧ (regBlank s b r i = true ∨ regFixed s b = true))
    ∧ (∃ (m : Nat) (a : Nat) (s : State), regReach s m a = true ∧ regAt a = none)
    ∧ (∃ (m : Nat) (a : Nat) (s : State), regReach s m a = false)
    ∧ (∃ (m : Nat) (a : Nat) (s : State) (b : Blk) (r : RegRow) (i : Nat), regReach s m a = true ∧ regAt a = some (b, r, i) ∧ regStart r a = a ∧ regBlank s b r i = false ∧ regFixed s b = false ∧ ownRead b r = false)
    ∧ (∃ (m : Nat) (a : Nat) (s : State) (b : Blk) (r : RegRow) (i : Nat), regReach s m a = true ∧ regAt a = some (b, r, i) ∧ r.w64 = true ∧ a % 8 = 0)
    ∧ (∃ (m : Nat) (a : Nat) (s : State), regReach s m a = true ∧ isWide a = true ∧ a % 8 = 0 ∧ a ≠ Reg.evrPost)
    ∧ (∃ (m : Nat) (a : Nat) (low : Word) (s : State) (b : Blk) (r : RegRow) (i : Nat), regReach s m (a + 4) = true ∧ regAt (a + 4) = some (b, r, i) ∧ r.w64 = true ∧ a % 8 = 0 ∧ regBlank s b r i = false ∧ regFixed s b = false ∧ ownWrite b r = false ∧ s.wshadow.find? (fun e => decide (e.1 = shadowKey m (a + 4))) = some (shadowKey m (a + 4), low)) :=
  ⟨by
    obtain ⟨b, r, i, h, hp⟩ := row_at Reg.cdcCtl (fun b r i => decide (regStart r Reg.cdcCtl = Reg.cdcCtl) && !regBlank z b r i && !regFixed z b && !ownWrite b r) (by decide +kernel)
    simp only [Bool.and_eq_true, Bool.not_eq_true', decide_eq_true_iff] at hp
    exact ⟨0, Reg.cdcCtl, z, b, r, i, by decide +kernel, h, hp.1.1.1, hp.1.1.2, hp.1.2, hp.2⟩,
   by
    obtain ⟨b, r, i, h, hp⟩ := row_at (Reg.afeCtl 8) (fun b r i => regBlank { z with part := { is4804 := true, stepB0 := true } } b r i) (by decide +kernel)
    exact ⟨0, Reg.afeCtl 8, _, b, r, i, by decide +kernel, h, .inl hp⟩,
   ⟨7, 0x20_0000_7FFC, z, by decide +kernel, by rfl⟩,
   ⟨8, Reg.cdcCtl, z, by decide +kernel⟩,
   by
    obtain ⟨b, r, i, h, hp⟩ := row_at (Reg.chdUnitok 7) (fun b r i => decide (regStart r (Reg.chdUnitok 7) = Reg.chdUnitok 7) && !regBlank z b r i && !regFixed z b && !ownRead b r) (by decide +kernel)
    simp only [Bool.and_eq_true, Bool.not_eq_true', decide_eq_true_iff] at hp
    exact ⟨0, Reg.chdUnitok 7, z, b, r, i, by decide +kernel, h, hp.1.1.1, hp.1.1.2, hp.1.2, hp.2⟩,
   by
    obtain ⟨b, r, i, h, hp⟩ := row_at Reg.cdcWseq (fun _ r _ => r.w64) (by decide +kernel)
    exact ⟨0, Reg.cdcWseq, z, b, r, i, by decide +kernel, h, hp, by decide +kernel⟩,
   ⟨0, Reg.cdcWseq, z, by decide +kernel⟩,
   by
    obtain ⟨b, r, i, h, hp⟩ := row_at ((Reg.locRwhandle 0) + 4) (fun b r i => r.w64 && !regBlank z b r i && !regFixed z b && !ownWrite b r) (by decide +kernel)
    simp only [Bool.and_eq_true, Bool.not_eq_true'] at hp
    exact ⟨0, (Reg.locRwhandle 0), 5, { z with wshadow := [(shadowKey 0 ((Reg.locRwhandle 0) + 4), 5)] }, b, r, i, by decide +kernel, h, hp.1.1.1, by decide +kernel, hp.1.1.2, hp.1.2, hp.2, by decide +kernel⟩⟩

/-- States and operands that meet the hypotheses of the clauses of HostLinks. -/
theorem meets_HostLinks :
    (∃ (p : Port) (rate : Nat) (width : Nat) (flit : Bool) (s : State), portExists s p = true ∧ (s.port p).perst = false ∧ rate ≤ rateLimit s p ∧ p ∉ s.cqu.cut ∧ widthOk s width = true ∧ (rate < 5 ∨ flit = true))
    ∧ (∃ (p : Port) (s : State), portExists s p = true ∧ (s.port p).linkUp = true)
    ∧ (∃ (p : Port) (s : State), linkCarries s p = true)
    ∧ (∃ (p : Port) (k : Nat) (s : State), linkCarries s p = true ∧ quiet s (blkOfPort p) ∧ (tagAt s k).st = .active ∧ (tagAt s k).port = p ∧ (tagAt s k).dead = false ∧ (tagAt s k).mops = 0 ∧ calm s)
    ∧ (∃ (p : Port) (k : Nat) (s : State), linkCarries s p = true ∧ quiet s (blkOfPort p) ∧ (tagAt s k).st = .active ∧ (tagAt s k).port = p ∧ (tagAt s k).dead = false ∧ (tagAt s k).mops = 0 ∧ calm s)
    ∧ (∃ (p : Port) (k : Nat) (s : State), linkCarries s p = true ∧ quiet s (blkOfPort p) ∧ (tagAt s k).st = .active ∧ (tagAt s k).port = p ∧ (tagAt s k).dead = false ∧ (tagAt s k).mops = 0 ∧ calm s)
    ∧ (∃ (p : Port) (k : Nat) (s : State), linkCarries s p = true ∧ quiet s (blkOfPort p) ∧ (tagAt s k).st = .active ∧ (tagAt s k).port = p ∧ (tagAt s k).dead = false ∧ (tagAt s k).mops ≠ 0)
    ∧ (∃ (p : Port) (s : State), portExists s p = true ∧ (s.port p).perst = true)
    ∧ (∃ (p : Port) (pm : LinkPm) (s : State), portExists s p = true ∧ (s.port p).linkUp = true ∧ pmAllowed (s.port p) pm = true) :=
  ⟨⟨.a, 3, 2, false, zHost (zNs 0), by decide +kernel⟩,
   ⟨.a, zHost (zNs 0), by decide +kernel⟩,
   ⟨.a, zHost (zNs 0), by decide +kernel⟩,
   ⟨.a, 0, zIo 0 .read, by unfold quiet calm; decide +kernel⟩,
   ⟨.a, 0, zIo 0 .read, by unfold quiet calm; decide +kernel⟩,
   ⟨.a, 0, zIo 0 .read, by unfold quiet calm; decide +kernel⟩,
   ⟨.a, 0, zTag (zNs 0) { io .read with mops := 1 }, by unfold quiet; decide +kernel⟩,
   ⟨.b, z, by decide +kernel⟩,
   ⟨.a, .l1, zHost (zNs 0), by decide +kernel⟩⟩

/-- States and operands that meet the hypotheses of the clauses of HostControllers. -/
theorem meets_HostControllers :
    (∃ (p : Port) (s : State), linkCarries s p = true ∧ quiet s (blkOfPort p))
    ∧ (∃ (p : Port) (s : State), portExists s p = true ∧ (s.port p).linkUp = true ∧ quiet s (blkOfPort p))
    ∧ (∃ (p : Port) (s : State), portExists s p = true ∧ (s.port p).perst = false)
    ∧ (∃ (p : Port) (s : State), linkCarries s p = true ∧ dieHeld s = false)
    ∧ (∃ (p : Port) (s : State), linkCarries s p = true ∧ dieHeld s = false ∧ rbit s Reg.sysBootctl 0 = true)
    ∧ (∃ (p : Port) (off : Nat) (s : State), memEnabled s p = true ∧ off % 4 = 0 ∧ (off < 0x1000 ∨ 0x1408 ≤ off))
    ∧ (∃ (p : Port) (i : Nat) (s : State), memEnabled s p = true ∧ i < 0x400 ∧ i % 4 ≠ 3 ∧ i % 4 ≠ 0)
    ∧ (∃ (p : Port) (q : Sq) (qid : Nat) (value : Nat) (s : State), hostReaches s p = true ∧ (s.port p).en = true ∧ (s.port p).sqs.find? (fun q => decide (q.qid = qid)) = some q ∧ q.stopped = false ∧ value < q.size)
    ∧ (∃ (p : Port) (q : Sq) (qid : Nat) (value : Nat) (s : State), hostReaches s p = true ∧ (s.port p).en = true ∧ (s.port p).sqs.find? (fun q => decide (q.qid = qid)) = some q ∧ q.stopped = false ∧ q.size ≤ value ∧ (s.port p).aers = [])
    ∧ (∃ (p : Port) (q : Cq) (qid : Nat) (value : Nat) (s : State), hostReaches s p = true ∧ (s.port p).en = true ∧ (s.port p).cqs.find? (fun q => decide (q.qid = qid)) = some q ∧ q.stopped = false ∧ value < q.size ∧ s.cqu.compq = [])
    ∧ (∃ (p : Port) (s : State), hostReaches s p = true ∧ (s.port p).en = false ∧ (s.port p).rdy = false)
    ∧ (∃ (p : Port) (s : State), hostReaches s p = true ∧ (s.port p).en = true)
    ∧ (∃ (p : Port) (s : State), hostReaches s p = true ∧ (s.port p).en = true)
    ∧ (∃ (p : Port) (s : State), portExists s p = true ∧ (∀ q : Port, (s.port q).aers = []))
    ∧ (∃ (v : Word) (k : Nat) (rest : List Nat) (s : State), s.conf.hostcfg1 = true ∧ (s.port .a).aers = k :: rest ∧ v.toNat % 8 ∉ (s.port .a).maskedTypes)
    ∧ (∃ (p : Port) (k : Nat) (s : State), linkCarries s p = true ∧ fetches (tagAt s k) p = true) :=
  ⟨⟨.a, zHost (zNs 0), by unfold quiet; decide +kernel⟩,
   ⟨.a, zHost (zNs 0), by unfold quiet; decide +kernel⟩,
   ⟨.a, zHost (zNs 0), by decide +kernel⟩,
   ⟨.a, zHost (zNs 0), by decide +kernel⟩,
   ⟨.a, zHost (zNs 0), by decide +kernel⟩,
   ⟨.a, 0, zHost (zNs 0), by decide +kernel⟩,
   ⟨.a, 2, zHost (zNs 0), by decide +kernel⟩,
   ⟨.a, ioSq, 1, 4095, zHost (zNs 0), by decide +kernel⟩,
   ⟨.a, ioSq, 1, 4096, zHost (zNs 0), by decide +kernel⟩,
   ⟨.a, { admCq with qid := 1 }, 1, 4095, zHost (zNs 0), by decide +kernel⟩,
   ⟨.a, modPort (zHost (zNs 0)) .a fun p => { p with en := false, rdy := false }, by decide +kernel⟩,
   ⟨.a, zHost (zNs 0), by decide +kernel⟩,
   ⟨.a, zHost (zNs 0), by decide +kernel⟩,
   ⟨.a, z, by decide +kernel, fun p => by cases p <;> rfl⟩,
   ⟨0, 5, [], { modPort z .a (fun p => { p with aers := [5] }) with conf := { z.conf with hostcfg1 := true } }, by decide +kernel⟩,
   ⟨.a, 0, zIo 0 .write, by decide +kernel⟩⟩

/-- States and operands that meet the hypotheses of the clauses of PowerStateEntry. -/
theorem meets_PowerStateEntry :
    (∃ (p : Port) (s : State), (s.port p).rdy = true ∧ (tget 0 (s.port p).features 0x0C).testBit 0 = true ∧ s.cqu.tags = [] ∧ s.cqu.psStep = 0 ∧ (s.port p).ps ≠ 3 ∧ (∀ n : Fin 8, (s.slice n).op = none))
    ∧ (∃ (p : Port) (s : State), (s.port p).rdy = true ∧ (tget 0 (s.port p).features 0x0C).testBit 0 = true ∧ s.cqu.tags = [] ∧ s.cqu.psStep ≠ 0 ∧ s.cqu.psUndo = false ∧ s.cqu.reversing = false ∧ s.cqu.psBoth = false ∧ s.cqu.psPort ≠ p ∧ (s.port p).ps ≠ 3)
    ∧ (∃ (s : State), s.cqu.psStep = 1 ∧ s.cqu.reversing = false ∧ s.cqu.psUndo = false ∧ rbit s Reg.radGctl 0 = true ∧ (∀ n : Fin 8, (s.slice n).op = none))
    ∧ (∃ (s : State), s.cqu.psStep = 3 ∧ s.cqu.reversing = false ∧ s.cqu.psUndo = false)
    ∧ (∃ (s : State), s.cqu.psStep = 4 ∧ s.cqu.reversing = false ∧ s.cqu.psUndo = false ∧ turningMask s = 0)
    ∧ (∃ (s : State), s.cqu.psStep = 4 ∧ s.cqu.reversing = true ∧ s.cqu.psUndo = false)
    ∧ (∃ (s : State), s.cqu.psUndo = true ∧ fin8.any (spinsUp s) = false)
    ∧ (∃ (s : State), s.cqu.psUndo = true ∧ fin8.any (spinsUp s) = true) :=
  ⟨⟨.a, modPort z .a fun p => { p with rdy := true, features := [(0x0C, 1)] }, by decide +kernel⟩,
   ⟨.a, { modPort z .a (fun p => { p with rdy := true, features := [(0x0C, 1)] }) with cqu := { z.cqu with psStep := 1, psPort := .b } }, by decide +kernel⟩,
   ⟨{ zAct .track with cqu := { z.cqu with psStep := 1 } }, by decide +kernel⟩,
   ⟨{ z with cqu := { z.cqu with psStep := 3 } }, by decide +kernel⟩,
   ⟨{ z with cqu := { z.cqu with psStep := 4 } }, by decide +kernel⟩,
   ⟨{ z with cqu := { z.cqu with psStep := 4, reversing := true } }, by decide +kernel⟩,
   ⟨{ z with cqu := { z.cqu with psUndo := true } }, by decide +kernel⟩,
   ⟨{ zSpn .listen with cqu := { z.cqu with psUndo := true } }, by decide +kernel⟩⟩

/-- States and operands that meet the hypotheses of the clauses of CommandArrivalRules. -/
theorem meets_CommandArrivalRules :
    (∃ (p : Port) (sqid : Nat) (k : Nat) (c : HostCmd) (s : State), freeTag s = some k ∧ canFetch s p sqid = true ∧ arrivalCheck s p sqid c = scOk ∧ (arriveZone s c).1 = scOk ∧ s.cqu.locks = [] ∧ (lockReqs s c (arriveZone s c).2.1).length ≤ 1024 ∧ calm s ∧ retentionHit s c = false)
    ∧ (∃ (p : Port) (sqid : Nat) (k : Nat) (c : HostCmd) (s : State), freeTag s = some k ∧ canFetch s p sqid = true ∧ arrivalCheck s p sqid c = scOk ∧ (arriveZone s c).1 = scOk ∧ s.cqu.locks.length + (lockReqs s c (arriveZone s c).2.1).length ≤ 1024 ∧ (∃ l ∈ s.cqu.locks, l.aseq < s.cqu.aseq ∧ ∃ r ∈ lockReqs s c (arriveZone s c).2.1, conflicts (lockOf k s.cqu.aseq r) l = true))
    ∧ (∃ (p : Port) (sqid : Nat) (k : Nat) (c : HostCmd) (s : State), freeTag s = some k ∧ canFetch s p sqid = true ∧ arrivalCheck s p sqid c ≠ scOk ∧ s.cqu.locks.length ≤ 1024 ∧ calm s)
    ∧ (∃ (p : Port) (sqid : Nat) (k : Nat) (c : HostCmd) (s : State), freeTag s = some k ∧ canFetch s p sqid = true ∧ arrivalCheck s p sqid c = scOk ∧ (arriveZone s c).1 = scOk ∧ 1024 < s.cqu.locks.length + (lockReqs s c (arriveZone s c).2.1).length)
    ∧ (∃ (k : Nat) (u : State) (s : State), (tagAt s k).st = .ledger ∧ ledgerServes s = true ∧ appendAll s (ledgerEnts s (tagAt s k).cmd) = some u ∧ quiet s .dtm)
    ∧ (∃ (k : Nat) (s : State), appendAll s (ledgerEnts s (tagAt s k).cmd) = none)
    ∧ (∃ (k : Nat) (s : State), (tagAt s k).st = .ledger ∧ (tagAt s k).dead = false ∧ calm s)
    ∧ (∃ (k : Nat) (n : Ns) (slot : Fin 64) (s : State), nsOf s (tagAt s k).cmd.nsid = some n ∧ n.slot = slot.val ∧ ready s k (tagAt s k).cmd.op = true ∧ keyLoaded s n = false ∧ needsKey (tagAt s k) = true ∧ calm s ∧ quiet s .cdc)
    ∧ (∃ (k : Nat) (n : Ns) (s : State), nsOf s (tagAt s k).cmd.nsid = some n ∧ ready s k (tagAt s k).cmd.op = true ∧ keyLoaded s n = true ∧ dataRead s n (tagAt s k) = true ∧ (tagAt s k).copy = none ∧ (s.cqu.locks.any fun l => decide (l.tag = k) && !l.write) = true ∧ calm s) :=
  ⟨⟨.a, 1, 0, (io .read).cmd, zHost (zNs 0), by unfold calm; decide +kernel⟩,
   ⟨.a, 1, 0, (io .read).cmd, { zHost (zNs 0) with cqu := { (zHost (zNs 0)).cqu with aseq := 1, locks := [{ obj := 1, first := 0, last := 0, write := true, aseq := 0, tag := 9 }] } }, by decide +kernel⟩,
   ⟨.b, 1, 0, { (io .read).cmd with nsid := 2 }, modPort (modPort (zHost (zNs 0)) .a fun p => { p with sqs := [] }) .b fun p => { p with en := true, rdy := true, sqs := [{ ioSq with head := 4095 }] }, by unfold calm; decide +kernel⟩,
   ⟨.a, 1, 0, { (io .copy).cmd with ranges := [(16, 1)] }, { zHost (zNs 0) with cqu := { (zHost (zNs 0)).cqu with locks := List.replicate 1023 { obj := 1, first := 0, last := 0, write := true, aseq := 0, tag := 9 } } }, by decide +kernel⟩,
   by
    obtain ⟨u, h⟩ := Option.isSome_iff_exists.mp (by decide +kernel : (appendAll zLedger (ledgerEnts zLedger (tagAt zLedger 0).cmd)).isSome = true)
    exact ⟨0, u, zLedger, by decide +kernel, by decide +kernel, h, by unfold quiet; decide +kernel⟩,
   ⟨0, zLedgerHeld, by exact Option.isNone_iff_eq_none.mp (by decide +kernel)⟩,
   ⟨0, zTag (zNs 0) { io .write with st := .ledger }, by unfold calm; decide +kernel⟩,
   ⟨0, zNs 0, 0, { zIo 0 .read with datum := z.datum }, by unfold quiet calm; decide +kernel⟩,
   ⟨0, zNs 0, { zIo 0 .read with cqu := { (zIo 0 .read).cqu with locks := [{ obj := 1, first := 0, last := 0, write := false, aseq := 0, tag := 0 }] } }, by unfold calm; decide +kernel⟩⟩

/-- States and operands that meet the hypotheses of the clauses of NvmCommands. -/
theorem meets_NvmCommands :
    (∃ (k : Nat) (n : Ns) (bs : List Byte) (s : State), nsOf s (tagAt s k).cmd.nsid = some n ∧ ready s k .read = true ∧ readable s n (tagAt s k) = true ∧ calm s ∧ rangeBytes (tagAt s k) (versions s n (tagAt s k)) n.slot (tagAt s k).cmd.slba (tagAt s k).cmd.nlb = some bs)
    ∧ (∃ (k : Nat) (n : Ns) (s : State), nsOf s (tagAt s k).cmd.nsid = some n ∧ ready s k .read = true ∧ readable s n (tagAt s k) = true ∧ calm s ∧ rangeBytes (tagAt s k) (versions s n (tagAt s k)) n.slot (tagAt s k).cmd.slba (tagAt s k).cmd.nlb = none)
    ∧ (∃ (k : Nat) (n : Ns) (s : State), nsOf s (tagAt s k).cmd.nsid = some n ∧ ready s k .verify = true ∧ readable s n (tagAt s k) = true ∧ calm s)
    ∧ (∃ (k : Nat) (n : Ns) (bs : List Byte) (s : State), nsOf s (tagAt s k).cmd.nsid = some n ∧ ready s k .compare = true ∧ readable s n (tagAt s k) = true ∧ calm s ∧ dataIn (tagAt s k) (tagAt s k).cmd.nlb = true ∧ rangeBytes (tagAt s k) (versions s n (tagAt s k)) n.slot (tagAt s k).cmd.slba (tagAt s k).cmd.nlb = some bs)
    ∧ (∃ (k : Nat) (n : Ns) (s : State), nsOf s (tagAt s k).cmd.nsid = some n ∧ ready s k .write = true ∧ calm s ∧ dataIn (tagAt s k) (tagAt s k).cmd.nlb = true ∧ mergesPoison s n.slot (tagAt s k).cmd.slba (tagAt s k).cmd.nlb = false ∧ canStage s k n (writeSet s n.slot (tagAt s k).cmd.slba (tagAt s k).cmd.nlb (tagAt s k).cmd.data))
    ∧ (∃ (k : Nat) (n : Ns) (s : State), nsOf s (tagAt s k).cmd.nsid = some n ∧ ready s k .write = true ∧ calm s ∧ (tagAt s k).keys = [] ∧ dataIn (tagAt s k) (tagAt s k).cmd.nlb = true ∧ mergesPoison s n.slot (tagAt s k).cmd.slba (tagAt s k).cmd.nlb = false ∧ overCapacity s (writeSet s n.slot (tagAt s k).cmd.slba (tagAt s k).cmd.nlb (tagAt s k).cmd.data) = true)
    ∧ (∃ (k : Nat) (n : Ns) (s : State), nsOf s (tagAt s k).cmd.nsid = some n ∧ ready s k .writeZeroes = true ∧ calm s ∧ mergesPoison s n.slot (tagAt s k).cmd.slba (tagAt s k).cmd.nlb = false ∧ canStage s k n (writeSet s n.slot (tagAt s k).cmd.slba (tagAt s k).cmd.nlb (zeros (4096 * (tagAt s k).cmd.nlb))))
    ∧ (∃ (k : Nat) (n : Ns) (bs : List Byte) (s : State), nsOf s (tagAt s k).cmd.nsid = some n ∧ ready s k .copy = true ∧ keyLoaded s n = true ∧ readable s n (tagAt s k) = true ∧ calm s ∧ copyBytes (tagAt s k) (versions s n (tagAt s k)) n.slot (tagAt s k).cmd.ranges = some bs ∧ mergesPoison s n.slot (tagAt s k).cmd.slba (((tagAt s k).cmd.ranges.map (·.2)).sum) = false ∧ canStage s k n (writeSet s n.slot (tagAt s k).cmd.slba (((tagAt s k).cmd.ranges.map (·.2)).sum) bs))
    ∧ (∃ (k : Nat) (s : State), ready s k .flush = true ∧ calm s)
    ∧ (∃ (k : Nat) (n : Ns) (s : State), nsOf s (tagAt s k).cmd.nsid = some n ∧ ready s k .dsm = true ∧ (tagAt s k).dead = false ∧ calm s) :=
  ⟨⟨0, zNs 0, _, zIo 0 .read, by decide +kernel, by decide +kernel, by decide +kernel, by unfold calm; decide +kernel, rfl⟩,
   ⟨0, zNs 0, zTag (zNs 0) { io .read with bad := [chunkKey (nsObject 0) 0] }, by unfold calm; decide +kernel⟩,
   ⟨0, zNs 0, zIo 0 .verify, by unfold calm; decide +kernel⟩,
   ⟨0, zNs 0, _, zIo 0 .compare, by decide +kernel, by decide +kernel, by decide +kernel, by unfold calm; decide +kernel, by decide +kernel, rfl⟩,
   ⟨0, zNs 0, zIo 0 .write, by decide +kernel, by decide +kernel, by unfold calm; decide +kernel, by decide +kernel, by decide +kernel, can_one _ _ _ _ (by decide +kernel) (by decide +kernel) (by rfl) (by decide +kernel) (by decide +kernel) (by decide +kernel) (by decide +kernel)⟩,
   ⟨0, zNs 0, { zIo 0 .write with obj := { (zIo 0 .write).obj with chunks := [(7, { Chunk.absent with count := 10 ^ 12 })] } }, by decide +kernel, by decide +kernel, by unfold calm; decide +kernel, by decide +kernel, by decide +kernel, by decide +kernel,
      over_one _ _ (by decide +kernel) (by decide +kernel) (by rfl) (by decide +kernel)⟩,
   ⟨0, zNs 0, zIo 0 .writeZeroes, by decide +kernel, by decide +kernel, by unfold calm; decide +kernel, by decide +kernel,
      can_one _ _ _ _ (by decide +kernel) (by decide +kernel) List.length_replicate (by decide +kernel) (by decide +kernel) (by decide +kernel) (by decide +kernel)⟩,
   ⟨0, zNs 0, lbaBytes Chunk.absent 16 ++ [], zTag (zNs 0) { io .copy with cmd := { (io .copy).cmd with ranges := [(16, 1)] } }, by decide +kernel, by decide +kernel, by decide +kernel, by decide +kernel, by unfold calm; decide +kernel, rfl, by decide +kernel,
      can_one _ _ _ _ (by decide +kernel) (by decide +kernel) (by simp [lbaBytes, chunkBytes, Chunk.absent, zeros, -List.reduceReplicate]) (by decide +kernel) (by decide +kernel) (by decide +kernel) (by decide +kernel)⟩,
   ⟨0, zIo 0 .flush, by unfold calm; decide +kernel⟩,
   ⟨0, zNs 0, zIo 0 .dsm, by unfold calm; decide +kernel⟩⟩

/-- States and operands that meet the hypotheses of the clauses of ZonedCommands. -/
theorem meets_ZonedCommands :
    (∃ (k : Nat) (n : Ns) (s : State), nsOf s (tagAt s k).cmd.nsid = some n ∧ ready s k .zoneAppend = true ∧ calm s ∧ dataIn (tagAt s k) (tagAt s k).cmd.nlb = true ∧ mergesPoison s n.slot (tagAt s k).zlba (tagAt s k).cmd.nlb = false ∧ canStage s k n (writeSet s n.slot (tagAt s k).zlba (tagAt s k).cmd.nlb (tagAt s k).cmd.data) ∧ (tagAt s k).sc = 0)
    ∧ (∃ (k : Nat) (lba : Nat) (n : Ns) (s : State), nsOf s (tagAt s k).cmd.nsid = some n ∧ ready s k .zoneAppend = true ∧ calm s ∧ dataIn (tagAt s k) (tagAt s k).cmd.nlb = true ∧ (tagAt s k).keys = [] ∧ (tagAt s k).assigned = true ∧ overCapacity s (writeSet s n.slot (tagAt s k).zlba (tagAt s k).cmd.nlb (tagAt s k).cmd.data) = true ∧ mergesPoison s n.slot (tagAt s k).zlba (tagAt s k).cmd.nlb = false ∧ (tagAt s k).zlba + (tagAt s k).cmd.nlb ≤ 2 ^ 44 ∧ (tagAt s k).zlba ≤ lba ∧ lba < (tagAt s k).zlba + (tagAt s k).cmd.nlb ∧ (chunkAt s (chunkKey (nsObject n.slot) (lba / 16))).poison = false)
    ∧ (∃ (k : Nat) (n : Ns) (s : State), nsOf s (tagAt s k).cmd.nsid = some n ∧ ready s k .zoneReset = true ∧ (tagAt s k).dead = false ∧ calm s)
    ∧ (∃ (k : Nat) (n : Ns) (s : State), nsOf s (tagAt s k).cmd.nsid = some n ∧ ready s k .zoneFinish = true ∧ calm s)
    ∧ (∃ (k : Nat) (n : Ns) (s : State), nsOf s (tagAt s k).cmd.nsid = some n ∧ ready s k .zoneOpen = true ∧ calm s ∧ (zoneAt n ((tagAt s k).cmd.slba / 65536)).st = .closed ∧ zonesOpen n < 256)
    ∧ (∃ (k : Nat) (n : Ns) (s : State), nsOf s (tagAt s k).cmd.nsid = some n ∧ ready s k .zoneOpen = true ∧ calm s ∧ (zoneAt n ((tagAt s k).cmd.slba / 65536)).st = .full)
    ∧ (∃ (k : Nat) (n : Ns) (s : State), nsOf s (tagAt s k).cmd.nsid = some n ∧ ready s k .zoneClose = true ∧ calm s ∧ zoneIsActive (zoneAt n ((tagAt s k).cmd.slba / 65536)) = true)
    ∧ (∃ (k : Nat) (n : Ns) (s : State), nsOf s (tagAt s k).cmd.nsid = some n ∧ ready s k .zoneRecv = true ∧ calm s) :=
  ⟨⟨0, zNs 2, zIo 2 .zoneAppend, by decide +kernel, by decide +kernel, by unfold calm; decide +kernel, by decide +kernel, by decide +kernel, can_one _ _ _ _ (by decide +kernel) (by decide +kernel) (by rfl) (by decide +kernel) (by decide +kernel) (by decide +kernel) (by decide +kernel), by decide +kernel⟩,
   ⟨0, 0, zNs 2, { zTag (zNs 2) { io .zoneAppend with assigned := true } with obj := { (zTag (zNs 2) (io .zoneAppend)).obj with chunks := [(7, { Chunk.absent with count := 10 ^ 12 })] } }, by decide +kernel, by decide +kernel, by unfold calm; decide +kernel, by decide +kernel, by decide +kernel, by decide +kernel,
      over_one _ _ (by decide +kernel) (by decide +kernel) (by rfl) (by decide +kernel), by decide +kernel, by decide +kernel, by decide +kernel, by decide +kernel, by decide +kernel⟩,
   ⟨0, zNs 2, zIo 2 .zoneReset, by unfold calm; decide +kernel⟩,
   ⟨0, zNs 2, zIo 2 .zoneFinish, by unfold calm; decide +kernel⟩,
   ⟨0, zNs 2, zIo 2 .zoneOpen, by unfold calm; decide +kernel⟩,
   ⟨0, zNs 2, zTag (zNs 2) { io .zoneOpen with cmd := { (io .zoneOpen).cmd with slba := 65536 } }, by unfold calm; decide +kernel⟩,
   ⟨0, zNs 2, zIo 2 .zoneClose, by unfold calm; decide +kernel⟩,
   ⟨0, zNs 2, zIo 2 .zoneRecv, by unfold calm; decide +kernel⟩⟩

/-- States and operands that meet the hypotheses of the clauses of KeyValueCommands. -/
theorem meets_KeyValueCommands :
    (∃ (k : Nat) (n : Ns) (s : State), nsOf s (tagAt s k).cmd.nsid = some n ∧ ready s k .kvStore = true ∧ calm s ∧ (tagAt s k).cmd.hostLen ≤ (tagAt s k).cmd.data.length ∧ (tagAt s k).cmd.hostLen ≤ 4294963200 ∧ (tagAt s k).cmd.opts = 0 ∧ ((kvFind n (tagAt s k).cmd.key).isSome = true ∨ n.nextSerial ≤ lastSerial) ∧ canStage s k n (storeSet s n (tagAt s k).cmd))
    ∧ (∃ (k : Nat) (n : Ns) (s : State), nsOf s (tagAt s k).cmd.nsid = some n ∧ ready s k .kvStore = true ∧ calm s ∧ (tagAt s k).cmd.hostLen ≤ (tagAt s k).cmd.data.length ∧ (tagAt s k).cmd.opts = 1 ∧ (tagAt s k).keys = [] ∧ (kvFind n (tagAt s k).cmd.key).isSome = true)
    ∧ (∃ (k : Nat) (n : Ns) (e : Nat × Chunk) (bs : List Byte) (s : State), nsOf s (tagAt s k).cmd.nsid = some n ∧ ready s k .kvRetrieve = true ∧ readable s n (tagAt s k) = true ∧ calm s ∧ (versions s n (tagAt s k)).find? (fun e => decide (keyChunk e.1 = objRecordChunk)) = some e ∧ lost (tagAt s k) e.1 e.2 = false ∧ valueParts (tagAt s k) (versions s n (tagAt s k)) (keyHandle e.1) 0 ((min (ofBytes ((e.2.data.drop 0x18).take 8)) (tagAt s k).cmd.hostLen + 65535) / 65536) = [some bs])
    ∧ (∃ (k : Nat) (n : Ns) (s : State), nsOf s (tagAt s k).cmd.nsid = some n ∧ ready s k .kvRetrieve = true ∧ keyLoaded s n = true ∧ calm s ∧ (tagAt s k).copy = none ∧ kvFind n (tagAt s k).cmd.key = none)
    ∧ (∃ (k : Nat) (n : Ns) (o : KvObj) (s : State), nsOf s (tagAt s k).cmd.nsid = some n ∧ ready s k .kvDelete = true ∧ (tagAt s k).dead = false ∧ calm s ∧ kvFind n (tagAt s k).cmd.key = some o)
    ∧ (∃ (k : Nat) (n : Ns) (s : State), nsOf s (tagAt s k).cmd.nsid = some n ∧ ready s k .kvExist = true ∧ calm s ∧ (tagAt s k).copy = none)
    ∧ (∃ (k : Nat) (l : List (Nat × Chunk)) (s : State), ready s k .kvExist = true ∧ calm s ∧ (tagAt s k).copy = some l)
    ∧ (∃ (k : Nat) (s : State), ready s k .kvList = true ∧ calm s) :=
  ⟨⟨0, zNs 1, zTag (zNs 1) { io .kvStore with cmd := { (io .kvStore).cmd with hostLen := 0 } }, by decide +kernel, by decide +kernel, by unfold calm; decide +kernel, by decide +kernel, by decide +kernel, by decide +kernel, by decide +kernel, by unfold canStage; decide +kernel⟩,
   ⟨0, zNs 1, zTag (zNs 1) { io .kvStore with cmd := { (io .kvStore).cmd with opts := 1 } }, by unfold calm; decide +kernel⟩,
   ⟨0, zNs 1, _, _, zTag (zNs 1) { io .kvRetrieve with copy := some [(chunkKey 5 objRecordChunk, { Chunk.absent with data := zeros 0x18 ++ toBytes 8 3 }), (chunkKey 5 0, { Chunk.absent with data := [1, 2, 3] })] }, by decide +kernel, by decide +kernel, by decide +kernel, by unfold calm; decide +kernel, rfl, by decide +kernel, rfl⟩,
   ⟨0, zNs 1, zTag (zNs 1) { io .kvRetrieve with cmd := { (io .kvRetrieve).cmd with key := [2] } }, by unfold calm; decide +kernel⟩,
   ⟨0, zNs 1, { key := [1], handle := 5, vallen := 3 }, zIo 1 .kvDelete, by unfold calm; decide +kernel⟩,
   ⟨0, zNs 1, zIo 1 .kvExist, by unfold calm; decide +kernel⟩,
   ⟨0, [], zTag (zNs 1) { io .kvExist with copy := some [] }, by unfold calm; decide +kernel⟩,
   ⟨0, zIo 1 .kvList, by unfold calm; decide +kernel⟩⟩

/-- States and operands that meet the hypotheses of the clauses of AdminQueues. -/
theorem meets_AdminQueues :
    (∃ (k : Nat) (qid : Nat) (size : Nat) (vector : Nat) (s : State), readyAdmin s k .adminOther = true ∧ calm s ∧ 1 ≤ qid ∧ qid ≤ 128 ∧ 2 ≤ size ∧ size ≤ 4096 ∧ vector < 256 ∧ ((s.port (tagAt s k).port).cqs.any fun q => decide (q.qid = qid)) = false)
    ∧ (∃ (k : Nat) (qid : Nat) (size : Nat) (cqid : Nat) (s : State), readyAdmin s k .adminOther = true ∧ calm s ∧ 1 ≤ qid ∧ qid ≤ 128 ∧ 2 ≤ size ∧ size ≤ 4096 ∧ cqid ≠ 0 ∧ ((s.port (tagAt s k).port).cqs.any fun q => decide (q.qid = cqid)) = true ∧ ((s.port (tagAt s k).port).sqs.any fun q => decide (q.qid = qid)) = false)
    ∧ (∃ (k : Nat) (qid : Nat) (s : State), readyAdmin s k .adminOther = true ∧ calm s ∧ (qid = 0 ∨ 128 < qid))
    ∧ (∃ (k : Nat) (qid : Nat) (s : State), readyAdmin s k .adminOther = true ∧ calm s ∧ qid ≠ 0 ∧ ((s.port (tagAt s k).port).sqs.any fun q => decide (q.qid = qid)) = true ∧ (s.cqu.tags.any fun e => decide (e.2.port = (tagAt s k).port) && decide (e.2.sqid = qid)) = false)
    ∧ (∃ (k : Nat) (qid : Nat) (s : State), readyAdmin s k .adminOther = true ∧ calm s ∧ qid ≠ 0 ∧ ((s.port (tagAt s k).port).cqs.any fun q => decide (q.qid = qid)) = true ∧ ((s.port (tagAt s k).port).sqs.any fun q => decide (q.cqid = qid)) = false)
    ∧ (∃ (k : Nat) (sqid : Nat) (cid : Nat) (s : State), readyAdmin s k .adminOther = true ∧ calm s ∧ (s.cqu.tags.filter fun e => decide (e.2.port = (tagAt s k).port) && e.2.waits.isSome) = [] ∧ abortTarget s (tagAt s k).port sqid cid = none)
    ∧ (∃ (k : Nat) (sqid : Nat) (cid : Nat) (u : Nat) (y : Tag) (s : State), readyAdmin s k .adminOther = true ∧ calm s ∧ (s.cqu.tags.filter fun e => decide (e.2.port = (tagAt s k).port) && e.2.waits.isSome) = [] ∧ abortTarget s (tagAt s k).port sqid cid = some (u, y) ∧ tagAt s u = y ∧ abortable y = true ∧ y.mops ≠ 0 ∧ y.st = .active)
    ∧ (∃ (k : Nat) (s : State), readyAdmin s k .adminOther = true ∧ (s.port (tagAt s k).port).aers.contains k = false ∧ (s.port (tagAt s k).port).aers.length < 16 ∧ (s.port (tagAt s k).port).held = [])
    ∧ (∃ (k : Nat) (fid : Nat) (value : Nat) (s : State), readyAdmin s k .adminOther = true ∧ calm s ∧ featureIds.contains fid = true ∧ fid ≠ 2 ∧ featureBad fid value = false)
    ∧ (∃ (k : Nat) (value : Nat) (s : State), readyAdmin s k .adminOther = true ∧ calm s ∧ value % 32 < 3 ∧ s.cqu.psStep = 0 ∧ (s.port (tagAt s k).port).ps ≠ 3)
    ∧ (∃ (k : Nat) (fid : Nat) (cdw11 : Nat) (s : State), readyAdmin s k .adminOther = true ∧ calm s ∧ featureIds.contains fid = true ∧ (fid ≠ 9 ∨ cdw11 % 2 ^ 16 < 256) ∧ (fid ≠ 4 ∨ fld cdw11 20 2 < 2)) :=
  ⟨⟨0, 2, 16, 0, zAdm .adminOther, by unfold calm; decide +kernel⟩,
   ⟨0, 2, 16, 1, zAdm .adminOther, by unfold calm; decide +kernel⟩,
   ⟨0, 129, zAdm .adminOther, by unfold calm; decide +kernel⟩,
   ⟨0, 1, zAdm .adminOther, by unfold calm; decide +kernel⟩,
   ⟨0, 1, modPort (zAdm .adminOther) .a fun p => { p with sqs := [] }, by unfold calm; decide +kernel⟩,
   ⟨0, 1, 5, zAdm .adminOther, by unfold calm; decide +kernel⟩,
   ⟨0, 1, 0, 1, { io .read with mops := 1 }, { zAdm .adminOther with cqu := { (zAdm .adminOther).cqu with tags := [(0, adm .adminOther), (1, { io .read with mops := 1 })] } }, by unfold calm; decide +kernel⟩,
   ⟨0, zAdm .adminOther, by decide +kernel⟩,
   ⟨0, 1, 0, zAdm .adminOther, by unfold calm; decide +kernel⟩,
   ⟨0, 0, zAdm .adminOther, by unfold calm; decide +kernel⟩,
   ⟨0, 1, 0, zAdm .adminOther, by unfold calm; decide +kernel⟩⟩

/-- States and operands that meet the hypotheses of the clauses of AdminNamespaces. -/
theorem meets_AdminNamespaces :
    (∃ (k : Nat) (lpo : Nat) (s : State), readyAdmin s k .adminOther = true ∧ calm s ∧ lpo ≤ (parityLog s).length)
    ∧ (∃ (k : Nat) (s : State), readyAdmin s k .adminOther = true ∧ calm s)
    ∧ (∃ (k : Nat) (s : State), readyAdmin s k .adminOther = true ∧ calm s)
    ∧ (∃ (k : Nat) (cns : Nat) (csi : Nat) (bs : List Byte) (s : State) (s' : State), readyAdmin s k .adminOther = true ∧ calm s ∧ identifyData s (tagAt s k) cns csi = some (bs, s'))
    ∧ (∃ (k : Nat) (cmdset : Nat) (size : Nat) (id : Nat) (nguid : List Byte) (s : State), readyAdmin s k .adminOther = true ∧ calm s ∧ quiet s .dtm ∧ freeNsid s = some id ∧ cmdset < 3 ∧ nguid.length = 16 ∧ (cmdset = 1 ∨ (size ≠ 0 ∧ tooManyChunks size = false)) ∧ (cmdset ≠ 2 ∨ size % 65536 = 0) ∧ takesData s 4128 = true)
    ∧ (∃ (k : Nat) (n : Ns) (s : State), readyAdmin s k .adminNsDelete = true ∧ (tagAt s k).dead = false ∧ calm s ∧ nsOf s (tagAt s k).cmd.nsid = some n ∧ (∀ p : Port, (s.port p).aers = []))
    ∧ (∃ (k : Nat) (nsid : Nat) (p : Port) (attach : Bool) (n : Ns) (s : State), readyAdmin s k .adminOther = true ∧ calm s ∧ nsOf s nsid = some n ∧ portExists s p = true ∧ n.attached p = !attach ∧ (∀ q : Port, (s.port q).aers = []))
    ∧ (∃ (k : Nat) (s : State), readyAdmin s k .adminOther = true ∧ calm s ∧ quiet s .dtm)
    ∧ (∃ (k : Nat) (s : State), readyAdmin s k .adminOther = true ∧ calm s ∧ quiet s .dtm)
    ∧ (∃ (k : Nat) (s : State), readyAdmin s k .adminOther = true ∧ calm s) :=
  ⟨⟨0, 0, zAdm .adminOther, by unfold calm; decide +kernel⟩,
   ⟨0, zAdm .adminOther, by unfold calm; decide +kernel⟩,
   ⟨0, zAdm .adminOther, by unfold calm; decide +kernel⟩,
   ⟨0, 2, 0, _, zAdm .adminOther, _, by decide +kernel, by unfold calm; decide +kernel, rfl⟩,
   ⟨0, 2, 65536, 2, List.replicate 16 0, zAdm .adminOther, by unfold quiet calm; decide +kernel⟩,
   ⟨0, zNs 0, zAdm .adminNsDelete, by decide +kernel, by decide +kernel, by unfold calm; decide +kernel, by decide +kernel, fun p => by cases p <;> rfl⟩,
   ⟨0, 1, .a, false, zNs 0, zAdm .adminOther, by decide +kernel, by unfold calm; decide +kernel, by decide +kernel, by decide +kernel, by decide +kernel, fun p => by cases p <;> rfl⟩,
   ⟨0, zAdm .adminOther, by unfold quiet calm; decide +kernel⟩,
   ⟨0, zAdm .adminOther, by unfold quiet calm; decide +kernel⟩,
   ⟨0, zAdm .adminOther, by unfold calm; decide +kernel⟩⟩

/-- States and operands that meet the hypotheses of the clauses of FormatAndSanitize. -/
theorem meets_FormatAndSanitize :
    (∃ (k : Nat) (ses : Nat) (n : Ns) (s : State), readyAdmin s k .adminFormat = true ∧ (tagAt s k).dead = false ∧ calm s ∧ quiet s .dtm ∧ nsOf s (tagAt s k).cmd.nsid = some n ∧ ses < 3 ∧ takesData s 4128 = true ∧ (∀ p : Port, (s.port p).aers = []))
    ∧ (∃ (k : Nat) (lbaf : Nat) (n : Ns) (s : State), readyAdmin s k .adminFormat = true ∧ (tagAt s k).dead = false ∧ calm s ∧ nsOf s (tagAt s k).cmd.nsid = some n ∧ lbaf ≠ 0)
    ∧ (∃ (k : Nat) (s : State), readyAdmin s k .adminSanitize = true ∧ s.obj.sanitizing = false ∧ quiet s .dtm)
    ∧ (∃ (k : Nat) (s : State), readyAdmin s k .adminSanitize = true ∧ (tagAt s k).dead = false ∧ s.obj.sanitizing = true ∧ s.obj.sanCut = false ∧ calm s)
    ∧ (∃ (k : Nat) (s : State), (∀ e ∈ s.cqu.tags, e.2.cmd.op ≠ .adminSanitize) ∧ (tagAt s k).cmd.op ≠ .adminSanitize ∧ s.obj.sanitizing = true ∧ s.obj.sanCut = true)
    ∧ (∃ (k : Nat) (action : Nat) (s : State), readyAdmin s k .adminSanitize = true ∧ (tagAt s k).dead = false ∧ action ≠ 4 ∧ calm s)
    ∧ (∃ (k : Nat) (n : Ns) (s : State), readyAdmin s k .adminOther = true ∧ calm s ∧ nsOf s (tagAt s k).cmd.nsid = some n) :=
  ⟨⟨0, 2, zNs 0, zAdm .adminFormat, by decide +kernel, by decide +kernel, by unfold calm; decide +kernel, by unfold quiet; decide +kernel, by decide +kernel, by decide +kernel, by decide +kernel, fun p => by cases p <;> rfl⟩,
   ⟨0, 3, zNs 0, zAdm .adminFormat, by unfold calm; decide +kernel⟩,
   ⟨0, zAdm .adminSanitize, by unfold quiet; decide +kernel⟩,
   ⟨0, { zAdm .adminSanitize with obj := { (zAdm .adminSanitize).obj with sanitizing := true } }, by unfold calm; decide +kernel⟩,
   ⟨0, { z with obj := { z.obj with sanitizing := true, sanCut := true } }, by decide +kernel⟩,
   ⟨0, 1, zAdm .adminSanitize, by unfold calm; decide +kernel⟩,
   ⟨0, zNs 0, zAdm .adminOther, by unfold calm; decide +kernel⟩⟩

/-- States and operands that meet the hypotheses of the clauses of LatticeGroups. -/
theorem meets_LatticeGroups :
    (∃ (n : Fin 8) (bk : Nat) (first : Nat) (held : Nat) (g : Nat) (j : Nat) (s : State), (s.slice n).win = some (bk, first, held) ∧ groupOf s (bk / 2 ^ 21) (bk % 2 ^ 21) = some (g, j) ∧ j < 8)
    ∧ (∃ (v : Word) (g : Nat) (j : Nat) (s : State), groupOf s (fld v.toNat 29 3) (fld v.toNat 0 21) = some (g, j) ∧ j < 8 ∧ isDataMember s g j = true ∧ (groupAt s g).st = .open_)
    ∧ (∃ (g : Nat) (s : State), latticeOn s = true ∧ (groupAt s g).st = .open_ ∧ ((dataMembers s g).all fun j => mem8 (groupAt s g).sealed_ j) = true)
    ∧ (∃ (g : Nat) (j : Nat) (s : State), latticeOn s = true ∧ (groupAt s g).st = .closing ∧ (groupAt s g).imgOk = true ∧ j < 8 ∧ (parityToDo s g).contains j = true ∧ serves s (memberOf s g j).1 = true)
    ∧ (∃ (g : Nat) (s : State), latticeOn s = true ∧ (groupAt s g).st ∈ [GroupState.open_, .closing, .pending] ∧ quiet s .lat)
    ∧ (∃ (i : Fin 8) (band : Nat) (slot : Nat) (g : Nat) (j : Nat) (failed : List Nat) (b : List Byte) (s : State), groupOf s i band = some (g, j) ∧ latticeOn s = true ∧ slot < bandSlots ∧ (groupAt s g).st ≠ .free ∧ (groupAt s g).st ≠ .reserved ∧ reconstructSlot s failed g j slot = some b)
    ∧ (∃ (i : Fin 8) (band : Nat) (slot : Nat) (g : Nat) (j : Nat) (failed : List Nat) (s : State), groupOf s i band = some (g, j) ∧ latticeOn s = true ∧ slot < bandSlots ∧ (groupAt s g).st ≠ .free ∧ (groupAt s g).st ≠ .reserved ∧ reconstructSlot s failed g j slot = none)
    ∧ (∃ (i : Fin 8) (band : Nat) (g : Nat) (j : Nat) (s : State), (chunksInBand s i band).isEmpty = true ∧ groupOf s i band = some (g, j) ∧ j < 8 ∧ isDataMember s g j = true ∧ s.conf.m ≠ 0)
    ∧ (∃ (v : Word) (s : State), fld v.toNat 0 24 < groupCount s) :=
  ⟨⟨0, 5, 0, 1, 5, 0, modSlice (z) 0 fun x => { x with win := some (5, 0, 1) }, by decide +kernel⟩,
   ⟨0, 0, 0, zGroup .open_ Group.free, by decide +kernel⟩,
   ⟨0, zGroup .open_ zFull, by decide +kernel⟩,
   ⟨0, 6, zGroup .closing zFull, by decide +kernel⟩,
   ⟨0, zGroup .open_ zFull, by unfold quiet; decide +kernel⟩,
   by
    obtain ⟨b, h⟩ := Option.isSome_iff_exists.mp (by decide +kernel : (reconstructSlot (zGroup .pending zFull) [] 0 0 0).isSome = true)
    exact ⟨0, 0, 0, 0, 0, [], b, zGroup .pending zFull, by decide +kernel, by decide +kernel, by decide +kernel, by decide +kernel, by decide +kernel, h⟩,
   ⟨0, 0, 0, 0, 0, [0, 1, 2], zGroup .closed zFull, by decide +kernel⟩,
   ⟨0, 0, 0, 0, z, by decide +kernel⟩,
   ⟨0, z, by decide +kernel⟩⟩

/-- States and operands that meet the hypotheses of the clauses of LatticeService. -/
theorem meets_LatticeService :
    (∃ (v : Word) (b : Nat) (s : State), v.toNat.testBit 30 = false ∧ s.lat.rb = none ∧ canRebuild s (Fin.ofNat 8 (fld v.toNat 8 3)) (v.toNat.testBit 0) = true ∧ leastFrom 0 (rebuildBands s (Fin.ofNat 8 (fld v.toNat 8 3)) (v.toNat.testBit 0)) = some b)
    ∧ (∃ (r : Rebuild) (s : State), s.lat.rb = some r ∧ rn s Reg.latRbctl < 2 ^ 30)
    ∧ (∃ (r : Rebuild) (g : Nat) (j : Nat) (s : State), s.lat.rb = some r ∧ quiet s .lat ∧ r.paused = false ∧ r.inPlace = true ∧ j < 8 ∧ groupOf s r.spindle r.band = some (g, j) ∧ s.obj.readers.contains (r.spindle.val, r.band) = false ∧ (rebuildMember s g j).1 = true)
    ∧ (∃ (k : Nat) (i : Fin 8) (s : State), readyAdmin s k .adminOther = true ∧ k < 4096 ∧ calm s ∧ svcOf s i = .inService ∧ s.conf.m < outCount s + 1)
    ∧ (∃ (k : Nat) (i : Fin 8) (force : Bool) (s : State), serviceReady s k = true ∧ svcOf s i = .inService ∧ (4096 ≤ k ∨ force = true ∨ outCount s + 1 ≤ s.conf.m))
    ∧ (∃ (k : Nat) (i : Fin 8) (s : State), readyAdmin s k .adminOther = true ∧ svcOf s i = .outOfService)
    ∧ (∃ (k : Nat) (i : Fin 8) (s : State), readyAdmin s k .adminOther = true ∧ svcOf s i = .inService ∧ calm s)
    ∧ (∃ (k : Nat) (i : Fin 8) (s : State), readyAdmin s k .adminOther = true ∧ svcOf s i = .outOfService)
    ∧ (∃ (k : Nat) (ringAddr : Nat) (ringSize : Nat) (s : State), readyAdmin s k .adminOther = true ∧ ringOk ringAddr ringSize = true ∧ s.lat.mig.active = false)
    ∧ (∃ (k : Nat) (s : State), readyAdmin s k .adminOther = true ∧ s.lat.mig.active = true)
    ∧ (∃ (k : Nat) (cons : Nat) (s : State), readyAdmin s k .adminOther = true ∧ calm s ∧ s.lat.mig.active = true ∧ s.lat.mig.cons ≤ cons ∧ cons ≤ s.lat.mig.prod)
    ∧ (∃ (i : Fin 8) (handle : Nat) (chunk : Nat) (n : Ns) (s : State), nsOf s (handleSlot handle + 1) = some n ∧ s.lat.mig.active = true ∧ migrationTurn s i (chunkAt s (chunkKey handle chunk)) = true ∧ keyLoaded s n = true ∧ s.lat.mig.prod + (ringRecord n (chunkKey handle chunk) (chunkAt s (chunkKey handle chunk))).length - s.lat.mig.cons ≤ s.lat.mig.ringSize) :=
  ⟨⟨0x601, 0, zGroup .closed { zFull with stale := 0x40 }, by decide +kernel⟩,
   ⟨{ spindle := 6, inPlace := true, band := 0, paused := false }, { zGroup .closed zFull with lat := { z.lat with rb := some { spindle := 6, inPlace := true, band := 0, paused := false } } }, by decide +kernel⟩,
   ⟨{ spindle := 6, inPlace := true, band := 0, paused := false }, 0, 6, { zGroup .open_ zFull with lat := { (zGroup .open_ zFull).lat with rb := some { spindle := 6, inPlace := true, band := 0, paused := false } } }, by unfold quiet; decide +kernel⟩,
   ⟨0, 2, zSvc [.outOfService, .outOfService], by unfold calm; decide +kernel⟩,
   ⟨4096, 2, false, zSvc [], by decide +kernel⟩,
   ⟨0, 0, zSvc [.outOfService], by decide +kernel⟩,
   ⟨0, 0, zSvc [], by unfold calm; decide +kernel⟩,
   ⟨0, 0, zSvc [.outOfService], by decide +kernel⟩,
   ⟨0, 0, 2 ^ 26, zSvc [], by decide +kernel⟩,
   ⟨0, zMig, by decide +kernel⟩,
   ⟨0, 0, zMig, by unfold calm; decide +kernel⟩,
   ⟨0, nsObject 0, 0, zNs 0, { zMig with obj := { zMig.obj with chunks := [(chunkKey (nsObject 0) 0, { Chunk.absent with count := 1, staged := true, data := [7] })] } }, by decide +kernel⟩⟩

/-- States and operands that meet the hypotheses of the clauses of SliceAssignment. -/
theorem meets_SliceAssignment :
    (∃ (n : Fin 8) (firmware : Bool) (v : Word) (s : State), slicePresent s n = true ∧ firmware = rbit s (Reg.chdCtl n) 1 ∧ (v.toNat.testBit 31 = true → takenByOther s n (Fin.ofNat 16 (v.toNat % 16)) = false ∧ actPresent s (v.toNat % 16) = true) ∧ sliceIdle s n = true)
    ∧ (∃ (n : Fin 8) (firmware : Bool) (v : Word) (s : State), slicePresent s n = true ∧ firmware = rbit s (Reg.chdCtl n) 1 ∧ (v.toNat.testBit 31 = true → takenByOther s n (Fin.ofNat 16 (v.toNat % 16)) = false ∧ actPresent s (v.toNat % 16) = true) ∧ sliceIdle s n = false)
    ∧ (∃ (n : Fin 8) (firmware : Bool) (v : Word) (s : State), slicePresent s n = true ∧ firmware = rbit s (Reg.chdCtl n) 1 ∧ v.toNat.testBit 31 = true ∧ (takenByOther s n (Fin.ofNat 16 (v.toNat % 16)) = true ∨ actPresent s (v.toNat % 16) = false) ∧ quiet s (.chd n))
    ∧ (∃ (n : Fin 8) (firmware : Bool) (s : State), (slicePresent s n = false ∨ firmware ≠ rbit s (Reg.chdCtl n) 1))
    ∧ (∃ (n : Fin 8) (v : Bool) (d : Bool) (a : Fin 16) (s : State), (s.slice n).pend = some (v, d, a) ∧ sliceIdle s n = true ∧ (v = true → takenByOther s n a = false))
    ∧ (∃ (n : Fin 8) (d : Bool) (a : Fin 16) (s : State), (s.slice n).pend = some (true, d, a) ∧ sliceIdle s n = true ∧ takenByOther s n a = true ∧ quiet s (.chd n))
    ∧ (∃ (n : Fin 8) (s : State), ((s.slice n).pend = none ∨ sliceIdle s n = false))
    ∧ (∃ (a : Fin 16) (v : Word) (s : State), sliceOfAct s a = none ∧ frontPresent s a = true ∧ rn s (Reg.afeSynth a) ≠ clampNat 3495253 23767722 (v.toNat % 2 ^ 25))
    ∧ (∃ (a : Fin 16) (v : Word) (s : State), (sliceOfAct s a ≠ none ∨ frontPresent s a = false ∨ rn s (Reg.afeSynth a) = clampNat 3495253 23767722 (v.toNat % 2 ^ 25)))
    ∧ (∃ (a : Fin 16) (s : State), (vget s.afes a).settling = true)
    ∧ (∃ (a : Fin 16) (s : State), (vget s.afes a).settling = false)
    ∧ (∃ (a : Fin 16) (s : State), (vget s.afes a).lock = true ∧ ((s.act a).st ≠ .parked ∨ rbit s (Reg.afeCtl a) 0 = true) ∧ quiet s .afe)
    ∧ (∃ (a : Fin 16) (s : State), (vget s.afes a).lock = true ∧ (s.act a).st = .parked ∧ rbit s (Reg.afeCtl a) 0 = false)
    ∧ (∃ (a : Fin 16) (s : State), (vget s.afes a).lock = false)
    ∧ (∃ (n : Fin 8) (s : State), slicePresent s n = true ∧ (s.slice n).op = none)
    ∧ (∃ (n : Fin 8) (o : MediaOp) (s : State), slicePresent s n = true ∧ (s.slice n).op = some o)
    ∧ (∃ (n : Fin 8) (s : State), slicePresent s n = false) :=
  ⟨⟨0, false, 0x8000_0000, z, by decide +kernel⟩,
   ⟨0, false, 0x8000_0000, zOp (mop (.queue 0 0) 1) [], by decide +kernel⟩,
   ⟨0, false, 0x8000_0000, modSlice z 1 fun x => { x with valid := true, act := 0 }, by unfold quiet; decide +kernel⟩,
   ⟨0, true, z, by decide +kernel⟩,
   ⟨0, true, false, 0, modSlice z 0 fun x => { x with pend := some (true, false, 0) }, by decide +kernel⟩,
   ⟨0, false, 0, modSlice (modSlice z 1 fun x => { x with valid := true, act := 0 }) 0 fun x => { x with pend := some (true, false, 0) }, by unfold quiet; decide +kernel⟩,
   ⟨0, z, by decide +kernel⟩,
   ⟨0, 4_000_000, z, by decide +kernel⟩,
   ⟨0, 0, zOp (mop (.queue 0 0) 1) [], by decide +kernel⟩,
   ⟨0, { z with afes := vset z.afes 0 { lock := true, settling := true, ampA := 0, ampB := 0 } }, by decide +kernel⟩,
   ⟨0, { z with afes := vset z.afes 0 { lock := true, settling := false, ampA := 0, ampB := 0 } }, by decide +kernel⟩,
   ⟨0, { zAct .track with afes := vset z.afes 0 { lock := true, settling := false, ampA := 0, ampB := 0 } }, by unfold quiet; decide +kernel⟩,
   ⟨0, { zAct .parked with afes := vset z.afes 0 { lock := true, settling := false, ampA := 0, ampB := 0 } }, by decide +kernel⟩,
   ⟨0, { z with afes := vset z.afes 0 { lock := false, settling := false, ampA := 0, ampB := 0 } }, by decide +kernel⟩,
   ⟨0, z, by decide +kernel⟩,
   ⟨0, mop (.queue 0 0) 1, zOp (mop (.queue 0 0) 1) [], by decide +kernel⟩,
   ⟨7, { z with part := { is4804 := true, stepB0 := true } }, by decide +kernel⟩⟩

/-- States and operands that meet the hypotheses of the clauses of SliceSlots. -/
theorem meets_SliceSlots :
    (∃ (n : Fin 8) (o : MediaOp) (s : State), (s.slice n).op = some o ∧ readsNow s n o = true ∧ (s.slice n).bufs.length < 8 ∧ (opEntry s o o.done).rmode = 0)
    ∧ (∃ (n : Fin 8) (o : MediaOp) (b : CwBuf) (rest : List CwBuf) (s : State), (s.slice n).op = some o ∧ readsNow s n o = true ∧ (s.slice n).bufs = b :: rest ∧ rest.length = 7 ∧ (∀ x ∈ rest, x.idx ≠ b.idx) ∧ b.recIdx = none ∧ rbit s (Reg.chdCtl n) 2 = false)
    ∧ (∃ (n : Fin 8) (s : State), (∀ o, (s.slice n).op = some o → readsNow s n o = false))
    ∧ (∃ (n : Fin 8) (k : Fin 8) (o : MediaOp) (b : CwBuf) (s : State), (s.slice n).op = some o ∧ o.d.kind = 1 ∧ (s.slice n).bufs[k.val]? = some b ∧ b.recIdx = none)
    ∧ (∃ (n : Fin 8) (k : Fin 8) (s : State), ((s.slice n).op = none ∨ (s.slice n).bufs[k.val]? = none))
    ∧ (∃ (n : Fin 8) (o : MediaOp) (prof : List Byte) (s : State) (s' : State) (s'' : State), (s.slice n).op = some o ∧ o.d.kind = 2 ∧ o.writing = false ∧ o.ended = false ∧ o.done = 0 ∧ (o.d.close = true → o.d.slot + o.d.count = dataSlots) ∧ writeReady s n = true ∧ admission s o.d ≠ .order ∧ admission s o.d ≠ .wait ∧ busRead s (masterChd n) (profAddr s n o.d.profile) 64 none = (some prof, s') ∧ busReadNat s' (masterChd n) (wptrAddr s' n (maddrSpindle o.d.band) (maddrBand o.d.band)) 4 = (some o.d.slot, s''))
    ∧ (∃ (n : Fin 8) (o : MediaOp) (prof : List Byte) (w : Nat) (s : State) (s' : State) (s'' : State), (s.slice n).op = some o ∧ o.d.kind = 2 ∧ o.writing = false ∧ o.ended = false ∧ o.done = 0 ∧ (o.d.close = true → o.d.slot + o.d.count = dataSlots) ∧ writeReady s n = true ∧ admission s o.d ≠ .order ∧ admission s o.d ≠ .wait ∧ busRead s (masterChd n) (profAddr s n o.d.profile) 64 none = (some prof, s') ∧ busReadNat s' (masterChd n) (wptrAddr s' n (maddrSpindle o.d.band) (maddrBand o.d.band)) 4 = (some w, s'') ∧ w ≠ o.d.slot)
    ∧ (∃ (n : Fin 8) (o : MediaOp) (s : State), (s.slice n).op = some o ∧ o.d.kind = 2 ∧ o.writing = false ∧ o.ended = false ∧ o.done = 0 ∧ writeReady s n = true ∧ (admission s o.d = .order ∨ (o.d.close = true ∧ o.d.slot + o.d.count ≠ dataSlots)))
    ∧ (∃ (n : Fin 8) (o : MediaOp) (info : List Byte) (s : State) (s' : State), (s.slice n).op = some o ∧ o.d.kind = 2 ∧ o.writing = true ∧ o.ended = false ∧ o.done < opSlots o ∧ (s.act (s.slice n).act).st = .track ∧ slotInfo s n o o.done = (some info, s'))
    ∧ (∃ (n : Fin 8) (o : MediaOp) (s : State), (s.slice n).op = some o ∧ o.d.kind = 2 ∧ o.writing = true ∧ o.ended = false ∧ o.done < opSlots o ∧ (s.act (s.slice n).act).st = .track)
    ∧ (∃ (n : Fin 8) (s : State), writingNow (s.slice n) = true)
    ∧ (∃ (n : Fin 8) (mon : Nat) (o : MediaOp) (s : State), (s.slice n).op = some o ∧ o.writing = true ∧ o.d.kind = 2 ∧ o.ended = false ∧ (s.slice n).devs = 3 ∧ profNat (s.slice n).prof 0x11 1 < ((profNat (s.slice n).prof 0x10 1 : Int) - (mon % 256 : Nat)).natAbs)
    ∧ (∃ (n : Fin 8) (s : State), writingNow (s.slice n) = false)
    ∧ (∃ (n : Fin 8) (k : Fin 8) (o : MediaOp) (b : CwBuf) (s : State), (s.slice n).op = some o ∧ o.d.kind = 1 ∧ (s.slice n).bufs[k.val]? = some b ∧ quiet s (.chd n)) :=
  ⟨⟨0, mop (.tag 7) 1, zOp (mop (.tag 7) 1) [], by decide +kernel⟩,
   ⟨0, mop (.tag 7) 1, cwb [], held8.drop 1, zOp (mop (.tag 7) 1) held8, by decide +kernel⟩,
   ⟨0, z, fun o h => by
      have e : (z.slice 0).op = none := by decide +kernel
      rw [e] at h; cases h⟩,
   ⟨0, 0, mop (.tag 7) 1, cwb [], zOp (mop (.tag 7) 1) [cwb []], by decide +kernel⟩,
   ⟨0, 0, z, by decide +kernel⟩,
   ⟨0, mop (.queue 0 0) 2, _, zOp (mop (.queue 0 0) 2) [], _, _, by decide +kernel, by decide +kernel, by decide +kernel, by decide +kernel, by decide +kernel, by decide +kernel, by decide +kernel, by decide +kernel, by decide +kernel,
      pair_get [] (busRead (zOp (mop (.queue 0 0) 2) []) (masterChd 0) (profAddr (zOp (mop (.queue 0 0) 2) []) 0 0) 64 none) (by decide +kernel),
      pair_eq 0 (busReadNat (busRead (zOp (mop (.queue 0 0) 2) []) (masterChd 0) (profAddr (zOp (mop (.queue 0 0) 2) []) 0 0) 64 none).2 (masterChd 0) (wptrAddr (busRead (zOp (mop (.queue 0 0) 2) []) (masterChd 0) (profAddr (zOp (mop (.queue 0 0) 2) []) 0 0) 64 none).2 0 0 0) 4) (by decide +kernel)⟩,
   ⟨0, mop (.queue 0 0) 2, _, 5, zOp5, _, _, by decide +kernel, by decide +kernel, by decide +kernel, by decide +kernel, by decide +kernel, by decide +kernel, by decide +kernel, by decide +kernel, by decide +kernel,
      pair_get [] (busRead (zOp5) (masterChd 0) (profAddr (zOp5) 0 0) 64 none) (by decide +kernel),
      pair_eq 5 (busReadNat (busRead (zOp5) (masterChd 0) (profAddr (zOp5) 0 0) 64 none).2 (masterChd 0) (wptrAddr (busRead (zOp5) (masterChd 0) (profAddr (zOp5) 0 0) 64 none).2 0 0 0) 4) (by decide +kernel), by decide +kernel⟩,
   ⟨0, mop (.queue 0 0) 2, rsetN { zOp (mop (.queue 0 0) 2) [] with lat := (zGroup .closed zFull).lat } Reg.latCtl 1, by decide +kernel⟩,
   ⟨0, { mop (.queue 0 0) 2 with writing := true }, _, zOp ({ mop (.queue 0 0) 2 with writing := true }) [], _, by decide +kernel, by decide +kernel, by decide +kernel, by decide +kernel, by decide +kernel, by decide +kernel,
      pair_get [] (slotInfo (zOp ({ mop (.queue 0 0) 2 with writing := true }) []) 0 ({ mop (.queue 0 0) 2 with writing := true }) 0) (by decide +kernel)⟩,
   ⟨0, { mop (.queue 0 0) 2 with writing := true }, zOp ({ mop (.queue 0 0) 2 with writing := true }) [], by decide +kernel⟩,
   ⟨0, zOp ({ mop (.queue 0 0) 2 with writing := true }) [], by decide +kernel⟩,
   ⟨0, 9, { mop (.queue 0 0) 2 with writing := true }, modSlice (zOp ({ mop (.queue 0 0) 2 with writing := true }) []) 0 fun x => { x with devs := 3 }, by decide +kernel⟩,
   ⟨0, z, by decide +kernel⟩,
   ⟨0, 0, mop (.tag 7) 1, cwb [], zOp (mop (.tag 7) 1) [cwb []], by decide +kernel, by decide +kernel, by decide +kernel, by unfold quiet; decide +kernel⟩⟩

/-- States and operands that meet the hypotheses of the clauses of LinksAndOuterCode. -/
theorem meets_LinksAndOuterCode :
    (∃ (n : Fin 8) (s : State), slicePresent s n = true ∧ (s.slice n).psBusy = false)
    ∧ (∃ (n : Fin 8) (s : State), ((s.slice n).psBusy = true ∨ slicePresent s n = false))
    ∧ (∃ (n : Fin 8) (s : State), (s.slice n).psBusy = true ∧ (s.slice n).valid = true ∧ (s.slice n).op = none)
    ∧ (∃ (link : Fin 16) (s : State), (vget s.links link).live.contains .pin = false)
    ∧ (∃ (link : Fin 16) (n : Fin 8) (o : MediaOp) (s : State), (vget s.links link).live.contains .pin = false ∧ sliceOfAct s link = some n ∧ (s.slice n).op = some o ∧ o.d.kind = 2 ∧ o.writing = true ∧ o.ended = false)
    ∧ (∃ (link : Fin 16) (s : State), (vget s.links link).live.contains .pin = true)
    ∧ (∃ (link : Fin 16) (s : State), (vget s.links link).live = [])
    ∧ (∃ (n : Fin 8) (v : Word) (s : State), slicePresent s n = true ∧ v.toNat.testBit 0 = true ∧ (s.slice n).oc = false)
    ∧ (∃ (n : Fin 8) (s : State), slicePresent s n = false)
    ∧ (∃ (n : Fin 8) (table : List Byte) (s0 : List Byte) (s1 : List Byte) (s : State) (s' : State) (s'' : State), (s.slice n).oc = true ∧ busRead s (masterChd n) (rf s (Reg.chdOcrows n) 9 27 * 512) 512 none = (some table, s') ∧ ((ocRows table (rn s' (Reg.chdOcerase n))).any fun w => w.unwritten && w.erased) = false ∧ ocSyndromes s' n (ocRows table (rn s' (Reg.chdOcerase n))) (zeros 4128) (zeros 4128) = (some (s0, s1), s'') ∧ ocDecide (ocRows table (rn s' (Reg.chdOcerase n))) (s''.slice n).ocSingle s0 s1 = .clean)
    ∧ (∃ (n : Fin 8) (s : State) (s' : State), (s.slice n).oc = true ∧ busRead s (masterChd n) (rf s (Reg.chdOcrows n) 9 27 * 512) 512 none = (none, s')) :=
  ⟨⟨0, z, by decide +kernel⟩,
   ⟨0, modSlice z 0 fun x => { x with psBusy := true }, by decide +kernel⟩,
   ⟨0, modSlice z 0 fun x => { x with psBusy := true, valid := true }, by decide +kernel⟩,
   ⟨0, z, by decide +kernel⟩,
   ⟨0, 0, { mop (.queue 0 0) 2 with writing := true }, zOp ({ mop (.queue 0 0) 2 with writing := true }) [], by decide +kernel⟩,
   ⟨0, { z with links := vset z.links 0 { live := [.pin], holding := false, wd := [] } }, by decide +kernel⟩,
   ⟨0, zOp (mop (.queue 0 0) 2) [], by decide +kernel⟩,
   ⟨0, 1, z, by decide +kernel⟩,
   ⟨7, { z with part := { is4804 := true, stepB0 := true } }, by decide +kernel⟩,
   ⟨0, _, _, _, zOuter, _, _, by decide +kernel,
      pair_get [] (busRead zOuter (masterChd 0) (rf zOuter (Reg.chdOcrows 0) 9 27 * 512) 512 none) (by decide +kernel), by decide +kernel,
      pair_eq (zeros 4128, zeros 4128) (ocSyndromes (busRead zOuter (masterChd 0) (rf zOuter (Reg.chdOcrows 0) 9 27 * 512) 512 none).2 0 (ocRows ((busRead zOuter (masterChd 0) (rf zOuter (Reg.chdOcrows 0) 9 27 * 512) 512 none).1.getD []) (rn (busRead zOuter (masterChd 0) (rf zOuter (Reg.chdOcrows 0) 9 27 * 512) 512 none).2 (Reg.chdOcerase 0))) (zeros 4128) (zeros 4128)) (by decide +kernel), rfl⟩,
   ⟨0, { zOuter with ms := z.ms }, _, by decide +kernel, pair_none (busRead ({ zOuter with ms := z.ms }) (masterChd 0) (rf ({ zOuter with ms := z.ms }) (Reg.chdOcrows 0) 9 27 * 512) 512 none) (by decide +kernel)⟩⟩

/-- States and operands that meet the hypotheses of the clauses of MediaOperations. -/
theorem meets_MediaOperations :
    (∃ (k : Nat) (n : Fin 8) (d : Desc) (us : List Nat) (s : State), (tagAt s k).st = .active ∧ (tagAt s k).dead = false ∧ (tagAt s k).aborted = false ∧ cquSlice s n = true ∧ cquStarts s = true ∧ s.cqu.waitOps = [] ∧ s.cqu.q17 = [] ∧ d.kind = 1 ∧ descCheck s d 0 = 0 ∧ descPlaced s d = true ∧ readUnits s (tagAt s k) d = some us ∧ bandAway s d.band = false ∧ opAdmitted s d = true ∧ takenByOther s n (Fin.ofNat 16 d.act) = false ∧ (s.spn (Fin.ofNat 8 (d.act / 2))).st ≠ .stopped)
    ∧ (∃ (k : Nat) (n : Fin 8) (d : Desc) (u : Nat) (s : State), (tagAt s k).st = .active ∧ (tagAt s k).dead = false ∧ (tagAt s k).aborted = false ∧ cquSlice s n = true ∧ cquStarts s = true ∧ s.cqu.waitOps = [] ∧ s.cqu.q17 = [] ∧ d.kind = 2 ∧ isLbaWrite (tagAt s k).cmd.op = false ∧ (tagAt s k).keys ≠ [] ∧ descCheck s d 0 = 0 ∧ descPlaced s d = true ∧ writeUnits s (tagAt s k) d = some u ∧ opAdmitted s d = true ∧ takenByOther s n (Fin.ofNat 16 d.act) = false ∧ (s.spn (Fin.ofNat 8 (d.act / 2))).st ≠ .stopped)
    ∧ (∃ (k : Nat) (d : Desc) (us : List Nat) (s : State), (tagAt s k).st = .active ∧ (tagAt s k).dead = false ∧ (tagAt s k).aborted = false ∧ s.cqu.stopped = false ∧ s.cqu.psStep = 0 ∧ s.cqu.waitOps = [] ∧ s.cqu.q17 = [] ∧ d.kind = 1 ∧ descCheck s d 0 = 4 ∧ descPlaced s d = true ∧ readUnits s (tagAt s k) d = some us ∧ bandAway s d.band = false ∧ opAdmitted s d = true ∧ ((s.spn (Fin.ofNat 8 (d.act / 2))).st = .stopped → spnHears s (Fin.ofNat 8 (d.act / 2)) = true ∧ (s.spn (Fin.ofNat 8 (d.act / 2))).failed = false))
    ∧ (∃ (k : Nat) (d : Desc) (s : State), (tagAt s k).st = .active ∧ (tagAt s k).dead = false ∧ (tagAt s k).aborted = false ∧ s.cqu.stopped = false ∧ s.cqu.psStep = 0 ∧ calm s ∧ s.cqu.waitOps = [] ∧ (tagAt s k).mops = 0 ∧ descCheck s d 0 = 1)
    ∧ (∃ (k : Nat) (n : Fin 8) (o : MediaOp) (s : State), (s.slice n).op = some o ∧ o.src = .tag k ∧ o.ended = true ∧ (s.slice n).bufs = [] ∧ o.d.kind = 1 ∧ s.cqu.waitOps = [] ∧ s.cqu.q17 = [] ∧ 2 ≤ (tagAt s k).mops)
    ∧ (∃ (k : Nat) (n : Fin 8) (o : MediaOp) (s : State), (s.slice n).op = some o ∧ o.src = .tag k ∧ o.ended = true ∧ (s.slice n).bufs = [] ∧ o.d.kind = 1 ∧ s.cqu.waitOps = [] ∧ s.cqu.q17 = [] ∧ (tagAt s k).mops = 1 ∧ (tagAt s k).dead = false ∧ (tagAt s k).aborted = true ∧ calm s)
    ∧ (∃ (k : Nat) (n : Fin 8) (s : State), (∀ o, (s.slice n).op = some o → o.src ≠ .tag k ∨ o.ended = false ∨ (s.slice n).bufs ≠ []))
    ∧ (∃ (n : Fin 8) (a : Nat) (bs : List Byte) (s : State) (s' : State), sliceServes s n = true ∧ rbit s (Reg.chdCtl n) 1 = true ∧ queueHead s n = some a ∧ busRead s (masterChd n) a 64 none = (some bs, s') ∧ slotCheck s' n (s.slice n).act.val (descAt s'.mem a) = 0 ∧ descWaits s' n (descAt s'.mem a) = false)
    ∧ (∃ (n : Fin 8) (a : Nat) (bs : List Byte) (s : State) (s' : State), sliceServes s n = true ∧ rbit s (Reg.chdCtl n) 1 = true ∧ queueHead s n = some a ∧ busRead s (masterChd n) a 64 none = (some bs, s') ∧ slotCheck s' n (s.slice n).act.val (descAt s'.mem a) ≠ 0 ∧ descWaits s' n (descAt s'.mem a) = false)
    ∧ (∃ (n : Fin 8) (a : Nat) (tick : Nat) (d : Desc) (bs : List Byte) (s : State) (s' : State), sliceServes s n = true ∧ cquSlice s n = true ∧ cquStarts s = true ∧ nextOp s n = some (.desc a tick d) ∧ busRead { s with cqu := { s.cqu with q17 := s.cqu.q17.erase (a, tick) } } (masterChd n) a 64 none = (some bs, s') ∧ check17 s' n (descAt s'.mem a) = 0)
    ∧ (∃ (n : Fin 8) (s : State), sliceServes s n = false)
    ∧ (∃ (n : Fin 8) (a : Nat) (bs : List Byte) (s : State) (s' : State), (vget s.queues 16).head? = some a ∧ sliceServes s n = true ∧ busRead (rbitSet (popQueue s 16) Reg.pmuGate n false) (masterChd n) a 64 none = (some bs, s') ∧ (descAt s'.mem a).kind = 3 ∧ descCheck s' (descAt s'.mem a) 0 = 0 ∧ targetZero s' n = false ∧ ((List.range (descAt s'.mem a).count).any fun i => decide ((slotEntry s'.mem (descAt s'.mem a).aux i).rmode ≠ 0) || !(slotEntry s'.mem (descAt s'.mem a).aux i).sampv) = false)
    ∧ (∃ (n : Fin 8) (a : Nat) (bs : List Byte) (s : State) (s' : State), (vget s.queues 16).head? = some a ∧ sliceServes s n = true ∧ busRead (rbitSet (popQueue s 16) Reg.pmuGate n false) (masterChd n) a 64 none = (some bs, s') ∧ (descAt s'.mem a).kind ≠ 3)
    ∧ (∃ (n : Fin 8) (s : State), (vget s.queues 16 = [] ∨ sliceServes s n = false))
    ∧ (∃ (n : Fin 8) (q : Nat) (a : Nat) (o : MediaOp) (s : State), (s.slice n).op = some o ∧ o.src = .queue q a ∧ q ≠ 17 ∧ o.ended = true ∧ (s.slice n).bufs = [] ∧ o.d.kind ≠ 2)
    ∧ (∃ (n : Fin 8) (s : State), (∀ o, (s.slice n).op = some o → (∃ k, o.src = .tag k) ∨ o.ended = false ∨ (s.slice n).bufs ≠ [])) :=
  ⟨⟨0, 0, (mop (.tag 0) 1).d, [16 * chunkKey (nsObject 0) 0, 16 * chunkKey (nsObject 0) 0 + 1], onDisk (zIdle (zOp (mop (.tag 0) 1) [])) rd2 false, by decide +kernel⟩,
   ⟨0, 0, (mop (.tag 0) 2).d, 2, onDisk (zIdle (zOp (mop (.tag 0) 1) [])) st2 true, by decide +kernel⟩,
   ⟨0, (mop (.tag 0) 1).d, [16 * chunkKey (nsObject 0) 0, 16 * chunkKey (nsObject 0) 0 + 1], onDisk (modAct (zIdle (zOp (mop (.tag 0) 1) [])) 0 fun x => { x with st := .parked }) rd2 false, by decide +kernel⟩,
   ⟨0, { (mop (.tag 0) 1).d with band := 2 ^ 44 }, zBoth (zIdle (zOp (mop (.tag 0) 1) [])) (io .read), by unfold calm; decide +kernel⟩,
   ⟨0, 0, { mop (.tag 0) 1 with ended := true }, zBoth (zOp { mop (.tag 0) 1 with ended := true } []) { io .read with mops := 2 }, by decide +kernel⟩,
   ⟨0, 0, { mop (.tag 0) 1 with ended := true }, zBoth (zOp { mop (.tag 0) 1 with ended := true } []) { io .read with mops := 1, aborted := true }, by unfold calm; decide +kernel⟩,
   ⟨0, 0, z, fun o h => by
      have e : (z.slice 0).op = none := by decide +kernel
      rw [e] at h; cases h⟩,
   ⟨0, 0x1000, _, zPost [(0x1000, 1), (0x1004, 2), (0x1014, 0x78), (0x1015, 0x45), (0x1016, 0x01), (0x101C, 0x40), (0x101D, 0x05)], _, by decide +kernel, by decide +kernel, by decide +kernel,
      pair_get [] (busRead (zPost [(0x1000, 1), (0x1004, 2), (0x1014, 0x78), (0x1015, 0x45), (0x1016, 0x01), (0x101C, 0x40), (0x101D, 0x05)]) (masterChd 0) 0x1000 64 none) (by decide +kernel), by decide +kernel, by decide +kernel⟩,
   ⟨0, 0x1000, _, zPost [(0x1000, 9)], _, by decide +kernel, by decide +kernel, by decide +kernel,
      pair_get [] (busRead (zPost [(0x1000, 9)]) (masterChd 0) 0x1000 64 none) (by decide +kernel), by decide +kernel, by decide +kernel⟩,
   ⟨0, 0x1000, 0, descAt (z17 [(0x1000, 1), (0x1004, 2), (0x1014, 0x78), (0x1015, 0x45), (0x1016, 0x01), (0x101C, 0x40), (0x101D, 0x05)]).mem 0x1000, _, z17 [(0x1000, 1), (0x1004, 2), (0x1014, 0x78), (0x1015, 0x45), (0x1016, 0x01), (0x101C, 0x40), (0x101D, 0x05)], _, by decide +kernel, by decide +kernel, by decide +kernel, by decide +kernel,
      pair_get [] (busRead ({ (z17 [(0x1000, 1), (0x1004, 2), (0x1014, 0x78), (0x1015, 0x45), (0x1016, 0x01), (0x101C, 0x40), (0x101D, 0x05)]) with cqu := { (z17 [(0x1000, 1), (0x1004, 2), (0x1014, 0x78), (0x1015, 0x45), (0x1016, 0x01), (0x101C, 0x40), (0x101D, 0x05)]).cqu with q17 := (z17 [(0x1000, 1), (0x1004, 2), (0x1014, 0x78), (0x1015, 0x45), (0x1016, 0x01), (0x101C, 0x40), (0x101D, 0x05)]).cqu.q17.erase (0x1000, 0) } }) (masterChd 0) 0x1000 64 none) (by decide +kernel), by decide +kernel⟩,
   ⟨0, z, by decide +kernel⟩,
   ⟨0, 0x1000, _, zPost [(0x1000, 3), (0x1004, 1), (0x1031, 0x20), (0x2003, 0x20)], _, by decide +kernel, by decide +kernel,
      pair_get [] (busRead (rbitSet (popQueue (zPost [(0x1000, 3), (0x1004, 1), (0x1031, 0x20), (0x2003, 0x20)]) 16) Reg.pmuGate (0 : Fin 8) false) (masterChd 0) 0x1000 64 none) (by decide +kernel), by decide +kernel, by decide +kernel, by decide +kernel, by decide +kernel⟩,
   ⟨0, 0x1000, _, zPost [(0x1000, 9)], _, by decide +kernel, by decide +kernel,
      pair_get [] (busRead (rbitSet (popQueue (zPost [(0x1000, 9)]) 16) Reg.pmuGate (0 : Fin 8) false) (masterChd 0) 0x1000 64 none) (by decide +kernel), by decide +kernel⟩,
   ⟨0, z, by decide +kernel⟩,
   ⟨0, 0, 0, { mop (.queue 0 0) 1 with ended := true }, zOp { mop (.queue 0 0) 1 with ended := true } [], by decide +kernel⟩,
   ⟨0, z, fun o h => by
      have e : (z.slice 0).op = none := by decide +kernel
      rw [e] at h; cases h⟩⟩

/-- States and operands that meet the hypotheses of the clauses of LocusMap. -/
theorem meets_LocusMap :
    (∃ (s : State), rbit s Reg.locCtl 0 = true)
    ∧ (∃ (handle : Nat) (chunk : Nat) (oldLoc : Nat) (oldGenlo : Nat) (s : State), (chunkAt s (chunkKey handle chunk)).count ≠ 0 ∧ (chunkAt s (chunkKey handle chunk)).loc = oldLoc ∧ (chunkAt s (chunkKey handle chunk)).gen % 4096 = oldGenlo % 4096)
    ∧ (∃ (handle : Nat) (chunk : Nat) (oldLoc : Nat) (s : State), (chunkAt s (chunkKey handle chunk)).loc ≠ oldLoc)
    ∧ (∃ (s : State), s.cqu.tags = [] ∧ s.ms.ready = true) :=
  ⟨⟨rsetN z Reg.locCtl 1, by decide +kernel⟩,
   ⟨9, 0, Chunk.absent.loc, Chunk.absent.gen, zChunk { Chunk.absent with count := 1 }, by decide +kernel⟩,
   ⟨9, 0, Chunk.absent.loc + 1, z, by decide +kernel⟩,
   ⟨{ z with ms := { z.ms with ready := true } }, by decide +kernel⟩⟩

/-- States and operands that meet the hypotheses of the clauses of RecoveryAndPatrol. -/
theorem meets_RecoveryAndPatrol :
    (∃ (maddr : Nat) (l : Ladder) (s : State), ladderAt s maddr = some l ∧ l.waiting = false ∧ l.step ≤ 5)
    ∧ (∃ (maddr : Nat) (info : List Byte) (l : Ladder) (s : State), ladderAt s maddr = some l ∧ l.waiting = false ∧ 6 ≤ l.step ∧ recoveredOk s maddr info = true)
    ∧ (∃ (maddr : Nat) (info : List Byte) (l : Ladder) (s : State), ladderAt s maddr = some l ∧ l.waiting = false ∧ 6 ≤ l.step ∧ recoveredOk s maddr info = false)
    ∧ (∃ (maddr : Nat) (l : Ladder) (s : State), ladderAt s maddr = some l ∧ l.waiting = false ∧ l.step < lastStep s)
    ∧ (∃ (maddr : Nat) (key : Nat) (l : Ladder) (s : State), ladderAt s maddr = some l ∧ l.waiting = false ∧ lastStep s ≤ l.step ∧ ownerOf s maddr = some key ∧ (chunkAt s key).staged = false ∧ calm s)
    ∧ (∃ (k : Nat) (m : Nat) (l : Ladder) (s : State), tlerOf s k ≠ 0 ∧ ladderAt s m = some l ∧ l.tags.contains k = true ∧ l.step ≤ 5)
    ∧ (∃ (handle : Nat) (chunk : Nat) (newMaddr : Nat) (s : State), (chunkAt s (chunkKey handle chunk)).count ≠ 0 ∧ (chunkAt s (chunkKey handle chunk)).staged = false ∧ bandTakes s newMaddr (chunkAt s (chunkKey handle chunk)).count = true)
    ∧ (∃ (handle : Nat) (chunk : Nat) (s : State), (chunkAt s (chunkKey handle chunk)).staged = true ∧ tombAt s handle chunk = none)
    ∧ (∃ (i : Fin 8) (band : Nat) (s : State), s.lat.mig.active = false ∧ atSpeed s i = true ∧ band < 2 ^ 21)
    ∧ (∃ (i : Fin 8) (behind : Nat) (s : State), 7 < behind ∧ s.pmu.waitQ = [] ∧ (s.spn i).st = .stopped ∧ s.lat.mig.active = false ∧ spnHears s i = true ∧ (s.spn i).failed = false)
    ∧ (∃ (i : Fin 8) (band : Nat) (s : State), s.obj.readers.contains (i.val, band) = false ∧ (∀ g j, groupOf s i band = some (g, j) → (groupAt s g).st ≠ .rebuild) ∧ dirtyFits s (((chunksInBand s i band).map fun k => 4128 * (chunkAt s k).count).sum) = true)
    ∧ (∃ (rec : SMap Chunk) (s : State), s.obj.pfRecord = some rec ∧ s.ms.ready = true ∧ (rec.map (·.1)).Nodup ∧ (∀ i ∈ zonelessSpindles s, serves s i = false))
    ∧ (∃ (s : State), s.obj.pfRecord = none ∧ rbit s Reg.sysRstcause 5 = true ∧ calm s ∧ (∀ i ∈ zonelessSpindles s, serves s i = false)) :=
  ⟨⟨0, lad 1, { zChunk { Chunk.absent with count := 1, loc := 0 } with ladders := [lad 1] }, by decide +kernel⟩,
   ⟨0, unit9, lad 7, { z with ladders := [lad 7] }, by decide +kernel, by decide +kernel, by decide +kernel, unit9_ok _ _ (by decide +kernel)⟩,
   ⟨0, [1], lad 7, { z with ladders := [lad 7] }, by decide +kernel⟩,
   ⟨0, lad 1, { zChunk { Chunk.absent with count := 1, loc := 0 } with ladders := [lad 1] }, by decide +kernel⟩,
   ⟨0, chunkKey 9 0, lad 7, { zChunk { Chunk.absent with count := 1, loc := 0 } with ladders := [lad 7] }, by unfold calm; decide +kernel⟩,
   ⟨0, 0, lad 1, modPort ({ zChunk { Chunk.absent with count := 1, loc := 0 } with ladders := [lad 1] }) .a fun p => { p with features := [(5, 1)] }, by decide +kernel⟩,
   ⟨9, 0, 0, zChunk { Chunk.absent with count := 1 }, by decide +kernel⟩,
   ⟨9, 0, zChunk { Chunk.absent with staged := true }, by decide +kernel⟩,
   ⟨0, 5, zAct .track, by decide +kernel⟩,
   ⟨0, 8, z, by decide +kernel⟩,
   ⟨0, 5, z, by decide +kernel, fun g j _ => by show GroupState.free ≠ .rebuild; decide, by decide +kernel⟩,
   ⟨[], { z with fmt := { z.fmt with surfaces := [] }, obj := { z.obj with pfRecord := some [] }, ms := { z.ms with ready := true } }, by decide +kernel⟩,
   ⟨rsetN { z with fmt := { z.fmt with surfaces := [] }, obj := z.obj } Reg.sysRstcause 32, by unfold calm; decide +kernel⟩⟩

/-- States and operands that meet the hypotheses of the clauses of FlashTier. -/
theorem meets_FlashTier :
    (∃ (ts : List TargetInfo) (g : Nat) (s : State), s.ms.ready = true ∧ s.fct.ready = false ∧ s.pf.active = false ∧ refGeom ts = some g)
    ∧ (∃ (ts : List TargetInfo) (s : State), s.ms.ready = true ∧ s.fct.ready = false ∧ s.pf.active = false ∧ refGeom ts = none)
    ∧ (∃ (f : Nat) (s : State), s.fct.ready = true ∧ flaValid s f = true ∧ flashAt s f = none)
    ∧ (∃ (f : Nat) (k : Nat) (r : FlashReads) (s : State), s.fct.ready = true ∧ flaValid s f = true ∧ flashAt s f = some k ∧ (slotEnd s (k / 2 ^ 24) (k % 2 ^ 24) r).step ≤ 3)
    ∧ (∃ (f : Nat) (k : Nat) (r : FlashReads) (s : State), s.fct.ready = true ∧ flaValid s f = true ∧ flashAt s f = some k ∧ flaSpace f ≠ 0 ∧ (flaSpace f = 2 → (slotEnd s (k / 2 ^ 24) (k % 2 ^ 24) r).step ≤ 4))
    ∧ (∃ (f : Nat) (k : Nat) (key : Nat) (r : FlashReads) (s : State), s.fct.ready = true ∧ flaValid s f = true ∧ flashAt s f = some k ∧ (slotEnd s (k / 2 ^ 24) (k % 2 ^ 24) r).step = 5 ∧ flaSpace f = 0 ∧ ownerOfFla s f = some key ∧ (chunkAt s key).staged = false ∧ calm s)
    ∧ (∃ (stream : Nat) (n : Nat) (f : Nat) (bs : List Byte) (s : State) (s' : State), mayProgram s stream = true ∧ flaValid s f = true ∧ streamSpace stream = some (flaSpace f) ∧ ensureSb s stream = some (n, s') ∧ 1 ≤ pageRoom s' (sbAt s' n) ∧ (sbAt s' n).slots.length + fDie s.fct.geom ≤ 2 ^ 24 ∧ bs.length = 4128)
    ∧ (∃ (stream : Nat) (n : Nat) (f : Nat) (s : State) (s' : State), mayProgram s stream = true ∧ flaValid s f = true ∧ streamSpace stream = some (flaSpace f) ∧ ensureSb s stream = some (n, s') ∧ 1 ≤ pageRoom s' (sbAt s' n) ∧ quiet s .fct)
    ∧ (∃ (f : Nat) (m : Nat × Nat) (s : State), s.fct.ready = true ∧ s.fct.mode = .retired ∧ flaValid s f = true ∧ flaSpace f ≠ 0 ∧ reservedBand s = some m ∧ bandPtr s m.1 m.2 ≠ 0)
    ∧ (∃ (stream : Nat) (s : State), stream ≠ 15 ∧ mayProgram s stream = false)
    ∧ (∃ (s : State), s.fct.ready = true ∧ s.pf.step3 = false) :=
  ⟨⟨[{ num := 0, pageOk := true, geom := 512 * 2 ^ 32 + 384 * 2 ^ 16 + 10, rate := 0 }], 512 * 2 ^ 32 + 384 * 2 ^ 16 + 10, { z with ms := { z.ms with ready := true } }, by decide +kernel⟩,
   ⟨[], { z with ms := { z.ms with ready := true } }, by decide +kernel⟩,
   ⟨2 ^ 36 + 1, zFlash .open_ none, by decide +kernel⟩,
   ⟨2 ^ 36, 2 ^ 24, { flash0 with hard := [], below := [], above := [], others := false }, zFlash .open_ none, by decide +kernel⟩,
   ⟨2 ^ 36, 2 ^ 24, flash0, zFlash .open_ none, by decide +kernel⟩,
   ⟨5, 2 ^ 24, chunkKey 9 0, { flash0 with hard := [], below := [], above := [], others := false }, zUser, by unfold calm; decide +kernel⟩,
   ⟨1, 1, 2 ^ 36, List.replicate 4128 0, zFlash .open_ none, _, by decide +kernel, by decide +kernel, by decide +kernel, by rfl, by decide +kernel, by decide +kernel, List.length_replicate⟩,
   ⟨1, 1, 2 ^ 36, zFlash .open_ none, _, by decide +kernel, by decide +kernel, by decide +kernel, by rfl, by decide +kernel, by unfold quiet; decide +kernel⟩,
   ⟨2 ^ 36, (0, 0), zRetired, by decide +kernel⟩,
   ⟨1, z, by decide +kernel⟩,
   ⟨zFlash .open_ none, by decide +kernel⟩⟩

/-- States and operands that meet the hypotheses of the clauses of FlashReclaim. -/
theorem meets_FlashReclaim :
    (∃ (die : Fin 256) (s : State), s.fct.ready = true ∧ s.fct.dies.contains die.val = true ∧ dieFailed s die = false ∧ quiet s .fct)
    ∧ (∃ (v : Nat) (s : State), s.fct.ready = true ∧ rbit s Reg.fctCtl 2 = true ∧ s.pf.step3 = false ∧ s.fct.victim = some v ∧ s.fct.folding = false ∧ (sbAt s v).st = .closed ∧ copiesDurable s = true)
    ∧ (∃ (v : Nat) (s : State), s.fct.ready = true ∧ rbit s Reg.fctCtl 2 = true ∧ s.pf.step3 = false ∧ s.fct.victim = none ∧ (∀ e ∈ s.fct.sbs, e.2.st ≠ .unknown) ∧ nextVictim s = some v ∧ (sbAt s v).st = .closed ∧ validFlas s v = [])
    ∧ (∃ (s : State), s.fct.ready = true ∧ rbit s Reg.fctCtl 2 = true ∧ s.pf.step3 = false ∧ s.fct.victim = none ∧ (∀ e ∈ s.fct.sbs, e.2.st ≠ .unknown) ∧ nextVictim s = none)
    ∧ (∃ (v : Nat) (s : State), s.fct.ready = true ∧ rbit s Reg.fctCtl 3 = true ∧ s.pf.step3 = false ∧ s.fct.victim = none ∧ freeSlc s < rf s Reg.fctSlccfg 16 8 ∧ foldVictim s = some v ∧ validFlas s v = [])
    ∧ (∃ (v : Nat) (s : State), s.fct.ready = true ∧ rbit s Reg.fctCtl 3 = true ∧ s.pf.step3 = false ∧ s.fct.victim = some v ∧ s.fct.folding = true ∧ (sbAt s v).st = .closed ∧ copiesDurable s = true)
    ∧ (∃ (s : State), s.fct.ready = true ∧ rbit s Reg.fctCtl 3 = true ∧ s.pf.step3 = false ∧ s.fct.victim = none ∧ rf s Reg.fctSlccfg 16 8 ≤ freeSlc s)
    ∧ (∃ (v : Nat) (s : State), s.fct.victim = some v ∧ (sbAt s v).st = .erasing)
    ∧ (∃ (v : Nat) (m : Nat) (d : Nat) (s : State), s.fct.victim = some v ∧ (sbAt s v).st = .erasing ∧ (sbAt s v).members[m]? = some d ∧ quiet s .fct)
    ∧ (∃ (die : Fin 256) (plane : Fin 4) (block : Nat) (n : Nat) (x : Sb) (r : FlashReads) (s : State), s.fct.ready = true ∧ rbit s Reg.fctCtl 1 = true ∧ s.pf.step3 = false ∧ (s.fct.sbs.find? fun e => e.1 % 16384 = block && e.2.members.contains die.val && e.2.slots ≠ [] && e.2.st ≠ .unknown && e.2.st ≠ .erasing) = some (n, x) ∧ (blockEnd s n ((posOf x.members die.val).getD 0) plane.val 0 r).step = 1) :=
  ⟨⟨0, zFlash .open_ none, by unfold quiet; decide +kernel⟩,
   ⟨1, zFlash .closed (some 1), by decide +kernel⟩,
   ⟨1, { zFlash .closed none with fct := { (zFlash .closed none).fct with weak := [1], map := [] } }, by decide +kernel⟩,
   ⟨zFlash .open_ none, by decide +kernel⟩,
   ⟨1, { zFlash .closed none with fct := { (zFlash .closed none).fct with map := [], geom := 0, sbs := [(1, { { Sb.erased with st := .closed, stream := 1, slots := [2 ^ 36], members := [0, 32, 64] } with stream := 0 })] } }, by decide +kernel⟩,
   ⟨1, { zFlash .closed (some 1) with fct := { (zFlash .closed (some 1)).fct with folding := true } }, by decide +kernel⟩,
   ⟨rsetN (zFlash .closed none) Reg.fctSlccfg 0, by decide +kernel⟩,
   ⟨1, zFlash .erasing (some 1), by decide +kernel⟩,
   ⟨1, 0, 0, zFlash .erasing (some 1), by unfold quiet; decide +kernel⟩,
   ⟨0, 0, 1, 1, { Sb.erased with st := .closed, stream := 1, slots := [2 ^ 36], members := [0, 32, 64] }, { flash0 with hard := [], below := [], above := [], others := false }, zFlash .closed none, by decide +kernel⟩⟩

/-- States and operands that meet the hypotheses of the clauses of MemoryUpkeep. -/
theorem meets_MemoryUpkeep :
    (∃ (s : State), scrubs s = true ∧ eccOf s (scrubWord s.ms.scrubPos) = none)
    ∧ (∃ (s : State), scrubs s = true ∧ scrubWord s.ms.scrubPos < 0x1_0000_0000)
    ∧ (∃ (s : State), scrubs s = true ∧ scrubWord s.ms.scrubPos < 0x1_0000_0000 ∧ quiet s .buf)
    ∧ (∃ (s : State), s.ms.selfref = true ∧ s.ms.ready = false ∧ s.ms.init = false ∧ s.ms.gib ≠ 0)
    ∧ (∃ (v : Word), v.toNat / 2 ^ 16 = 0xC4E5)
    ∧ (∃ (v : Word), v.toNat / 2 ^ 16 ≠ 0xC4E5)
    ∧ (∃ (b : Fin 4) (i : Fin 4) (s : State), vget s.ms.retire (retireIx b i) = none)
    ∧ (∃ (b : Fin 4) (i : Fin 4) (s : State), vget s.ms.retire (retireIx b i) ≠ none)
    ∧ (∃ (b : Fin 4) (i : Fin 4) (p : Nat) (s : State), vget s.ms.retire (retireIx b i) = some (p, true))
    ∧ (∃ (v : Word), v.toNat / 2 ^ 16 = 0xC4E5) :=
  ⟨⟨{ rsetN z Reg.bufCtl 1 with ms := { z.ms with ready := true } }, by decide +kernel⟩,
   ⟨{ rsetN z Reg.bufCtl 1 with ms := { z.ms with ready := true } }, by decide +kernel⟩,
   ⟨{ rsetN z Reg.bufCtl 1 with ms := { z.ms with ready := true } }, by unfold quiet; decide +kernel⟩,
   ⟨{ z with ms := { z.ms with selfref := true, ready := false, init := false, gib := 8 } }, by decide +kernel⟩,
   ⟨0xC4E5_000F, by decide +kernel⟩,
   ⟨0x000F, by decide +kernel⟩,
   ⟨3, 3, z, by decide +kernel⟩,
   ⟨3, 3, { z with ms := { z.ms with retire := vset z.ms.retire (retireIx 3 3) (some (5, true)) } }, by decide +kernel⟩,
   ⟨3, 3, 5, { z with ms := { z.ms with retire := vset z.ms.retire (retireIx 3 3) (some (5, true)) } }, by decide +kernel⟩,
   ⟨0xC4E5_000F, by decide +kernel⟩⟩

/-- States and operands that meet the hypotheses of the clauses of CoreEvents. -/
theorem meets_CoreEvents :
    (∃ (c : Fin 8) (a : Nat) (s : State), atBoundary s c = true ∧ nmtDue s c = false ∧ (s.core c).werr = some a ∧ trapStackFull (s.core c) = false)
    ∧ (∃ (c : Fin 8) (a : Nat) (s : State), atBoundary s c = true ∧ nmtDue s c = false ∧ (s.core c).werr = some a ∧ trapStackFull (s.core c) = true ∧ quiet s .cpc)
    ∧ (∃ (c : Fin 8) (s : State), atBoundary s c = true ∧ nmtDue s c = true)
    ∧ (∃ (c : Fin 8) (n : Nat) (s : State), atBoundary s c = true ∧ nmtDue s c = false ∧ (s.core c).werr = none ∧ bestLine (dropAssigns s) c = some n)
    ∧ (∃ (v : Word), v.toNat / 2 ^ 16 = 0xC4E5)
    ∧ (∃ (v : Word), v.toNat / 2 ^ 16 = 0xC4E5 ∧ v.toNat.testBit 0 = true)
    ∧ (∃ (c : Fin 8) (v : Word) (s : State), v.toNat / 2 ^ 16 = 0xC4E5 ∧ v.toNat.testBit 0 = false ∧ (s.core c).run ≠ .reset)
    ∧ (∃ (v : Word), v.toNat / 2 ^ 16 ≠ 0xC4E5)
    ∧ (∃ (c : Fin 8) (s : State), coreRuns s c = true) :=
  ⟨⟨0, 64, modCore (zCore 0) 0 fun k => { k with werr := some 64 }, by decide +kernel⟩,
   ⟨0, 64, modCore (zCore 0) 0 fun k => { k with werr := some 64, stat := 4 }, by unfold quiet; decide +kernel⟩,
   ⟨0, modCore (zCore 0) 0 fun k => { k with nmt := true }, by decide +kernel⟩,
   ⟨0, 96, zLine, by decide +kernel⟩,
   ⟨0xC4E5_0001, by decide +kernel⟩,
   ⟨0xC4E5_0001, by decide +kernel⟩,
   ⟨0, 0xC4E5_0000, zCore 0, by decide +kernel⟩,
   ⟨1, by decide +kernel⟩,
   ⟨0, zCore 0, by decide +kernel⟩⟩

/-- States and operands that meet the hypotheses of the clauses of MicrocodeImages. -/
theorem meets_MicrocodeImages :
    (∃ (s : State), loadBusy s = false ∧ imgCheck s = 0)
    ∧ (∃ (s : State), loadBusy s = false ∧ imgCheck s ≠ 0)
    ∧ (∃ (s : State), loadBusy s = true)
    ∧ (∃ (sigOk : Bool) (k : Nat) (build : Word) (s : State), s.mcs.load = some (k, build) ∧ mailboxUp s = true ∧ judgeMicrocode s k build.toNat sigOk = 0)
    ∧ (∃ (sigOk : Bool) (k : Nat) (build : Word) (s : State), s.mcs.load = some (k, build) ∧ mailboxUp s = true ∧ judgeMicrocode s k build.toNat sigOk ≠ 0)
    ∧ (∃ (s : State), s.mcs.load.isSome = true) :=
  ⟨⟨zStage stageWord, by decide +kernel⟩,
   ⟨zStage fun _ => 1, by decide +kernel⟩,
   ⟨rsetN z Reg.mcsLoadstat 0x8000_0000, by decide +kernel⟩,
   ⟨true, 1, 5, { z with mcs := { z.mcs with load := some (1, 5) } }, by decide +kernel⟩,
   ⟨false, 1, 5, { z with mcs := { z.mcs with load := some (1, 5) } }, by decide +kernel⟩,
   ⟨{ z with mcs := { z.mcs with load := some (1, 5) } }, by decide +kernel⟩⟩

/-- States and operands that meet the hypotheses of the clauses of DmaTransfers. -/
theorem meets_DmaTransfers :
    (∃ (c : Fin 32) (d : DmaDesc) (s : State), dmaReady s c d 1 ∧ calmBuffer s ∧ d.sw = d.dw ∧ d.len ≠ 0 ∧ d.len % d.sw = 0 ∧ d.src % d.sw = 0 ∧ d.dst % d.sw = 0 ∧ inBuffer s d.src d.len ∧ inBuffer s d.dst d.len ∧ dmaClash s d = false)
    ∧ (∃ (c : Fin 32) (d : DmaDesc) (s : State), dmaReady s c d 2 ∧ calmBuffer s ∧ d.sw = d.esize ∧ d.dw = d.esize ∧ d.idxcnt ≠ 0 ∧ d.aux % 4 = 0 ∧ d.src % d.esize = 0 ∧ d.dst % d.esize = 0 ∧ (∀ i, i < d.idxcnt → inBuffer s ((d.aux + 4 * i) / 64 * 64) 64) ∧ (∀ i, i < d.idxcnt → dmaIndex s d i % d.esize = 0 ∧ inBuffer s (d.src + dmaIndex s d i) d.esize) ∧ inBuffer s d.src 1 ∧ inBuffer s d.dst (d.idxcnt * d.esize) ∧ dmaClash s d = false)
    ∧ (∃ (c : Fin 32) (d : DmaDesc) (s : State), dmaReady s c d 3 ∧ calmBuffer s ∧ d.sw = d.esize ∧ d.dw = d.esize ∧ d.idxcnt ≠ 0 ∧ d.aux % 4 = 0 ∧ d.src % d.esize = 0 ∧ d.dst % d.esize = 0 ∧ (∀ i, i < d.idxcnt → inBuffer s ((d.aux + 4 * i) / 64 * 64) 64) ∧ (∀ i, i < d.idxcnt → dmaIndex s d i % d.esize = 0 ∧ inBuffer s (d.dst + dmaIndex s d i) d.esize) ∧ (∀ i j, i < j → j < d.idxcnt → dmaIndex s d i ≠ dmaIndex s d j) ∧ inBuffer s d.dst 1 ∧ inBuffer s d.src (d.idxcnt * d.esize) ∧ dmaClash s d = false)
    ∧ (∃ (c : Fin 32) (d : DmaDesc) (s : State), dmaReady s c d 4 ∧ calmBuffer s ∧ d.len ≠ 0 ∧ d.len % d.dw = 0 ∧ d.dst % d.dw = 0 ∧ inBuffer s d.dst d.len)
    ∧ (∃ (c : Fin 32) (d : DmaDesc) (s : State), dmaReady s c d 5 ∧ calmBuffer s ∧ d.chain = false ∧ d.len % max d.sw d.dw = 0 ∧ d.src % d.sw = 0 ∧ d.dst % d.dw = 0 ∧ inBuffer s d.src d.len ∧ inBuffer s d.dst d.len) :=
  ⟨⟨0, dsc 0x331 16 0 0, zDma (chan (dsc 0x331 16 0 0)), ⟨by rfl, by decide +kernel, by decide +kernel, by decide +kernel, by decide +kernel, by decide +kernel⟩, ⟨by decide +kernel, fun w => rfl, by decide +kernel⟩, by decide +kernel, by decide +kernel, by decide +kernel, by decide +kernel, by decide +kernel, ⟨by decide +kernel, by decide +kernel⟩, ⟨by decide +kernel, by decide +kernel⟩, by decide +kernel⟩,
   ⟨0, dsc 0x332 0 1 8, zDma (chan (dsc 0x332 0 1 8)), ⟨by rfl, by decide +kernel, by decide +kernel, by decide +kernel, by decide +kernel, by decide +kernel⟩, ⟨by decide +kernel, fun w => rfl, by decide +kernel⟩, by decide +kernel, by decide +kernel, by decide +kernel, by decide +kernel, by decide +kernel, by decide +kernel,
    fun i hi => by
      obtain rfl : i = 0 := Nat.lt_one_iff.mp hi
      exact ⟨by decide +kernel, by decide +kernel⟩,
    fun i hi => by
      obtain rfl : i = 0 := Nat.lt_one_iff.mp hi
      exact ⟨by decide +kernel, by decide +kernel, by decide +kernel⟩,
    ⟨by decide +kernel, by decide +kernel⟩, ⟨by decide +kernel, by decide +kernel⟩, by decide +kernel⟩,
   ⟨0, dsc 0x333 0 1 8, zDma (chan (dsc 0x333 0 1 8)), ⟨by rfl, by decide +kernel, by decide +kernel, by decide +kernel, by decide +kernel, by decide +kernel⟩, ⟨by decide +kernel, fun w => rfl, by decide +kernel⟩, by decide +kernel, by decide +kernel, by decide +kernel, by decide +kernel, by decide +kernel, by decide +kernel,
    fun i hi => by
      obtain rfl : i = 0 := Nat.lt_one_iff.mp hi
      exact ⟨by decide +kernel, by decide +kernel⟩,
    fun i hi => by
      obtain rfl : i = 0 := Nat.lt_one_iff.mp hi
      exact ⟨by decide +kernel, by decide +kernel, by decide +kernel⟩,
    fun i j h hj => absurd (Nat.lt_of_lt_of_le h (Nat.le_of_lt_succ hj)) (Nat.not_lt_zero i),
    ⟨by decide +kernel, by decide +kernel⟩, ⟨by decide +kernel, by decide +kernel⟩, by decide +kernel⟩,
   ⟨0, dsc 0x304 16 0 0, zDma (chan (dsc 0x304 16 0 0)), ⟨by rfl, by decide +kernel, by decide +kernel, by decide +kernel, by decide +kernel, by decide +kernel⟩, ⟨by decide +kernel, fun w => rfl, by decide +kernel⟩, by decide +kernel, by decide +kernel, by decide +kernel, ⟨by decide +kernel, by decide +kernel⟩⟩,
   ⟨0, dsc 0x335 16 0 0, zDma (chan (dsc 0x335 16 0 0)), ⟨by rfl, by decide +kernel, by decide +kernel, by decide +kernel, by decide +kernel, by decide +kernel⟩, ⟨by decide +kernel, fun w => rfl, by decide +kernel⟩, by decide +kernel, by decide +kernel, by decide +kernel, by decide +kernel, ⟨by decide +kernel, by decide +kernel⟩, ⟨by decide +kernel, by decide +kernel⟩⟩⟩

/-- States and operands that meet the hypotheses of the clauses of DmaControl. -/
theorem meets_DmaControl :
    (∃ (c : Fin 32) (v : DWord) (bs : List Byte) (s : State) (s' : State), rbit s Reg.dmaCtl 0 = true ∧ (s.dmaCh c).busy = false ∧ s.pf.step3 = false ∧ dmaTableRegion s (fld v.toNat 6 42 * 64) = true ∧ busRead s (masterDma c) (fld v.toNat 6 42 * 64) 64 none = (some bs, s') ∧ dmaFormatBad s' (dmaParse bs) = false)
    ∧ (∃ (c : Fin 32) (v : DWord) (bs : List Byte) (s : State) (s' : State), rbit s Reg.dmaCtl 0 = true ∧ (s.dmaCh c).busy = false ∧ s.pf.step3 = false ∧ dmaTableRegion s (fld v.toNat 6 42 * 64) = true ∧ busRead s (masterDma c) (fld v.toNat 6 42 * 64) 64 none = (some bs, s') ∧ dmaFormatBad s' (dmaParse bs) = true ∧ quiet s .dma)
    ∧ (∃ (c : Fin 32) (v : DWord) (s : State), rbit s Reg.dmaCtl 0 = true ∧ (s.dmaCh c).busy = false ∧ s.pf.step3 = false ∧ dmaTableRegion s (fld v.toNat 6 42 * 64) = false ∧ quiet s .dma)
    ∧ (∃ (c : Fin 32) (s : State), (s.dmaCh c).busy = true)
    ∧ (∃ (c : Fin 32) (d : DmaDesc) (l : Nat) (s : State), (s.dmaCh c).desc = some d ∧ (s.dmaCh c).readback = some 0 ∧ (s.dmaCh c).lastWr = some l ∧ d.chain = false ∧ (d.dstHost = true ∨ (busRead s (masterDma c) (readbackAddr d l) d.dw none).1.isSome = true))
    ∧ (∃ (c : Fin 32) (d : DmaDesc) (r : Nat) (l : Nat) (s : State), (s.dmaCh c).desc = some d ∧ (s.dmaCh c).readback = some r ∧ (s.dmaCh c).lastWr = some l ∧ quiet s .dma)
    ∧ (∃ (c : Fin 32) (v : Word) (d : DmaDesc) (s : State), v.toNat.testBit 0 = true ∧ (s.dmaCh c).busy = true ∧ (s.dmaCh c).desc = some d ∧ (s.dmaCh c).readback = none ∧ (dmaOpOf d = 5 ∨ dmaHeld s d = true))
    ∧ (∃ (c : Fin 32) (v : Word) (d : DmaDesc) (s : State), v.toNat.testBit 0 = true ∧ dmaReady s c d 4 ∧ calmBuffer s ∧ d.len % d.dw = 0 ∧ d.dst % d.dw = 0 ∧ inBuffer s d.dst d.len)
    ∧ (∃ (c : Fin 32) (v : Word) (d : DmaDesc) (r : Nat) (s : State), v.toNat.testBit 0 = true ∧ (s.dmaCh c).busy = true ∧ (s.dmaCh c).desc = some d ∧ (s.dmaCh c).readback = some r)
    ∧ (∃ (c : Fin 32) (v : Word) (s : State), (v.toNat.testBit 0 = false ∨ (s.dmaCh c).busy = false)) :=
  ⟨⟨0, 0, _, zDma DmaSt.reset, _, by decide +kernel, by decide +kernel, by decide +kernel, by decide +kernel, pair_get [] (busRead (zDma DmaSt.reset) (masterDma 0) (fld (0 : DWord).toNat 6 42 * 64) 64 none) (by decide +kernel), by decide +kernel⟩,
   ⟨0, 64, _, zDma DmaSt.reset, _, by decide +kernel, by decide +kernel, by decide +kernel, by decide +kernel, pair_get [] (busRead (zDma DmaSt.reset) (masterDma 0) (fld (64 : DWord).toNat 6 42 * 64) 64 none) (by decide +kernel), by decide +kernel, by unfold quiet; decide +kernel⟩,
   ⟨0, 0x20_0000_0000, zDma DmaSt.reset, by unfold quiet; decide +kernel⟩,
   ⟨0, zDma (chan (dsc 0x331 16 0 0)), by decide +kernel⟩,
   ⟨0, dsc 0x331 16 0 0, 0x200F, zDma { chan (dsc 0x331 16 0 0) with readback := some 0, lastWr := some 0x200F }, by decide +kernel⟩,
   ⟨0, dsc 0x331 16 0 0, 0, 0x200F, zDma { chan (dsc 0x331 16 0 0) with readback := some 0, lastWr := some 0x200F }, by unfold quiet; decide +kernel⟩,
   ⟨0, 1, dsc 0x335 16 0 0, zDma (chan (dsc 0x335 16 0 0)), by decide +kernel⟩,
   ⟨0, 1, dsc 0x304 16 0 0, zDma (chan (dsc 0x304 16 0 0)), by decide +kernel, ⟨by rfl, by decide +kernel, by decide +kernel, by decide +kernel, by decide +kernel, by decide +kernel⟩, ⟨by decide +kernel, fun w => rfl, by decide +kernel⟩, by decide +kernel, by decide +kernel, ⟨by decide +kernel, by decide +kernel⟩⟩,
   ⟨0, 1, dsc 0x331 16 0 0, 0, zDma { chan (dsc 0x331 16 0 0) with readback := some 0, lastWr := some 0x200F }, by decide +kernel⟩,
   ⟨0, 1, zDma DmaSt.reset, by decide +kernel⟩⟩

/-- States and operands that meet the hypotheses of the clauses of EventRecorder. -/
theorem meets_EventRecorder :
    (∃ (ch : Fin 96) (s : State), ch.val < 88 ∧ rbit s Reg.evrCtl 0 = true ∧ evrChannelPresent s ch.val = true ∧ s.evr.queue.length < 64)
    ∧ (∃ (ch : Fin 96) (s : State), ch.val < 88 ∧ rbit s Reg.evrCtl 0 = true ∧ evrChannelPresent s ch.val = true ∧ 64 ≤ s.evr.queue.length ∧ quiet s .evr)
    ∧ (∃ (s : State), rbit s Reg.evrCtl 0 = false)
    ∧ (∃ (ch : Nat) (v : BitVec 32) (st : Nat × Nat) (rest : List (Nat × BitVec 32 × (Nat × Nat))) (s : State), s.evr.queue = (ch, v, st) :: rest)
    ∧ (∃ (v : DWord) (s : State), 90 ≤ fld v.toNat 32 7 ∧ fld v.toNat 32 7 < 96 ∧ rbit s Reg.evrCtl 0 = true)
    ∧ (∃ (v : DWord) (s : State), 60 ≤ fld v.toNat 32 7 ∧ fld v.toNat 32 7 < 88 ∧ rbit s Reg.evrCtl 0 = true ∧ s.evr.queue.length < 64)
    ∧ (∃ (v : DWord), (fld v.toNat 32 7 < 60 ∨ fld v.toNat 32 7 = 88 ∨ fld v.toNat 32 7 = 89))
    ∧ (∃ (p : Nat × BitVec 32) (rest : List (Nat × BitVec 32)) (s : State), s.evr.fwd = p :: rest ∧ quiet s .evr)
    ∧ (∃ (s : State), rbit s Reg.evrCtl 1 = true ∧ evrCursorCh s < 88 ∧ evrCursorWord s < 45)
    ∧ (∃ (s : State), (rbit s Reg.evrCtl 1 = false ∨ 88 ≤ evrCursorCh s ∨ 45 ≤ evrCursorWord s))
    ∧ (∃ (v : Word), v.toNat / 2 ^ 16 = 0xC4E5) :=
  ⟨⟨87, zEvr 0, by decide +kernel⟩,
   ⟨0, zEvr 64, by unfold quiet; decide +kernel⟩,
   ⟨rsetN z Reg.evrCtl 0, by decide +kernel⟩,
   ⟨5, 7, (0, 0), [], zEvr 1, by decide +kernel⟩,
   ⟨0x5A_0000_0000, zEvr 0, by decide +kernel⟩,
   ⟨0x57_0000_0000, zEvr 0, by decide +kernel⟩,
   ⟨0x58_0000_0000, by decide +kernel⟩,
   ⟨(90, 1), [], zEvr 0, by unfold quiet; decide +kernel⟩,
   ⟨rsetN (zEvr 0) Reg.evrCursor (87 * 256 + 44), by decide +kernel⟩,
   ⟨rsetN (zEvr 0) Reg.evrCursor (88 * 256), by decide +kernel⟩,
   ⟨0xC4E5_0000, by decide +kernel⟩⟩

/-- States and operands that meet the hypotheses of the clauses of Calibration. -/
theorem meets_Calibration :
    (∃ (k : Fin 6) (i : Fin 32) (target : Int) (s : State), calRuns s = true ∧ s.cal.due.any (fun d => d.1 = k.val && d.2.1 = i.val) = true ∧ calGap s k i = true ∧ calFirst s k i = true ∧ trimPresent s k i = true ∧ rbit s Reg.calCtl 1 = false ∧ -(2 ^ (trimWidth k - 1)) ≤ target ∧ target < 2 ^ (trimWidth k - 1))
    ∧ (∃ (k : Fin 6) (i : Fin 32) (target : Int) (s : State), calRuns s = true ∧ s.cal.due.any (fun d => d.1 = k.val && d.2.1 = i.val) = true ∧ calGap s k i = true ∧ calFirst s k i = true ∧ trimPresent s k i = true ∧ 2 ^ (trimWidth k - 1) ≤ target ∧ quiet s .cal)
    ∧ (∃ (v : Word) (s : State), fld v.toNat 0 3 < 6 ∧ trimPresent s (fld v.toNat 0 3) (fld v.toNat 8 6) = true)
    ∧ (∃ (v : Word) (s : State), trimPresent s (fld v.toNat 0 3) (fld v.toNat 8 6) = false)
    ∧ (∃ (s : State), quiet s .cal ∧ rbit s (aFlive .cal) 0 = false) :=
  ⟨⟨4, 0, 511, zCal [(4, 0, 0)], by decide +kernel⟩,
   ⟨4, 0, 512, zCal [(4, 0, 0)], by unfold quiet; decide +kernel⟩,
   ⟨5, z, by decide +kernel⟩,
   ⟨0x0000_2000, z, by decide +kernel⟩,
   ⟨z, by unfold quiet; decide +kernel⟩⟩

/-- States and operands that meet the hypotheses of the clauses of DatumLinks. -/
theorem meets_DatumLinks :
    (∃ (v : Word) (s : State), v.toNat / 2 ^ 16 = 0xC4E5 ∧ v.toNat.testBit 0 = true ∧ s.dtm.busy = false)
    ∧ (∃ (v : Word) (s : State), (v.toNat / 2 ^ 16 ≠ 0xC4E5 ∨ s.dtm.busy = true))
    ∧ (∃ (f : List Byte) (s : State), s.datum.mboxRes = some f ∧ s.dtm.busy = true)
    ∧ (∃ (s : State), s.dtm.busy = true ∧ quiet s .dtm)
    ∧ (∃ (s : State), portHears s = true ∧ s.datum.portReq = none)
    ∧ (∃ (s : State), portHears s = true)
    ∧ (∃ (s : State), portHears s = true)
    ∧ (∃ (s : State), asks s .mailbox 0x01)
    ∧ (∃ (kind : Nat) (s : State), asks s .mailbox 0x02 ∧ (kind = 1 ∨ kind = 2) ∧ quiet s .dtm)
    ∧ (∃ (kind : Nat) (build : Nat) (sigOk : Bool) (s : State), asks s .mailbox 0x02 ∧ (kind = 1 ∨ kind = 2) ∧ quiet s .dtm ∧ judgeMicrocode s kind build sigOk = 0)
    ∧ (∃ (slot : Nat) (offset : Nat) (bytes : List Byte) (s : State), asks s .mailbox 0x03 ∧ quiet s .dtm ∧ slot < 2 ∧ bytes ≠ [] ∧ offset + bytes.length ≤ 2 ^ 21)
    ∧ (∃ (slot : Nat) (img : ImageInfo) (s : State), asks s .mailbox 0x04 ∧ quiet s .dtm ∧ slot < 2 ∧ judge img (vget s.datum.floors 0) = 0)
    ∧ (∃ (s : State), asks s .port 0x10)
    ∧ (∃ (s : State), asks s .mailbox 0x10 ∧ quiet s .dtm)
    ∧ (∃ (s : State), asks s .mailbox 0x11 ∧ quiet s .dtm)
    ∧ (∃ (s : State), asks s .port 0x11)
    ∧ (∃ (src : ReqSrc) (s : State), asks s src 0x12) :=
  ⟨⟨0xC4E5_0001, z, by decide +kernel⟩,
   ⟨1, z, by decide +kernel⟩,
   ⟨[1], { zMbox 1 with datum := { z.datum with mboxRes := some [1] } }, by decide +kernel⟩,
   ⟨zMbox 1, by unfold quiet; decide +kernel⟩,
   ⟨z, by decide +kernel⟩,
   ⟨z, by decide +kernel⟩,
   ⟨z, by decide +kernel⟩,
   ⟨zMbox 0x01, asks_mbox _ _ (by decide +kernel) (by decide +kernel)⟩,
   ⟨1, zMbox 0x02, asks_mbox _ _ (by decide +kernel) (by decide +kernel), by decide +kernel, by unfold quiet; decide +kernel⟩,
   ⟨1, 5, true, zMbox 0x02, asks_mbox _ _ (by decide +kernel) (by decide +kernel), by decide +kernel, by unfold quiet; decide +kernel, by decide +kernel⟩,
   ⟨1, 0x1F_FFFF, [7], zMbox 0x03, asks_mbox _ _ (by decide +kernel) (by decide +kernel), by unfold quiet; decide +kernel, by decide +kernel, by decide +kernel, by decide +kernel⟩,
   ⟨1, img0, zMbox 0x04, asks_mbox _ _ (by decide +kernel) (by decide +kernel), by unfold quiet; decide +kernel, by decide +kernel, by decide +kernel⟩,
   ⟨zPort 0x10, asks_port _ _ (by decide +kernel) (by decide +kernel)⟩,
   ⟨zMbox 0x10, asks_mbox _ _ (by decide +kernel) (by decide +kernel), by unfold quiet; decide +kernel⟩,
   ⟨zMbox 0x11, asks_mbox _ _ (by decide +kernel) (by decide +kernel), by unfold quiet; decide +kernel⟩,
   ⟨zPort 0x11, asks_port _ _ (by decide +kernel) (by decide +kernel)⟩,
   ⟨.port, zPort 0x12, asks_port _ _ (by decide +kernel) (by decide +kernel)⟩⟩

/-- States and operands that meet the hypotheses of the clauses of DatumKeysAndRules. -/
theorem meets_DatumKeysAndRules :
    (∃ (s : State), asks s .mailbox 0x20)
    ∧ (∃ (s : State), asks s .mailbox 0x21 ∧ quiet s .dtm)
    ∧ (∃ (s : State), asks s .mailbox 0x22 ∧ quiet s .dtm)
    ∧ (∃ (s : State), asks s .mailbox 0x30 ∧ quiet s .dtm)
    ∧ (∃ (src : ReqSrc) (s : State), asks s src 0x31)
    ∧ (∃ (src : ReqSrc) (sig : Sig) (s : State), asks s src 0x32 ∧ quiet s .dtm ∧ sigCheck s sig = 0)
    ∧ (∃ (src : ReqSrc) (sig : Sig) (s : State), asks s src 0x32 ∧ sigCheck s sig ≠ 0)
    ∧ (∃ (src : ReqSrc) (sig : Sig) (n : Fin 8) (s : State), asks s src 0x40 ∧ quiet s .dtm ∧ sigCheck s sig = 0 ∧ lowestFree 0 s.datum.rules < 65536 ∧ freeWindow s.datum = some n)
    ∧ (∃ (src : ReqSrc) (sig : Sig) (s : State), asks s src 0x40 ∧ quiet s .dtm ∧ sigCheck s sig = 0 ∧ lowestFree 0 s.datum.rules < 65536 ∧ freeWindow s.datum = none)
    ∧ (∃ (src : ReqSrc) (sig : Sig) (rule : Nat) (until_ : Nat) (s : State), asks s src 0x41 ∧ quiet s .dtm ∧ sigCheck s sig = 0 ∧ ruleInForce (ruleOf s rule) = true ∧ (ruleOf s rule).until_ ≤ until_)
    ∧ (∃ (src : ReqSrc) (sig : Sig) (rule : Nat) (s : State), asks s src 0x42 ∧ quiet s .dtm ∧ sigCheck s sig = 0 ∧ ruleInForce (ruleOf s rule) = true)
    ∧ (∃ (src : ReqSrc) (rule : Nat) (s : State), asks s src 0x43 ∧ rule < 65534)
    ∧ (∃ (rule : Nat) (s : State), asks s .mailbox 0x44 ∧ quiet s .dtm ∧ (ruleOf s rule).st = 1)
    ∧ (∃ (rule : Nat) (s : State), quiet s .dtm ∧ ruleInForce (ruleOf s rule) = true ∧ s.datum.clkvalid = true ∧ (ruleOf s rule).hold = false ∧ (ruleOf s rule).until_ ≤ clockSec s.datum)
    ∧ (∃ (rule : Nat) (s : State), (ruleInForce (ruleOf s rule) = false ∨ s.datum.clkvalid = false ∨ (ruleOf s rule).hold = true ∨ clockSec s.datum < (ruleOf s rule).until_))
    ∧ (∃ (src : ReqSrc) (s : State), asks s src 0x80 ∧ quiet s .dtm) :=
  ⟨⟨zMbox 0x20, asks_mbox _ _ (by decide +kernel) (by decide +kernel)⟩,
   ⟨zMbox 0x21, asks_mbox _ _ (by decide +kernel) (by decide +kernel), by unfold quiet; decide +kernel⟩,
   ⟨zMbox 0x22, asks_mbox _ _ (by decide +kernel) (by decide +kernel), by unfold quiet; decide +kernel⟩,
   ⟨zMbox 0x30, asks_mbox _ _ (by decide +kernel) (by decide +kernel), by unfold quiet; decide +kernel⟩,
   ⟨.port, zPort 0x31, asks_port _ _ (by decide +kernel) (by decide +kernel)⟩,
   ⟨.port, { cseq := 1, valid := true }, zPort 0x32, asks_port _ _ (by decide +kernel) (by decide +kernel), by unfold quiet; decide +kernel, by decide +kernel⟩,
   ⟨.port, { cseq := 1, valid := false }, zPort 0x32, asks_port _ _ (by decide +kernel) (by decide +kernel), by decide +kernel⟩,
   ⟨.port, { cseq := 1, valid := true }, 0, zPort 0x40, asks_port _ _ (by decide +kernel) (by decide +kernel), by unfold quiet; decide +kernel, by decide +kernel, by decide +kernel, by decide +kernel⟩,
   ⟨.port, { cseq := 1, valid := true }, { zPort 0x40 with datum := { (zPort 0x40).datum with rules := (List.range 8).map fun i => (i, { Rule.free with st := 1, window := some (Fin.ofNat 8 i) }) } }, asks_port _ _ (by decide +kernel) (by decide +kernel), by unfold quiet; decide +kernel, by decide +kernel, by decide +kernel, by decide +kernel⟩,
   ⟨.port, { cseq := 1, valid := true }, 3, 5, withRule (zPort 0x41) 1, asks_port _ _ (by decide +kernel) (by decide +kernel), by unfold quiet; decide +kernel, by decide +kernel, by decide +kernel, by decide +kernel⟩,
   ⟨.port, { cseq := 1, valid := true }, 3, withRule (zPort 0x42) 2, asks_port _ _ (by decide +kernel) (by decide +kernel), by unfold quiet; decide +kernel, by decide +kernel, by decide +kernel⟩,
   ⟨.port, 65533, zPort 0x43, asks_port _ _ (by decide +kernel) (by decide +kernel), by decide +kernel⟩,
   ⟨3, withRule (zMbox 0x44) 1, asks_mbox _ _ (by decide +kernel) (by decide +kernel), by unfold quiet; decide +kernel, by decide +kernel⟩,
   ⟨3, withRule z 2, by unfold quiet; decide +kernel⟩,
   ⟨3, z, by decide +kernel⟩,
   ⟨.port, zPort 0x80, asks_port _ _ (by decide +kernel) (by decide +kernel), by unfold quiet; decide +kernel⟩⟩

/-- States and operands that meet the hypotheses of the clauses of DatumTimeAndRecords. -/
theorem meets_DatumTimeAndRecords :
    (∃ (src : ReqSrc) (s : State), asks s src 0x50)
    ∧ (∃ (delta : Int) (used : Int) (s : State), asks s .mailbox 0x51 ∧ quiet s .dtm ∧ used = (if s.datum.adjDay = clockSec s.datum / 86400 then s.datum.adj else 0) ∧ -32768 ≤ used + delta ∧ used + delta ≤ 32768)
    ∧ (∃ (delta : Int) (s : State), asks s .mailbox 0x51 ∧ 32768 < (if s.datum.adjDay = clockSec s.datum / 86400 then s.datum.adj else 0) + delta)
    ∧ (∃ (src : ReqSrc) (sig : Sig) (s : State), asks s src 0x52 ∧ quiet s .dtm ∧ sigCheck s sig = 0)
    ∧ (∃ (opsec : Nat) (pcyc : Nat) (s : State), asks s .mailbox 0x60 ∧ quiet s .dtm ∧ opsec < 2 ^ 64 ∧ pcyc < 2 ^ 32)
    ∧ (∃ (src : ReqSrc) (s : State), asks s src 0x61)
    ∧ (∃ (s : State), asks s .mailbox 0x62 ∧ quiet s .dtm)
    ∧ (∃ (s : State), asks s .port 0x62)
    ∧ (∃ (s : State), asks s .mailbox 0x70)
    ∧ (∃ (src : ReqSrc) (s : State), asks s src 0x71)
    ∧ (∃ (sector : Fin 4096) (s : State), asks s .port 0x90 ∧ (secOf s.datum sector).st = .blank)
    ∧ (∃ (s : State), asks s .mailbox 0x90)
    ∧ (∃ (p : Nat) (s : State), s.datum.portReq = none ∧ firstSec s.datum (· = .interrupted) 0 4096 = some p)
    ∧ (∃ (p : Nat) (s : State), s.datum.portReq = none ∧ firstSec s.datum (· = .interrupted) 0 4096 = some p)
    ∧ (∃ (p : Nat) (s : State) (q : Nat), s.datum.portReq = none ∧ firstSec s.datum (· = .interrupted) 0 4096 = some p ∧ q ≠ p)
    ∧ (∃ (s : State), mailboxUp s = true ∧ s.dtm.events.length < 16)
    ∧ (∃ (s : State), mailboxUp s = false) :=
  ⟨⟨.port, zPort 0x50, asks_port _ _ (by decide +kernel) (by decide +kernel)⟩,
   ⟨32768, 0, zMbox 0x51, asks_mbox _ _ (by decide +kernel) (by decide +kernel), by unfold quiet; decide +kernel, by decide +kernel, by decide +kernel, by decide +kernel⟩,
   ⟨32769, zMbox 0x51, asks_mbox _ _ (by decide +kernel) (by decide +kernel), by decide +kernel⟩,
   ⟨.port, { cseq := 1, valid := true }, zPort 0x52, asks_port _ _ (by decide +kernel) (by decide +kernel), by unfold quiet; decide +kernel, by decide +kernel⟩,
   ⟨5, 5, zMbox 0x60, asks_mbox _ _ (by decide +kernel) (by decide +kernel), by unfold quiet; decide +kernel, by decide +kernel, by decide +kernel⟩,
   ⟨.port, zPort 0x61, asks_port _ _ (by decide +kernel) (by decide +kernel)⟩,
   ⟨zMbox 0x62, asks_mbox _ _ (by decide +kernel) (by decide +kernel), by unfold quiet; decide +kernel⟩,
   ⟨zPort 0x62, asks_port _ _ (by decide +kernel) (by decide +kernel)⟩,
   ⟨zMbox 0x70, asks_mbox _ _ (by decide +kernel) (by decide +kernel)⟩,
   ⟨.port, zPort 0x71, asks_port _ _ (by decide +kernel) (by decide +kernel)⟩,
   ⟨4095, zPort 0x90, asks_port _ _ (by decide +kernel) (by decide +kernel), by decide +kernel⟩,
   ⟨zMbox 0x90, asks_mbox _ _ (by decide +kernel) (by decide +kernel)⟩,
   ⟨9, zSec, by decide +kernel⟩,
   ⟨9, zSec, by decide +kernel⟩,
   ⟨9, zSec, 10, by decide +kernel⟩,
   ⟨z, by decide +kernel⟩,
   ⟨zBoot .off, by decide +kernel⟩⟩

/-- States and operands that meet the hypotheses of the clauses of TestAndTemperature. -/
theorem meets_TestAndTemperature :
    (∃ (opcode : Byte), 6 < opcode.toNat)
    ∧ (∃ (r : Int) (s : State), s.rst.inChipReset = false ∧ quiet s .tst ∧ -2 ^ 15 ≤ r ∧ r < 2 ^ 15)
    ∧ (∃ (r : Int) (s : State), s.rst.inChipReset = false ∧ quiet s .tst ∧ 1840 ≤ r ∧ r < 2 ^ 15 ∧ s.tap.hot = 9 ∧ rbit s (aFlive .tst) 1 = false)
    ∧ (∃ (r : Int) (s : State), s.rst.inChipReset = true ∧ s.rst.tempHold = true ∧ -2 ^ 15 ≤ r ∧ r < 1600) :=
  ⟨⟨7, by decide +kernel⟩,
   ⟨2 ^ 15 - 1, z, by unfold quiet; decide +kernel⟩,
   ⟨1840, { z with tap := { z.tap with hot := 9 } }, by unfold quiet; decide +kernel⟩,
   ⟨1599, { z with rst := { z.rst with inChipReset := true, tempHold := true } }, by decide +kernel⟩⟩

/-- States and operands that meet the hypotheses of the clauses of StateAtReset. -/
theorem meets_StateAtReset :
    (∃ (c : Fin 8), c ≠ 0) :=
  ⟨7, by decide +kernel⟩

/-- States and operands that meet the hypotheses of the clauses of SettledInvariant. -/
theorem meets_SettledInvariant :
    (∃ (s : State) (t : State), Settled s ∧ step s = .next t) :=
  ⟨z, z, by unfold Settled; decide +kernel, rfl⟩

/-- States and operands that meet the hypotheses of the clauses of UnitsAndCodes. -/
theorem meets_UnitsAndCodes :
    (∃ (g : UnitTag) (body : List Byte), g.fits ∧ body.length ≤ 4096)
    ∧ (∃ (g : UnitTag) (body : List Byte), g.fits ∧ body.length ≤ 4096)
    ∧ (∃ (g : UnitTag) (body : List Byte), g.fits ∧ body.length ≤ 4096)
    ∧ (∃ (g : UnitTag) (body : List Byte), g.fits ∧ body.length ≤ 4096)
    ∧ (∃ (c : List Bool), c.length = 33024)
    ∧ (∃ (c : List Bool) (i : Nat), c.length = 33024 ∧ i < 10)
    ∧ (∃ (a : Nat), 0 < a ∧ a < 256)
    ∧ (∃ (a : Nat) (b : Nat), a < 256 ∧ b < 256)
    ∧ (∃ (a : Nat) (b : Nat), a < 256 ∧ b < 256) :=
  ⟨⟨{ handle := 2 ^ 40 - 1, chunk := 2 ^ 40 - 1, unit := 15, units := 16, flags := 255, gen := 1, wseq := 2 ^ 56 - 1, keyep := 255, clenm1 := 65535 }, [], by unfold UnitTag.fits; decide +kernel⟩,
   ⟨{ handle := 2 ^ 40 - 1, chunk := 2 ^ 40 - 1, unit := 15, units := 16, flags := 255, gen := 1, wseq := 2 ^ 56 - 1, keyep := 255, clenm1 := 65535 }, [], by unfold UnitTag.fits; decide +kernel⟩,
   ⟨{ handle := 2 ^ 40 - 1, chunk := 2 ^ 40 - 1, unit := 15, units := 16, flags := 255, gen := 1, wseq := 2 ^ 56 - 1, keyep := 255, clenm1 := 65535 }, [], by unfold UnitTag.fits; decide +kernel⟩,
   ⟨{ handle := 2 ^ 40 - 1, chunk := 2 ^ 40 - 1, unit := 15, units := 16, flags := 255, gen := 1, wseq := 2 ^ 56 - 1, keyep := 255, clenm1 := 65535 }, [], by unfold UnitTag.fits; decide +kernel⟩,
   ⟨List.replicate 33024 false, List.length_replicate⟩,
   ⟨List.replicate 33024 false, 9, List.length_replicate, by decide⟩,
   ⟨255, by decide +kernel⟩,
   ⟨255, 255, by decide +kernel⟩,
   ⟨255, 255, by decide +kernel⟩⟩

/-- States and operands that meet the hypotheses of the clauses of ParityLayout. -/
theorem meets_ParityLayout :
    (∃ (s : State) (spindle : Nat) (band : Nat) (g : Nat) (j : Nat), groupOf s spindle band = some (g, j))
    ∧ (∃ (s : State) (spindle : Nat) (band : Nat) (g : Nat) (j : Nat), groupOf s spindle band = some (g, j))
    ∧ (∃ (s : State) (spindle : Nat) (band : Nat) (g : Nat) (j : Nat), groupOf s spindle band = some (g, j))
    ∧ (∃ (s : State) (spindle : Nat) (band : Nat) (g : Nat) (j : Nat), groupOf s spindle band = some (g, j))
    ∧ (∃ (s : State) (g : Nat) (j : Nat), g < groupCount s ∧ j < groupW s)
    ∧ (∃ (s : State) (i : Nat) (j : Nat), groupW s ≤ (spindleList s).length ∧ i < groupW s ∧ j < groupW s ∧ i ≠ j)
    ∧ (∃ (s : State) (r : Nat), r < groupW s)
    ∧ (∃ (s : State) (r : Nat), r < groupW s)
    ∧ (∃ (s : State) (j : Nat), j < groupW s)
    ∧ (∃ (q : Nat), q < 67652)
    ∧ (∃ (q : Nat), q < 67652)
    ∧ (∃ (q : Nat), q < 67652)
    ∧ (∃ (g : Nat) (r : Nat) (q : Nat), g < 1058 ∧ r < 64 ∧ outerSlot g r = some q)
    ∧ (∃ (g : Nat) (r : Nat) (q : Nat), g < 1058 ∧ r < 64 ∧ outerSlot g r = some q)
    ∧ (∃ (g : Nat) (r : Nat) (q : Nat), g < 1058 ∧ r < 64 ∧ outerSlot g r = some q) :=
  ⟨⟨z, 7, 2097151, 2097151, 7, by decide +kernel⟩,
   ⟨z, 7, 2097151, 2097151, 7, by decide +kernel⟩,
   ⟨z, 7, 2097151, 2097151, 7, by decide +kernel⟩,
   ⟨z, 7, 2097151, 2097151, 7, by decide +kernel⟩,
   ⟨z, 2097151, 7, by decide +kernel⟩,
   ⟨z, 0, 7, by decide +kernel⟩,
   ⟨z, 7, by decide +kernel⟩,
   ⟨z, 7, by decide +kernel⟩,
   ⟨z, 7, by decide +kernel⟩,
   ⟨67651, by decide +kernel⟩,
   ⟨67651, by decide +kernel⟩,
   ⟨67651, by decide +kernel⟩,
   ⟨1057, 63, 67651, by decide +kernel⟩,
   ⟨1057, 63, 67651, by decide +kernel⟩,
   ⟨1057, 63, 67651, by decide +kernel⟩⟩

/-- States and operands that meet the hypotheses of the clauses of OuterCodeSpread. -/
theorem meets_OuterCodeSpread :
    (∃ (n : Nat), wedgebitsValid n = true)
    ∧ (∃ (n : Nat), wedgebitsValid n = true)
    ∧ (∃ (n : Nat), wedgebitsValid n = true)
    ∧ (∃ (n : Nat) (k : Nat), wedgebitsValid n = true ∧ 67652 ≤ k * slotsPerTrack n)
    ∧ (∃ (a : Nat) (b : Nat), a < b ∧ b < 67652 ∧ outerGroup a = outerGroup b)
    ∧ (∃ (a : Nat) (b : Nat) (c : Nat), a < b ∧ b < c ∧ c < 67652 ∧ outerGroup a = outerGroup b ∧ outerGroup b = outerGroup c)
    ∧ (∃ (q : Nat) (n : Nat), n ≤ 2055 ∧ q + n ≤ 67652) :=
  ⟨⟨83320, by decide +kernel⟩,
   ⟨83320, by decide +kernel⟩,
   ⟨17380, by decide +kernel⟩,
   ⟨83320, 51, by decide +kernel⟩,
   ⟨64538, 65536, by decide +kernel⟩,
   ⟨64538, 65536, 66594, by decide +kernel⟩,
   ⟨65597, 2055, by decide +kernel⟩⟩

/-- Forms and states that meet the hypotheses of CoreArithmetic, the same for every instruction that it names. -/
theorem meets_CoreArithmetic :
    (∃ (c : Fin 8) (o : RForm) (s : State), canExecute s c = true ∧ o.rsv = 0 ∧ o.rb = 0)
    ∧ (∃ (c : Fin 8) (o : RForm) (s : State), canExecute s c = true ∧ o.rsv ≠ 0 ∧ trapStackFull ((fetched s c).core c) = false)
    ∧ (∃ (c : Fin 8) (s : State), coreRuns s c = true ∧ boundaryDue s c = false ∧ (fetchAt s c (s.core c).pc.toNat).1 = false
        ∧ inTrapTable ((fetched s c).core c) (s.core c).pc.toNat = false ∧ trapStackFull ((fetched s c).core c) = false)
    ∧ (∃ (c : Fin 8) (s : State), coreRuns s c = false)
    ∧ (∃ (c : Fin 8) (o : ShForm) (s : State), canExecute s c = true ∧ o.rsv ≠ 0 ∧ trapStackFull ((fetched s c).core c) = false)
    ∧ (∃ (c : Fin 8) (o : FForm) (s : State), canExecute s c = true ∧ o.pos.toNat + o.lenm1.toNat + 1 ≤ 64)
    ∧ (∃ (c : Fin 8) (o : FForm) (s : State), canExecute s c = true ∧ 64 < o.pos.toNat + o.lenm1.toNat + 1 ∧ trapStackFull ((fetched s c).core c) = false) :=
  ⟨⟨0, r0, zCore 0, by decide +kernel⟩,
   ⟨0, { r0 with rsv := 1 }, zCore 0, by decide +kernel⟩,
   ⟨0, modCore (zCore 0) 0 fun k => { k with pc := 0x20_0000_0000 }, by decide +kernel⟩,
   ⟨1, zCore 0, by decide +kernel⟩,
   ⟨0, { rd := 1, ra := 0, rsv := 1, cnt := 63 }, zCore 0, by decide +kernel⟩,
   ⟨0, { rd := 1, ra := 0, lenm1 := 31, pos := 32 }, zCore 0, by decide +kernel⟩,
   ⟨0, { rd := 1, ra := 0, lenm1 := 32, pos := 32 }, zCore 0, by decide +kernel⟩⟩

/-- Forms and states that meet the hypotheses of CoreMemory. -/
theorem meets_CoreMemory :
    (∃ (c : Fin 8) (o : IForm) (e : MemEv) (s : State), canExecute s c = true ∧ (gAt (fetched s c) c o.ra + o.imm.signExtend 64).toNat % 8 = 0
        ∧ plainBuffer (fetched s c) c (gAt (fetched s c) c o.ra + o.imm.signExtend 64).toNat 8 ∧ e.upset = none ∧ rbit (fetched s c) Reg.bufInject 0 = false)
    ∧ (∃ (c : Fin 8) (o : IForm) (e : MemEv) (s : State) (x : Line), canExecute s c = true ∧ (gAt (fetched s c) c o.ra + o.imm.signExtend 64).toNat % 8 = 0
        ∧ cachedAt (fetched s c) (gAt (fetched s c) c o.ra + o.imm.signExtend 64).toNat = true ∧ cacheOn (fetched s c) c false = true
        ∧ lineAt ((fetched s c).core c).dcache ((gAt (fetched s c) c o.ra + o.imm.signExtend 64).toNat / 64) = some x ∧ e.parity = false
        ∧ x.valid.toNat.testBit ((gAt (fetched s c) c o.ra + o.imm.signExtend 64).toNat % 64 / 16) = true)
    ∧ (∃ (c : Fin 8) (o : IForm) (e : MemEv) (s : State), canExecute s c = true ∧ (gAt (fetched s c) c o.ra + o.imm.signExtend 64).toNat % 2 ≠ 0 ∧ e.upset = none ∧ trapStackFull ((fetched s c).core c) = false)
    ∧ (∃ (c : Fin 8) (o : IForm) (e : MemEv) (s : State), canExecute s c = true ∧ (gAt (fetched s c) c o.ra + o.imm.signExtend 64).toNat % 8 = 0
        ∧ regionOf (fetched s c) (gAt (fetched s c) c o.ra + o.imm.signExtend 64).toNat = .none ∧ e.upset = none
        ∧ trapStackFull ((fetched s c).core c) = false ∧ quiet (fetched s c) .sys)
    ∧ (∃ (c : Fin 8) (o : RForm) (b : Fin 4) (s : State), canExecute s c = true ∧ o.rsv = 0 ∧ (gAt (fetched s c) c o.ra).toNat % 8 = 0
        ∧ regionOf (fetched s c) (gAt (fetched s c) c o.ra).toNat = .spd b ∧ b ≠ 0 ∧ inService (fetched s c) (gAt (fetched s c) c o.ra).toNat (.spd b) = true
        ∧ votedGroup ((gAt (fetched s c) c o.ra).toNat / 16) = none ∧ eccOf (fetched s c) ((gAt (fetched s c) c o.ra).toNat / 16) = none
        ∧ injectReg (fetched s c) ((gAt (fetched s c) c o.ra).toNat / 16) = none)
    ∧ (∃ (c : Fin 8) (o : RForm) (s : State), canExecute s c = true ∧ o.rsv = 0 ∧ (gAt (fetched s c) c o.ra).toNat % 4 ≠ 0 ∧ trapStackFull ((fetched s c).core c) = false)
    ∧ (∃ (c : Fin 8) (o : RForm) (s : State), canExecute s c = true ∧ o.rsv = 0 ∧ (gAt (fetched s c) c o.ra).toNat % 8 = 0
        ∧ regionOf (fetched s c) (gAt (fetched s c) c o.ra).toNat = .buf ∧ trapStackFull ((fetched s c).core c) = false ∧ quiet (fetched s c) .sys) :=
  ⟨⟨0, i0 0x2000, noEv, zCore 0, by unfold plainBuffer; decide +kernel⟩,
   ⟨0, i0 0x2038, noEv, zHit, ln, by decide +kernel⟩,
   ⟨0, i0 0x2001, noEv, zCore 0, by decide +kernel⟩,
   ⟨0, i0 0x8000, noEv, zCore 0, by unfold quiet; decide +kernel⟩,
   ⟨0, { r0 with ra := 1 }, 1, zAtom 0x10_0020_1000, by decide +kernel⟩,
   ⟨0, { r0 with ra := 1 }, zAtom 2, by decide +kernel⟩,
   ⟨0, { r0 with ra := 1 }, zAtom 0x2000, by unfold quiet; decide +kernel⟩⟩

/-- Forms and states that meet the hypotheses of CoreMaintenance. -/
theorem meets_CoreMaintenance :
    (∃ (c : Fin 8) (o : RForm) (s : State), canExecute s c = true ∧ o.rsv = 0 ∧ o.rd = 0 ∧ o.ra = 0 ∧ o.rb = 0)
    ∧ (∃ (c : Fin 8) (o : RForm) (s : State), canExecute s c = true ∧ o.ra ≠ 0 ∧ trapStackFull ((fetched s c).core c) = false)
    ∧ (∃ (c : Fin 8) (s : State), canExecute s c = true ∧ cacheOn (fetched s c) c false = false ∧ cacheOn (fetched s c) c true = false)
    ∧ (∃ (c : Fin 8) (o : CForm) (s : State) (x : Line), canExecute s c = true ∧ cachedAt (fetched s c) (effAddr (fetched s c) c o.ra o.imm) = true ∧ cacheOn (fetched s c) c false = true
        ∧ cacheOn (fetched s c) c true = true ∧ lineAt ((fetched s c).core c).dcache (effAddr (fetched s c) c o.ra o.imm / 64) = some x) :=
  ⟨⟨0, r0, zCore 0, by decide +kernel⟩,
   ⟨0, { r0 with ra := 1 }, zCore 0, by decide +kernel⟩,
   ⟨0, zCore 0, by decide +kernel⟩,
   ⟨0, { ra := 0, imm := 0x2000 }, zHit, ln, by decide +kernel⟩⟩

/-- Forms and states that meet the hypotheses of CoreControl. -/
theorem meets_CoreControl :
    (∃ (c : Fin 8) (s : State), canExecute s c = true)
    ∧ (∃ (c : Fin 8) (o : BForm) (s : State), canExecute s c = true ∧ o.ra = 0 ∧ o.rb = 0) :=
  ⟨⟨0, zCore 0, by decide +kernel⟩,
   ⟨0, { ra := 0, rb := 0, off := 0x8000 }, zCore 0, by decide +kernel⟩⟩

/-- Forms and states that meet the hypotheses of CoreSystem. -/
theorem meets_CoreSystem :
    (∃ (c : Fin 8) (o : RForm) (s : State) (v : DWord), canExecute s c = true ∧ sprRead (fetched s c) c o.rb.toNat = some v ∧ o.rsv = 0 ∧ o.ra = 0)
    ∧ (∃ (c : Fin 8) (o : RForm) (s : State), canExecute s c = true ∧ sprRead (fetched s c) c o.rb.toNat = none ∧ trapStackFull ((fetched s c).core c) = false)
    ∧ (∃ (c : Fin 8) (o : RForm) (s : State) (k : CoreSt), canExecute s c = true ∧ sprWrite ((fetched s c).core c) o.rb.toNat (gAt (fetched s c) c o.ra) = some k
        ∧ o.rsv = 0 ∧ o.rd = 0)
    ∧ (∃ (c : Fin 8) (o : RForm) (s : State), canExecute s c = true ∧ sprWrite ((fetched s c).core c) o.rb.toNat (gAt (fetched s c) c o.ra) = none ∧ trapStackFull ((fetched s c).core c) = false)
    ∧ (∃ (c : Fin 8) (o : RForm) (s : State), canExecute s c = true ∧ o.rsv = 0 ∧ o.rd = 0 ∧ o.ra = 0 ∧ trapStackFull ((fetched s c).core c) = false)
    ∧ (∃ (c : Fin 8) (o : RForm) (s : State), canExecute s c = true ∧ o.rsv = 0 ∧ o.rd = 0 ∧ o.ra = 0 ∧ o.rb = 0 ∧ statDepth ((fetched s c).core c) ≠ 0)
    ∧ (∃ (c : Fin 8) (o : RForm) (s : State), canExecute s c = true ∧ o.rsv = 0 ∧ o.rd = 0 ∧ o.ra = 0 ∧ o.rb = 0 ∧ statDepth ((fetched s c).core c) = 0 ∧ trapStackFull ((fetched s c).core c) = false)
    ∧ (∃ (c : Fin 8) (o : RForm) (s : State), canExecute s c = true ∧ o.rsv = 0 ∧ (fetched s c).pf.step3 = true)
    ∧ (∃ (c : Fin 8) (o : XForm) (s : State), canExecute s c = true ∧ o.rsv = 0 ∧ rbit (fetched s c) (Reg.mcsXopent o.xop.toNat) 15 = false ∧ trapStackFull ((fetched s c).core c) = false)
    ∧ (∃ (c : Fin 8) (o : XForm) (v : DWord) (s : State), canExecute s c = true ∧ o.rsv = 0 ∧ rbit (fetched s c) (Reg.mcsXopent o.xop.toNat) 15 = true
        ∧ copyOk (fetched s c) c (overlay (fetched s c) (0x3800 + rf (fetched s c) (Reg.mcsXopent o.xop.toNat) 0 11)) = true
        ∧ uf (csWord (fetched s c) (overlay (fetched s c) (0x3800 + rf (fetched s c) (Reg.mcsXopent o.xop.toNat) 0 11))) 71 4 = 1 ∧ uf (csWord (fetched s c) (overlay (fetched s c) (0x3800 + rf (fetched s c) (Reg.mcsXopent o.xop.toNat) 0 11))) 67 4 = 2
        ∧ uf (csWord (fetched s c) (overlay (fetched s c) (0x3800 + rf (fetched s c) (Reg.mcsXopent o.xop.toNat) 0 11))) 63 4 = 3 ∧ uf (csWord (fetched s c) (overlay (fetched s c) (0x3800 + rf (fetched s c) (Reg.mcsXopent o.xop.toNat) 0 11))) 60 3 = 0
        ∧ uf (csWord (fetched s c) (overlay (fetched s c) (0x3800 + rf (fetched s c) (Reg.mcsXopent o.xop.toNat) 0 11))) 53 4 = 0 ∧ uf (csWord (fetched s c) (overlay (fetched s c) (0x3800 + rf (fetched s c) (Reg.mcsXopent o.xop.toNat) 0 11))) 34 3 = 3
        ∧ microAlu (csWord (fetched s c) (overlay (fetched s c) (0x3800 + rf (fetched s c) (Reg.mcsXopent o.xop.toNat) 0 11))) (gAt (fetched s c) c o.ra) (gAt (fetched s c) c o.rb) = some v) :=
  ⟨⟨0, { r0 with rb := 8 }, zCore 0, 0, by decide +kernel⟩,
   ⟨0, { r0 with rb := 21 }, zCore 0, by decide +kernel⟩,
   ⟨0, { r0 with rb := 7 }, zCore 0, _, by decide +kernel, rfl, by decide +kernel⟩,
   ⟨0, { r0 with rb := 8 }, zCore 0, by decide +kernel⟩,
   ⟨0, r0, zCore 0, by decide +kernel⟩,
   ⟨0, r0, modCore (zCore 0) 0 fun k => { k with stat := 2 }, by decide +kernel⟩,
   ⟨0, r0, zCore 0, by decide +kernel⟩,
   ⟨0, r0, { zCore 0 with pf := { z.pf with active := true, step3 := true } }, by decide +kernel⟩,
   ⟨0, { rd := 1, ra := 0, rb := 0, rsv := 0, xop := 255 }, zCore 0, by decide +kernel⟩,
   ⟨0, { rd := 1, ra := 0, rb := 0, rsv := 0, xop := 0 }, 0, zXop, by decide +kernel⟩⟩

/-- States that meet the hypotheses of TestAndTemperature on the pins. -/
theorem meets_TestAndTemperature_pins : (∃ s : State, s.rst.pinLow = true ∧ s.rst.inChipReset = true) ∧ ∃ s : State, s.rst.pinLow = false ∨ s.rst.inChipReset = false :=
  ⟨⟨{ z with rst := { z.rst with pinLow := true, inChipReset := true } }, by decide +kernel⟩, ⟨z, by decide +kernel⟩⟩

/-- The check values of R168 over the ASCII string 123456789. -/
theorem test_check_codes :
    crc32c [0x31, 0x32, 0x33, 0x34, 0x35, 0x36, 0x37, 0x38, 0x39] = 0xE306_9283
      ∧ crc16 [0x31, 0x32, 0x33, 0x34, 0x35, 0x36, 0x37, 0x38, 0x39] = 0x29B1 := by decide +kernel

/-- The entries that R209 gives as a check: columns 0 and 85 of the parity-check matrix. -/
theorem test_ldpc_entries :
    [(0, 0), (3, 0), (7, 0), (2, 85), (5, 85), (8, 85)].map (fun e => (ldpcRow e.1 e.2, ldpcShift e.1 e.2))
      = [(true, 11), (true, 44), (true, 88), (true, 327), (true, 270), (true, 213)] := by decide +kernel

/-- The identification codes worked out in R604. -/
theorem test_idcode :
    idCode { z with part := { is4804 := false, stepB0 := true } } = 0x1480_8597
      ∧ idCode { z with part := { is4804 := true, stepB0 := true } } = 0x1480_4597 := by decide +kernel

/-- S and T of the zones of R192, from N. -/
theorem test_reference_zones :
    [83320, 76340, 69960, 64580, 59140, 53880, 48880, 44300].map (fun n => (slotsPerTrack n, tracksPerBand (slotsPerTrack n)))
      = [(1344, 51), (1231, 55), (1128, 60), (1041, 65), (953, 71), (868, 78), (787, 86), (713, 95)] := by decide +kernel

/-- A trap of cause n goes to TBASE + 0x40 × n, one level deeper (R467, R469). -/
theorem test_trap_vector :
    (enterTrap { CoreSt.reset .running with pc := 0x2000, tbase := 0x10_0000_0000 } causeTrap (256 * 9) 0 none).pc = 0x10_0000_0140
      ∧ (enterTrap { CoreSt.reset .running with pc := 0x2000, tbase := 0x10_0000_0000 } causeTrap (256 * 9) 0 none).f0.cause = 0x905 := by
  decide +kernel

/-- The table gives no command a word. -/
theorem test_no_words : decodeTableWord 16 0 = none ∧ z.withFetchWord 16 0 = z := by decide +kernel

/-- What the first of the cases of SliceSlots on the laser loop asks of the deviation: fewer than three, or none. -/
theorem meets_SliceSlots_laser :
    (∃ s : State, writingNow (s.slice 0) = true ∧ (s.slice 0).devs < 3)
    ∧ ∃ (mon : Nat) (s : State), writingNow (s.slice 0) = true ∧ (s.slice 0).devs = 3
        ∧ ¬ profNat (s.slice 0).prof 0x11 1 < ((profNat (s.slice 0).prof 0x10 1 : Int) - (mon % 256 : Nat)).natAbs :=
  ⟨⟨zOp { mop (.queue 0 0) 2 with writing := true } [], by decide +kernel⟩,
   ⟨0, modSlice (zOp { mop (.queue 0 0) 2 with writing := true } []) 0 fun x => { x with devs := 3 }, by decide +kernel⟩⟩

def log0 : LogArgs := { rae := true, lpo := 1, csi := 1 }
def id0 : IdArgs := { cns := 1, csi := 1 }
def feat0 : FeatArgs := { fid := 1, cdw11 := 1 }
def sig0 : Sig := { cseq := 0, valid := true }
def badSig : Sig := { cseq := 2 ^ 64, valid := true }
def badRotor : RotorObs := { still with amp := 2 ^ 16 }
def badComm : CommEv := { comm true with interval := 2 ^ 32 }
def badSample : ServoSample := { noSample with cells := [] }
def badCmd : HostCmd := { HostCmd.none with nsid := 2 ^ 32 }
def badDesc : Desc := { (mop (.tag 0) 1).d with kind := 16 }
def noSeg : SegEv := { window := [], rsErr := [], sat := 0, bits := [] }
def noBit : BitEv := { a := 0, b := 0, d := false, e := 0, pa := 0, pb := 0 }
def badSlot : SlotEv := { slotEv with segs := [{ noSeg with window := [true] }] }
def badNor : NorEv := { pulses := [25], fail := false }
def badImg : ImageInfo := { img0 with build := 2 ^ 32 }

/-- WellFormed refuses a part with a field outside its range, one term for each check. -/
theorem test_wellFormed_parts :
    ([{ still with amp := 2 ^ 16 }, { still with spd := 2 ^ 18 }, { still with adv := 2 ^ 16 }].any wfRotor) = false ∧ wfRotor (still) = true
    ∧ ([{ comm true with interval := 2 ^ 32 }, { comm true with amp := 2 ^ 16 }, { comm true with dev := 181 }, { comm true with obsSpd := 2 ^ 24 }, { comm true with obsAmp := 2 ^ 16 }].any wfComm) = false ∧ wfComm (comm true) = true
    ∧ ([{ noSample with cells := [] }, { noSample with a := 2 ^ 16 }, { noSample with b := -65536 }].any wfSample) = false ∧ wfSample (noSample) = true
    ∧ ([{ HostCmd.none with nsid := 2 ^ 32 }, { HostCmd.none with cid := 2 ^ 16 }, { HostCmd.none with slba := 2 ^ 64 }, { HostCmd.none with nlb := 2 ^ 32 }, { HostCmd.none with ranges := List.replicate 257 (0, 0) }, { HostCmd.none with key := zeros 17 }, { HostCmd.none with opts := 256 }, { HostCmd.none with prp := 2 ^ 64 }, { HostCmd.none with prp2 := 2 ^ 64 }].any wfHostCmd) = false ∧ wfHostCmd (HostCmd.none) = true
    ∧ ([{ (mop (.tag 0) 1).d with kind := 16 }, { (mop (.tag 0) 1).d with act := 16 }, { (mop (.tag 0) 1).d with profile := 1024 }, { (mop (.tag 0) 1).d with count := 2 ^ 32 }, { (mop (.tag 0) 1).d with band := 2 ^ 64 }, { (mop (.tag 0) 1).d with slot := 2 ^ 32 }, { (mop (.tag 0) 1).d with wedgebits := 2 ^ 32 }, { (mop (.tag 0) 1).d with firstTrack := 2 ^ 32 }, { (mop (.tag 0) 1).d with slots := 2 ^ 16 }, { (mop (.tag 0) 1).d with head := 256 }, { (mop (.tag 0) 1).d with data := 2 ^ 64 }, { (mop (.tag 0) 1).d with status := 2 ^ 64 }, { (mop (.tag 0) 1).d with aux := 2 ^ 64 }, { (mop (.tag 0) 1).d with vstatus := 2 ^ 64 }].any wfDesc) = false ∧ wfDesc ((mop (.tag 0) 1).d) = true
    ∧ ([{ noSeg with window := [true] }, { noSeg with rsErr := [0] }, { noSeg with bits := [{ noBit with a := 64 }] }, { noSeg with bits := [{ noBit with a := -65 }] }, { noSeg with bits := [{ noBit with b := 64 }] }, { noSeg with bits := [{ noBit with b := -65 }] }].any wfSeg) = false ∧ wfSeg (noSeg) = true
    ∧ ([{ slotEv with segs := [{ noSeg with window := [true] }] }].any wfSlotEv) = false ∧ wfSlotEv (slotEv) = true
    ∧ ([{ img0 with build := 2 ^ 32 }, { img0 with length := 2 ^ 32 }, { img0 with loadoff := 2 ^ 32 }, { img0 with entry := 2 ^ 64 }].any wfImage) = false ∧ wfImage (img0) = true
    ∧ ([{ nor with pulses := [0] }, { nor with pulses := [25] }].any wfNor) = false ∧ wfNor (nor) = true
    ∧ ([{ flash0 with hard := [] }, { flash0 with levels := [[]] }, { flash0 with below := [] }, { flash0 with above := [] }].any wfFlash) = false ∧ wfFlash (flash0) = true
    ∧ ([.read 1024, .write 1024 0, .memRead (2 ^ 17), .memWrite (2 ^ 17) 0].any wfCfg) = false ∧ wfTarget (.cmd 4096) = false
    ∧ ([.readErr (2 ^ 64), .writeErr (2 ^ 64), .hostErr (2 ^ 64), .busyRetry (2 ^ 48) 0].any wfDma) = false
    ∧ wfPm (.l0p 3) = false ∧ wfHwErr (.tpcPar (2 ^ 40)) = false ∧ wfLadderEnd (.rebuilt []) = false := by decide +kernel

/-- WellFormed refuses a command with an operand outside its field, one term for each check. -/
theorem test_wellFormed_refuses_0 : (([
      .registerWrite 256 4 0, .registerWrite 1 (2 ^ 48) 0, .registerWrite 1 2 0, .rcRead 256 4 0, .rcRead 1 (2 ^ 48) 0, .rcRead 1 2 0, .readLowHalf 256 8,
      .readLowHalf 1 (2 ^ 48), .readLowHalf 1 2, .writeLowHalf 256 8 0, .writeLowHalf 1 (2 ^ 48) 0, .writeLowHalf 1 2 0, .writeHighHalf 256 4 0,
      .writeHighHalf 1 (2 ^ 48) 0, .writeHighHalf 1 2 0, .deviceTick ([.tpcPar (2 ^ 40)]), .spinGrant badRotor, .dramTrainingDone 256 1 true,
      .dramTrainingDone 1 (2 ^ 16) true, .linkTrained .a (2 ^ 16) 1 true, .linkTrained .a 1 (16 + 1) true, .poisonedTlp .a (.cmd 4096),
      .completionTimeout .a (.cmd 4096), .urOrCaReceived .a (.cmd 4096), .sqTailDoorbell .a (2 ^ 16) 1, .sqTailDoorbell .a 1 (2 ^ 32),
      .cqHeadDoorbell .a (2 ^ 16) 1, .cqHeadDoorbell .a 1 (2 ^ 32), .commandArrival .a (2 ^ 16) HostCmd.none, .commandArrival .a 1 badCmd,
      .readEntryRelease 4096, .ledgerAccept 4096, .ledgerTimeout 4096, .read 4096, .write 4096, .flush 4096, .writeZeroes 4096, .compare 4096, .verify 4096,
      .datasetManagement 4096, .copy 4096, .zoneAppend 4096, .zoneReset 4096, .zoneFinish 4096, .zoneOpen 4096, .zoneClose 4096,
      .zoneManagementReceive 4096, .kvStore 4096, .kvRetrieve 4096, .kvDelete 4096, .kvExist 4096, .kvList 4096, .createIoSq 4096 1 2 1,
      .createIoSq 1 (2 ^ 16) 2 1, .createIoSq 1 1 0 1, .createIoSq 1 1 (65536 + 1) 1, .createIoSq 1 1 2 (2 ^ 16), .deleteIoSq 4096 1,
      .deleteIoSq 1 (2 ^ 16), .createIoCq 4096 1 2 1]
      : List Instr).any wellFormed) = false := by decide +kernel

/-- WellFormed refuses a command with an operand outside its field, one term for each check. -/
theorem test_wellFormed_refuses_1 : (([
      .createIoCq 1 (2 ^ 16) 2 1, .createIoCq 1 1 0 1, .createIoCq 1 1 (65536 + 1) 1, .createIoCq 1 1 2 (2 ^ 16), .deleteIoCq 4096 1,
      .deleteIoCq 1 (2 ^ 16), .getLogPage 4096 1 log0, .getLogPage 1 256 log0, .getLogPage 1 1 { log0 with lpo := 2 ^ 64 },
      .getLogPage 1 1 { log0 with csi := 256 }, .identify 4096 id0, .identify 1 { id0 with cns := 256 }, .identify 1 { id0 with csi := 256 },
      .abort 4096 1 1, .abort 1 (2 ^ 16) 1, .abort 1 1 (2 ^ 16), .setFeatures 4096 1 1, .setFeatures 1 256 1, .setFeatures 1 1 (2 ^ 32),
      .getFeatures 4096 feat0, .getFeatures 1 { feat0 with fid := 256 }, .getFeatures 1 { feat0 with cdw11 := 2 ^ 32 }, .asyncEventRequest 4096,
      .namespaceCreate 4096 1 1 1 (zeros 16), .namespaceCreate 1 4 1 1 (zeros 16), .namespaceCreate 1 1 16 1 (zeros 16),
      .namespaceCreate 1 1 1 (2 ^ 64) (zeros 16), .namespaceCreate 1 1 1 1 [], .namespaceDelete 4096, .namespaceAttachment 4096 1 .a true,
      .namespaceAttachment 1 (2 ^ 32) .a true, .firmwareImageDownload 4096 1 1 [], .firmwareImageDownload 1 8 1 [], .firmwareImageDownload 1 1 (2 ^ 32) [],
      .firmwareCommit 4096 1 true img0, .firmwareCommit 1 8 true img0, .firmwareCommit 1 1 true badImg, .deviceSelfTest 4096 true true, .formatNvm 4096 1 1,
      .formatNvm 1 16 1, .formatNvm 1 1 8, .sanitize 4096 1, .sanitize 1 8, .retentionQuery 4096, .migrationStart 4096 1 1 1,
      .migrationStart 1 (2 ^ 64) 1 1, .migrationStart 1 1 (2 ^ 64) 1, .migrationStart 1 1 1 (2 ^ 64), .migrationStop 4096, .migrationAdvance 4096 1,
      .migrationAdvance 1 (2 ^ 64), .migrationRecord 0 (2 ^ 40) 1, .migrationRecord 0 1 (2 ^ 40), .spindleOutOfService 4096 0 true,
      .spindleReturn 4096 0 true, .spindleReplace 4096 0, .mediaOpStart 4096 0 ((mop (.tag 0) 1).d), .mediaOpStart 1 0 badDesc, .mediaOpDone 4096 0,
      .keyLoadTimeout 4096 0]
      : List Instr).any wellFormed) = false := by decide +kernel

/-- WellFormed refuses a command with an operand outside its field, one term for each check. -/
theorem test_wellFormed_refuses_2 : (([
      .locusLookup (2 ^ 40) 1, .locusLookup 1 (2 ^ 40), .relocationUpdate (2 ^ 40) 1 1 1 1 1, .relocationUpdate 1 (2 ^ 40) 1 1 1 1,
      .relocationUpdate 1 1 (2 ^ 43) 1 1 1, .relocationUpdate 1 1 1 4096 1 1, .relocationUpdate 1 1 1 1 2 1, .relocationUpdate 1 1 1 1 1 (2 ^ 43),
      .slotStart 0 badSlot, .slotWrite 0 true [2 ^ 64], .laserLoopUpdate 0 256, .ladderStep (2 ^ 43) .passed, .ladderStep 1 (.rebuilt []), .tlerExpire 4096,
      .relocateChunk (2 ^ 40) 1 1, .relocateChunk 1 (2 ^ 40) 1, .relocateChunk 1 1 (2 ^ 43), .patrolBand 0 (2 ^ 21) 1 1 1 true,
      .patrolBand 0 1 (67652 + 1) 1 1 true, .patrolBand 0 1 1 (67652 + 1) 1 true, .patrolBand 0 1 1 1 (2 ^ 64) true, .patrolSpinup 0 (2 ^ 64),
      .bandRefresh 0 (2 ^ 21), .groupClose (2 ^ 24), .parityBandDone (2 ^ 24) 1, .parityBandDone 1 8, .imglost (2 ^ 24), .reconstruct 0 (2 ^ 21) 1 [],
      .reconstruct 0 1 67652 [], .reconstruct 0 1 1 [8], .bandRelease 0 (2 ^ 21), .servoWedge 0 badSample noSample 1, .servoWedge 0 noSample badSample 1,
      .servoWedge 0 noSample noSample (2 ^ 16), .listenWindowEnd 0 badRotor, .locateDone 0 (2 ^ 16) 0, .commutationEvent 0 badComm,
      .flashRead (2 ^ 40) flash0, .flashRead 1 badFlash, .flashProgram 16 [] none, .flashPatrol 0 0 16384 [flash0], .flashPatrol 0 0 1 [badFlash],
      .dmaCopy 0 (.readErr (2 ^ 64)), .gather 0 (.readErr (2 ^ 64)), .scatter 0 (.readErr (2 ^ 64)), .fill 0 (.readErr (2 ^ 64)),
      .dmaCompare 0 (.readErr (2 ^ 64)), .bootreq badImg img0, .bootreq img0 badImg, .datumVerify 256 1 true true, .datumVerify 1 (2 ^ 32) true true,
      .fwwrite 256 1 [] nor, .fwwrite 1 (2 ^ 32) [] nor, .fwwrite 1 1 [] badNor, .fwcommit 256 true img0, .fwcommit 1 true badImg,
      .cfgwrite .mailbox [] badNor, .keyload 0 256, .keynew 0 badNor, .keyall badNor]
      : List Instr).any wellFormed) = false := by decide +kernel

/-- WellFormed refuses a command with an operand outside its field, one term for each check. -/
theorem test_wellFormed_refuses_3 : (([
      .chainappend 256 1 1 1 1 1 [] nor, .chainappend 1 64 1 1 1 1 [] nor, .chainappend 1 1 (2 ^ 32) 1 1 1 [] nor, .chainappend 1 1 1 (2 ^ 40) 1 1 [] nor,
      .chainappend 1 1 1 1 (2 ^ 40) 1 [] nor, .chainappend 1 1 1 1 1 (2 ^ 40) [] nor, .chainappend 1 1 1 1 1 1 (zeros 17) nor,
      .chainappend 1 1 1 1 1 1 [] badNor, .chainread .mailbox (2 ^ 64), .chainack .mailbox badSig 1, .chainack .mailbox sig0 (2 ^ 64),
      .ruleadd .mailbox badSig true true 0 1 1 1 1, .ruleadd .mailbox sig0 true true 0 (2 ^ 40) 1 1 1, .ruleadd .mailbox sig0 true true 0 1 (2 ^ 40) 1 1,
      .ruleadd .mailbox sig0 true true 0 1 1 (2 ^ 40) 1, .ruleadd .mailbox sig0 true true 0 1 1 1 (2 ^ 64), .ruleextend .mailbox badSig 1 1 true,
      .ruleextend .mailbox sig0 (2 ^ 16) 1 true, .ruleextend .mailbox sig0 1 (2 ^ 64) true, .rulerelease .mailbox badSig 1,
      .rulerelease .mailbox sig0 (2 ^ 16), .ruleread .mailbox (2 ^ 16), .sweepdone (2 ^ 16), .ruleRelease (2 ^ 16), .clkset .mailbox badSig 1,
      .clkset .mailbox sig0 (2 ^ 64), .countsave (2 ^ 64) 1 nor, .countsave 1 (2 ^ 32) nor, .countsave 1 1 badNor, .tierwrite .mailbox [] badNor,
      .provision .mailbox 0 (zeros 98), .dailySave 0 badNor, .configurationRequest .a (.read 1024), .linkPowerState .a (.l0p 3),
      .hostReadCompletion .a (.cmd 4096) [], .commutationInstant 0 (2 ^ 64), .powerFailReplay true [(2 ^ 40, 1)], .powerFailReplay true [(1, 2 ^ 40)],
      .facetBringup [{ num := 0, pageOk := true, geom := 2 ^ 32, rate := 0 }], .flashProgram 1 [(2 ^ 40, [])] none, .flashProgram 1 [(1, zeros 4129)] none]
      : List Instr).any wellFormed) = false := by decide +kernel

/-- The same commands with operands inside their fields are well formed. -/
theorem test_wellFormed_takes : (([
      .registerWrite 1 4 0, .rcRead 1 4 0, .readLowHalf 1 8, .writeLowHalf 1 8 0, .writeHighHalf 1 4 0, .deviceTick [], .spinGrant still,
      .dramTrainingDone 1 1 true, .linkTrained .a 1 1 true, .poisonedTlp .a (.cmd 0), .completionTimeout .a (.cmd 0), .urOrCaReceived .a (.cmd 0),
      .sqTailDoorbell .a 1 1, .cqHeadDoorbell .a 1 1, .commandArrival .a 1 HostCmd.none, .readEntryRelease 1, .ledgerAccept 1, .ledgerTimeout 1, .read 1,
      .write 1, .flush 1, .writeZeroes 1, .compare 1, .verify 1, .datasetManagement 1, .copy 1, .zoneAppend 1, .zoneReset 1, .zoneFinish 1, .zoneOpen 1,
      .zoneClose 1, .zoneManagementReceive 1, .kvStore 1, .kvRetrieve 1, .kvDelete 1, .kvExist 1, .kvList 1, .createIoSq 1 1 2 1, .deleteIoSq 1 1,
      .createIoCq 1 1 2 1, .deleteIoCq 1 1, .getLogPage 1 1 log0, .identify 1 id0, .abort 1 1 1, .setFeatures 1 1 1, .getFeatures 1 feat0,
      .asyncEventRequest 1, .namespaceCreate 1 1 1 1 (zeros 16), .namespaceDelete 1, .namespaceAttachment 1 1 .a true, .firmwareImageDownload 1 1 1 [],
      .firmwareCommit 1 1 true img0, .deviceSelfTest 1 true true, .formatNvm 1 1 1, .sanitize 1 1, .retentionQuery 1, .migrationStart 1 1 1 1,
      .migrationStop 1, .migrationAdvance 1 1, .migrationRecord 0 1 1, .spindleOutOfService 1 0 true, .spindleReturn 1 0 true, .spindleReplace 1 0,
      .mediaOpStart 1 0 ((mop (.tag 0) 1).d), .mediaOpDone 1 0, .keyLoadTimeout 1 0, .locusLookup 1 1, .relocationUpdate 1 1 1 1 1 1, .slotStart 0 slotEv,
      .slotWrite 0 true [], .laserLoopUpdate 0 1, .ladderStep 1 .passed, .tlerExpire 1, .relocateChunk 1 1 1, .patrolBand 0 1 1 1 1 true, .patrolSpinup 0 1,
      .bandRefresh 0 1, .powerFailReplay true [], .groupClose 1, .parityBandDone 1 1, .imglost 1, .reconstruct 0 1 1 [], .bandRelease 0 1,
      .servoWedge 0 noSample noSample 1, .listenWindowEnd 0 still, .locateDone 0 1 0, .commutationEvent 0 (comm true), .facetBringup [],
      .flashRead 1 flash0, .flashProgram 1 [] none, .flashPatrol 0 0 1 [flash0], .dmaCopy 0 .ok, .gather 0 .ok, .scatter 0 .ok, .fill 0 .ok,
      .dmaCompare 0 .ok, .bootreq img0 img0, .datumVerify 1 1 true true, .fwwrite 1 1 [] nor, .fwcommit 1 true img0, .cfgwrite .mailbox [] nor,
      .keyload 0 1, .keynew 0 nor, .keyall nor, .chainappend 1 1 1 1 1 1 [] nor, .chainread .mailbox 1, .chainack .mailbox sig0 1,
      .ruleadd .mailbox sig0 true true 0 1 1 1 1, .ruleextend .mailbox sig0 1 1 true, .rulerelease .mailbox sig0 1, .ruleread .mailbox 1, .sweepdone 1,
      .ruleRelease 1, .clkset .mailbox sig0 1, .countsave 1 1 nor, .tierwrite .mailbox [] nor, .provision .mailbox 0 [], .dailySave 0 nor,
      .portRequestFrame [], .configurationRequest .a (.read 0), .linkPowerState .a .l0, .hostReadCompletion .a (.cmd 0) [], .commutationInstant 0 1]
      : List Instr).all wellFormed) = true := by decide +kernel

/-- WellFormed refuses byte strings longer than any field. -/
theorem test_wellFormed_long :
    wellFormed (.firmwareImageDownload 1 1 1 (zeros (2 ^ 21 + 1))) = false
    ∧ wellFormed (.fwwrite 1 1 (zeros (2 ^ 21 + 1)) nor) = false
    ∧ wellFormed (.cfgwrite .mailbox (zeros (2 ^ 21 + 1)) nor) = false
    ∧ wellFormed (.tierwrite .mailbox (zeros (2 ^ 21 + 1)) nor) = false
    ∧ wellFormed (.portRequestFrame (zeros (65536 + 1))) = false
    ∧ wellFormed (.hostReadCompletion .a (.cmd 0) (zeros (2 ^ 21 + 1))) = false := by
  simp [wellFormed, zeros, -List.reduceReplicate]

end Sys2Proof.Tests
end

section
/-! The state after reset (R19, R67, R447, R480): what its parts hold, and that nothing is left to follow. -/

namespace Sys2Proof.Machine

/-- R480: core 0 runs, every other core is in reset; none waits. -/
theorem reset_core (c : Fin 8) : State.reset.core c = CoreSt.reset (if c = 0 then .running else .reset) := by
  revert c
  decide +kernel

theorem reset_core_run_ne_waiting (c : Fin 8) : (State.reset.core c).run ≠ .waiting := by
  rw [reset_core]
  by_cases h : c = 0 <;> simp [CoreSt.reset, h]

theorem reset_gAt (c : Fin 8) (r : BitVec 5) : gAt State.reset c r = 0 := by
  rw [gAt, reset_core]
  simp [CoreSt.reset, vget]

theorem reset_act (a : Fin 16) : State.reset.act a = ActSt.reset := by
  revert a
  decide +kernel

theorem reset_spn (i : Fin 8) : State.reset.spn i = SpnSt.reset := by
  revert i
  decide +kernel

theorem reset_settled : Settled State.reset :=
  ⟨fun _ h => absurd h List.not_mem_nil, fun c h => absurd h (reset_core_run_ne_waiting c)⟩

end Sys2Proof.Machine

open Sys2Proof Sys2Proof.Machine

/-- Settles O56: every conjunct reads a part of the reset state. -/
theorem stateAtReset : Obligations.StateAtReset := by
  unfold Obligations.StateAtReset
  refine ⟨reset_settled, rfl, rfl, rfl, reset_mem_wf, fun _ => rfl, ?_, fun c hc => ?_, fun c => ⟨?_, ?_, reset_gAt c⟩,
    fun a => ?_, fun i => ?_, rfl, rfl⟩
  · rw [reset_core]; rfl
  · rw [reset_core, if_neg hc]; rfl
  · rw [reset_core]; rfl
  · rw [reset_core]; rfl
  · rw [reset_act]; exact ⟨rfl, rfl, rfl⟩
  · rw [reset_spn]; rfl
end

section
/-! Reads and writes of the register windows (R2, R8–R13): the plain write and the plain read of a register by its map, and the
two halves of a 64-bit register, which one entry of the map holds. -/

namespace Sys2Proof.Machine

/-! ### What a write of one register leaves -/

theorem regsSameBut_settle {s t : State} {l : List Nat} (h : regsSameBut s t l) : regsSameBut s (settle t) l :=
  fun a ha => (settle_rget t a).trans (h a ha)

theorem regsSameBut_rset (s : State) (a : Nat) (v : DWord) : regsSameBut s (rset s a v) [a] :=
  fun _ hb => rget_rset_ne s v (fun e => hb (e ▸ List.mem_singleton_self _))

theorem fieldWrite_at {a : Nat} {b : Blk} {r : RegRow} {i : Nat} (h : regAt a = some (b, r, i)) (s : State) (v : DWord) :
    fieldWrite s a v = rset s a (writtenValue r (rget s a) v) := by
  rw [fieldWrite, h]

theorem isWide_at {a : Nat} {b : Blk} {r : RegRow} {i : Nat} (h : regAt a = some (b, r, i)) : isWide a = r.w64 := by
  rw [isWide, h]

theorem writeAt_at {a : Nat} {b : Blk} {r : RegRow} {i : Nat} (h : regAt a = some (b, r, i)) (s : State) (m : Nat) (v : DWord) :
    writeAt s m a v = regWrite s m b r i (regStart r a) v := by
  rw [writeAt, h]

/-- R2, R84: a register that is absent or fixed takes no write. -/
theorem regWrite_fixed {s : State} {b : Blk} {r : RegRow} {i : Nat} (h : regBlank s b r i = true ∨ regFixed s b = true)
    (m a : Nat) (v : DWord) : regWrite s m b r i a v = s := by
  unfold regWrite
  exact if_pos (by simpa using h)

/-- R12: a register without an operation of its own takes its map's plain write. -/
theorem regWrite_plain {s : State} {b : Blk} {r : RegRow} {i : Nat} (hb : regBlank s b r i = false) (hf : regFixed s b = false)
    (ho : ownWrite b r = false) (m a : Nat) (v : DWord) : regWrite s m b r i a v = fieldWrite s a v := by
  simp only [ownWrite, Bool.or_eq_false_iff, decide_eq_false_iff_not] at ho
  obtain ⟨⟨h0, h1⟩, ho⟩ := ho
  unfold regWrite
  dsimp only
  rw [if_neg (by simp [hb, hf]), if_neg h0, if_neg h1]
  by_cases hl : 0xFF00 < r.off
  · rw [if_pos hl]
  · rw [if_neg hl]
    have hw : r.off < 0xFF00 := by omega
    -- Each block: the offsets that `ownWrite` excludes are those with an operation in the block's write.
    cases b <;> simp [hw] at ho <;>
      simp [ho, sysWrite, chdWrite, radWrite, spdWrite, evrWrite, calWrite, cpcWrite, pmuWrite]
    case cal => rw [if_neg (by omega), if_neg (by omega)]

end Sys2Proof.Machine
end

section
/-! What every entry of the register maps keeps: its access masks lie in its width, and a 64-bit register is aligned and no
32-bit one lies on it, so that both its halves find it. -/

namespace Sys2Proof.Machine

/-- The map that an offset of a block's window is looked up in. -/
def rowsAt (b : Blk) (o : Nat) : List RegRow := if 0xFF00 ≤ o then rowsFault else blkRows b

theorem regAt_eq (a : Nat) :
    regAt a = if a < windowBase then none
      else (blkOfWindow ((a - windowBase) / 0x1_0000)).bind fun b =>
        (findRow (rowsAt b (a % 0x1_0000 / 4 * 4)) (a % 0x1_0000 / 4 * 4)).map fun e => (b, e.1, e.2) := by
  unfold regAt rowsAt
  split
  · rfl
  · cases blkOfWindow ((a - windowBase) / 0x1_0000) with
    | none => rfl
    | some b =>
      dsimp only [Option.bind_some]
      cases findRow (if 0xFF00 ≤ a % 0x1_0000 / 4 * 4 then rowsFault else blkRows b) (a % 0x1_0000 / 4 * 4) <;> rfl

theorem findRow_mem {rows : List RegRow} {o i : Nat} {r : RegRow} (h : findRow rows o = some (r, i)) : r ∈ rows := by
  induction rows with
  | nil => cases h
  | cons q rest ih =>
    unfold findRow at h
    split at h
    · cases h; exact List.mem_cons_self
    · exact List.mem_cons_of_mem _ (ih h)

theorem regAt_mem {a i : Nat} {b : Blk} {r : RegRow} (h : regAt a = some (b, r, i)) :
    r ∈ rowsAt b (a % 0x1_0000 / 4 * 4) := by
  rw [regAt_eq] at h
  split at h
  · cases h
  · simp only [Option.bind_eq_some_iff, Option.map_eq_some_iff] at h
    obtain ⟨_, -, e, he, heq⟩ := h
    cases heq
    exact findRow_mem he

/-! ### Masks (R12) -/

/-- The bits that an entry names lie in its width, and taking the WO ones away is masking. -/
def masksOk (r : RegRow) : Bool :=
  (r.full - r.named) &&& r.named == 0 && r.named - (r.named &&& r.wo) == r.named &&& (r.full - r.wo)

theorem masksOk_of_mem {b : Blk} {o : Nat} {r : RegRow} (h : r ∈ rowsAt b o) : masksOk r = true := by
  have hf : rowsFault.all masksOk = true := by decide +kernel
  have hb : (blkRows b).all masksOk = true := by
    cases b with
    | chd n => exact (by decide +kernel : rowsChd.all masksOk = true)
    | _ => decide +kernel
  unfold rowsAt at h
  split at h
  · exact List.all_eq_true.mp hf r h
  · exact List.all_eq_true.mp hb r h

theorem full_lt (r : RegRow) : r.full < 2 ^ 64 := by
  unfold RegRow.full
  split <;> decide

theorem shownValue_lt (s : State) (b : Blk) (r : RegRow) (i a : Nat) : shownValue s b r i a < 2 ^ 64 := by
  have hx : regShown s b r i a &&& r.named &&& (r.full - r.wo) < 2 ^ 64 :=
    Nat.and_lt_two_pow _ ((Nat.sub_le _ _).trans_lt (full_lt r))
  have hy : (Config.rsvRead a).toNat &&& (r.full - r.named) < 2 ^ 64 :=
    Nat.and_lt_two_pow _ ((Nat.sub_le _ _).trans_lt (full_lt r))
  unfold shownValue
  dsimp only
  split
  · exact hx
  · exact Nat.or_lt_two_pow hx hy

/-- The bits that a read shows beside the reserved ones are those of the named fields that are not WO. -/
theorem shownValue_named {r : RegRow} (hm : masksOk r = true) (s : State) (b : Blk) (i a : Nat) :
    shownValue s b r i a &&& (r.named - (r.named &&& r.wo)) = regShown s b r i a &&& r.named &&& (r.full - r.wo) := by
  simp only [masksOk, Bool.and_eq_true, beq_iff_eq] at hm
  obtain ⟨hd, hw⟩ := hm
  rw [hw]
  apply Nat.eq_of_testBit_eq
  intro j
  have hz : ((r.full - r.named).testBit j && r.named.testBit j) = false := by
    rw [← Nat.testBit_and, hd, Nat.zero_testBit]
  unfold shownValue
  dsimp only
  split <;> simp only [Nat.testBit_and, Nat.testBit_or] <;> grind

/-! ### The halves of a 64-bit register (R9, R10) -/

/-- A 64-bit entry whose registers are aligned to 8. -/
def RegRow.aligned (r : RegRow) : Bool := r.w64 && r.off % 8 == 0 && r.s1 % 8 == 0 && r.s2 % 8 == 0

/-- Offsets of the registers of an entry. -/
def RegRow.offsets (r : RegRow) : List Nat :=
  (List.range r.n1).flatMap fun a => (List.range r.n2).map fun b => r.off + a * r.s1 + b * r.s2

/-- Each 64-bit entry of a map is aligned, and no 32-bit entry before it holds an offset of it. -/
def wideApart (rows : List RegRow) : Bool :=
  match rows with
  | [] => true
  | r :: rest =>
    (r.aligned || !r.w64 && rest.all fun q => !q.w64 || q.offsets.all fun o => (r.index o).isNone) && wideApart rest

theorem wideApart_rowsAt (b : Blk) (o : Nat) : wideApart (rowsAt b o) = true := by
  unfold rowsAt
  split
  · decide +kernel
  · cases b with
    | chd n => exact (by decide +kernel : wideApart rowsChd = true)
    | _ => decide +kernel

/-- The number of a register along one dimension is the same for both its halves, and what is left of the offset is aligned. -/
theorem exists_number (n : Nat) {d s : Nat} (hd : d % 8 = 0) (hs : s % 8 = 0) :
    ∃ a e, (if n = 1 then 0 else d / s) = a ∧ (if n = 1 then 0 else (d + 4) / s) = a ∧ d = a * s + e ∧ e % 8 = 0 := by
  obtain ⟨k, rfl⟩ := Nat.dvd_of_mod_eq_zero hs
  have hq : (d + 4) / (8 * k) = d / (8 * k) := by
    rw [← Nat.div_div_eq_div_mul, ← Nat.div_div_eq_div_mul, show (d + 4) / 8 = d / 8 by omega]
  rw [hq]
  by_cases hn : n = 1
  · rw [if_pos hn]
    exact ⟨0, d, rfl, rfl, by omega, hd⟩
  · rw [if_neg hn]
    refine ⟨d / (8 * k), d % (8 * k), rfl, rfl, (Nat.div_add_mod' d (8 * k)).symm, ?_⟩
    rw [Nat.mod_mul_right_mod, hd]

/-- What an index tells of an aligned entry: both halves of a register have it, and the low one is its offset. -/
theorem index_aligned {r : RegRow} (hr : r.aligned = true) {o : Nat} (ho : o % 8 = 0) :
    r.index (o + 4) = r.index o ∧ ∀ i, r.index o = some i → o ∈ r.offsets := by
  simp only [RegRow.aligned, Bool.and_eq_true, beq_iff_eq] at hr
  obtain ⟨⟨⟨hw, h0⟩, h1⟩, h2⟩ := hr
  unfold RegRow.index
  by_cases hlt : o < r.off
  · rw [if_pos (by omega : o + 4 < r.off), if_pos hlt]
    exact ⟨rfl, fun _ h => by cases h⟩
  · rw [if_neg (by omega : ¬ o + 4 < r.off), if_neg hlt]
    obtain ⟨d, rfl⟩ := Nat.exists_eq_add_of_le (Nat.not_lt.mp hlt)
    obtain ⟨a, e, ha, ha4, rfl, he⟩ := exists_number r.n1 (by omega : d % 8 = 0) h1
    obtain ⟨b, f, hb, hb4, rfl, hf⟩ := exists_number r.n2 he h2
    have h4 : (decide (f + 4 = 0) || r.w64 && decide (f + 4 = 4)) = decide (f = 0) := by simp [hw]
    have h5 : (decide (f = 0) || r.w64 && decide (f = 4)) = decide (f = 0) := by
      have : f ≠ 4 := by omega
      simp [this]
    simp only [Nat.add_assoc r.off, Nat.add_sub_cancel_left, ha, ha4]
    simp only [Nat.add_assoc (a * r.s1), Nat.add_sub_cancel_left, hb, hb4]
    simp only [Nat.add_assoc (b * r.s2), Nat.add_sub_cancel_left, h4, h5, true_and]
    intro i h
    split at h
    · rename_i hc
      simp only [Bool.and_eq_true, decide_eq_true_eq] at hc
      obtain ⟨⟨hca, hcb⟩, rfl⟩ := hc
      simp only [RegRow.offsets, List.mem_flatMap, List.mem_map, List.mem_range]
      exact ⟨a, hca, b, hcb, by omega⟩
    · cases h

/-- The entry that the high half finds is the one that the low half finds. -/
theorem findRow_low {rows : List RegRow} (hw : wideApart rows = true) {o : Nat} (ho : o % 8 = 0) {r : RegRow} {i : Nat}
    (hr : r.w64 = true) (h : findRow rows (o + 4) = some (r, i)) : findRow rows o = some (r, i) ∧ o ∈ r.offsets := by
  induction rows with
  | nil => cases h
  | cons q rest ih =>
    simp only [wideApart, Bool.and_eq_true, Bool.or_eq_true] at hw
    obtain ⟨hq, hrest⟩ := hw
    unfold findRow at h ⊢
    split at h
    · rename_i j hj
      cases h
      have hal : r.aligned = true := by simpa [hr] using hq
      rw [(index_aligned hal ho).1] at hj
      rw [hj]
      exact ⟨rfl, (index_aligned hal ho).2 _ hj⟩
    · rename_i hj
      obtain ⟨hlow, hmem⟩ := ih hrest h
      have hnone : q.index o = none := by
        rcases hq with hal | ⟨-, hall⟩
        · rw [← (index_aligned hal ho).1]; exact hj
        · have := List.all_eq_true.mp hall r (findRow_mem h)
          simp only [hr, Bool.not_true, Bool.false_or, List.all_eq_true, Option.isNone_iff_eq_none] at this
          exact this o hmem
      rw [hnone]
      exact ⟨hlow, hmem⟩

theorem regAt_low {a : Nat} (ha : a % 8 = 0) {b : Blk} {r : RegRow} {i : Nat} (hr : r.w64 = true)
    (h : regAt (a + 4) = some (b, r, i)) : regAt a = some (b, r, i) := by
  rw [regAt_eq] at h ⊢
  have hwin : windowBase = 0x20_0000_0000 := rfl
  by_cases hlt : a < windowBase
  · rw [if_pos (by omega)] at h; cases h
  · rw [if_neg (by omega), show (a + 4 - windowBase) / 0x1_0000 = (a - windowBase) / 0x1_0000 by omega,
      show (a + 4) % 0x1_0000 / 4 * 4 = a % 0x1_0000 / 4 * 4 + 4 by omega] at h
    rw [if_neg hlt]
    generalize hoff : a % 0x1_0000 / 4 * 4 = o at h ⊢
    have ho : o % 8 = 0 := by omega
    simp only [Option.bind_eq_some_iff, Option.map_eq_some_iff] at h ⊢
    obtain ⟨b', hb, e, he, heq⟩ := h
    cases heq
    have hrow : rowsAt b (o + 4) = rowsAt b o := by
      have hf : 0xFF00 ≤ o + 4 ↔ 0xFF00 ≤ o := by omega
      simp only [rowsAt, hf]
    rw [hrow] at he
    exact ⟨b, hb, e, (findRow_low (wideApart_rowsAt b o) ho hr he).1, rfl⟩

end Sys2Proof.Machine
end

section
/-! The commands that read and write registers by address, clause by clause of the statement on them. -/

namespace Sys2Proof.Machine

/-- R13: a read without an operation of its own clears the RC fields, keeping what arrives in its cycle. -/
theorem readEffect_plain {b : Blk} {r : RegRow} (ho : ownRead b r = false) (s : State) (a : Nat) (inc : DWord) :
    readEffect s b r a inc
      = if r.rc = 0 then s
        else rset s a ((rget s a &&& ~~~(BitVec.ofNat 64 r.rc)) ||| (inc &&& BitVec.ofNat 64 r.rc)) := by
  unfold ownRead at ho
  unfold readEffect
  cases b <;> simp at ho <;> simp [ho]

theorem regRead_plain {s : State} {a : Nat} {b : Blk} {r : RegRow} {i : Nat} (h : regAt a = some (b, r, i))
    (hb : regBlank s b r i = false) (hf : regFixed s b = false) (ho : ownRead b r = false) (inc : DWord) :
    regRead s a inc = (shownValue s b r i (regStart r a), readEffect s b r (regStart r a) inc) := by
  have hc : (decide (b = .sys) && (decide (r.off = 0x40) || decide (r.off = 0x48))) = false := by
    simp only [ownRead, Bool.or_eq_false_iff] at ho
    exact ho.1.1.1
  unfold regRead
  rw [h]
  simp only [hb, hf, hc]
  rfl

/-! ### Shadows -/

/-- A shadow of a key that is put in place of what the key had is found. -/
theorem find_shadow_cons (k : Nat) (v : Word) (l : List (Nat × Word)) :
    ((k, v) :: l).find? (fun e => decide (e.1 = k)) = some (k, v) := by
  simp

/-- Neither half of EVR.POST takes a plain write. -/
theorem ne_evrPost_of_plain {a : Nat} {b : Blk} {r : RegRow} {i : Nat} (h : regAt a = some (b, r, i))
    (ho : ownWrite b r = false) : a ≠ Reg.evrPost := by
  rintro rfl
  have hp : (match regAt Reg.evrPost with | some (b, r, _) => ownWrite b r | none => false) = true := by decide +kernel
  rw [h] at hp
  exact absurd hp (by simp [ho])

theorem low_add_high (v low : Word) : BitVec.ofNat 64 (low.toNat + v.toNat * 2 ^ 32) = v ++ low := by
  apply BitVec.eq_of_toNat_eq
  rw [BitVec.toNat_ofNat, BitVec.toNat_append, ← Nat.shiftLeft_add_eq_or_of_lt low.isLt, Nat.shiftLeft_eq]
  have := v.isLt
  have := low.isLt
  omega

/-! ### The commands -/

theorem whenReached_true {s : State} {m a : Nat} (h : regReach s m a = true) (ty : Nat) (f : State → State) :
    whenReached s m a ty f = f s := if_pos h

theorem registerWriteOp_reached {s : State} {m a : Nat} (h : regReach s m a = true) (v : DWord) :
    registerWriteOp s m a v = writeAt s m a (if isWide a then v else (v.truncate 32).zeroExtend 64) :=
  whenReached_true h 2 _

/-- R12: the plain write of a whole register. -/
theorem registerWriteOp_plain {s : State} {m a : Nat} {b : Blk} {r : RegRow} {i : Nat} (hm : regReach s m a = true)
    (h : regAt a = some (b, r, i)) (ha : regStart r a = a) (hb : regBlank s b r i = false) (hf : regFixed s b = false)
    (ho : ownWrite b r = false) (v : DWord) :
    registerWriteOp s m a v
      = rset s a (writtenValue r (rget s a) (if r.w64 then v else (v.truncate 32).zeroExtend 64)) := by
  rw [registerWriteOp_reached hm, writeAt_at h, ha, regWrite_plain hb hf ho, fieldWrite_at h, isWide_at h]

theorem registerWriteOp_fixed {s : State} {m a : Nat} {b : Blk} {r : RegRow} {i : Nat} (hm : regReach s m a = true)
    (h : regAt a = some (b, r, i)) (hx : regBlank s b r i = true ∨ regFixed s b = true) (v : DWord) :
    registerWriteOp s m a v = s := by
  rw [registerWriteOp_reached hm, writeAt_at h, regWrite_fixed hx]

/-- R11: an offset that no map assigns takes no write. -/
theorem registerWriteOp_unassigned {s : State} {m a : Nat} (hm : regReach s m a = true) (h : regAt a = none) (v : DWord) :
    registerWriteOp s m a v = s := by
  rw [registerWriteOp_reached hm, writeAt, h]

theorem rcReadOp_plain {s : State} {m a : Nat} {b : Blk} {r : RegRow} {i : Nat} (hm : regReach s m a = true)
    (h : regAt a = some (b, r, i)) (ha : regStart r a = a) (hb : regBlank s b r i = false) (hf : regFixed s b = false)
    (ho : ownRead b r = false) (inc : DWord) :
    rcReadOp s m a inc
      = answerRead
          (if r.rc = 0 then s
            else rset s a ((rget s a &&& ~~~(BitVec.ofNat 64 r.rc)) ||| (inc &&& BitVec.ofNat 64 r.rc)))
          (shownValue s b r i a) := by
  rw [rcReadOp, readReached, if_pos hm, regRead_plain h hb hf ho, ha, readEffect_plain ho]

/-- R9: a read of the low half copies the high half into the shadow of the master. -/
theorem readLowHalfOp_wide {s : State} {m a : Nat} {b : Blk} {r : RegRow} {i : Nat} (hm : regReach s m a = true)
    (h : regAt a = some (b, r, i)) (hw : r.w64 = true) (ha : a % 8 = 0) :
    readLowHalfOp s m a
      = answerRead
          { (regRead s a 0).2 with
            rshadow := (shadowKey m a, BitVec.ofNat 32 ((regRead s a 0).1 / 2 ^ 32))
              :: (regRead s a 0).2.rshadow.filter fun e => e.1 ≠ shadowKey m a }
          ((regRead s a 0).1 % 2 ^ 32) := by
  have hc : (isWide a && decide (a % 8 = 0)) = true := by simp [isWide_at h, hw, ha]
  rw [readLowHalfOp, readReached, if_pos hm, hc, when, if_pos rfl, halfRead, if_pos ha]

/-- R10: a write of the low half stays in the shadow of the master. -/
theorem halfWrite_low {a : Nat} (ha : a % 8 = 0) (hp : a ≠ Reg.evrPost) (s : State) (m : Nat) (v : Word) :
    halfWrite s m a v
      = { s with wshadow := (shadowKey m a, v) :: s.wshadow.filter fun e => e.1 ≠ shadowKey m a } := by
  rw [halfWrite, if_neg (by omega), if_pos ha]

/-- What is absent the part and its configuration tell. -/
theorem regBlank_congr {s t : State} (hp : t.part = s.part) (hc : t.conf = s.conf) (b : Blk) (r : RegRow) (i : Nat) :
    regBlank t b r i = regBlank s b r i := by
  cases b <;> simp only [regBlank, slicePresent, frontPresent, actPresent, trimPresent, hp, hc]

theorem regFixed_congr {s t : State} (hc : t.conf = s.conf) (b : Blk) : regFixed t b = regFixed s b := by
  rw [regFixed, regFixed, hc]

/-- `s` without the half that a key's shadow holds. -/
def dropShadow (s : State) (k : Nat) : State := { s with wshadow := s.wshadow.filter fun e => e.1 ≠ k }

theorem rget_dropShadow (s : State) (k a : Nat) : rget (dropShadow s k) a = rget s a := rfl

theorem dropShadow_find (s : State) (k : Nat) : (dropShadow s k).wshadow.find? (fun e => decide (e.1 = k)) = none := by
  simp [dropShadow, List.find?_eq_none]

/-- What a write of the high half commits. -/
theorem halfWrite_commits {s : State} {m a : Nat} {low : Word} (ha : a % 8 = 4) (hp : a / 8 * 8 ≠ Reg.evrPost)
    (hs : s.wshadow.find? (fun e => decide (e.1 = shadowKey m a)) = some (shadowKey m a, low)) (v : Word) :
    halfWrite s m a v = writeAt (dropShadow s (shadowKey m a)) m a (v ++ low) := by
  rw [halfWrite, if_neg hp, if_neg (by omega), hs, ← low_add_high]
  rfl

/-- R10: a write of the high half commits the whole register, with the low half that the shadow of the master holds. -/
theorem halfWrite_high {s : State} {m a : Nat} {b : Blk} {r : RegRow} {i : Nat} {low : Word} (h : regAt (a + 4) = some (b, r, i))
    (hw : r.w64 = true) (ha : a % 8 = 0) (hb : regBlank s b r i = false) (hf : regFixed s b = false)
    (ho : ownWrite b r = false)
    (hs : s.wshadow.find? (fun e => decide (e.1 = shadowKey m (a + 4))) = some (shadowKey m (a + 4), low)) (v : Word) :
    halfWrite s m (a + 4) v
      = rset (dropShadow s (shadowKey m (a + 4))) a (writtenValue r (rget s a) (v ++ low)) := by
  have hlow := regAt_low ha hw h
  have hstart : regStart r (a + 4) = a := by
    rw [regStart, if_pos hw]; omega
  have hp : (a + 4) / 8 * 8 ≠ Reg.evrPost := by
    rw [show (a + 4) / 8 * 8 = a by omega]; exact ne_evrPost_of_plain hlow ho
  have hb' := (regBlank_congr (t := dropShadow s (shadowKey m (a + 4))) rfl rfl b r i).trans hb
  have hf' := (regFixed_congr (t := dropShadow s (shadowKey m (a + 4))) rfl b).trans hf
  rw [halfWrite_commits (by omega) hp hs, writeAt_at h, hstart, regWrite_plain hb' hf' ho, fieldWrite_at hlow,
    rget_dropShadow]

end Sys2Proof.Machine

open Sys2Proof Sys2Proof.Machine

/-- Settles O18: each clause is the command's equation in the case that its hypotheses name. -/
theorem registerAccess : Obligations.RegisterAccess := by
  unfold Obligations.RegisterAccess
  refine ⟨?_, ?_, ?_, ?_, ?_, ?_, ?_, ?_⟩
  · intro m a v s b r i hm h ha hb hf ho
    refine answers_settled _ _ ?_
    rw [registerWriteOp_plain hm h ha hb hf ho]
    exact ⟨by simp, regsSameBut_settle (regsSameBut_rset s a _), by simp, by simp⟩
  · intro m a v s b r i hm h hx
    exact congrArg settled (registerWriteOp_fixed hm h hx v)
  · intro m a v s hm h
    exact congrArg settled (registerWriteOp_unassigned hm h v)
  · intro m a v s hm
    exact congrArg settled (if_neg (by simp [hm]))
  · intro m a inc s b r i hm h ha hb hf ho
    refine answers_settled _ _ ?_
    rw [rcReadOp_plain hm h ha hb hf ho]
    refine ⟨?_, ?_, fun hrc => ?_, fun hrc => ?_, ?_⟩
    · simp only [settle_resp, answerRead, BitVec.toNat_ofNat, Nat.mod_eq_of_lt (shownValue_lt s b r i a)]
      exact shownValue_named (masksOk_of_mem (regAt_mem h)) s b i a
    · simp [answerRead]
    · simp [answerRead, hrc]
    · rw [settle_rget, if_neg hrc]
      exact rget_rset_same s a _
    · rw [settle_mem]
      show State.mem (if r.rc = 0 then s else _) = s.mem
      split <;> rfl
  · intro m a s b r i hm h hw ha
    refine answers_settled _ _ ?_
    rw [readLowHalfOp_wide hm h hw ha]
    refine ⟨?_, ?_⟩
    · simp only [settle_resp, answerRead, BitVec.toNat_ofNat]
      omega
    · rw [settle_rshadow]
      exact find_shadow_cons _ _ _
  · intro m a v s hm hw ha hp
    refine answers_settled _ _ ?_
    rw [whenReached_true hm, hw, decide_eq_true ha, when, Bool.and_self, if_pos rfl, halfWrite_low ha hp]
    refine ⟨?_, settle_regs _, settle_mem _⟩
    rw [settle_wshadow]
    exact find_shadow_cons _ _ _
  · intro m a v low s b r i hm h hw ha hb hf ho hs
    refine answers_settled _ _ ?_
    have h4 : (a + 4) % 8 = 4 := by omega
    rw [whenReached_true hm, isWide_at h, hw, decide_eq_true h4, when, Bool.and_self, if_pos rfl,
      halfWrite_high h hw ha hb hf ho hs]
    refine ⟨?_, regsSameBut_settle fun x hx => ?_, ?_, ?_⟩
    · rw [settle_rget, rget_rset_same]
    · exact rget_rset_ne _ _ (fun e => hx (e ▸ List.mem_singleton_self _))
    · exact settle_mem _
    · rw [settle_wshadow, rset_wshadow]
      exact dropShadow_find s _
end

section
/-! What a register's bits read after a write, and what an event of a quiet block leaves: its source bit and its capture. -/

namespace Sys2Proof.Machine

theorem rn_rsetN_same (s : State) (a : Nat) {n : Nat} (h : n < 2 ^ 64) : rn (rsetN s a n) a = n := by
  rw [rn, rget_rsetN_same, BitVec.toNat_ofNat, Nat.mod_eq_of_lt h]

theorem putFld_one_testBit (v i : Nat) (b : Bool) : (putFld v i 1 (bit01 b)).testBit i = b := by
  have h := fld_putFld_same v i 1 (bit01 b)
  rw [fld, Nat.pow_one] at h
  rw [Nat.testBit_eq_decide_div_mod_eq, h]
  cases b <;> rfl

theorem regsSameBut_of_left {s u t : State} {l : List Nat} (hu : u.regs = s.regs) (h : regsSameBut u t l) : regsSameBut s t l :=
  fun a ha => (h a ha).trans (by rw [rget, rget, hu])

theorem rbit_rbitSet_same (s : State) (a : Nat) {i : Nat} (hi : i < 64) (b : Bool) : rbit (rbitSet s a i b) a i = b := by
  rw [rbit, rn, rbitSet, rfSet, rget_rsetN_same, BitVec.toNat_ofNat, Nat.testBit_mod_two_pow, decide_eq_true hi,
    Bool.true_and, putFld_one_testBit]

/-! ### An event of a quiet block -/

theorem raise1_quiet {s : State} {b : Blk} (h : quiet s b) (i : Nat) : raise1 s b i = reported s b [i] :=
  raise_quiet s b [i] Cap.none (by simp) h

theorem busRest_reported (s : State) (b : Blk) (bits : List Nat) : busRest (reported s b bits) = busRest s :=
  (busRest_capture _ _ _ _).trans (busRest_setFstat s b bits)

theorem capture_mem (s : State) (b : Blk) (bits : List Nat) (c : Cap) : (capture s b bits c).mem = s.mem := by
  unfold capture
  split
  · rfl
  · split <;> rfl

theorem setFstat_mem (s : State) (b : Blk) (bits : List Nat) : (setFstat s b bits).mem = s.mem := by
  unfold setFstat
  exact overList_keeps (fun t => t.mem) _ _ _ fun t i => rbitSet_mem t _ i true

@[simp] theorem reported_mem (s : State) (b : Blk) (bits : List Nat) : (reported s b bits).mem = s.mem :=
  (capture_mem _ _ _ _).trans (setFstat_mem s b bits)

@[simp] theorem reported_slices (s : State) (b : Blk) (bits : List Nat) : (reported s b bits).slices = s.slices :=
  busRest_proj (fun u => u.slices) (fun _ => rfl) (busRest_reported s b bits)

@[simp] theorem reported_slice (s : State) (b : Blk) (bits : List Nat) (n : Fin 8) :
    (reported s b bits).slice n = s.slice n := by
  rw [State.slice, State.slice, reported_slices]

theorem capture_afes (s : State) (b : Blk) (bits : List Nat) (c : Cap) : (capture s b bits c).afes = s.afes := by
  unfold capture
  split
  · rfl
  · split <;> rfl

theorem setFstat_afes (s : State) (b : Blk) (bits : List Nat) : (setFstat s b bits).afes = s.afes := by
  unfold setFstat
  exact overList_keeps (fun t => t.afes) _ _ _ fun t i => rbitSet_afes t _ i true

@[simp] theorem reported_afes (s : State) (b : Blk) (bits : List Nat) : (reported s b bits).afes = s.afes :=
  (capture_afes _ _ _ _).trans (setFstat_afes s b bits)

theorem reported_regsSameBut (s : State) (b : Blk) (bits : List Nat) : regsSameBut s (reported s b bits) [aFstat b] := by
  intro a ha
  have hne : a ≠ aFstat b := fun e => ha (e ▸ List.mem_singleton_self _)
  rw [reported, rget, capture_regs]
  exact overList_keeps (fun t => rget t a) _ _ _ fun t i => rget_rset_ne t _ hne

theorem reported_fstat (s : State) (b : Blk) {i : Nat} (hi : i < 64) : rbit (reported s b [i]) (aFstat b) i = true := by
  rw [reported, rbit, rn, rget, capture_regs]
  exact rbit_rbitSet_same s (aFstat b) hi true

end Sys2Proof.Machine
end

section
/-! The assignment of slices (R211–R213), the synthesizers of the front ends (R50, R214) and the equalizer sets (R224). -/

namespace Sys2Proof.Machine

theorem modSlice_slice_ne (s : State) {n m : Fin 8} (f : SliceSt → SliceSt) (h : m ≠ n) :
    (modSlice s n f).slice m = s.slice m := by
  simp [modSlice, State.slice, vmod, vget_vset_ne _ _ h.symm]

theorem settle_slice (s : State) (n : Fin 8) : (settle s).slice n = s.slice n := by
  rw [State.slice, State.slice, settle_slices]

@[simp] theorem modAfe_afe (s : State) (a : Fin 16) (f : AfeSt → AfeSt) : vget (modAfe s a f).afes a = f (vget s.afes a) := by
  simp [modAfe, vmod]

theorem rget_modAfe (s : State) (a : Fin 16) (f : AfeSt → AfeSt) (b : Nat) : rget (modAfe s a f) b = rget s b := rfl

theorem rn_modAfe (s : State) (a : Fin 16) (f : AfeSt → AfeSt) (b : Nat) : rn (modAfe s a f) b = rn s b := rfl

/-! ### FORCE of the links leaves the connections alone -/

/-- How a slice is connected, and the connection that waits. -/
def connection (x : SliceSt) : Bool × Bool × Fin 16 × Option (Bool × Bool × Fin 16) := (x.valid, x.dir, x.act, x.pend)

theorem connection_of_slices {s t : State} (h : t.slices = s.slices) (m : Fin 8) :
    connection (t.slice m) = connection (s.slice m) := by
  rw [State.slice, State.slice, h]

theorem connection_modSlice (s : State) (n m : Fin 8) (f : SliceSt → SliceSt) (hf : ∀ x, connection (f x) = connection x) :
    connection ((modSlice s n f).slice m) = connection (s.slice m) := by
  by_cases h : m = n
  · rw [h, modSlice_slice, hf]
  · rw [modSlice_slice_ne s f h]

theorem requeue_slices (s : State) (o : MediaOp) (i : Nat) : (requeue s o i).slices = s.slices := by
  unfold requeue
  split
  · rfl
  · dsimp only
    split
    · rfl
    · unfold addWait addReader
      split <;> rfl

theorem endSlots_slices (k : Nat) (s : State) (n : Fin 8) (o : MediaOp) (i r : Nat) : (endSlots s n o i k r).slices = s.slices :=
  busRest_proj (fun u => u.slices) (fun _ => rfl) (busRest_endSlots k s n o i r)

theorem endSlot_slices (s : State) (n : Fin 8) (o : MediaOp) (i l w r : Nat) : (endSlot s n o i l w r).slices = s.slices :=
  busRest_proj (fun u => u.slices) (fun _ => rfl) (busRest_endSlot s n o i l w r)

theorem connection_abandonWrite (s : State) (n m : Fin 8) (w r : Nat) :
    connection ((abandonWrite s n w r).slice m) = connection (s.slice m) := by
  unfold abandonWrite
  split
  · rfl
  · dsimp only
    split
    · rw [connection_modSlice, modOp, connection_modSlice]
      · exact connection_of_slices
          ((requeue_slices _ _ _).trans ((endSlots_slices _ _ _ _ _ _).trans (endSlot_slices _ _ _ _ _ _ _))) m
      · exact fun _ => rfl
      · exact fun _ => rfl
    · rfl

theorem connection_wusAdd (s : State) (a : Fin 16) (src : WusSrc) (m : Fin 8) :
    connection ((wusAdd s a src).slice m) = connection (s.slice m) := by
  unfold wusAdd
  dsimp only
  split
  · rfl
  · split
    · rfl
    · exact connection_abandonWrite _ _ m _ _

theorem connection_wusRemove (s : State) (a : Fin 16) (src : WusSrc) (m : Fin 8) :
    connection ((wusRemove s a src).slice m) = connection (s.slice m) := by
  unfold wusRemove
  dsimp only
  split <;> rfl

theorem connection_syncForce (s : State) (m : Fin 8) : connection ((syncForce s).slice m) = connection (s.slice m) := by
  unfold syncForce
  exact overList_keeps (fun t => connection (t.slice m)) _ _ _ fun t a =>
    ite_keeps (p := fun u => connection (u.slice m)) _ _ _ (connection_wusAdd t a .force m) (connection_wusRemove t a .force m)

/-! ### Assignment -/

/-- What a connection leaves of its slice, and of every other. -/
theorem connection_connect_same (s : State) (n : Fin 8) (v d : Bool) (a : Fin 16) :
    connection ((connect s n v d a).slice n) = (v, d, a, none) := by
  rw [connect, connection_syncForce, modSlice_slice]
  rfl

theorem connection_connect_ne (s : State) {n m : Fin 8} (v d : Bool) (a : Fin 16) (h : m ≠ n) :
    connection ((connect s n v d a).slice m) = connection (s.slice m) := by
  rw [connect, connection_syncForce, modSlice_slice_ne s _ h]

/-- A connection comes into force. -/
theorem connect_settled (s : State) (n : Fin 8) (v d : Bool) (a : Fin 16) :
    ((settle (connect s n v d a)).slice n).valid = v ∧ ((settle (connect s n v d a)).slice n).dir = d
      ∧ ((settle (connect s n v d a)).slice n).act = a ∧ ((settle (connect s n v d a)).slice n).pend = none
      ∧ ∀ m : Fin 8, m ≠ n → ((settle (connect s n v d a)).slice m).valid = (s.slice m).valid
        ∧ ((settle (connect s n v d a)).slice m).act = (s.slice m).act := by
  have hn := connection_connect_same s n v d a
  simp only [connection, Prod.mk.injEq] at hn
  obtain ⟨hv, hd, ha, hp⟩ := hn
  simp only [settle_slice]
  refine ⟨hv, hd, ha, hp, fun m hm => ?_⟩
  have hm' := connection_connect_ne s v d a hm
  simp only [connection, Prod.mk.injEq] at hm'
  exact ⟨hm'.1, hm'.2.2.1⟩

section
variable {s : State} {n : Fin 8} {firmware : Bool} {v : Word}

/-- R2, R212: a slice that the part lacks and a source that ASSIGNSRC does not name assign nothing. -/
theorem assignWriteOp_other (h : slicePresent s n = false ∨ firmware ≠ rbit s (Reg.chdCtl n) 1) :
    assignWriteOp s n firmware v = s := by
  unfold assignWriteOp
  exact if_pos (by simpa using h)

/-- R211: the front end belongs to another slice, or its actuator is absent. -/
theorem assignWriteOp_refused (hp : slicePresent s n = true) (hs : firmware = rbit s (Reg.chdCtl n) 1)
    (hv : v.toNat.testBit 31 = true)
    (ht : takenByOther s n (Fin.ofNat 16 (v.toNat % 16)) = true ∨ actPresent s (v.toNat % 16) = false) :
    assignWriteOp s n firmware v = raise1 s (.chd n) 2 := by
  unfold assignWriteOp
  dsimp only
  rw [if_neg (by simp [hp, hs]), if_pos (by simpa [hv] using ht)]

theorem assignWriteOp_free (hp : slicePresent s n = true) (hs : firmware = rbit s (Reg.chdCtl n) 1)
    (hf : v.toNat.testBit 31 = true →
      takenByOther s n (Fin.ofNat 16 (v.toNat % 16)) = false ∧ actPresent s (v.toNat % 16) = true) :
    assignWriteOp s n firmware v
      = if sliceIdle s n then connect s n (v.toNat.testBit 31) (v.toNat.testBit 8) (Fin.ofNat 16 (v.toNat % 16))
        else modSlice s n fun x =>
          { x with pend := some (v.toNat.testBit 31, v.toNat.testBit 8, Fin.ofNat 16 (v.toNat % 16)) } := by
  unfold assignWriteOp
  dsimp only
  rw [if_neg (by simp [hp, hs]), if_neg]
  intro hc
  simp only [Bool.and_eq_true, Bool.or_eq_true, Bool.not_eq_true'] at hc
  obtain ⟨hv, ht⟩ := hc
  obtain ⟨h1, h2⟩ := hf hv
  rcases ht with ht | ht
  · rw [h1] at ht; cases ht
  · rw [Fin.val_ofNat, Nat.mod_mod, h2] at ht; cases ht

end

theorem assignTakeEffectOp_none {s : State} {n : Fin 8} (h : (s.slice n).pend = none ∨ sliceIdle s n = false) :
    assignTakeEffectOp s n = s := by
  unfold assignTakeEffectOp
  split
  · rfl
  · rename_i hp
    rcases h with h | h
    · rw [h] at hp; cases hp
    · rw [when, h]; rfl

/-- R213: a waiting connection comes into force once its slice is idle, unless the front end has been taken since. -/
theorem assignTakeEffectOp_idle {s : State} {n : Fin 8} {v d : Bool} {a : Fin 16} (hp : (s.slice n).pend = some (v, d, a))
    (hi : sliceIdle s n = true) :
    assignTakeEffectOp s n
      = if v && takenByOther s n a then raise1 (modSlice s n fun x => { x with pend := none }) (.chd n) 2
        else connect s n v d a := by
  rw [assignTakeEffectOp, hp]
  exact if_pos hi

/-! ### Synthesizers -/

theorem afeSynthWriteOp_ignored {s : State} {a : Fin 16} (h : sliceOfAct s a ≠ none ∨ frontPresent s a = false) (v : Word) :
    afeSynthWriteOp s a v = s :=
  if_pos (by simpa [Option.isSome_iff_ne_none] using h)

theorem afeSynthWriteOp_free {s : State} {a : Fin 16} (h : sliceOfAct s a = none) (hf : frontPresent s a = true) (v : Word) :
    afeSynthWriteOp s a v = setSynth s a (clampNat 3495253 23767722 (v.toNat % 2 ^ 25)) :=
  if_neg (by simp [h, hf])

theorem clampNat_synth_lt (x : Nat) : clampNat 3495253 23767722 x < 2 ^ 64 := by
  unfold clampNat
  omega

theorem synthunlockOp_locked {s : State} {a : Fin 16} (h : (vget s.afes a).lock = true) :
    synthunlockOp s a
      = if (s.act a).st ≠ .parked || rbit s (Reg.afeCtl a) 0 then
          raise1 (modAfe s a fun x => { x with lock := false, settling := true }) .afe a
        else modAfe s a fun x => { x with lock := false, settling := true } :=
  if_pos h

/-! ### Equalizers (R224) -/

theorem eqReg_nodup (n : Fin 8) : ((List.range 65).map (eqReg n)).Nodup := by
  revert n
  decide +kernel

section
variable {f : Nat → Nat} {g : State → Nat → Nat}

/-- Registers written one after another: every other one keeps its value. -/
theorem overList_rsetN_ne (l : List Nat) (s : State) {a : Nat} (h : a ∉ l.map f) :
    rget (overList l s fun t k => rsetN t (f k) (g t k)) a = rget s a := by
  induction l generalizing s with
  | nil => rfl
  | cons k rest ih =>
    rw [List.map_cons, List.mem_cons, not_or] at h
    exact (ih _ h.2).trans (rget_rsetN_ne s _ h.1)

/-- Each reads what was written to it, where the values do not depend on registers. -/
theorem overList_rsetN_mem (hg : ∀ t a x k, g (rsetN t a x) k = g t k) {l : List Nat} (hl : (l.map f).Nodup) (s : State)
    {k : Nat} (hk : k ∈ l) :
    rget (overList l s fun t k => rsetN t (f k) (g t k)) (f k) = BitVec.ofNat 64 (g s k) := by
  induction l generalizing s with
  | nil => cases hk
  | cons j rest ih =>
    rw [List.map_cons, List.nodup_cons] at hl
    rcases List.mem_cons.mp hk with rfl | hk
    · exact (overList_rsetN_ne rest _ hl.1).trans (rget_rsetN_same s _ _)
    · exact (ih hl.2 _ hk).trans (by rw [hg])

end

/-- What the shadow holds at an index, as a number. -/
def shadowNat (n : Fin 8) (s : State) (k : Nat) : Nat := (shadowAt s n k).toNat

theorem copyShadow_eq (s : State) (n : Fin 8) :
    copyShadow s n = modSlice (overList (List.range 65) s fun t k => rsetN t (eqReg n k) (shadowNat n t k)) n
      fun x => { x with loadPend := false } := rfl

theorem rget_modSlice (s : State) (n : Fin 8) (f : SliceSt → SliceSt) (a : Nat) : rget (modSlice s n f) a = rget s a := rfl

theorem shadowNat_rsetN (n : Fin 8) (t : State) (a x k : Nat) : shadowNat n (rsetN t a x) k = shadowNat n t k := rfl

theorem rn_copyShadow (s : State) (n : Fin 8) {k : Nat} (hk : k < 65) :
    rn (copyShadow s n) (eqReg n k) = (shadowAt s n k).toNat := by
  have hlt : shadowNat n s k < 2 ^ 64 := by
    have := (shadowAt s n k).isLt
    rw [shadowNat]; omega
  rw [rn, copyShadow_eq, rget_modSlice,
    overList_rsetN_mem (shadowNat_rsetN n) (eqReg_nodup n) s (List.mem_range.mpr hk), BitVec.toNat_ofNat, Nat.mod_eq_of_lt hlt,
    shadowNat]

theorem copyShadow_regsSameBut (s : State) (n : Fin 8) : regsSameBut s (copyShadow s n) ((List.range 65).map (eqReg n)) := by
  intro a ha
  rw [copyShadow_eq, rget_modSlice, overList_rsetN_ne _ s ha]

theorem copyShadow_mem (s : State) (n : Fin 8) : (copyShadow s n).mem = s.mem := by
  rw [copyShadow_eq, modSlice_mem]
  exact overList_keeps (fun t => t.mem) _ s _ fun t k => rsetN_mem t (eqReg n k) _

theorem copyShadow_loadPend (s : State) (n : Fin 8) : ((copyShadow s n).slice n).loadPend = false := by
  rw [copyShadow_eq, modSlice_slice]

end Sys2Proof.Machine
end

section
open Sys2Proof Sys2Proof.Machine

/-- Settles O31: each clause is the command's equation in the case that its hypotheses name. -/
theorem sliceAssignment : Obligations.SliceAssignment := by
  unfold Obligations.SliceAssignment
  refine ⟨?_, ?_, ?_, ?_, ?_, ?_, ?_, ?_, ?_, ?_, ?_, ?_, ?_, ?_, ?_, ?_, ?_⟩
  · intro n firmware v s hp hs hf hi
    refine answers_settled _ _ ?_
    rw [assignWriteOp_free hp hs hf, if_pos hi]
    obtain ⟨hv, hd, ha, hpend, hother⟩ := connect_settled s n (v.toNat.testBit 31) (v.toNat.testBit 8) (Fin.ofNat 16 (v.toNat % 16))
    exact ⟨hv, by rw [ha, Fin.val_ofNat, Nat.mod_mod], hd, hpend, hother⟩
  · intro n firmware v s hp hs hf hi
    refine congrArg settled ?_
    rw [assignWriteOp_free hp hs hf, if_neg (by simp [hi])]
  · intro n firmware v s hp hs hv ht hq
    refine answers_settled _ _ ?_
    rw [assignWriteOp_refused hp hs hv ht, raise1_quiet hq]
    exact ⟨by simp, by rw [settle_rbit]; exact reported_fstat s _ (by decide),
      regsSameBut_settle (reported_regsSameBut s _ _), by simp⟩
  · intro n firmware v s h
    exact congrArg settled (assignWriteOp_other h)
  · intro n v d a s hp hi hf
    refine answers_settled _ _ ?_
    rw [assignTakeEffectOp_idle hp hi, if_neg (by simpa using hf)]
    exact connect_settled s n v d a
  · intro n d a s hp hi ht hq
    refine answers_settled _ _ ?_
    rw [assignTakeEffectOp_idle hp hi, if_pos (by simp [ht]), raise1_quiet (by exact hq)]
    exact ⟨by simp [settle_slice], by rw [settle_rbit]; exact reported_fstat _ _ (by decide),
      regsSameBut_settle (regsSameBut_of_left (modSlice_regs s n _) (reported_regsSameBut _ _ _))⟩
  · intro n s h
    exact congrArg settled (assignTakeEffectOp_none h)
  · intro a v s ha hf hne
    refine answers_settled _ _ ?_
    rw [afeSynthWriteOp_free ha hf, setSynth, if_neg hne]
    refine ⟨?_, by simp, by simp, regsSameBut_settle fun b hb => ?_, by simp⟩
    · rw [settle_rn, rn_modAfe, rn_rsetN_same s _ (clampNat_synth_lt _)]
    · rw [rget_modAfe, rget_rsetN_ne s _ (mt List.mem_singleton.mpr hb)]
  · intro a v s h
    refine congrArg settled ?_
    by_cases hx : sliceOfAct s a ≠ none ∨ frontPresent s a = false
    · exact afeSynthWriteOp_ignored hx v
    · rw [not_or, not_not, Bool.not_eq_false] at hx
      obtain ⟨ha, hf⟩ := hx
      have he : rn s (Reg.afeSynth a) = clampNat 3495253 23767722 (v.toNat % 2 ^ 25) := by simpa [ha, hf] using h
      rw [afeSynthWriteOp_free ha hf, setSynth, if_pos he]
  · intro a s h
    exact congrArg settled (if_pos h)
  · intro a s h
    exact congrArg settled (if_neg (by simp [h]))
  · intro a s hl hw hq
    refine answers_settled _ _ ?_
    rw [synthunlockOp_locked hl, if_pos (by simpa using hw), raise1_quiet (by exact hq)]
    exact ⟨by simp, by simp, by rw [settle_rbit]; exact reported_fstat _ _ (by omega),
      regsSameBut_settle (regsSameBut_of_left (modAfe_regs s a _) (reported_regsSameBut _ _ _))⟩
  · intro a s hl hst hd
    refine congrArg settled ?_
    rw [synthunlockOp_locked hl, if_neg (by simp [hst, hd])]
  · intro a s h
    exact congrArg settled (if_neg (by simp [h]))
  · intro n s hp ho
    refine answers_settled _ _ ?_
    rw [eqLoadOp, if_neg (by simp [hp]), if_pos (by simp [ho])]
    exact ⟨fun k hk => by rw [settle_rn]; exact rn_copyShadow s n hk, by rw [settle_slice]; exact copyShadow_loadPend s n,
      regsSameBut_settle (copyShadow_regsSameBut s n), by rw [settle_mem]; exact copyShadow_mem s n⟩
  · intro n o s hp ho
    refine congrArg settled ?_
    rw [eqLoadOp, if_neg (by simp [hp]), if_neg (by simp [ho])]
  · intro n s h
    exact congrArg settled (if_pos (by simp [h]))
end

section
/-! No fault event, access to memory, end of a read or unload withdraws a request for a chip reset (R64, R67): each changes the
requests, if at all, by a fault event whose reaction asks for one more. -/

namespace Sys2Proof.Machine

/-- Every request for a chip reset, pending or deferred, still stands. -/
structure KeepsRequests (s t : State) : Prop where
  pending : s.rst.pending ⊆ t.rst.pending
  deferred : s.rst.deferred ⊆ t.rst.deferred

theorem KeepsRequests.of_rst {s t : State} (h : t.rst = s.rst) : KeepsRequests s t :=
  ⟨by rw [h]; exact List.Subset.refl _, by rw [h]; exact List.Subset.refl _⟩

theorem KeepsRequests.refl (s : State) : KeepsRequests s s := .of_rst rfl

theorem KeepsRequests.trans {s t u : State} (h : KeepsRequests s t) (h' : KeepsRequests t u) : KeepsRequests s u :=
  ⟨List.Subset.trans h.pending h'.pending, List.Subset.trans h.deferred h'.deferred⟩

/-- A request is kept by what leaves the reset part of the state alone afterwards. -/
theorem KeepsRequests.then_rst {s t u : State} (h : KeepsRequests s t) (hr : u.rst = t.rst) : KeepsRequests s u :=
  h.trans (.of_rst hr)

theorem keepsRequests_overList {α : Type} (l : List α) (s : State) (f : State → α → State)
    (h : ∀ t x, KeepsRequests t (f t x)) : KeepsRequests s (overList l s f) := by
  induction l generalizing s with
  | nil => exact .refl s
  | cons x rest ih => exact (h s x).trans (ih (f s x))

/-! ### Fault events -/

theorem keepsRequests_requestReset (s : State) (c : ResetCause) : KeepsRequests s (requestReset s c) := by
  unfold requestReset
  split
  · split
    · exact .refl s
    · exact ⟨List.Subset.refl _, List.subset_append_left _ _⟩
  · split
    · exact .refl s
    · exact ⟨List.subset_append_left _ _, List.Subset.refl _⟩

theorem keepsRequests_requestFaultReset (s : State) (b : Blk) (i : Nat) : KeepsRequests s (requestFaultReset s b i) := by
  have h := keepsRequests_requestReset s .fault
  unfold requestFaultReset
  dsimp only
  split
  · exact h
  · exact ⟨h.pending, h.deferred⟩

theorem deliverNmt_rst (s : State) : (deliverNmt s).rst = s.rst := by
  unfold deliverNmt
  exact overList_keeps (fun t => t.rst) _ _ _ fun t c => ite_keeps (p := fun t => t.rst) _ _ _ (modCore_rst t c _) rfl

theorem escalate_rst (s : State) (b : Blk) (bits : List Nat) : (escalate s b bits).rst = s.rst := by
  unfold escalate
  exact overList_keeps (fun t => t.rst) _ _ _ fun t k => ite_keeps (p := fun t => t.rst) _ _ _ rfl (rfSet_rst t _ _ _ _)

theorem plainReset_rst (s : State) (b : Blk) (i : Nat) : (plainReset s b i).rst = s.rst := by
  cases b with
  | dtm =>
    simp only [plainReset]
    split
    · exact (rbitSet_rst _ _ _ _).trans (rsetN_rst _ _ _)
    · rfl
  | _ => rfl

section
variable {f : State → Blk → Nat → State} {b : Blk} (hf : ∀ t i, KeepsRequests t (f t b i))
include hf

theorem keepsRequests_react (s : State) (bits : List Nat) : KeepsRequests s (react f s b bits) := by
  unfold react
  split
  · exact keepsRequests_requestFaultReset s b _
  · dsimp only
    refine KeepsRequests.trans (.of_rst ?_) (keepsRequests_overList _ _ _ hf)
    split
    · exact deliverNmt_rst s
    · rfl

theorem keepsRequests_raiseWith (s : State) (bits : List Nat) (c : Cap) : KeepsRequests s (raiseWith f s b bits c) := by
  unfold raiseWith
  split
  · exact .refl s
  · refine KeepsRequests.trans (.of_rst ?_) (keepsRequests_react hf _ bits)
    exact (capture_rst _ b bits c).trans ((setFstat_rst _ b bits).trans (escalate_rst s b bits))

end

theorem keepsRequests_raisePlain (s : State) (b : Blk) (bits : List Nat) (c : Cap) : KeepsRequests s (raisePlain s b bits c) :=
  keepsRequests_raiseWith (fun t i => .of_rst (plainReset_rst t b i)) s bits c

theorem keepsRequests_evrPush (s : State) (ch : Nat) (v : BitVec 32) : KeepsRequests s (evrPush s ch v) := by
  unfold evrPush
  split
  · exact .refl s
  · split
    · exact .of_rst rfl
    · exact KeepsRequests.trans (.of_rst (rcount_rst _ _ _)) (keepsRequests_raisePlain _ _ _ _)

/-! ### Accesses to memory -/

theorem noteCe_rst (s : State) (w sym : Nat) (b : Bool) : (noteCe s w sym b).rst = s.rst := by
  unfold noteCe
  split <;> dsimp only <;> split <;> rfl

theorem decodeWord_rst (s : State) (w : Nat) : (decodeWord s w).2.rst = s.rst := by
  unfold decodeWord
  split
  · rfl
  · split
    · rfl
    · exact (noteCe_rst _ _ _ _).trans (setEcc_rst s w none)
    · rfl

theorem putWord_rst (s : State) (w : Nat) (bs : List Byte) : (putWord s w bs).rst = s.rst := by
  unfold putWord setWordValid
  split <;> rfl

theorem storeWord_rst (s : State) (w : Nat) (bs : List Byte) : (storeWord s w bs).rst = s.rst := by
  unfold storeWord
  split
  · exact (putWord_rst _ _ _).trans ((putWord_rst _ _ _).trans (putWord_rst _ _ _))
  · exact putWord_rst _ _ _

theorem applyInject_rst (s : State) (w : Nat) : (applyInject s w).rst = s.rst := by
  unfold applyInject
  split <;> rfl

theorem keepsRequests_noteUe (s : State) (w ty m : Nat) : KeepsRequests s (noteUe s w ty m) := by
  unfold noteUe
  dsimp only
  split <;> exact KeepsRequests.trans (.of_rst (rcount_rst _ _ _)) (keepsRequests_raisePlain _ _ _ _)

theorem keepsRequests_raiseVote (s : State) (g w : Nat) (n : Bool) (ty m : Nat) : KeepsRequests s (raiseVote s g w n ty m) := by
  unfold raiseVote
  dsimp only
  split
  · split
    · exact (keepsRequests_raisePlain _ _ _ _).trans (keepsRequests_raisePlain _ _ _ _)
    · exact keepsRequests_raisePlain _ _ _ _
  · split
    · split
      · exact (keepsRequests_raisePlain _ _ _ _).trans (keepsRequests_raisePlain _ _ _ _)
      · exact keepsRequests_raisePlain _ _ _ _
    · exact keepsRequests_raisePlain _ _ _ _

theorem keepsRequests_votedRead (s : State) (g w ty m : Nat) : KeepsRequests s (votedRead s g w ty m).2.2 := by
  have hd : (decodeWord (decodeWord (decodeWord s w).2 (w + 4)).2 (w + 8)).2.rst = s.rst :=
    (decodeWord_rst _ _).trans ((decodeWord_rst _ _).trans (decodeWord_rst _ _))
  unfold votedRead
  dsimp only
  split
  · split
    · exact .of_rst hd
    · refine KeepsRequests.trans (.of_rst ?_) (keepsRequests_raiseVote _ _ _ _ _ _)
      refine (rbitSet_rst _ _ _ _).trans ((overList_keeps (fun t => t.rst) _ _ _ fun t e => ?_).trans hd)
      split
      · rfl
      · exact putWord_rst _ _ _
  · exact KeepsRequests.trans (.of_rst ((rbitSet_rst _ _ _ _).trans hd)) (keepsRequests_raiseVote _ _ _ _ _ _)

theorem keepsRequests_writeWord (s : State) (m w p : Nat) (bs : List Byte) : KeepsRequests s (writeWord s m w p bs).2 := by
  unfold writeWord
  split
  · exact .of_rst (storeWord_rst _ _ _)
  · split
    · dsimp only
      split
      · exact (keepsRequests_votedRead _ _ _ _ _).then_rst (storeWord_rst _ _ _)
      · exact keepsRequests_votedRead _ _ _ _ _
    · dsimp only
      split
      · exact .of_rst ((storeWord_rst _ _ _).trans (decodeWord_rst _ _))
      · exact KeepsRequests.trans (.of_rst (decodeWord_rst _ _)) (keepsRequests_noteUe _ _ _ _)

theorem keepsRequests_writeWords (n : Nat) (s : State) (m a : Nat) (bs : List Byte) :
    KeepsRequests s (writeWords s m a n bs).2 := by
  induction n generalizing s a bs with
  | zero => exact .refl s
  | succ n ih => exact (keepsRequests_writeWord _ _ _ _ _).trans (ih _ _ _)

theorem keepsRequests_busWrite (s : State) (m a : Nat) (bs : List Byte) : KeepsRequests s (busWrite s m a bs).2 := by
  have hw : KeepsRequests s (applyInject (writeWords s m a (wordSpan a bs.length) bs).2 (a / 16)) :=
    (keepsRequests_writeWords _ _ _ _ _).then_rst (applyInject_rst _ _)
  have hf : KeepsRequests s (fabricError s a 2 m) := keepsRequests_raisePlain _ _ _ _
  rw [busWrite]
  generalize fabricError s a 2 m = f at hf
  generalize regionOf s (a + bs.length - 1) = r'
  generalize regionOf s a = r
  split
  · exact .refl s
  · split
    · exact hf
    · cases r
      · exact hw
      · exact hw
      · exact hf
      · exact hf
      · exact hf

/-! ### The unload before a reset -/

theorem keepsRequests_putStatus (s : State) (n : Fin 8) (o : MediaOp) (i v : Nat) : KeepsRequests s (putStatus s n o i v) := by
  rw [putStatus]
  split
  · exact .refl s
  · exact keepsRequests_busWrite _ _ _ _

theorem countUnit_rst (s : State) (n : Fin 8) (r : ReadStatus) : (countUnit s n r).rst = s.rst := by
  have h1 : (if r.result = 0 then rcount s (Reg.chdUnitok n) 1
      else
        let s := chdIrq s n 0
        if r.result = 1 || r.result = 3 then rcount s (Reg.chdUnitfail n) 1
        else if r.result = 2 then rcount s (Reg.chdSyncmiss n) 1 else s).rst = s.rst := by
    split
    · rfl
    · dsimp only
      split
      · rfl
      · split <;> rfl
  unfold countUnit
  dsimp only
  split
  · exact (rcount_rst _ _ _).trans h1
  · exact h1

theorem keepsRequests_endUnit (s : State) (n : Fin 8) (o : MediaOp) (i : Nat) (r : ReadStatus) :
    KeepsRequests s (endUnit s n o i r) := by
  have h : KeepsRequests s (countUnit (putStatus s n o i (readStatusWord r)) n r) :=
    (keepsRequests_putStatus _ _ _ _ _).then_rst (countUnit_rst _ _ _)
  unfold endUnit
  dsimp only
  split
  · have h' := (h.then_rst (rcount_rst _ (Reg.chdItersum n) r.giter)).trans (keepsRequests_evrPush _ n.val (BitVec.ofNat 32 r.giter))
    split
    · exact h'.trans (keepsRequests_evrPush _ _ _)
    · exact h'
  · exact h

theorem keepsRequests_endUnits (k : Nat) (s : State) (n : Fin 8) (o : MediaOp) (i result : Nat) :
    KeepsRequests s (endUnits s n o i k result) := by
  induction k generalizing s i with
  | zero => exact .refl s
  | succ k ih => exact (keepsRequests_endUnit _ _ _ _ _).trans (ih _ _)

theorem requeue_rst (s : State) (o : MediaOp) (i : Nat) : (requeue s o i).rst = s.rst := by
  unfold requeue
  split
  · rfl
  · dsimp only
    split
    · rfl
    · unfold addWait addReader
      split <;> rfl

theorem keepsRequests_notReadAct (s : State) (a : Fin 16) : KeepsRequests s (notReadAct s a) := by
  unfold notReadAct
  split
  · exact .refl s
  · unfold notRead
    split
    · exact .refl s
    · split
      · exact (keepsRequests_endUnits _ _ _ _ _ _).then_rst ((modSlice_rst _ _ _).trans (requeue_rst _ _ _))
      · exact .refl s

theorem keepsRequests_retractEntry (s : State) (a : Fin 16) (c : Nat) : KeepsRequests s (retractEntry s a c) := by
  have h : KeepsRequests s (notReadAct (radIrq (modAct (toSequencer s a .retract) a fun k => { k with cause := c }) a 3) a) := by
    refine KeepsRequests.trans (.of_rst ?_) (keepsRequests_notReadAct _ _)
    exact (rbitSet_rst _ _ _ _).trans ((modAct_rst _ _ _).trans (modAct_rst _ _ _))
  unfold retractEntry
  split
  · exact .refl s
  · exact .refl s
  · exact .of_rst rfl
  all_goals exact h

theorem keepsRequests_retractAll (s : State) (c : Nat) : KeepsRequests s (retractAll s c) :=
  keepsRequests_overList _ _ _ fun t a => keepsRequests_retractEntry t a c

theorem rectifyAll_rst (s : State) : (rectifyAll s).rst = s.rst := rfl

theorem keepsRequests_unloadForReset (s : State) : KeepsRequests s (unloadForReset s) := by
  unfold unloadForReset
  split
  · exact .refl s
  · exact KeepsRequests.trans (.of_rst (rectifyAll_rst s)) (keepsRequests_retractAll _ _)

theorem keepsRequests_raise {b : Blk} (hb : ∀ t i, KeepsRequests t (blockResetOf t b i)) (s : State) (bits : List Nat) (c : Cap) :
    KeepsRequests s (raise s b bits c) :=
  (keepsRequests_raiseWith hb s bits c).trans (keepsRequests_unloadForReset _)

theorem keepsRequests_raiseCond {b : Blk} (hb : ∀ t i, KeepsRequests t (blockResetOf t b i)) (s : State) (bit : Nat) :
    KeepsRequests s (raiseCond s b bit) := by
  refine KeepsRequests.trans ?_ (keepsRequests_unloadForReset _)
  unfold raiseCondWith
  split
  · exact .refl s
  · exact KeepsRequests.trans (.of_rst (rbitSet_rst s _ _ _)) (keepsRequests_raiseWith hb _ _ _)

/-- R64, R67: a chip reset asked for is pending, or deferred during a power-fail sequence. -/
def requested (s t : State) (c : ResetCause) : Prop := if s.pf.active then c ∈ t.rst.deferred else c ∈ t.rst.pending

theorem requested_of_keeps {s t u : State} {c : ResetCause} (h : requested s t c) (hk : KeepsRequests t u) : requested s u c := by
  unfold requested at h ⊢
  split
  · rename_i hp
    rw [if_pos hp] at h
    exact hk.deferred h
  · rename_i hp
    rw [if_neg hp] at h
    exact hk.pending h

theorem requested_requestReset (s : State) (c : ResetCause) : requested s (requestReset s c) c := by
  unfold requested requestReset
  split
  · split
    · rename_i h; exact List.contains_iff_mem.mp h
    · simp
  · split
    · rename_i h; exact List.contains_iff_mem.mp h
    · simp

theorem requested_askReset (s : State) (c : ResetCause) : requested s (askReset s c) c :=
  requested_of_keeps (requested_requestReset s c) (keepsRequests_unloadForReset _)

end Sys2Proof.Machine
end

section
/-! What the end of a host command can change: registers, ports, the command queue unit, objects and ladders. `hostRest` blanks
these; the end of a command, also of one that a reset has cut, leaves the view equal. -/

namespace Sys2Proof.Machine

/-- `s` with all blanked that the end of a host command can change. -/
def hostRest (s : State) : State :=
  { s with regs := [], ports := Vector.replicate 2 PortSt.reset, cqu := CquSt.reset, obj := ObjSt.reset, ladders := [] }

/-- Whatever the view shows is kept by what keeps the view. -/
theorem hostRest_proj {β : Type} {s t : State} (f : State → β) (hf : ∀ u, f (hostRest u) = f u) (h : hostRest t = hostRest s) :
    f t = f s := by rw [← hf t, h, hf]

theorem hostRest_regs (s : State) (m : SMap DWord) : hostRest { s with regs := m } = hostRest s := rfl
theorem hostRest_cqu (s : State) (m : CquSt) : hostRest { s with cqu := m } = hostRest s := rfl
theorem hostRest_obj (s : State) (m : ObjSt) : hostRest { s with obj := m } = hostRest s := rfl
theorem hostRest_ports (s : State) (m : Vector PortSt 2) : hostRest { s with ports := m } = hostRest s := rfl
theorem hostRest_ladders (s : State) (m : List Ladder) : hostRest { s with ladders := m } = hostRest s := rfl
theorem hostRest_cqu_ladders (s : State) (m : CquSt) (l : List Ladder) :
    hostRest { s with cqu := m, ladders := l } = hostRest s := rfl
theorem hostRest_rset (s : State) (a : Nat) (v : DWord) : hostRest (rset s a v) = hostRest s := hostRest_regs s _
theorem hostRest_rcount (s : State) (a n : Nat) : hostRest (rcount s a n) = hostRest s := hostRest_regs s _
theorem hostRest_modPort (s : State) (p : Port) (f : PortSt → PortSt) : hostRest (modPort s p f) = hostRest s := hostRest_ports s _
theorem hostRest_setTag (s : State) (t : Nat) (x : Tag) : hostRest (setTag s t x) = hostRest s := hostRest_cqu s _
theorem hostRest_modTag (s : State) (t : Nat) (f : Tag → Tag) : hostRest (modTag s t f) = hostRest s := hostRest_setTag s t _
theorem hostRest_dropLocks (s : State) (t : Nat) (k : Lock → Bool) : hostRest (dropLocks s t k) = hostRest s := hostRest_cqu s _
theorem hostRest_putChunk (s : State) (k : Nat) (c : Chunk) : hostRest (putChunk s k c) = hostRest s := hostRest_obj s _

theorem hostRest_freeTagNow (s : State) (t : Nat) : hostRest (freeTagNow s t) = hostRest s :=
  (hostRest_cqu _ _).trans (hostRest_setTag s t _)

theorem hostRest_dropReader (s : State) (d : Desc) : hostRest (dropReader s d) = hostRest s := by
  unfold dropReader
  split
  · exact hostRest_obj s _
  · rfl

theorem hostRest_dropWaits (s : State) (p : WaitOp → Bool) : hostRest (dropWaits s p) = hostRest s := by
  unfold dropWaits
  exact (overList_keeps hostRest _ _ _ fun t (w : WaitOp) => hostRest_dropReader t w.d).trans (hostRest_cqu s _)

/-! ### New versions of chunks -/

theorem hostRest_storeChunk (s : State) (k e : Nat) (d : List Byte) : hostRest (storeChunk s k e d) = hostRest s := by
  have hc : ∀ t : State, ∀ b : Bool, ∀ n : Nat,
      hostRest (if b = true then rcount t Reg.cdcChunksr 1 else rcount (rcount t Reg.cdcChunksc 1) Reg.cdcSaved n) = hostRest t :=
    fun t b n => ite_keeps b _ _ (hostRest_rcount t _ _) ((hostRest_rcount _ _ _).trans (hostRest_rcount t _ _))
  unfold storeChunk
  dsimp only
  refine (hostRest_putChunk _ _ _).trans ?_
  split
  · exact (hc _ _ _).trans (hostRest_rset s _ _)
  · exact (hostRest_obj _ _).trans ((hc _ _ _).trans (hostRest_rset s _ _))

theorem hostRest_zeroAppend (s : State) (t : Nat) : hostRest (zeroAppend s t) = hostRest s := by
  unfold zeroAppend
  dsimp only
  split
  · rfl
  · split
    · rfl
    · unfold zeroLbas
      refine overList_keeps hostRest _ _ _ fun u k => ?_
      dsimp only
      split
      · rfl
      · exact hostRest_storeChunk _ _ _ _

theorem hostRest_stageChunks (s : State) (t e : Nat) (l : List (Nat × List Byte)) :
    hostRest (stageChunks s t e l) = hostRest s := by
  unfold stageChunks
  exact (hostRest_modTag _ _ _).trans (overList_keeps hostRest _ _ _ fun u x => hostRest_storeChunk u _ _ _)

theorem hostRest_noteWritten (s : State) (l : List Nat) (a n : Nat) : hostRest (noteWritten s l a n) = hostRest s := by
  unfold noteWritten
  exact overList_keeps hostRest _ _ _ fun u k => hostRest_putChunk u k _

/-! ### Completions -/

theorem hostRest_writeCqe (s : State) (t : Nat) (x : Tag) (q : Cq) : hostRest (writeCqe s t x q) = hostRest s := by
  unfold writeCqe
  exact (hostRest_freeTagNow _ _).trans (hostRest_modPort _ _ _)

theorem hostRest_postOne (s : State) (h : List (Port × Nat)) (t : Nat) : hostRest (postOne s h t).2 = hostRest s := by
  unfold postOne
  dsimp only
  split
  · rfl
  · split
    · rfl
    · exact hostRest_writeCqe _ _ _ _

theorem hostRest_postAll (l : List Nat) (s : State) (h : List (Port × Nat)) : hostRest (postAll s h l) = hostRest s := by
  induction l generalizing s h with
  | nil => rfl
  | cons t rest ih => exact (ih _ _).trans (hostRest_postOne s h t)

theorem hostRest_postCompletions (s : State) : hostRest (postCompletions s) = hostRest s := by
  unfold postCompletions
  split
  · rfl
  · exact (hostRest_postAll _ _ _).trans (hostRest_postAll _ _ _)

theorem hostRest_failEarly (s : State) (t : Nat) (r : Nat × Nat) : hostRest (failEarly s t r) = hostRest s := by
  unfold failEarly
  exact (hostRest_cqu _ _).trans ((hostRest_dropLocks _ _ _).trans ((hostRest_modTag _ _ _).trans (hostRest_zeroAppend s t)))

theorem hostRest_proceed (s : State) (t : Nat) : hostRest (proceed s t) = hostRest s := by
  unfold proceed
  dsimp only
  split
  · exact hostRest_failEarly _ _ _
  · split
    · exact hostRest_failEarly _ _ _
    · exact hostRest_modTag _ _ _

theorem hostRest_releaseWaiters (s : State) : hostRest (releaseWaiters s) = hostRest s := by
  unfold releaseWaiters
  exact overList_keeps hostRest _ _ _ fun u t => ite_keeps _ _ _ rfl (hostRest_proceed u t)

theorem hostRest_locksChanged (s : State) : hostRest (locksChanged s) = hostRest s :=
  (hostRest_postCompletions _).trans ((hostRest_releaseWaiters _).trans (hostRest_releaseWaiters s))

theorem hostRest_settleRdy (s : State) (p : Port) : hostRest (settleRdy s p) = hostRest s := by
  unfold settleRdy
  split
  · exact hostRest_modPort _ _ _
  · rfl

theorem hostRest_complete (s : State) (t : Nat) (r : Nat × Nat) (d : Nat) : hostRest (complete s t r d) = hostRest s := by
  unfold complete
  dsimp only
  generalize hz : (if r = scOk then s else zeroAppend s t) = u
  have hu : hostRest (dropLocks u t fun _ => false) = hostRest s := by
    refine (hostRest_dropLocks _ _ _).trans ?_
    rw [← hz]
    split
    · rfl
    · exact hostRest_zeroAppend s t
  split
  · refine (hostRest_settleRdy _ _).trans ((hostRest_locksChanged _).trans ?_)
    split
    · exact (hostRest_freeTagNow _ _).trans hu
    · exact hu
  · exact (hostRest_locksChanged _).trans ((hostRest_cqu _ _).trans ((hostRest_setTag _ _ _).trans hu))

/-! ### Commands that a reset ends -/

theorem hostRest_endWith (s : State) (t : Nat) (r : Nat × Nat) : hostRest (endWith s t r) = hostRest s := by
  have h := hostRest_dropWaits s fun w => decide (w.tag = t)
  unfold endWith
  dsimp only
  split
  · exact (hostRest_complete _ _ _ _).trans ((hostRest_ladders _ _).trans h)
  · exact (hostRest_modTag _ _ _).trans ((hostRest_ladders _ _).trans h)

theorem hostRest_leaveDead (s : State) (t : Nat) : hostRest (leaveDead s t) = hostRest s := by
  have h := hostRest_dropWaits s fun w => decide (w.tag = t)
  unfold leaveDead
  dsimp only
  split
  · exact (hostRest_freeTagNow _ _).trans
      ((hostRest_dropLocks _ _ _).trans ((hostRest_cqu_ladders _ _ _).trans h))
  · exact (hostRest_modTag _ _ _).trans
      ((hostRest_dropLocks _ _ _).trans ((hostRest_cqu_ladders _ _ _).trans h))

theorem hostRest_storeFetched (s : State) (t : Nat) : hostRest (storeFetched s t) = hostRest s := by
  unfold storeFetched
  dsimp only
  split
  · exact hostRest_leaveDead s t
  · exact ite_keeps _ _ _ (hostRest_leaveDead s t) (ite_keeps _ _ _
      ((hostRest_leaveDead _ _).trans ((hostRest_noteWritten _ _ _ _).trans (hostRest_stageChunks s t _ _)))
      (hostRest_modTag s t _))

theorem hostRest_endByReset (s : State) (t : Nat) : hostRest (endByReset s t) = hostRest s := by
  unfold endByReset
  dsimp only
  split
  · exact hostRest_modTag _ _ _
  · exact hostRest_storeFetched _ _

theorem hostRest_resetController (s : State) (p : Port) : hostRest (resetController s p) = hostRest s := by
  unfold resetController
  exact (hostRest_settleRdy _ _).trans ((hostRest_locksChanged _).trans ((hostRest_modPort _ _ _).trans
    (overList_keeps hostRest _ _ _ hostRest_endByReset)))

theorem hostRest_endCut (s : State) : hostRest (endCut s) = hostRest s := by
  unfold endCut
  dsimp only
  refine (overList_keeps hostRest _ _ _ hostRest_resetController).trans ((hostRest_cqu _ _).trans ?_)
  split
  · exact (overList_keeps hostRest _ _ _ fun u t => hostRest_endWith u t _).trans (hostRest_cqu s _)
  · rfl

end Sys2Proof.Machine
end

section
/-! The tick (R19), the watchdog (R70) and the fields of WDTCTL. -/

namespace Sys2Proof.Machine

/-! ### Fields that a plain write stores (R12) -/

theorem writtenValue_testBit {r : RegRow} {i : Nat} (hi : i < 64) (hw : r.rw.testBit i = true) (hc : r.w1c.testBit i = false)
    (old v : DWord) :
    (writtenValue r old v).toNat.testBit i = (clampFields r.clamps (v.toNat % (r.full + 1))).testBit i := by
  rw [BitVec.testBit_toNat]
  simp only [writtenValue, BitVec.getLsbD_and, BitVec.getLsbD_or, BitVec.getLsbD_not, BitVec.getLsbD_ofNat, hi, hw, hc]
  simp

theorem writtenValue_fld {r : RegRow} {l w : Nat} (hl : l + w ≤ 64) (hw : ∀ j, j < w → r.rw.testBit (l + j) = true)
    (hc : ∀ j, j < w → r.w1c.testBit (l + j) = false) (old v : DWord) :
    fld (writtenValue r old v).toNat l w = fld (clampFields r.clamps (v.toNat % (r.full + 1))) l w := by
  apply Nat.eq_of_testBit_eq
  intro j
  simp only [fld, Nat.testBit_mod_two_pow, Nat.testBit_div_two_pow]
  by_cases hj : j < w
  · rw [Nat.add_comm j l, writtenValue_testBit (by omega) (hw j hj) (hc j hj)]
  · simp [hj]

/-! ### Fault events with a plain block reset -/

/-- The block reset of a block is of its registers and its own work alone. -/
def plainBlk (b : Blk) : Prop := ∀ t i, blockResetOf t b i = plainReset t b i

theorem rest_blockResetOf {b : Blk} (hb : plainBlk b) (t : State) (i : Nat) : rest (blockResetOf t b i) = rest t := by
  rw [hb]
  exact rest_of_busRest (busRest_plainReset t b i)

theorem keepsRequests_blockResetOf {b : Blk} (hb : plainBlk b) (t : State) (i : Nat) : KeepsRequests t (blockResetOf t b i) := by
  rw [hb]
  exact .of_rst (plainReset_rst t b i)

theorem rest_raise {b : Blk} (hb : plainBlk b) (s : State) (bits : List Nat) (c : Cap) : rest (raise s b bits c) = rest s :=
  (rest_unloadForReset _).trans
    (raiseWith_keeps rest blockResetOf s b bits c (rest_blockResetOf hb) fun _ _ h => rest_of_busRest h)

theorem rest_raiseCond {b : Blk} (hb : plainBlk b) (s : State) (bit : Nat) : rest (raiseCond s b bit) = rest s := by
  refine (rest_unloadForReset _).trans ?_
  unfold raiseCondWith
  split
  · rfl
  · exact (raiseWith_keeps rest blockResetOf _ b [bit] _ (rest_blockResetOf hb) fun _ _ h => rest_of_busRest h).trans
      (rest_rset s _ _)

/-! ### What keeps the time -/

/-- From `s` to `t` the tick, the watchdog's count, the cycle counters and the power-fail sequence are as before, and every
request for a chip reset still stands. -/
structure KeepsTime (s t : State) : Prop where
  tick : t.tick = s.tick
  count : t.rst.wdtCount = s.rst.wdtCount
  cycles : ∀ c, (t.core c).cycle = (s.core c).cycle
  active : t.pf.active = s.pf.active
  requests : KeepsRequests s t

theorem KeepsTime.refl (s : State) : KeepsTime s s := ⟨rfl, rfl, fun _ => rfl, rfl, .refl s⟩

theorem KeepsTime.trans {s t u : State} (h : KeepsTime s t) (h' : KeepsTime t u) : KeepsTime s u :=
  ⟨h'.tick.trans h.tick, h'.count.trans h.count, fun c => (h'.cycles c).trans (h.cycles c), h'.active.trans h.active,
    h.requests.trans h'.requests⟩

theorem KeepsTime.of_fields {s t : State} (ht : t.tick = s.tick) (hr : t.rst = s.rst) (hc : t.cores = s.cores) (hp : t.pf = s.pf) :
    KeepsTime s t :=
  ⟨ht, by rw [hr], fun c => by rw [State.core, State.core, hc], by rw [hp], .of_rst hr⟩

theorem rest_core_cycle (s : State) (c : Fin 8) : ((rest s).core c).cycle = (s.core c).cycle := by
  simp [rest, busRest, State.core, vget]

theorem KeepsTime.of_rest {s t : State} (h : rest t = rest s) (hk : KeepsRequests s t) : KeepsTime s t :=
  ⟨rest_proj (fun u => u.tick) (fun _ => rfl) h, rest_proj (fun u => u.rst.wdtCount) (fun _ => rfl) h,
    fun c => rest_proj (fun u => (u.core c).cycle) (fun u => rest_core_cycle u c) h,
    rest_proj (fun u => u.pf.active) (fun _ => rfl) h, hk⟩

theorem keepsTime_overList {α : Type} (l : List α) (s : State) (f : State → α → State) (h : ∀ t x, KeepsTime t (f t x)) :
    KeepsTime s (overList l s f) := by
  induction l generalizing s with
  | nil => exact .refl s
  | cons x rest ih => exact (h s x).trans (ih (f s x))

theorem keepsTime_raise1 {b : Blk} (hb : plainBlk b) (s : State) (i : Nat) : KeepsTime s (raise1 s b i) :=
  .of_rest (rest_raise hb s [i] _) (keepsRequests_raise (keepsRequests_blockResetOf hb) s [i] _)

theorem keepsTime_raiseCond {b : Blk} (hb : plainBlk b) (s : State) (i : Nat) : KeepsTime s (raiseCond s b i) :=
  .of_rest (rest_raiseCond hb s i) (keepsRequests_raiseCond (keepsRequests_blockResetOf hb) s i)

theorem keepsTime_askReset (s : State) (c : ResetCause) : KeepsTime s (askReset s c) :=
  .of_rest (rest_askReset s c) ((keepsRequests_requestReset s c).trans (keepsRequests_unloadForReset _))

theorem keepsTime_unloadForReset (s : State) : KeepsTime s (unloadForReset s) :=
  .of_rest (rest_unloadForReset s) (keepsRequests_unloadForReset s)

/-! ### The parts of a tick -/

theorem keepsTime_endSlews (s : State) : KeepsTime s (endSlews s) := by
  unfold endSlews
  refine keepsTime_overList _ _ _ fun t r => ?_
  split
  · exact .of_fields rfl rfl rfl rfl
  · exact .refl t

theorem keepsTime_queueEvent (s : State) (code arg : Nat) : KeepsTime s (queueEvent s code arg) := by
  unfold queueEvent
  dsimp only
  split
  · exact .of_fields (rbitSet_tick _ _ _ _) (rbitSet_rst _ _ _ _) (rbitSet_cores _ _ _ _) (rbitSet_pf _ _ _ _)
  · exact .of_fields (rbitSet_tick _ _ _ _) (rbitSet_rst _ _ _ _) (rbitSet_cores _ _ _ _) (rbitSet_pf _ _ _ _)

theorem keepsTime_postEvent (s : State) (code arg : Nat) : KeepsTime s (postEvent s code arg) := by
  unfold postEvent
  split
  · exact keepsTime_queueEvent s code arg
  · exact .of_fields rfl rfl rfl rfl

theorem keepsTime_followCond (s : State) (bit code : Nat) (present : Bool) : KeepsTime s (followCond s bit code present) := by
  unfold followCond
  split
  · split
    · exact .refl s
    · exact (keepsTime_postEvent s code 0).trans (keepsTime_raiseCond (fun _ _ => rfl) _ bit)
  · exact .of_fields (rbitSet_tick _ _ _ _) (rbitSet_rst _ _ _ _) (rbitSet_cores _ _ _ _) (rbitSet_pf _ _ _ _)

theorem keepsTime_datumSync (s : State) : KeepsTime s (datumSync s) := by
  unfold datumSync
  split
  · dsimp only
    refine KeepsTime.trans ?_ ((keepsTime_followCond _ _ _ _).trans (keepsTime_followCond _ _ _ _))
    exact KeepsTime.trans (t := modDatum s _) (.of_fields rfl rfl rfl rfl)
      (keepsTime_overList _ _ _ fun t (e : Nat × Nat) => keepsTime_queueEvent t e.1 e.2)
  · exact .refl s

/-- An error of the hardware is a fault event of the block it arises in. -/
theorem keepsTime_hwError (s : State) (e : HwErr) : KeepsTime s (hwError s e) := by
  cases e with
  | tagPar => exact keepsTime_raise1 (fun _ _ => rfl) s 0
  | lockPar => exact keepsTime_raise1 (fun _ _ => rfl) s 1
  | engPar => exact keepsTime_raise1 (fun _ _ => rfl) s 1
  | cacheUe => exact keepsTime_raise1 (fun _ _ => rfl) s 0
  | tpcPar f =>
    exact KeepsTime.trans (t := modFct s _) (.of_fields rfl rfl rfl rfl) (keepsTime_raise1 (b := .fct) (fun _ _ => rfl) _ 3)
  | jrnLost => exact keepsTime_raise1 (fun _ _ => rfl) s 4

theorem keepsTime_endCut (s : State) : KeepsTime s (endCut s) :=
  have h := hostRest_endCut s
  .of_fields (hostRest_proj (fun u => u.tick) (fun _ => rfl) h) (hostRest_proj (fun u => u.rst) (fun _ => rfl) h)
    (hostRest_proj (fun u => u.cores) (fun _ => rfl) h) (hostRest_proj (fun u => u.pf) (fun _ => rfl) h)

theorem keepsTime_wdtExpireOp (s : State) : KeepsTime s (wdtExpireOp s) := by
  unfold wdtExpireOp when
  split
  · exact (keepsTime_raise1 (fun _ _ => rfl) s 2).trans (keepsTime_askReset _ _)
  · exact .refl s

/-- R70: at zero the enabled watchdog asks for its chip reset. -/
theorem requested_wdtExpireOp {s : State} (he : rbit s Reg.sysWdtctl 31 = true) (hz : s.rst.wdtCount = 0) :
    requested s (wdtExpireOp s) .wdt := by
  have h := requested_askReset (raise1 s .sys 2) .wdt
  rw [wdtExpireOp, when, if_pos (by simp [he, hz])]
  rwa [requested, (keepsTime_raise1 (b := .sys) (fun _ _ => rfl) s 2).active] at h

/-- A tick of the watchdog, in the terms of the statement. -/
theorem wdtTick_count (s : State) :
    (wdtTick s).rst.wdtCount = if rbit s Reg.sysWdtctl 31 then s.rst.wdtCount - 1 else s.rst.wdtCount := by
  unfold wdtTick
  cases he : rbit s Reg.sysWdtctl 31 with
  | false => rfl
  | true =>
    by_cases hz : s.rst.wdtCount = 0
    · simp [hz]
    · rw [if_pos (by simp [hz]), (keepsTime_wdtExpireOp _).count]
      rfl

/-- `s` with the watchdog's count at `n`. -/
def setWdtCount (s : State) (n : Nat) : State := { s with rst := { s.rst with wdtCount := n } }

theorem wdtTick_rest (s : State) : ∃ n, KeepsTime (setWdtCount s n) (wdtTick s) := by
  unfold wdtTick
  split
  · exact ⟨_, keepsTime_wdtExpireOp _⟩
  · exact ⟨s.rst.wdtCount, .refl s⟩

theorem requested_wdtTick {s : State} (he : rbit s Reg.sysWdtctl 31 = true) (h1 : s.rst.wdtCount = 1) :
    requested s (wdtTick s) .wdt := by
  rw [wdtTick, if_pos (by simp [he, h1])]
  exact requested_wdtExpireOp (s := setWdtCount s (s.rst.wdtCount - 1)) he (by rw [setWdtCount, h1])

theorem coreCycles_cycle (s : State) (c : Fin 8) (h : (s.core c).run ≠ .reset) :
    ((coreCycles s).core c).cycle = ((s.core c).cycle + 12) % 2 ^ 64 := by
  have hc : (coreCycles s).core c = if (s.core c).run = .reset then s.core c
      else { s.core c with cycle := ((s.core c).cycle + 12) % 2 ^ 64 } := by
    exact Vector.getElem_map _ _
  rw [hc, if_neg h]

/-- The state in which the watchdog, the slews and the rest of a tick follow: the tick counted, the cores clocked. -/
def ticked (s : State) : State := msixTick (coreCycles { s with tick := s.tick + 1 })

/-- What follows the watchdog in a tick keeps the time. -/
theorem keepsTime_deviceTickOp (s : State) (errs : List HwErr) : KeepsTime (wdtTick (ticked s)) (deviceTickOp s errs) :=
  (keepsTime_endSlews _).trans ((keepsTime_datumSync _).trans ((keepsTime_overList errs _ _ keepsTime_hwError).trans
    ((keepsTime_endCut _).trans (keepsTime_unloadForReset _))))

/-! ### WDTCTL (R70) -/

/-- The entry of WDTCTL in the map of SYS: PERIOD from 1 up, and EN. -/
theorem regAt_sysWdtctl : ∃ r, regAt Reg.sysWdtctl = some (.sys, r, 0) ∧ r.w64 = false ∧ r.rw = 0x8000FFFF ∧ r.w1c = 0
    ∧ r.clamps = [(0, 16, 1, 65535)] :=
  ⟨_, rfl, rfl, rfl, rfl, rfl⟩

/-- What a write of WDTCTL stores. -/
theorem fieldWrite32_sysWdtctl (s : State) (v : Word) :
    rf (fieldWrite32 s Reg.sysWdtctl v) Reg.sysWdtctl 0 16 = max 1 (v.toNat % 2 ^ 16)
      ∧ rbit (fieldWrite32 s Reg.sysWdtctl v) Reg.sysWdtctl 31 = v.toNat.testBit 31 := by
  obtain ⟨r, hr, hw, hrw, hc, hcl⟩ := regAt_sysWdtctl
  have hv := v.isLt
  have hz : (v.zeroExtend 64).toNat % (r.full + 1) = v.toNat := by
    rw [RegRow.full, hw]
    simp only [BitVec.truncate_eq_setWidth, BitVec.toNat_setWidth]
    simp
    omega
  have hclamp : clampFields r.clamps v.toNat = v.toNat - v.toNat % 2 ^ 16 + max 1 (v.toNat % 2 ^ 16) := by
    simp only [hcl, clampFields, clampNat]
    omega
  rw [fieldWrite32, fieldWrite_at hr, rf, rbit, rn, rget_rset_same]
  constructor
  · rw [writtenValue_fld (by decide) (by rw [hrw]; decide) (by rw [hc]; decide), hz, hclamp, fld]
    omega
  · rw [writtenValue_testBit (by decide) (by rw [hrw]; decide) (by rw [hc]; decide), hz, hclamp, Nat.testBit_eq_decide_div_mod_eq,
      Nat.testBit_eq_decide_div_mod_eq]
    congr 1
    apply propext
    omega

theorem fieldWrite_rest (s : State) (a : Nat) (v : DWord) : ∃ m, fieldWrite s a v = { s with regs := m } := by
  unfold fieldWrite
  split
  · exact ⟨s.regs, rfl⟩
  · exact ⟨_, rfl⟩

theorem fieldWrite32_mem (s : State) (a : Nat) (v : Word) : (fieldWrite32 s a v).mem = s.mem := by
  obtain ⟨m, h⟩ := fieldWrite_rest s a (v.zeroExtend 64)
  rw [fieldWrite32, h]

theorem fieldWrite32_rst (s : State) (a : Nat) (v : Word) : (fieldWrite32 s a v).rst = s.rst := by
  obtain ⟨m, h⟩ := fieldWrite_rest s a (v.zeroExtend 64)
  rw [fieldWrite32, h]

theorem fieldWrite32_regsSameBut (s : State) (a : Nat) (v : Word) : regsSameBut s (fieldWrite32 s a v) [a] := by
  unfold fieldWrite32 fieldWrite
  split
  · exact fun _ _ => rfl
  · exact regsSameBut_rset s a _

/-- R70: EN going from 0 to 1 loads the count. -/
theorem wdtctlWriteOp_eq (s : State) (v : Word) :
    wdtctlWriteOp s v = setWdtCount (fieldWrite32 s Reg.sysWdtctl v)
      (if !rbit s Reg.sysWdtctl 31 && v.toNat.testBit 31 then max 1 (v.toNat % 2 ^ 16) * 100000 else s.rst.wdtCount) := by
  obtain ⟨hp, hen⟩ := fieldWrite32_sysWdtctl s v
  unfold wdtctlWriteOp
  dsimp only
  rw [hen]
  split
  · exact congrArg (fun n => setWdtCount _ (n * 100000)) hp
  · rw [← fieldWrite32_rst s Reg.sysWdtctl v]
    rfl

theorem wdtExpireOp_conf (s : State) : (wdtExpireOp s).conf = s.conf := by
  unfold wdtExpireOp when
  split
  · exact rest_proj (fun u => u.conf) (fun _ => rfl) ((rest_askReset _ _).trans (rest_raise (b := .sys) (fun _ _ => rfl) s [2] _))
  · rfl

end Sys2Proof.Machine

section
open Sys2Proof Sys2Proof.Machine

/-- Settles O2: what follows the watchdog in a tick keeps the time and every request; the other clauses are the commands'
equations. -/
theorem tickAndWatchdog : Obligations.TickAndWatchdog := by
  unfold Obligations.TickAndWatchdog
  refine ⟨?_, ?_, ?_, ?_, ?_, ?_⟩
  · intro errs s
    refine answers_settled _ _ ?_
    obtain ⟨ht, hn, hc, ha, hq⟩ := keepsTime_deviceTickOp s errs
    obtain ⟨n, hw⟩ := wdtTick_rest (ticked s)
    refine ⟨?_, ?_, fun he h1 => ?_, fun c hrun => ?_⟩
    · rw [settle_tick, ht, hw.tick]
      rfl
    · rw [settle_rst, hn, wdtTick_count]
      rfl
    · rw [settle_rst]
      exact requested_of_keeps (requested_wdtTick (s := ticked s) he h1) hq
    · rw [settle_core_cycle, hc c, hw.cycles c]
      exact coreCycles_cycle _ c hrun
  · intro v s
    obtain ⟨hp, hen⟩ := fieldWrite32_sysWdtctl s v
    refine answers_settled _ _ ?_
    rw [wdtctlWriteOp_eq]
    refine ⟨?_, ?_, ?_, regsSameBut_settle (fieldWrite32_regsSameBut s Reg.sysWdtctl v), ?_⟩
    · rw [settle_rf]; exact hp
    · rw [settle_rbit]; exact hen
    · rw [settle_rst]; rfl
    · rw [settle_mem]; exact fieldWrite32_mem s _ v
  · intro s
    refine answers_settled _ _ ⟨?_, settle_regs _, settle_mem _⟩
    rw [settle_rst]
    rfl
  · intro v s hv
    exact congrArg settled (if_neg hv)
  · intro s he hz
    refine answers_settled _ _ ⟨?_, ?_, ?_⟩
    · rw [settle_rst]
      exact requested_wdtExpireOp he hz
    · rw [settle_tick, (keepsTime_wdtExpireOp s).tick]
    · rw [settle_conf, wdtExpireOp_conf]
  · intro s h
    refine congrArg settled (if_neg ?_)
    rcases h with h | h <;> simp [h]
end
end

section
/-! The end of a command leaves nothing to follow (R42, R466): a settled state stays so, and every command ends in one. -/

namespace Sys2Proof.Machine

/-! ### What the levels of the lines and the end of a wait depend on -/

/-- The parts of a state that the levels of the lines are read from (R38). -/
def lineView (s : State) : State :=
  { State.reset with part := s.part, conf := s.conf, regs := s.regs, inputs := s.inputs, swint := s.swint }

theorem lineLevel_lineView (s : State) (n : Nat) : lineLevel (lineView s) n = lineLevel s n := rfl

theorem lineLevel_congr {s t : State} (hp : t.part = s.part) (hc : t.conf = s.conf) (hr : t.regs = s.regs)
    (hi : t.inputs = s.inputs) (hw : t.swint = s.swint) (n : Nat) : lineLevel t n = lineLevel s n := by
  rw [← lineLevel_lineView t, ← lineLevel_lineView s, lineView, hp, hc, hr, hi, hw, lineView]

theorem lineLevel_settle (s : State) (n : Nat) : lineLevel (settle s) n = lineLevel s n :=
  lineLevel_congr (settle_part s) (settle_conf s) (settle_regs s) (settle_inputs s) (settle_swint s) n

theorem lineLevel_wakeCore (s : State) (c : Fin 8) (n : Nat) : lineLevel (wakeCore s c) n = lineLevel s n :=
  lineLevel_congr (wakeCore_part s c) (wakeCore_conf s c) (wakeCore_regs s c) (wakeCore_inputs s c) (wakeCore_swint s c) n

theorem wakeCore_assigns (s : State) (c : Fin 8) : (wakeCore s c).assigns = s.assigns := overWake_assigns [c] s

theorem dieHeld_wakeCore (s : State) (c : Fin 8) : dieHeld (wakeCore s c) = dieHeld s := by
  rw [dieHeld, wakeCore_rst, dieHeld]

/-- What R40 and R41 read of a line's route and assignment is as it was. -/
theorem routes_wakeCore (s : State) (c d : Fin 8) (n : Nat) :
    routeEn (wakeCore s c) n = routeEn s n ∧ routeNames (wakeCore s c) n d = routeNames s n d
      ∧ routePrio (wakeCore s c) n = routePrio s n ∧ routeMode1 (wakeCore s c) n = routeMode1 s n
      ∧ assignee (wakeCore s c) n = assignee s n := by
  have hr : ∀ a, rn (wakeCore s c) a = rn s a := fun a => by rw [rn, rn, rget, rget, wakeCore_regs]
  refine ⟨?_, ?_, ?_, ?_, ?_⟩
  · rw [routeEn, rbit, hr, routeEn, rbit]
  · rw [routeNames, rbit, hr, routeNames, rbit]
  · rw [routePrio, rf, hr, routePrio, rf]
  · rw [routeMode1, rbit, hr, routeMode1, rbit]
  · rw [assignee, wakeCore_assigns, assignee]

/-- A wake changes nothing that ends a wait, of its own core or of another. -/
theorem wfiEnds_wakeCore (s : State) (c d : Fin 8) : wfiEnds (wakeCore s c) d = wfiEnds s d := by
  have hk : ((wakeCore s c).core d).nmt = (s.core d).nmt ∧ ((wakeCore s c).core d).werr = (s.core d).werr
      ∧ ((wakeCore s c).core d).ipri = (s.core d).ipri := by
    rcases wakeCore_core s c d with h | ⟨_, h⟩ <;> rw [h] <;> exact ⟨rfl, rfl, rfl⟩
  obtain ⟨hn, hw, hi⟩ := hk
  have hl : ∀ n, lineWakes (wakeCore s c) n d = lineWakes s n d := fun n => by
    obtain ⟨hen, hnames, hprio, hmode, has⟩ := routes_wakeCore s c d n
    unfold lineWakes
    rw [hen, hnames, hprio, hmode, has, lineLevel_wakeCore, hi]
  simp only [wfiEnds, hn, hw, hl]

/-! ### The wakes at the end of a command -/

/-- A core whose wait has ended does not wait after its wake. -/
theorem wakeCore_not_waiting {s : State} {c : Fin 8} (hd : dieHeld s = false) (he : wfiEnds s c = true) :
    ((wakeCore s c).core c).run ≠ .waiting := by
  intro hw
  have hr : (s.core c).run = .waiting := by
    rcases wakeCore_core s c c with h | ⟨h, _⟩
    · rw [← h]; exact hw
    · exact h
  rw [wakeCore, if_pos (by simp [hr, hd, he]), modCore_core] at hw
  cases hw

theorem overWake_settles (l : List (Fin 8)) (s : State) {c : Fin 8} (hc : c ∈ l) (hd : dieHeld s = false)
    (hw : ((overList l s wakeCore).core c).run = .waiting) : wfiEnds s c = false := by
  induction l generalizing s with
  | nil => cases hc
  | cons d rest ih =>
    rcases List.mem_cons.mp hc with rfl | hc
    · by_contra he
      have hn := wakeCore_not_waiting hd (Bool.eq_true_of_not_eq_false he)
      rcases overWake_core rest (wakeCore s c) c with h | ⟨h, _⟩
      · exact hn (h ▸ hw)
      · exact hn h
    · rw [← wfiEnds_wakeCore s d c]
      exact ih (wakeCore s d) hc (by rw [dieHeld_wakeCore, hd]) hw

theorem mem_fin8 (c : Fin 8) : c ∈ fin8 := by
  revert c
  decide

theorem wfiEnds_overWake (l : List (Fin 8)) (s : State) (c : Fin 8) : wfiEnds (overList l s wakeCore) c = wfiEnds s c :=
  overList_keeps (fun t => wfiEnds t c) l s wakeCore fun t d => wfiEnds_wakeCore t d c

/-- What follows by itself has followed at the end of a command. -/
theorem settle_settled (s : State) : Settled (settle s) := by
  refine ⟨fun e he => ?_, fun c hw hd => ?_⟩
  · rw [settle_assigns] at he
    rw [lineLevel_settle]
    exact (List.mem_filter.mp he).2
  · have hd' : dieHeld (dropAssigns s) = false := by rw [← hd, dieHeld, dieHeld, settle_rst]; rfl
    exact (wfiEnds_overWake fin8 (dropAssigns s) c).trans (overWake_settles fin8 _ (mem_fin8 c) hd' hw)

/-! ### Every command ends settled -/

/-- Each meaning is an operation on the state, settled at its end. -/
theorem exec_settled (c : Instr) (s : State) : ∃ u, exec c s = settled u := by
  cases c <;> exact ⟨_, rfl⟩

end Sys2Proof.Machine
end

section
open Sys2Proof Sys2Proof.Machine

/-- Settles O57: a step either idles or ends with a settled state. -/
theorem settledInvariant : Obligations.SettledInvariant := by
  intro s t hs hstep
  unfold step at hstep
  split at hstep
  case h_1 => exact Host.Outcome.next.inj hstep ▸ hs
  case h_2 c rest _ =>
    obtain ⟨u, hu⟩ := exec_settled c { s with pending := rest }
    rw [hu] at hstep
    exact Host.Outcome.next.inj hstep ▸ settle_settled u
end

section
/-! The routing of interrupts (R40–R43) and the software interrupts (R44): the routing registers store what is written to them,
and the assignment of a line follows R41 and R42. -/

namespace Sys2Proof.Machine

/-! ### Registers of 32 bits that store what is written to them (R12) -/

/-- The register at `a` has 32 bits, of which `rw` are RW and none W1C, and no field with a range. -/
def plainReg (a rw : Nat) : Bool :=
  match regAt a with
  | some (_, r, _) => !r.w64 && r.rw == rw && r.w1c == 0 && r.clamps.isEmpty
  | none => false

section
variable {a rw : Nat}

theorem plainReg_iff : plainReg a rw = true ↔
    ∃ b r i, regAt a = some (b, r, i) ∧ r.w64 = false ∧ r.rw = rw ∧ r.w1c = 0 ∧ r.clamps = [] := by
  unfold plainReg
  split
  · rename_i b r i h
    simp [h, and_assoc]
  · rename_i h
    simp [h]

theorem fieldWrite_testBit (h : plainReg a rw = true) (s : State) (v : DWord) {i : Nat} (hi : i < 32)
    (hb : rw.testBit i = true) : (rn (fieldWrite s a v) a).testBit i = v.toNat.testBit i := by
  obtain ⟨b, r, k, hr, hw, hrw, hc, hcl⟩ := plainReg_iff.mp h
  have hfull : r.full + 1 = 2 ^ 32 := by rw [RegRow.full, hw]; rfl
  rw [rn, fieldWrite_at hr, rget_rset_same, writtenValue_testBit (by omega) (by rw [hrw, hb]) (by rw [hc, Nat.zero_testBit]), hcl,
    clampFields, hfull, Nat.testBit_mod_two_pow, decide_eq_true hi, Bool.true_and]

theorem fieldWrite_fld (h : plainReg a rw = true) (s : State) (v : DWord) {l w : Nat} (hl : l + w ≤ 32)
    (hb : ∀ j, j < w → rw.testBit (l + j) = true) : fld (rn (fieldWrite s a v) a) l w = fld v.toNat l w := by
  apply Nat.eq_of_testBit_eq
  intro j
  simp only [fld, Nat.testBit_mod_two_pow, Nat.testBit_div_two_pow]
  by_cases hj : j < w
  · rw [Nat.add_comm j l, fieldWrite_testBit h s v (by omega) (hb j hj)]
  · simp [hj]

theorem zeroExtend_toNat (v : Word) : (v.zeroExtend 64).toNat = v.toNat := by
  have hv := v.isLt
  rw [BitVec.toNat_setWidth]
  omega

theorem rbit_fieldWrite32 (h : plainReg a rw = true) (s : State) (v : Word) {i : Nat} (hi : i < 32) (hb : rw.testBit i = true) :
    rbit (fieldWrite32 s a v) a i = v.toNat.testBit i := by
  rw [rbit, fieldWrite32, fieldWrite_testBit h s _ hi hb, zeroExtend_toNat]

theorem rf_fieldWrite32 (h : plainReg a rw = true) (s : State) (v : Word) {l w : Nat} (hl : l + w ≤ 32)
    (hb : ∀ j, j < w → rw.testBit (l + j) = true) : rf (fieldWrite32 s a v) a l w = fld v.toNat l w := by
  rw [rf, fieldWrite32, fieldWrite_fld h s _ hl hb, zeroExtend_toNat]

end

/-! ### IRQROUTE and NMTROUTE -/

/-- EN, MODE, PRIO and the cores are the fields of IRQROUTE (R40). -/
theorem plainReg_cpcIrqroute : ∀ n : Fin 128, plainReg (Reg.cpcIrqroute n) 0x810F00FF = true := by decide +kernel

theorem plainReg_cpcNmtroute : plainReg Reg.cpcNmtroute 0xFF = true := by decide +kernel

theorem irqrouteWriteOp_cases (s : State) (n : Fin 128) (v : Word) :
    ∃ l, irqrouteWriteOp s n v = { fieldWrite32 s (Reg.cpcIrqroute n) v with assigns := l }
      ∧ (rget (fieldWrite32 s (Reg.cpcIrqroute n) v) (Reg.cpcIrqroute n) ≠ rget s (Reg.cpcIrqroute n) → ∀ e ∈ l, e.1 ≠ n) := by
  unfold irqrouteWriteOp
  dsimp only
  split
  · exact ⟨_, rfl, fun h => absurd ‹_› h⟩
  · exact ⟨_, rfl, fun _ e he => by simpa using (List.mem_filter.mp he).2⟩

/-! ### Assignment of MODE 1 lines (R41, R42) -/

theorem assignee_eq_none {s : State} {n : Nat} : assignee s n = none ↔ ∀ e ∈ s.assigns, e.1 ≠ n := by
  simp [assignee]

/-- An assignment that ends with the lines that have fallen was none before or is none after. -/
theorem assignee_dropAssigns_none {s : State} {n : Nat} (h : assignee s n = none) : assignee (dropAssigns s) n = none :=
  assignee_eq_none.mpr fun e he => assignee_eq_none.mp h e (List.mem_filter.mp he).1

/-- The end of a command keeps the assignment of a line that is asserted. -/
theorem assignee_settle {s : State} {n : Nat} (h : lineLevel s n = true) : assignee (settle s) n = assignee s n := by
  rw [assignee, assignee, settle_assigns]
  congr 1
  induction s.assigns with
  | nil => rfl
  | cons e rest ih =>
    by_cases he : e.1 = n
    · simp [he, h]
    · by_cases hl : lineLevel s e.1 = true <;> simp [hl, he, ih]

theorem assignee_append {s : State} {n : Nat} (h : assignee s n = none) (c : Nat) :
    assignee { s with assigns := s.assigns ++ [(n, c)] } n = some c := by
  have hn : s.assigns.find? (fun e => decide (e.1 = n)) = none := by simpa [assignee] using h
  simp [assignee, List.find?_append, hn]

/-- A search of the cores stops at the lowest that has the property. -/
theorem find_fin8 {p : Fin 8 → Bool} {c : Fin 8} (hc : p c = true) (hl : ∀ d, d < c → p d = false) : fin8.find? p = some c := by
  have hat : ∀ d : Fin 8, fin8[d.val]? = some d := by decide
  obtain ⟨hlt, hget⟩ := List.getElem?_eq_some_iff.mp (hat c)
  refine List.find?_eq_some_iff_getElem.mpr ⟨hc, c.val, hlt, hget, fun j hj => ?_⟩
  obtain ⟨_, hgj⟩ := List.getElem?_eq_some_iff.mp (hat ⟨j, by omega⟩)
  rw [hgj, hl ⟨j, by omega⟩ hj]
  rfl

/-- R41: the lowest-numbered named core that can take an asserted, unassigned MODE 1 line gets it. -/
theorem lineAssignmentOp_eq {s : State} {n : Fin 128} {c : Fin 8} (hm : routeMode1 s n = true) (hl : lineLevel s n = true)
    (ha : assignee s n = none) (hc : canTake s n c = true) (hd : ∀ d : Fin 8, d < c → canTake s n d = false) :
    lineAssignmentOp s n = { dropAssigns s with assigns := (dropAssigns s).assigns ++ [(n.val, c.val)] } := by
  have hf : fin8.find? (fun c => canTake (dropAssigns s) n c) = some c := find_fin8 (p := fun c => canTake s n c) hc hd
  have hg : (routeMode1 (dropAssigns s) n && lineLevel (dropAssigns s) n && (assignee (dropAssigns s) n).isNone) = true := by
    rw [assignee_dropAssigns_none ha]
    simpa using ⟨hm, hl⟩
  rw [lineAssignmentOp]
  dsimp only
  rw [when, if_pos hg, hf]

/-! ### Software interrupts (R44) -/

/-- A word put together from its bits. -/
theorem bits_sum (f : Nat → Bool) (n : Nat) :
    (List.range n).foldl (fun w i => w + bit01 (f i) * 2 ^ i) 0 < 2 ^ n
      ∧ ∀ i, i < n → ((List.range n).foldl (fun w i => w + bit01 (f i) * 2 ^ i) 0).testBit i = f i := by
  induction n with
  | zero => simp
  | succ n ih =>
    obtain ⟨hlt, hbit⟩ := ih
    rw [List.range_succ, List.foldl_append]
    simp only [List.foldl_cons, List.foldl_nil]
    generalize (List.range n).foldl (fun w i => w + bit01 (f i) * 2 ^ i) 0 = w at hlt hbit ⊢
    have hp : 2 ^ (n + 1) = 2 * 2 ^ n := Nat.pow_succ'
    cases hf : f n with
    | false =>
      simp only [bit01, Bool.false_eq_true, if_false, Nat.zero_mul, Nat.add_zero]
      refine ⟨by omega, fun i hi => ?_⟩
      by_cases h : i = n
      · rw [h, hf]; exact Nat.testBit_lt_two_pow hlt
      · exact hbit i (by omega)
    | true =>
      simp only [bit01, if_true, Nat.one_mul]
      refine ⟨by omega, fun i hi => ?_⟩
      rw [Nat.add_comm]
      by_cases h : i = n
      · rw [h, hf, Nat.testBit_two_pow_add_eq, Nat.testBit_lt_two_pow hlt]; rfl
      · rw [Nat.testBit_two_pow_add_gt (by omega), hbit i (by omega)]

/-- IRQPEND3 shows the levels of lines 96 to 127 (R39). -/
theorem regRead_cpcIrqpend3 (s : State) (inc : DWord) : (regRead s Reg.cpcIrqpend3 inc).1 = lineWord s 96 := by
  have hlt : lineWord s 96 < 2 ^ 32 := (bits_sum (fun i => lineLevel s (96 + i)) 32).1
  have hat : regAt Reg.cpcIrqpend3 = some (.cpc, { off := 0x120C, ro := 0xFFFF_FFFF }, 0) := rfl
  rw [regRead_plain hat rfl rfl rfl]
  generalize hr : ({ off := 0x120C, ro := 0xFFFF_FFFF } : RegRow) = r
  have hfull : r.full = 2 ^ 32 - 1 := by rw [← hr]; rfl
  have hnamed : r.named = 2 ^ 32 - 1 := by rw [← hr]; rfl
  have hshown : regShown s .cpc r 0 (regStart r Reg.cpcIrqpend3) = lineWord s 96 := by
    rw [← hr, regShown, if_neg (by decide)]
    have hv : viewCpc s 0x120C 0 = some (lineWord s 96) := by simp [viewCpc]
    dsimp only
    rw [hv, Option.getD_some]
  have hwo : r.wo = 0 := by rw [← hr]
  have hz : zeroBits .cpc r = false := rfl
  simp only [shownValue, hshown, hnamed, hfull, hwo, hz, Nat.sub_self, Nat.sub_zero, Nat.and_zero, Nat.or_zero,
    Nat.and_two_pow_sub_one_eq_mod, Nat.mod_eq_of_lt hlt, Bool.false_eq_true, if_false]

theorem testBit_irqpend3 (s : State) {c : Nat} (hc : c < 32) :
    (regRead s Reg.cpcIrqpend3 0).1.testBit c = lineLevel s (96 + c) := by
  rw [regRead_cpcIrqpend3]
  exact (bits_sum (fun i => lineLevel s (96 + i)) 32).2 c hc

theorem lineLevel_swint (s : State) (c : Fin 8) : lineLevel s (96 + c.val) = s.swint.toNat.testBit c := by
  have := c.isLt
  unfold lineLevel
  simp (disch := omega) only [dif_neg, if_neg, if_pos]
  rw [Nat.add_sub_cancel_left]

/-- SET wins over CLR. -/
theorem swintWriteOp_testBit (s : State) (v : Word) (c : Fin 8) :
    (swintWriteOp s v).swint.toNat.testBit c
      = (v.toNat.testBit c || (s.swint.toNat.testBit c && !v.toNat.testBit (8 + c.val))) := by
  have := c.isLt
  simp only [swintWriteOp, BitVec.testBit_toNat]
  simp [this, Bool.or_comm]

theorem swintWriteOp_low (s : State) (v : Word) : swintWriteOp s v = swintWriteOp s (v &&& 0x0000_FFFF) := by
  have hand : (v &&& 0x0000_FFFF).toNat = v.toNat % 2 ^ 16 := by
    rw [BitVec.toNat_and]
    exact Nat.and_two_pow_sub_one_eq_mod _ 16
  have h1 : (v &&& 0x0000_FFFF).truncate 8 = v.truncate 8 := by
    apply BitVec.eq_of_toNat_eq
    rw [BitVec.toNat_setWidth, BitVec.toNat_setWidth, hand]
    omega
  have h2 : ((v &&& 0x0000_FFFF) >>> 8).truncate 8 = (v >>> 8).truncate 8 := by
    apply BitVec.eq_of_toNat_eq
    rw [BitVec.toNat_setWidth, BitVec.toNat_setWidth, BitVec.toNat_ushiftRight, BitVec.toNat_ushiftRight, hand,
      Nat.shiftRight_eq_div_pow, Nat.shiftRight_eq_div_pow]
    omega
  simp only [swintWriteOp, h1, h2]

end Sys2Proof.Machine
end

section
open Sys2Proof Sys2Proof.Machine

/-- Settles O9: the registers store what their maps name, and each assignment is the one of R41 and R42. -/
theorem routingRules : Obligations.RoutingRules := by
  unfold Obligations.RoutingRules
  refine ⟨fun n v s => answers_settled _ _ ?_, fun v s hv => answers_settled _ _ ?_, fun v s hv => ?_,
    fun n s c hm hl ha hc hd => answers_settled _ _ ?_⟩
  · obtain ⟨l, hop, hend⟩ := irqrouteWriteOp_cases s n v
    have hp := plainReg_cpcIrqroute n
    rw [hop]
    refine ⟨fun c => ?_, ?_, ?_, ?_, fun hne => ?_, ?_, ?_⟩
    · rw [routeNames, settle_rbit]
      exact rbit_fieldWrite32 hp s v (by omega) (by revert c; decide)
    · rw [routePrio, settle_rf]
      exact rf_fieldWrite32 hp s v (by decide) (by decide)
    · rw [routeMode1, settle_rbit]
      exact rbit_fieldWrite32 hp s v (by decide) (by decide)
    · rw [routeEn, settle_rbit]
      exact rbit_fieldWrite32 hp s v (by decide) (by decide)
    · rw [settle_rget] at hne
      rw [assignee_eq_none, settle_assigns]
      exact fun e he => hend hne e (List.mem_filter.mp he).1
    · exact regsSameBut_settle (fieldWrite32_regsSameBut s _ v)
    · rw [settle_mem]; exact fieldWrite32_mem s _ v
  · have hop : nmtrouteWriteOp s v = fieldWrite32 s Reg.cpcNmtroute v := if_neg hv
    have hf := rf_fieldWrite32 plainReg_cpcNmtroute s v (l := 0) (w := 8) (by decide) (by decide)
    simp only [rf, fld, Nat.pow_zero, Nat.div_one] at hf
    rw [hop]
    exact ⟨by rw [settle_rn]; exact hf, regsSameBut_settle (fieldWrite32_regsSameBut s _ v), by rw [settle_mem, fieldWrite32_mem]⟩
  · exact congrArg settled (if_pos hv)
  · rw [lineAssignmentOp_eq hm hl ha hc hd]
    refine ⟨?_, settle_regs _, settle_mem _⟩
    refine (assignee_settle ?_).trans (assignee_append (assignee_dropAssigns_none ha) c)
    exact (lineLevel_congr rfl rfl rfl rfl rfl n).trans hl

/-- Settles O10: each latch is a bit of its own, which SET and CLR of its core decide. -/
theorem softwareInterrupts : Obligations.SoftwareInterrupts := by
  unfold Obligations.SoftwareInterrupts
  refine ⟨fun v s => answers_settled _ _ ⟨fun c => ⟨?_, testBit_irqpend3 _ (by omega)⟩, settle_regs _, settle_mem _, settle_resp _⟩,
    fun v s => congrArg settled (swintWriteOp_low s v)⟩
  rw [lineLevel_settle, lineLevel_swint, lineLevel_swint, swintWriteOp_testBit]
end

section
/-! What a fault event, and an access of a master to memory, can change, said once as a list of updates: whatever each of them
keeps, the event or the access keeps. -/

namespace Sys2Proof.Machine

/-! ### Fault events (R534–R538) -/

section
variable {R : State → State → Prop} (hrefl : ∀ t, R t t) (htrans : ∀ {t u v}, R t u → R u v → R t v)
include hrefl htrans

/-- A fold is related where each of its steps is. -/
theorem overList_rel {α : Type} {f : State → α → State} (l : List α) (s : State) (h : ∀ t x, R t (f t x)) :
    R s (overList l s f) := by
  induction l generalizing s with
  | nil => exact hrefl s
  | cons x rest ih => exact htrans (h s x) (ih (f s x))

variable {b : Blk} (hreg : ∀ t a v, a = aFstat b ∨ a = aFreact b → R t (rset t a v))
  (hnmt : ∀ t c, R t (modCore t c fun k => { k with nmt := true })) (hrst : ∀ t v, R t { t with rst := v })
  (hfcaps : ∀ t v, R t { t with fcaps := v })

omit htrans in
theorem requestReset_rel (hrst : ∀ t v, R t { t with rst := v }) (s : State) (c : ResetCause) : R s (requestReset s c) := by
  unfold requestReset
  split <;> split
  · exact hrefl s
  · exact hrst s _
  · exact hrefl s
  · exact hrst s _

theorem deliverNmt_rel (hnmt : ∀ t c, R t (modCore t c fun k => { k with nmt := true })) (s : State) : R s (deliverNmt s) :=
  overList_rel hrefl htrans _ s fun t c => by
    split
    · exact hnmt t c
    · exact hrefl t

include hreg hnmt hrst hfcaps

/-- An event of a block writes its FSTAT and FREACT, pending traps, requests for a reset and the capture, and does what its
block resets do. -/
theorem raiseWith_rel {f : State → Blk → Nat → State} (hf : ∀ t i, R t (f t b i)) (s : State) (bits : List Nat) (c : Cap) :
    R s (raiseWith f s b bits c) := by
  have hesc : R s (escalate s b bits) := overList_rel hrefl htrans _ s fun t k => by
    split
    · exact hrefl t
    · exact hreg t _ _ (.inr rfl)
  have hset : ∀ t, R t (setFstat t b bits) := fun t =>
    overList_rel hrefl htrans bits t fun u i => hreg u _ _ (.inl rfl)
  have hcap : ∀ t, R t (capture t b bits c) := fun t => by
    unfold capture
    split
    · exact hrefl t
    · split
      · exact hrefl t
      · exact hfcaps t _
  have hreact : ∀ t, R t (react f t b bits) := fun t => by
    unfold react
    split
    · unfold requestFaultReset
      dsimp only
      split
      · exact requestReset_rel hrefl hrst t .fault
      · exact htrans (requestReset_rel hrefl hrst t .fault) (hrst _ _)
    · dsimp only
      refine htrans ?_ (overList_rel hrefl htrans _ _ hf)
      split
      · exact deliverNmt_rel hrefl htrans hnmt t
      · exact hrefl t
  unfold raiseWith
  split
  · exact hrefl s
  · exact htrans hesc (htrans (hset _) (htrans (hcap _) (hreact _)))

end

/-! ### Accesses to memory (R423, R424, R434–R439) -/

/-- Blocks in which an access to memory can raise an event: a fabric error, an uncorrectable word, a voted group. -/
def memBlks : List Blk := [.sys, .loc, .lat, .buf, .spd]

/-- The address lies in the window of one of these blocks. -/
def memReg (a : Nat) : Prop := ∃ b ∈ memBlks, blkBase b ≤ a ∧ a < blkBase b + 0x1_0000

/-- What an access to memory can change, update by update. -/
inductive MemEffect : State → State → Prop
  | refl (s : State) : MemEffect s s
  | trans {s t u : State} : MemEffect s t → MemEffect t u → MemEffect s u
  | mem (s : State) (m : Memory) : MemEffect s { s with mem := m }
  | ms (s : State) (m : MemSt) : MemEffect s { s with ms := m }
  | reg (s : State) (a : Nat) (v : DWord) (h : memReg a) : MemEffect s (rset s a v)
  | nmt (s : State) (c : Fin 8) : MemEffect s (modCore s c fun k => { k with nmt := true })
  | rst (s : State) (r : ResetSt) : MemEffect s { s with rst := r }
  | fcaps (s : State) (m : SMap Fcap) : MemEffect s { s with fcaps := m }
  | reset (s : State) (b : Blk) (i : Nat) (h : b ∈ memBlks) : MemEffect s (plainReset s b i)

namespace MemEffect

theorem raisePlain {b : Blk} (hb : b ∈ memBlks) (s : State) (bits : List Nat) (c : Cap) :
    MemEffect s (raisePlain s b bits c) := by
  refine raiseWith_rel refl trans (fun t a v ha => reg t a v ⟨b, hb, ?_⟩) nmt rst fcaps (fun t i => reset t b i hb) s bits c
  rcases ha with rfl | rfl
  · rw [aFstat]; omega
  · rw [aFreact]; omega

theorem fabricError (s : State) (a ty m : Nat) : MemEffect s (fabricError s a ty m) := raisePlain (by decide) _ _ _

theorem memReg_buf {a : Nat} (h : 0x20_0060_0000 ≤ a ∧ a < 0x20_0061_0000) : memReg a :=
  ⟨.buf, by decide, h.1, h.2⟩

theorem memReg_spd {a : Nat} (h : 0x20_0061_0000 ≤ a ∧ a < 0x20_0062_0000) : memReg a :=
  ⟨.spd, by decide, h.1, h.2⟩

theorem setEcc (s : State) (w : Nat) (e : Option EccErr) : MemEffect s (setEcc s w e) := ms s _

theorem noteCe (s : State) (w sym : Nat) (b : Bool) : MemEffect s (noteCe s w sym b) := by
  unfold Machine.noteCe
  split
  · have h1 := reg s _ (BitVec.ofNat 64 (satAdd 0xFFFF_FFFF (rn s Reg.bufCecnt) 1)) (memReg_buf (a := Reg.bufCecnt) (by decide))
    dsimp only
    split
    · exact h1.trans ((ms _ _).trans (ms _ _))
    · exact h1.trans ((ms _ _).trans (reg _ _ _ (memReg_buf (by decide))))
  · rename_i k _
    have hk : memReg (Reg.spdCecnt k) := memReg_spd (by unfold Reg.spdCecnt; omega)
    have h1 := reg s _ (BitVec.ofNat 64 (satAdd 0xFFFF_FFFF (rn s (Reg.spdCecnt k)) 1)) hk
    dsimp only
    split
    · exact h1.trans (ms _ _)
    · exact h1.trans (reg _ _ _ (memReg_spd (by decide)))

theorem noteUe (s : State) (w ty m : Nat) : MemEffect s (noteUe s w ty m) := by
  unfold Machine.noteUe
  dsimp only
  split
  · exact (reg _ _ _ (memReg_buf (by decide))).trans (raisePlain (by decide) _ _ _)
  · exact (reg _ _ _ (memReg_spd (by unfold Reg.spdUecnt; omega))).trans (raisePlain (by decide) _ _ _)

theorem upsetWord (s : State) (w : Nat) (u : Option EccErr) : MemEffect s (upsetWord s w u) := by
  unfold Machine.upsetWord
  split
  · exact refl s
  · split
    · exact setEcc _ _ _
    · exact refl s

theorem decodeWord (s : State) (w : Nat) : MemEffect s (decodeWord s w).2 := by
  unfold Machine.decodeWord
  split
  · exact refl s
  · split
    · exact refl s
    · exact (setEcc _ _ _).trans (noteCe _ _ _ _)
    · exact refl s

theorem setWordValid (s : State) (w : Nat) : MemEffect s (setWordValid s w) := by
  unfold Machine.setWordValid
  split
  · exact refl s
  · exact ms s _

theorem putWord (s : State) (w : Nat) (bs : List Byte) : MemEffect s (putWord s w bs) :=
  (mem s _).trans ((setWordValid _ w).trans (setEcc _ _ _))

theorem raiseVote (s : State) (g w : Nat) (nomaj : Bool) (ty m : Nat) : MemEffect s (raiseVote s g w nomaj ty m) := by
  unfold Machine.raiseVote
  dsimp only
  split
  · split
    · exact (raisePlain (by decide) _ _ _).trans (raisePlain (by decide) _ _ _)
    · exact raisePlain (by decide) _ _ _
  · split
    · split
      · exact (raisePlain (by decide) _ _ _).trans (raisePlain (by decide) _ _ _)
      · exact raisePlain (by decide) _ _ _
    · exact raisePlain (by decide) _ _ _

theorem votedRead (s : State) (g w ty m : Nat) : MemEffect s (votedRead s g w ty m).2.2 := by
  have hd := (decodeWord s w).trans ((decodeWord _ (w + 4)).trans (decodeWord _ (w + 8)))
  have hv : memReg Reg.spdVotestat := memReg_spd (by decide)
  unfold Machine.votedRead
  dsimp only
  split
  · split
    · exact hd
    · refine hd.trans (MemEffect.trans (overList_rel refl trans _ _ fun t e => ?_) ((reg _ _ _ hv).trans (raiseVote _ _ _ _ _ _)))
      split
      · exact refl t
      · exact putWord t _ _
  · exact hd.trans ((reg _ _ _ hv).trans (raiseVote _ _ _ _ _ _))

theorem readWord (s : State) (m w ty : Nat) (u : Option EccErr) : MemEffect s (readWord s m w ty u).2 := by
  unfold Machine.readWord
  dsimp only
  split
  · exact (upsetWord s w u).trans (votedRead _ _ _ _ _)
  · split
    · exact (upsetWord s w u).trans (decodeWord _ _)
    · exact (upsetWord s w u).trans ((decodeWord _ _).trans (noteUe _ _ _ _))

theorem readWords (n : Nat) (s : State) (m w ty : Nat) (u : Option EccErr) : MemEffect s (readWords s m w n ty u).2 := by
  induction n generalizing s w u with
  | zero => exact refl s
  | succ n ih =>
    have h1 := readWord s m w ty u
    unfold Machine.readWords
    split
    case h_1 h => rw [h] at h1; exact h1
    case h_2 s1 h =>
      rw [h] at h1
      have h2 := ih s1 (w + 1) none
      split
      case h_1 h' => rw [h'] at h2; exact h1.trans h2
      case h_2 h' => rw [h'] at h2; exact h1.trans h2

theorem busRead (s : State) (m a n : Nat) (u : Option EccErr) : MemEffect s (busRead s m a n u).2 := by
  have hf := fabricError s a 1 m
  have hw : MemEffect s (match Machine.readWords s m (a / 16) (wordSpan a n) 1 u with
      | (none, s) => ((none : Option (List Byte)), s)
      | (some bs, s) => (some ((bs.drop (a % 16)).take n), s)).2 := by
    have h := readWords (wordSpan a n) s m (a / 16) 1 u
    generalize Machine.readWords s m (a / 16) (wordSpan a n) 1 u = q at h
    obtain ⟨x, t⟩ := q
    cases x <;> exact h
  rw [Machine.busRead]
  generalize Machine.fabricError s a 1 m = f at hf
  generalize regionOf s (a + n - 1) = r'
  generalize regionOf s a = r
  split
  · exact hf
  · cases r
    · exact hw
    · exact hw
    · exact refl s
    · exact hf
    · exact hf

theorem storeWord (s : State) (w : Nat) (bs : List Byte) : MemEffect s (storeWord s w bs) := by
  unfold Machine.storeWord
  split
  · exact (putWord _ _ _).trans ((putWord _ _ _).trans (putWord _ _ _))
  · exact putWord _ _ _

theorem writeWord (s : State) (m w p : Nat) (bs : List Byte) : MemEffect s (writeWord s m w p bs).2 := by
  unfold Machine.writeWord
  split
  · exact storeWord _ _ _
  · split
    · dsimp only
      split
      · exact (votedRead _ _ _ _ _).trans (storeWord _ _ _)
      · exact votedRead _ _ _ _ _
    · dsimp only
      split
      · exact (decodeWord _ _).trans (storeWord _ _ _)
      · exact (decodeWord _ _).trans (noteUe _ _ _ _)

theorem writeWords (n : Nat) (s : State) (m a : Nat) (bs : List Byte) : MemEffect s (writeWords s m a n bs).2 := by
  induction n generalizing s a bs with
  | zero => exact refl s
  | succ n ih => exact (writeWord _ _ _ _ _).trans (ih _ _ _)

theorem applyInject (s : State) (w : Nat) : MemEffect s (applyInject s w) := by
  unfold Machine.applyInject
  split
  · exact refl s
  · rename_i r hr
    have hreg : memReg r := by
      unfold injectReg at hr
      split at hr <;> split at hr
      · cases hr; exact memReg_buf (by decide)
      · cases hr
      · cases hr; exact memReg_spd (by decide)
      · cases hr
    exact (setEcc _ _ _).trans (reg _ _ _ hreg)

theorem busWrite (s : State) (m a : Nat) (bs : List Byte) : MemEffect s (busWrite s m a bs).2 := by
  have hw := (writeWords (wordSpan a bs.length) s m a bs).trans (applyInject _ (a / 16))
  have hf := fabricError s a 2 m
  rw [Machine.busWrite]
  generalize Machine.fabricError s a 2 m = f at hf
  generalize regionOf s (a + bs.length - 1) = r'
  generalize regionOf s a = r
  split
  · exact refl s
  · split
    · exact hf
    · cases r
      · exact hw
      · exact hw
      · exact hf
      · exact hf
      · exact hf

/-! ### What an access keeps -/

theorem plainReset_cores {b : Blk} (hb : b ∈ memBlks) (s : State) (i : Nat) : (plainReset s b i).cores = s.cores := by
  simp only [memBlks, List.mem_cons, List.not_mem_nil, or_false] at hb
  rcases hb with rfl | rfl | rfl | rfl | rfl <;> rfl

theorem tget_filter {α : Type} (d : α) (m : SMap α) (p : Nat × α → Bool) {k : Nat} (h : ∀ v, p (k, v) = true) :
    tget d (m.filter p) k = tget d m k := by
  induction m with
  | nil => rfl
  | cons e rest ih =>
    obtain ⟨k', v⟩ := e
    by_cases hk : k' = k
    · subst hk
      rw [List.filter_cons_of_pos (h v), tget, tget, if_pos rfl, if_pos rfl]
    · by_cases hp : p (k', v) = true
      · rw [List.filter_cons_of_pos hp, tget, tget, if_neg hk, if_neg hk, ih]
      · rw [List.filter_cons_of_neg hp, ih, tget, if_neg hk]

theorem rget_clearBlock (s : State) {b : Blk} {a : Nat} (ha : ¬ (blkBase b ≤ a ∧ a < blkBase b + 0x1_0000)) :
    rget (clearBlock s b) a = rget s a :=
  tget_filter _ _ _ fun _ => by
    simp only [Bool.or_eq_true, decide_eq_true_eq]
    omega

theorem rget_plainReset {b : Blk} (hb : b ∈ memBlks) {s : State} {i a : Nat}
    (ha : ¬ (blkBase b ≤ a ∧ a < blkBase b + 0x1_0000)) : rget (plainReset s b i) a = rget s a := by
  have hc := rget_clearBlock s ha
  simp only [memBlks, List.mem_cons, List.not_mem_nil, or_false] at hb
  rcases hb with rfl | rfl | rfl | rfl | rfl
  · rfl
  all_goals exact hc

section
variable {s t : State}

/-- A pending non-maskable trap stays pending. -/
theorem nmt_pending (h : MemEffect s t) (c : Fin 8) (hc : (s.core c).nmt = true) : (t.core c).nmt = true := by
  induction h with
  | refl | mem | ms | rst | fcaps | reg => exact hc
  | trans _ _ ih1 ih2 => exact ih2 (ih1 hc)
  | nmt s d =>
    by_cases hd : d = c
    · rw [hd, modCore_core]
    · rwa [modCore_core_ne _ _ hd]
  | reset s b i hb => rwa [State.core, plainReset_cores hb]

/-- Registers outside the windows of these blocks are as they were. -/
theorem rget_eq (h : MemEffect s t) {a : Nat} (ha : ¬ memReg a) : rget t a = rget s a := by
  induction h with
  | refl | mem | ms | rst | fcaps | nmt => rfl
  | trans _ _ ih1 ih2 => exact ih2.trans ih1
  | reg s b v hb => exact rget_rset_ne s v fun e => ha (e ▸ hb)
  | reset s b i hb => exact rget_plainReset hb fun h => ha ⟨b, hb, h⟩

/-- Of a core, nothing but a pending non-maskable trap changes. -/
theorem core_eq (h : MemEffect s t) (c : Fin 8) : t.core c = { s.core c with nmt := (t.core c).nmt } := by
  induction h with
  | refl | mem | ms | rst | fcaps | reg => rfl
  | trans _ _ ih1 ih2 =>
    rw [ih2, ih1]
  | nmt s d =>
    by_cases hd : d = c
    · rw [hd, modCore_core]
    · rw [modCore_core_ne _ _ hd]
  | reset s b i hb => rw [State.core, State.core, plainReset_cores hb]

end

end MemEffect

end Sys2Proof.Machine
end

section
/-! The fetch of an instruction (R30, R501, R505): fault events and accesses leave the bytes of the buffer alone, and what a fetch
changes of the cores is in the instruction cache of its own. -/

namespace Sys2Proof.Machine

/-! ### The bytes of the buffer -/

/-- No block reset of the plain kind touches memory. -/
theorem plainReset_mem (s : State) (b : Blk) (i : Nat) : (plainReset s b i).mem = s.mem := by
  cases b with
  | dtm =>
    simp only [plainReset]
    split
    · exact (rbitSet_mem _ _ _ _).trans (rsetN_mem _ _ _)
    · rfl
  | _ => rfl

@[simp] theorem raisePlain_mem (s : State) (b : Blk) (bits : List Nat) (c : Cap) : (raisePlain s b bits c).mem = s.mem :=
  raiseWith_rel (R := fun t u => u.mem = t.mem) (fun _ => rfl) (fun h h' => h'.trans h) (fun _ _ _ _ => rfl) (fun _ _ => rfl)
    (fun _ _ => rfl) (fun _ _ => rfl) (fun t i => plainReset_mem t b i) s bits c

/-- The byte of the buffer at an address; 0 outside the buffer (R27). -/
def bufferByte (s : State) (a : Nat) : Byte := if a < 0x10_0000_0000 then mget s.mem a else 0

theorem bufferByte_of_mem {s t : State} (h : t.mem = s.mem) : bufferByte t = bufferByte s := by
  funext a
  rw [bufferByte, bufferByte, h]

theorem noteCe_mem (s : State) (w sym : Nat) (b : Bool) : (noteCe s w sym b).mem = s.mem := by
  unfold noteCe
  split <;> dsimp only <;> split <;> rfl

theorem noteUe_mem (s : State) (w ty m : Nat) : (noteUe s w ty m).mem = s.mem := by
  unfold noteUe
  dsimp only
  split <;> exact (raisePlain_mem _ _ _ _).trans (rcount_mem _ _ _)

theorem raiseVote_mem (s : State) (g w : Nat) (nomaj : Bool) (ty m : Nat) : (raiseVote s g w nomaj ty m).mem = s.mem := by
  unfold raiseVote
  dsimp only
  split
  · split <;> simp
  · split
    · split <;> simp
    · simp

theorem decodeWord_mem (s : State) (w : Nat) : (decodeWord s w).2.mem = s.mem := by
  unfold decodeWord
  split
  · rfl
  · split
    · rfl
    · exact (noteCe_mem _ _ _ _).trans (setEcc_mem _ _ _)
    · rfl

theorem upsetWord_mem (s : State) (w : Nat) (u : Option EccErr) : (upsetWord s w u).mem = s.mem := by
  unfold upsetWord
  split
  · rfl
  · split <;> rfl

theorem setWordValid_mem (s : State) (w : Nat) : (setWordValid s w).mem = s.mem := by
  unfold setWordValid
  split <;> rfl

/-- A word of the scratchpad lies above the buffer. -/
theorem bufferByte_putWord (s : State) {w : Nat} (hw : 0x1_0000_0000 ≤ w) (bs : List Byte) :
    bufferByte (putWord s w bs) = bufferByte s := by
  funext a
  unfold bufferByte
  split
  · rw [putWord, setEcc_mem, setWordValid_mem]
    exact mget_writeBytes_out _ _ _ _ (.inl (by omega))
  · rfl

/-- Every voted word stands in the scratchpad (R434). -/
theorem votedGroup_scratch {w g : Nat} (h : votedGroup w = some g) : 0x1_0000_0000 ≤ w := by
  unfold votedGroup at h
  by_contra hlt
  simp only [Bool.and_eq_true, decide_eq_true_eq] at h
  rw [if_neg (by omega), if_neg (by omega), if_neg (by omega), if_neg (by omega)] at h
  cases h

/-- A voted read repairs words of the scratchpad (R436). -/
theorem bufferByte_votedRead (s : State) {w : Nat} (hw : 0x1_0000_0000 ≤ w) (g ty m : Nat) :
    bufferByte (votedRead s g w ty m).2.2 = bufferByte s := by
  have hd : bufferByte (decodeWord (decodeWord (decodeWord s w).2 (w + 4)).2 (w + 8)).2 = bufferByte s :=
    bufferByte_of_mem ((decodeWord_mem _ _).trans ((decodeWord_mem _ _).trans (decodeWord_mem _ _)))
  unfold votedRead
  dsimp only
  split
  · split
    · exact hd
    · refine (bufferByte_of_mem ((raiseVote_mem _ _ _ _ _ _).trans (rbitSet_mem _ _ _ _))).trans (Eq.trans ?_ hd)
      have hfix : ∀ (v : List Byte) (t : State) (e : Nat × Bool × List Byte), 0x1_0000_0000 ≤ e.1 →
          bufferByte (if (e.2.1 && decide (e.2.2 = v)) = true then t else putWord t e.1 v) = bufferByte t := fun v t e he => by
        split
        · rfl
        · exact bufferByte_putWord t he v
      simp only [overList, List.foldl_cons, List.foldl_nil]
      rw [hfix _ _ (w + 8, _, _) (by dsimp only; omega), hfix _ _ (w + 4, _, _) (by dsimp only; omega), hfix _ _ (w, _, _) hw]
  · exact (bufferByte_of_mem ((raiseVote_mem _ _ _ _ _ _).trans (rbitSet_mem _ _ _ _))).trans hd

theorem bufferByte_readWord (s : State) (m w ty : Nat) (u : Option EccErr) :
    bufferByte (readWord s m w ty u).2 = bufferByte s := by
  have hu := bufferByte_of_mem (upsetWord_mem s w u)
  unfold readWord
  dsimp only
  split
  · rename_i g hg
    exact (bufferByte_votedRead _ (votedGroup_scratch hg) g ty m).trans hu
  · split
    · exact (bufferByte_of_mem (decodeWord_mem _ _)).trans hu
    · exact (bufferByte_of_mem ((noteUe_mem _ _ _ _).trans (decodeWord_mem _ _))).trans hu

theorem bufferByte_readWords (n : Nat) (s : State) (m w ty : Nat) (u : Option EccErr) :
    bufferByte (readWords s m w n ty u).2 = bufferByte s := by
  induction n generalizing s w u with
  | zero => rfl
  | succ n ih =>
    have h1 := bufferByte_readWord s m w ty u
    unfold readWords
    split
    case h_1 h => rw [h] at h1; exact h1
    case h_2 s1 h =>
      rw [h] at h1
      have h2 := ih s1 (w + 1) none
      split
      case h_1 h' => rw [h'] at h2; exact h2.trans h1
      case h_2 h' => rw [h'] at h2; exact h2.trans h1

/-- A read leaves every byte of the buffer as it was. -/
theorem bufferByte_busRead (s : State) (m a n : Nat) (u : Option EccErr) : bufferByte (busRead s m a n u).2 = bufferByte s := by
  have hf : bufferByte (fabricError s a 1 m) = bufferByte s := bufferByte_of_mem (raisePlain_mem _ _ _ _)
  have hw : bufferByte (match readWords s m (a / 16) (wordSpan a n) 1 u with
      | (none, s) => ((none : Option (List Byte)), s)
      | (some bs, s) => (some ((bs.drop (a % 16)).take n), s)).2 = bufferByte s := by
    have h := bufferByte_readWords (wordSpan a n) s m (a / 16) 1 u
    generalize readWords s m (a / 16) (wordSpan a n) 1 u = q at h
    obtain ⟨x, t⟩ := q
    cases x <;> exact h
  rw [busRead]
  generalize regionOf s (a + n - 1) = r'
  generalize regionOf s a = r
  split
  · exact hf
  · cases r
    · exact hw
    · exact hw
    · rfl
    · exact hf
    · exact hf

/-! ### What a fetch keeps -/

section
variable {β : Type} {p : State → β} {c : Fin 8} (hlines : ∀ t ls, p (setLines t c true ls) = p t)
  (hread : ∀ t m a n, p (busRead t m a n none).2 = p t)
include hlines

theorem emptyWay_keeps (s : State) (set w : Nat) : p (emptyWay s c true set w) = p s := by
  unfold emptyWay
  split
  · rfl
  · exact hlines s _

include hread

theorem fillSub_keeps (s : State) (l k : Nat) : p (fillSub s c true l k none).2 = p s := by
  have h := hread s c.val (64 * l + 16 * k) 16
  unfold fillSub
  split
  case h_1 hb => rw [hb] at h; exact (hlines _ _).trans h
  case h_2 hb => rw [hb] at h; exact h

theorem fillLine_keeps (s : State) (l k w : Nat) : p (fillLine s c true l k w none).2 = p s := by
  unfold fillLine
  dsimp only
  refine (overList_keeps p _ _ _ fun t j => fillSub_keeps hlines hread t l j).trans ?_
  exact (fillSub_keeps hlines hread _ l k).trans ((hlines _ _).trans (emptyWay_keeps hlines s _ w))

/-- An access of the instruction cache changes its lines and what its fills change. -/
theorem cacheAccess_keeps (s : State) (a ty : Nat) : p (cacheAccess s c true a ty MemEv.none).2 = p s := by
  have hpar : MemEv.none.parity = false := rfl
  have hups : MemEv.none.upset = none := rfl
  unfold cacheAccess
  simp only [hups]
  split
  · rw [hpar, if_neg Bool.false_ne_true]
    split
    · exact hlines _ _
    · exact (fillSub_keeps hlines hread _ _ _).trans (hlines _ _)
  · rw [hpar, Bool.false_and, if_neg Bool.false_ne_true]
    dsimp only
    exact fillLine_keeps hlines hread s _ _ _

/-- A fetch changes lines of the instruction cache, and what a read and a fabric error change. -/
theorem fetchAt_keeps (hfab : ∀ t a ty m, p (fabricError t a ty m) = p t) (s : State) (a : Nat) : p (fetchAt s c a).2 = p s := by
  unfold fetchAt
  split
  · dsimp only
    split
    · exact hfab _ _ _ _
    · rfl
  · split
    · exact cacheAccess_keeps hlines hread s a 1
    · exact hread _ _ _ _

end

theorem bufferByte_fetched (s : State) (c : Fin 8) : bufferByte (fetched s c) = bufferByte s :=
  fetchAt_keeps (p := bufferByte) (fun t _ => bufferByte_of_mem (modCore_mem t c _)) (fun t m a n => bufferByte_busRead t m a n none)
    (fun _ _ _ _ => bufferByte_of_mem (raisePlain_mem _ _ _ _)) s _

/-- `s` as far as a read of memory leaves it alone, without the instruction cache of core `c`. -/
def fetchRest (c : Fin 8) (s : State) : State := modCore (busRest s) c fun k => { k with icache := [] }

theorem busRest_core (s : State) (d : Fin 8) : (busRest s).core d = { s.core d with nmt := false } :=
  Vector.getElem_map _ _

theorem fetchRest_core_same (c : Fin 8) (s : State) : (fetchRest c s).core c = { s.core c with nmt := false, icache := [] } := by
  rw [fetchRest, modCore_core, busRest_core]

theorem fetchRest_core_ne {c d : Fin 8} (h : c ≠ d) (s : State) : (fetchRest c s).core d = { s.core d with nmt := false } := by
  rw [fetchRest, modCore_core_ne _ _ h, busRest_core]

theorem modCore_modCore (s : State) (c : Fin 8) (f g : CoreSt → CoreSt) : modCore (modCore s c f) c g = modCore s c fun k => g (f k) := by
  simp only [modCore, vmod, vget_vset]
  simp only [vset, Vector.set_set]

theorem busRest_modCore (s : State) (c : Fin 8) (f : CoreSt → CoreSt)
    (hf : ∀ k, f { k with nmt := false } = { f k with nmt := false }) : busRest (modCore s c f) = modCore (busRest s) c f := by
  simp only [busRest, modCore, State.mk.injEq, true_and, and_true]
  apply Vector.ext
  intro i hi
  simp only [vmod, vset, vget, Vector.getElem_map, Vector.getElem_set]
  split
  · exact (hf _).symm
  · rfl

theorem fetchRest_setLines (s : State) (c : Fin 8) (ls : List Line) : fetchRest c (setLines s c true ls) = fetchRest c s := by
  rw [fetchRest, setLines, busRest_modCore _ _ _ fun _ => rfl, modCore_modCore]
  rfl

theorem fetchRest_fetched (s : State) (c : Fin 8) : fetchRest c (fetched s c) = fetchRest c s :=
  fetchAt_keeps (p := fetchRest c) (fun t ls => fetchRest_setLines t c ls)
    (fun t m a n => by rw [fetchRest, busRest_busRead, fetchRest]) (fun t a ty m => by rw [fetchRest, busRest_fabricError, fetchRest])
    s _

/-- Whatever the view shows is kept by a fetch. -/
theorem fetched_proj {β : Type} (f : State → β) {c : Fin 8} (hf : ∀ u, f (fetchRest c u) = f u) (s : State) :
    f (fetched s c) = f s := by
  rw [← hf (fetched s c), fetchRest_fetched, hf]

/-- Of another core a fetch changes the pending non-maskable trap alone. -/
theorem fetched_core_ne {c d : Fin 8} (h : c ≠ d) (s : State) :
    (fetched s c).core d = { s.core d with nmt := ((fetched s c).core d).nmt } := by
  have hv := congrArg (fun t => t.core d) (fetchRest_fetched s c)
  rw [fetchRest_core_ne h, fetchRest_core_ne h] at hv
  exact congrArg (fun k : CoreSt => { k with nmt := ((fetched s c).core d).nmt }) hv

theorem fetched_core_same (c : Fin 8) (s : State) :
    (fetched s c).core c = { s.core c with nmt := ((fetched s c).core c).nmt, icache := ((fetched s c).core c).icache } := by
  have hv := congrArg (fun t => t.core c) (fetchRest_fetched s c)
  rw [fetchRest_core_same, fetchRest_core_same] at hv
  exact congrArg (fun k : CoreSt => { k with nmt := ((fetched s c).core c).nmt, icache := ((fetched s c).core c).icache }) hv

end Sys2Proof.Machine
end

section
open Sys2Proof Sys2Proof.Machine

/-- Settles O46: a fetch keeps its view of the state and the bytes of the buffer. -/
theorem fetchFrame : Obligations.FetchFrame := by
  intro s c d
  have hic : d ≠ c → ((fetched s c).core d).icache = (s.core d).icache := fun h => by rw [fetched_core_ne h.symm]
  refine ⟨?_, hic, fetched_proj State.tick (fun _ => rfl) s, fetched_proj State.conf (fun _ => rfl) s, fun a ha => ?_,
    fetched_proj (fun t => t.obj.chunks) (fun _ => rfl) s, fetched_proj State.media (fun _ => rfl) s,
    fetched_proj State.queues (fun _ => rfl) s, fetched_proj State.slices (fun _ => rfl) s,
    fetched_proj State.acts (fun _ => rfl) s, fetched_proj State.spns (fun _ => rfl) s⟩
  · by_cases h : d = c
    · rw [h]
      exact fetched_core_same c s
    · rw [hic h]
      exact fetched_core_ne (Ne.symm h) s
  · have hb := congrFun (bufferByte_fetched s c) a
    rwa [bufferByte, bufferByte, if_pos ha, if_pos ha] at hb
end

section
/-! Events at the boundary of a core (R41, R42, R468–R470), and the registers that start, reset and steer it (R479, R481, R506). -/

namespace Sys2Proof.Machine

/-! ### Fields beside the one that is put -/

theorem putFld_eq (v l w x : Nat) : putFld v l w x = v % 2 ^ l + (v / 2 ^ l / 2 ^ w * 2 ^ w + x % 2 ^ w) * 2 ^ l := by
  have hv : v / 2 ^ l * 2 ^ l + v % 2 ^ l = v := Nat.div_add_mod' v (2 ^ l)
  have ha : v / 2 ^ l / 2 ^ w * 2 ^ w + v / 2 ^ l % 2 ^ w = v / 2 ^ l := Nat.div_add_mod' _ (2 ^ w)
  have hp : (v / 2 ^ l / 2 ^ w * 2 ^ w + v / 2 ^ l % 2 ^ w) * 2 ^ l = v / 2 ^ l * 2 ^ l := by rw [ha]
  rw [Nat.add_mul] at hp
  rw [putFld, fld, Nat.add_mul]
  omega

theorem putFld_testBit_out (v : Nat) {l w i : Nat} (x : Nat) (h : i < l ∨ l + w ≤ i) :
    (putFld v l w x).testBit i = v.testBit i := by
  have hl : 0 < 2 ^ l := Nat.two_pow_pos l
  have hw : 0 < 2 ^ w := Nat.two_pow_pos w
  rcases h with h | h
  · have hm : putFld v l w x % 2 ^ l = v % 2 ^ l := by rw [putFld_eq, Nat.add_mul_mod_self_right, Nat.mod_mod]
    have hb := congrArg (Nat.testBit · i) hm
    simpa only [Nat.testBit_mod_two_pow, h, decide_true, Bool.true_and] using hb
  · have hd : putFld v l w x / 2 ^ (l + w) = v / 2 ^ (l + w) := by
      rw [Nat.pow_add, ← Nat.div_div_eq_div_mul, ← Nat.div_div_eq_div_mul, putFld_eq, Nat.add_mul_div_right _ _ hl,
        Nat.div_eq_of_lt (Nat.mod_lt _ hl), Nat.zero_add, Nat.add_comm, Nat.add_mul_div_right _ _ hw,
        Nat.div_eq_of_lt (Nat.mod_lt _ hw), Nat.zero_add]
    have hb := congrArg (Nat.testBit · (i - (l + w))) hd
    simpa only [Nat.testBit_div_two_pow, Nat.sub_add_cancel h] using hb

theorem fld_testBit (v l w i : Nat) : (fld v l w).testBit i = (decide (i < w) && v.testBit (i + l)) := by
  rw [fld, Nat.testBit_mod_two_pow, Nat.testBit_div_two_pow]

theorem fld_putFld_out (v : Nat) {l w l' w' : Nat} (x : Nat) (h : l' + w' ≤ l ∨ l + w ≤ l') :
    fld (putFld v l w x) l' w' = fld v l' w' := by
  apply Nat.eq_of_testBit_eq
  intro i
  rw [fld_testBit, fld_testBit]
  by_cases hi : i < w'
  · rw [putFld_testBit_out v x (by omega)]
  · simp [hi]

theorem fld_mod_two_pow (v : Nat) {l w n : Nat} (h : l + w ≤ n) : fld (v % 2 ^ n) l w = fld v l w := by
  apply Nat.eq_of_testBit_eq
  intro i
  rw [fld_testBit, fld_testBit, Nat.testBit_mod_two_pow]
  by_cases hi : i < w
  · rw [decide_eq_true (show i + l < n by omega), Bool.true_and]
  · simp [hi]

/-! ### Traps (R469) -/

/-- What the entry to a trap leaves of STAT: interrupts off, a frame more, NMI where the trap is the non-maskable one. -/
theorem enterTrap_stat (k : CoreSt) (cause info addr : Nat) (pri : Option Nat) (hd : statDepth k < 3) :
    statIe (enterTrap k cause info addr pri) = false ∧ statDepth (enterTrap k cause info addr pri) = statDepth k + 1
      ∧ statNmi (enterTrap k cause info addr pri) = (statNmi k || decide (cause = causeNmt)) := by
  simp only [statIe, statDepth, statNmi, enterTrap, putBit, BitVec.toNat_ofNat]
  refine ⟨?_, ?_, ?_⟩
  · rw [Nat.testBit_mod_two_pow, putFld_testBit_out _ _ (by decide), putFld_testBit_out _ _ (by decide), putFld_one_testBit]
    rfl
  · rw [fld_mod_two_pow _ (by decide), fld_putFld_out _ _ (by decide), fld_putFld_same]
    exact Nat.mod_eq_of_lt (by rw [statDepth] at hd; omega)
  · rw [Nat.testBit_mod_two_pow, putFld_one_testBit]
    rfl

theorem trapEntered_enterTrap (k : CoreSt) (cause info addr : Nat) (pri : Option Nat) (hd : statDepth k < 3) :
    TrapEntered k (enterTrap k cause info addr pri) cause info addr pri := by
  obtain ⟨hie, hdepth, hnmi⟩ := enterTrap_stat k cause info addr pri hd
  exact ⟨rfl, rfl, by cases pri <;> rfl, hie, hdepth, hnmi, rfl, rfl, rfl, rfl, rfl, rfl, rfl⟩

theorem statDepth_lt_of_not_full {k : CoreSt} (h : trapStackFull k = false) : statDepth k < 3 := by
  simp only [trapStackFull, Bool.or_eq_false_iff, decide_eq_false_iff_not] at h
  omega

/-- A core that has entered a trap runs: the end of the command leaves it alone. -/
theorem settle_enterTrap {s : State} {c : Fin 8} {k : CoreSt} {cause info addr : Nat} {pri : Option Nat}
    (h : s.core c = enterTrap k cause info addr pri) : (settle s).core c = enterTrap k cause info addr pri := by
  rw [settle_core_awake s c (by rw [h]; exact fun e => RunState.noConfusion e), h]

/-! ### BUSERRW (R468, R470) -/

section
variable {s : State} {c : Fin 8} {a : Nat} (hb : atBoundary s c = true) (hn : nmtDue s c = false) (hw : (s.core c).werr = some a)
include hb hn hw

theorem buserrwOp_trap (hf : trapStackFull (s.core c) = false) :
    buserrwOp s c = modCore s c fun k => enterTrap { k with werr := none } causeBuserrw 0 a none := by
  rw [buserrwOp, hw]
  dsimp only
  rw [when, if_pos (by rw [hb, hn]; rfl), if_neg (by rw [hf]; decide)]

theorem buserrwOp_double (hf : trapStackFull (s.core c) = true) :
    buserrwOp s c = doubleFault (modCore s c fun k => { k with werr := none }) c := by
  rw [buserrwOp, hw]
  dsimp only
  rw [when, if_pos (by rw [hb, hn]; rfl), if_pos hf]

end

theorem reported_cores (s : State) (b : Blk) (bits : List Nat) : (reported s b bits).cores = s.cores := by
  have hcap : ∀ t : State, (capture t b bits Cap.none).cores = t.cores := fun t => by
    unfold capture
    split
    · rfl
    · split <;> rfl
  exact (hcap _).trans (overList_keeps State.cores bits s _ fun t i => rbitSet_cores t _ i true)

/-- R470, R471: a double fault of a quiet block halts the core and reports DBLFAULT. -/
theorem doubleFault_quiet {s : State} (hq : quiet s .cpc) (c : Fin 8) :
    doubleFault s c = reported (haltCore s c) .cpc [c.val] :=
  raise1_quiet (s := haltCore s c) hq c.val

/-! ### Lines (R41, R42, R469) -/

theorem takeNmtOp_due {s : State} {c : Fin 8} (hb : atBoundary s c = true) (hn : nmtDue s c = true) :
    takeNmtOp s c = modCore s c fun k => enterTrap { k with nmt := false } causeNmt 0 0 none := by
  rw [takeNmtOp, when, if_pos (by rw [hb, hn]; rfl)]

theorem bestLine_takeable {s : State} {c : Fin 8} {n : Nat} (h : bestLine s c = some n) : takeable s n c = true := by
  have hfold : ∀ (l : List Nat) (b : Option Nat), (∀ m ∈ l, takeable s m c = true) → (∀ m, b = some m → takeable s m c = true) →
      ∀ m, l.foldl (fun (b : Option Nat) n =>
          match b with | none => some n | some m => if routePrio s m < routePrio s n then some n else some m) b = some m →
        takeable s m c = true := by
    intro l
    induction l with
    | nil => exact fun b _ hb m hm => hb m hm
    | cons x rest ih =>
      intro b hl hb
      refine ih _ (fun m hm => hl m (List.mem_cons_of_mem _ hm)) fun m hm => ?_
      have hx := hl x List.mem_cons_self
      cases b with
      | none => cases hm; exact hx
      | some y =>
        dsimp only at hm
        split at hm
        · cases hm; exact hx
        · cases hm; exact hb _ rfl
  exact hfold _ none (fun m hm => (List.mem_filter.mp hm).2) (fun m hm => by cases hm) n h

theorem takeable_iff {s : State} {n : Nat} {c : Fin 8} : takeable s n c = true ↔ canTake s n c = true ∧ lineLevel s n = true
    ∧ (routeMode1 s n = true → assignee s n = some c.val ∨ assignee s n = none ∧ fin8.find? (fun d => canTake s n d) = some c) := by
  cases h : routeMode1 s n <;> simp [takeable, h, and_assoc]

theorem canTake_depth {s : State} {n : Nat} {c : Fin 8} (h : canTake s n c = true) : statDepth (s.core c) < 2 := by
  simp only [canTake, Bool.and_eq_true, decide_eq_true_eq] at h
  exact h.1.2

/-- The state in which a core has the line that it takes: a MODE 1 line that was unassigned is assigned to it (R41). -/
def withLine (s : State) (n : Nat) (c : Fin 8) : State :=
  if routeMode1 s n && assignee s n = none then { s with assigns := s.assigns ++ [(n, c.val)] } else s

theorem withLine_eq (s : State) (n : Nat) (c : Fin 8) : ∃ l, withLine s n c = { s with assigns := l } := by
  unfold withLine
  split
  · exact ⟨_, rfl⟩
  · exact ⟨s.assigns, rfl⟩

theorem assignee_withLine {s : State} {n : Nat} {c : Fin 8} (hm : routeMode1 s n = true)
    (ha : assignee s n = some c.val ∨ assignee s n = none) : assignee (withLine s n c) n = some c.val := by
  unfold withLine
  rcases ha with ha | ha
  · rw [if_neg (by simp [ha]), ha]
  · rw [if_pos (by simp [hm, ha])]
    exact assignee_append ha c.val

theorem takeInterruptOp_best {s : State} {c : Fin 8} {n : Nat} (hb : atBoundary s c = true) (hn : nmtDue s c = false)
    (hw : (s.core c).werr = none) (hl : bestLine (dropAssigns s) c = some n) :
    takeInterruptOp s c
      = modCore (withLine (dropAssigns s) n c) c fun k => enterTrap k causeInt (n * 2 ^ 16) 0 (some (routePrio s n)) := by
  have hg : (atBoundary (dropAssigns s) c && !nmtDue (dropAssigns s) c && ((dropAssigns s).core c).werr.isNone) = true := by
    change (atBoundary s c && !nmtDue s c && (s.core c).werr.isNone) = true
    rw [hb, hn, hw]
    rfl
  rw [takeInterruptOp]
  dsimp only
  rw [when, if_pos hg, hl]
  obtain ⟨l, hwl⟩ := withLine_eq (dropAssigns s) n c
  have hp : routePrio (withLine (dropAssigns s) n c) n = routePrio s n := by rw [hwl]; rfl
  rw [← hp]
  rfl

/-! ### CORECTL (R479, R481) -/

theorem keyed_iff (v : Word) : keyed v = true ↔ v.toNat / 2 ^ 16 = 0xC4E5 := by
  rw [keyed, decide_eq_true_eq]

/-- The key stands above the bits of RUN and RESET. -/
theorem key_of_low {v w : Word} (h : ∀ i, 2 ≤ i → w.getLsbD i = v.getLsbD i) : w.toNat / 2 ^ 16 = v.toNat / 2 ^ 16 := by
  apply Nat.eq_of_testBit_eq
  intro i
  rw [Nat.testBit_div_two_pow, Nat.testBit_div_two_pow, BitVec.testBit_toNat, BitVec.testBit_toNat, h _ (by omega)]

theorem getLsbD_low {x : Nat} (hx : x < 4) {i : Nat} (hi : 2 ≤ i) : (BitVec.ofNat 32 x).getLsbD i = false := by
  have hp : 2 ^ 2 ≤ 2 ^ i := Nat.pow_le_pow_right (by decide) hi
  rw [BitVec.getLsbD_ofNat, Nat.testBit_lt_two_pow (by omega), Bool.and_false]

theorem key_run (v : Word) : keyed ((v ||| 1) &&& ~~~2) = keyed v := by
  have h : ∀ i, 2 ≤ i → ((v ||| 1) &&& ~~~2 : Word).getLsbD i = v.getLsbD i := fun i hi => by
    have h1 : (1 : Word).getLsbD i = false := getLsbD_low (by decide) hi
    have h2 : (2 : Word).getLsbD i = false := getLsbD_low (by decide) hi
    rw [BitVec.getLsbD_and, BitVec.getLsbD_or, BitVec.getLsbD_not, h1, h2, Bool.or_false, Bool.not_false, Bool.and_true]
    by_cases hlt : i < 32
    · rw [decide_eq_true hlt, Bool.and_true]
    · rw [BitVec.getLsbD_of_ge _ _ (Nat.le_of_not_lt hlt), Bool.false_and]
  rw [keyed, keyed, key_of_low h]

theorem key_reset (v : Word) : keyed (if v.toNat.testBit 0 then v ||| 2 else v) = keyed v := by
  have h : ∀ i, 2 ≤ i → (v ||| 2 : Word).getLsbD i = v.getLsbD i := fun i hi => by
    have h2 : (2 : Word).getLsbD i = false := getLsbD_low (by decide) hi
    rw [BitVec.getLsbD_or, h2, Bool.or_false]
  split
  · rw [keyed, keyed, key_of_low h]
  · rfl

theorem corectlOp_unkeyed {v : Word} (h : keyed v = false) (s : State) (c : Fin 8) : corectlOp s c v = s := by
  rw [corectlOp, when, if_neg (by rw [h]; decide)]

theorem coreRun_eq {v : Word} (h : keyed v = true) (s : State) (c : Fin 8) :
    corectlOp s c ((v ||| 1) &&& ~~~2) = startCore (rbitSet s (Reg.cpcCorectl c) 0 true) c := by
  have h0 : ((v ||| 1) &&& ~~~2 : Word).toNat.testBit 0 = true := by rw [BitVec.testBit_toNat]; simp
  have h1 : ((v ||| 1) &&& ~~~2 : Word).toNat.testBit 1 = false := by rw [BitVec.testBit_toNat]; simp
  rw [corectlOp, when, if_pos (by rw [key_run, h])]
  simp only [h0, h1, if_true, Bool.false_eq_true, if_false]

theorem coreReset_run_eq {v : Word} (h : keyed v = true) (hr : v.toNat.testBit 0 = true) (s : State) (c : Fin 8) :
    corectlOp s c (if v.toNat.testBit 0 then v ||| 2 else v) = coreResetOp (rbitSet s (Reg.cpcCorectl c) 0 true) c true := by
  have h0 : (v ||| 2 : Word).toNat.testBit 0 = true := by
    rw [BitVec.testBit_toNat, BitVec.getLsbD_or, ← BitVec.testBit_toNat, hr, Bool.true_or]
  have h1 : (v ||| 2 : Word).toNat.testBit 1 = true := by rw [BitVec.testBit_toNat]; simp
  rw [corectlOp, when, if_pos (by rw [key_reset, h]), if_pos hr]
  simp only [h0, h1, if_true]

theorem coreReset_stop_eq {v : Word} (h : keyed v = true) (hr : v.toNat.testBit 0 = false) {s : State} {c : Fin 8}
    (hc : (s.core c).run ≠ .reset) :
    corectlOp s c (if v.toNat.testBit 0 then v ||| 2 else v) = coreResetOp (rbitSet s (Reg.cpcCorectl c) 0 false) c true := by
  have hc' : ((rbitSet s (Reg.cpcCorectl c) 0 false).core c).run ≠ .reset := hc
  rw [corectlOp, when, if_pos (by rw [key_reset, h]), if_neg (Bool.eq_false_iff.mp hr)]
  simp only [hr, Bool.false_eq_true, if_false, if_neg hc', ite_self]

theorem cpcStartpc_ne_cpcCorectl (c : Fin 8) : Reg.cpcStartpc c ≠ Reg.cpcCorectl c := by
  have := c.isLt
  unfold Reg.cpcStartpc Reg.cpcCorectl
  omega

theorem rn_startpc_rbitSet (s : State) (c : Fin 8) (b : Bool) :
    rn (rbitSet s (Reg.cpcCorectl c) 0 b) (Reg.cpcStartpc c) = rn s (Reg.cpcStartpc c) :=
  rn_rset_ne s _ (cpcStartpc_ne_cpcCorectl c)

theorem startCore_rget (s : State) (c : Fin 8) (a : Nat) : rget (startCore s c) a = rget s a := by
  unfold startCore
  split <;> rfl

theorem startCore_mem (s : State) (c : Fin 8) : (startCore s c).mem = s.mem := by
  unfold startCore
  split <;> rfl

theorem startCore_reset {s : State} {c : Fin 8} (h : (s.core c).run = .reset) :
    (startCore s c).core c = { s.core c with run := .running, pc := BitVec.ofNat 64 (rn s (Reg.cpcStartpc c)) } := by
  rw [startCore, if_pos h, modCore_core]

theorem startCore_other {s : State} {c : Fin 8} (h : (s.core c).run ≠ .reset) : startCore s c = s := if_neg h

/-! ### The write-back of a cache (R502) -/

theorem MemEffect.wbSubs (n : Nat) (s : State) (c : Fin 8) (l : Line) (k : Nat) : MemEffect s (wbSubs s c l k n).2 := by
  induction n generalizing s k with
  | zero => exact .refl s
  | succ n ih =>
    unfold Machine.wbSubs
    dsimp only
    refine MemEffect.trans ?_ (ih _ _)
    split
    · exact MemEffect.busWrite _ _ _ _
    · exact .refl s

theorem MemEffect.wbLines (ls : List Line) (s : State) (c : Fin 8) : MemEffect s (wbLines s c ls).2 := by
  induction ls generalizing s with
  | nil => exact .refl s
  | cons l rest ih => exact (MemEffect.wbSubs 4 s c l 0).trans (ih _)

/-- No event of an access to memory is of CPC: its registers stay. -/
theorem not_memReg_cpc {a : Nat} (h : 0x20_00A0_0000 ≤ a ∧ a < 0x20_00A1_0000) : ¬ memReg a := by
  rintro ⟨b, hb, hlo, hhi⟩
  simp only [memBlks, List.mem_cons, List.not_mem_nil, or_false] at hb
  rcases hb with rfl | rfl | rfl | rfl | rfl <;> simp only [blkBase, blkWindow, windowBase] at hlo hhi <;> omega

theorem cpcCachectl_ne (c : Fin 8) : Reg.cpcCorectl c ≠ Reg.cpcCachectl c ∧ Reg.cpcStartpc c ≠ Reg.cpcCachectl c := by
  have := c.isLt
  unfold Reg.cpcStartpc Reg.cpcCorectl Reg.cpcCachectl
  omega

theorem rget_cpc_wbLines (s : State) (c : Fin 8) (ls : List Line) :
    rget (wbLines s c ls).2 (Reg.cpcCorectl c) = rget s (Reg.cpcCorectl c)
      ∧ rget (wbLines s c ls).2 (Reg.cpcStartpc c) = rget s (Reg.cpcStartpc c)
      ∧ rget (wbLines s c ls).2 (Reg.cpcCachectl c) = rget s (Reg.cpcCachectl c) := by
  have := c.isLt
  have h := MemEffect.wbLines ls s c
  refine ⟨h.rget_eq (not_memReg_cpc ?_), h.rget_eq (not_memReg_cpc ?_), h.rget_eq (not_memReg_cpc ?_)⟩
  · unfold Reg.cpcCorectl; omega
  · unfold Reg.cpcStartpc; omega
  · unfold Reg.cpcCachectl; omega

/-- R479: what a core reset leaves of its core, by CORECTL.RUN. -/
theorem coreResetOp_core (s : State) (c : Fin 8) {b : Bool} (hb : rbit s (Reg.cpcCorectl c) 0 = b) :
    (coreResetOp s c true).core c
        = { CoreSt.reset (if b then .running else .reset) with
            pc := if b then BitVec.ofNat 64 (rn s (Reg.cpcStartpc c)) else 0, nmt := ((coreResetOp s c true).core c).nmt }
      ∧ ((s.core c).nmt = true → ((coreResetOp s c true).core c).nmt = true)
      ∧ rbit (coreResetOp s c true) (Reg.cpcCorectl c) 0 = b := by
  obtain ⟨hctl, hpc, _⟩ := rget_cpc_wbLines s c (s.core c).dcache
  obtain ⟨hne1, hne2⟩ := cpcCachectl_ne c
  have hn := (MemEffect.wbLines (s.core c).dcache s c).nmt_pending c
  unfold coreResetOp
  simp only [if_true]
  generalize (wbLines s c (s.core c).dcache).2 = u at hctl hpc hn
  have hrun : rbit (rset u (Reg.cpcCachectl c) (regReset (Reg.cpcCachectl c))) (Reg.cpcCorectl c) 0 = b := by
    rw [rbit, rn_rset_ne u _ hne1, rn, hctl, ← rn, ← rbit, hb]
  have hstart : rn (rset u (Reg.cpcCachectl c) (regReset (Reg.cpcCachectl c))) (Reg.cpcStartpc c) = rn s (Reg.cpcStartpc c) := by
    rw [rn_rset_ne u _ hne2, rn, hpc, ← rn]
  rw [hrun, hstart, modCore_core]
  exact ⟨rfl, hn, hrun⟩

theorem coreReset_run_ne_waiting (s : State) (c : Fin 8) : ((coreResetOp s c true).core c).run ≠ .waiting := by
  obtain ⟨h, _⟩ := coreResetOp_core s c rfl
  rw [h]
  dsimp only [CoreSt.reset]
  split <;> exact fun e => RunState.noConfusion e

/-! ### CACHECTL (R506, R511) -/

/-- Enables, locks, PLEN and PLWAY are the fields of CACHECTL. -/
theorem plainReg_cpcCachectl : ∀ c : Fin 8, plainReg (Reg.cpcCachectl c) 0x7773 = true := by decide +kernel

/-- The word that a write stores: PLWAY 3 leaves the way that stands there. -/
def cachectlWord (s : State) (c : Fin 8) (v : Word) : Nat :=
  if fld v.toNat 13 2 = 3 then putFld v.toNat 13 2 (fld (rn s (Reg.cpcCachectl c)) 13 2) else v.toNat

theorem cachectlWord_testBit (s : State) (c : Fin 8) (v : Word) {i : Nat} (h : i < 13) :
    (cachectlWord s c v).testBit i = v.toNat.testBit i := by
  unfold cachectlWord
  split
  · exact putFld_testBit_out _ _ (.inl h)
  · rfl

theorem cachectlWord_fld (s : State) (c : Fin 8) (v : Word) {l w : Nat} (h : l + w ≤ 13) :
    fld (cachectlWord s c v) l w = fld v.toNat l w := by
  unfold cachectlWord
  split
  · exact fld_putFld_out _ _ (.inl h)
  · rfl

theorem cachectlWord_plway (s : State) (c : Fin 8) (v : Word) :
    fld (cachectlWord s c v) 13 2 = if fld v.toNat 13 2 = 3 then rf s (Reg.cpcCachectl c) 13 2 else fld v.toNat 13 2 := by
  unfold cachectlWord
  split
  · rw [fld_putFld_same, rf]
    exact Nat.mod_mod _ _
  · rfl

/-- The data cache turned off: written back and emptied. -/
def dataOff (s : State) (c : Fin 8) (off : Bool) : State :=
  if off then
    let r := wbLines s c (s.core c).dcache
    postErrOf (setLines r.2 c false []) c r.1
  else s

/-- The instruction cache turned off: emptied. -/
def instrOff (s : State) (c : Fin 8) (off : Bool) : State := if off then setLines s c true [] else s

theorem cachectlOp_eq (s : State) (c : Fin 8) (v : Word) :
    cachectlOp s c v = fieldWrite
      (instrOff (dataOff s c (cacheOn s c false && !(cachectlWord s c v).testBit 1)) c
        (cacheOn s c true && !(cachectlWord s c v).testBit 0))
      (Reg.cpcCachectl c) (BitVec.ofNat 64 (cachectlWord s c v)) := rfl

theorem postErrOf_caches (s : State) (c : Fin 8) (e : Option Nat) :
    ((postErrOf s c e).core c).dcache = (s.core c).dcache ∧ ((postErrOf s c e).core c).icache = (s.core c).icache := by
  unfold postErrOf
  split
  · exact ⟨rfl, rfl⟩
  · rw [postErr, modCore_core]
    exact ⟨rfl, rfl⟩

theorem dataOff_caches (s : State) (c : Fin 8) (off : Bool) :
    ((dataOff s c off).core c).dcache = (if off then [] else (s.core c).dcache)
      ∧ ((dataOff s c off).core c).icache = (s.core c).icache := by
  unfold dataOff
  split
  · obtain ⟨hd, hi⟩ := postErrOf_caches (setLines (wbLines s c (s.core c).dcache).2 c false []) c (wbLines s c (s.core c).dcache).1
    rw [setLines, modCore_core] at hd hi
    have hwb := (MemEffect.wbLines (s.core c).dcache s c).core_eq c
    refine ⟨hd, hi.trans ?_⟩
    rw [hwb]
    rfl
  · exact ⟨rfl, rfl⟩

theorem instrOff_caches (s : State) (c : Fin 8) (off : Bool) :
    ((instrOff s c off).core c).dcache = (s.core c).dcache
      ∧ ((instrOff s c off).core c).icache = if off then [] else (s.core c).icache := by
  unfold instrOff
  split
  · rw [setLines, modCore_core]
    exact ⟨rfl, rfl⟩
  · exact ⟨rfl, rfl⟩

theorem fieldWrite_core (s : State) (a : Nat) (v : DWord) (c : Fin 8) : (fieldWrite s a v).core c = s.core c := by
  obtain ⟨m, h⟩ := fieldWrite_rest s a v
  rw [h]
  rfl

end Sys2Proof.Machine
end

section
open Sys2Proof Sys2Proof.Machine

/-- Settles O45: a trap is entered as R469 has it, a key lets CORECTL act, and CACHECTL stores its fields. -/
theorem coreEvents : Obligations.CoreEvents := by
  unfold Obligations.CoreEvents
  refine ⟨?_, ?_, ?_, ?_, ?_, ?_, ?_, ?_, ?_⟩
  · intro c a s hb hn hw hf
    refine answers_settled _ _ ?_
    rw [buserrwOp_trap hb hn hw hf]
    have hk := settle_enterTrap (modCore_core s c fun k => enterTrap { k with werr := none } causeBuserrw 0 a none)
    rw [hk]
    exact ⟨trapEntered_enterTrap _ _ _ _ _ (statDepth_lt_of_not_full hf), rfl, settle_mem _, settle_regs _⟩
  · intro c a s hb hn hw hf hq
    refine answers_settled _ _ ?_
    rw [buserrwOp_double hb hn hw hf, doubleFault_quiet (s := modCore s c fun k => { k with werr := none }) hq]
    have hcore : (reported (haltCore (modCore s c fun k => { k with werr := none }) c) .cpc [c.val]).core c
        = { s.core c with werr := none, run := .halted } := by
      rw [State.core, reported_cores, ← State.core, haltCore, modCore_core, modCore_core]
    have hrun : (settle (reported (haltCore (modCore s c fun k => { k with werr := none }) c) .cpc [c.val])).core c
        = { s.core c with werr := none, run := .halted } := by
      rw [settle_core_awake _ _ (by rw [hcore]; exact fun e => RunState.noConfusion e), hcore]
    rw [hrun, settle_rbit, settle_mem]
    exact ⟨rfl, reported_fstat _ _ (by omega), rfl, reported_mem _ _ _⟩
  · intro c s hb hn
    refine answers_settled _ _ ?_
    rw [takeNmtOp_due hb hn]
    have hk := settle_enterTrap (modCore_core s c fun k => enterTrap { k with nmt := false } causeNmt 0 0 none)
    have hd : statDepth (s.core c) < 3 := by
      simp only [nmtDue, Bool.and_eq_true, decide_eq_true_eq] at hn
      omega
    rw [hk]
    exact ⟨trapEntered_enterTrap _ _ _ _ _ hd, rfl, settle_mem _, settle_regs _⟩
  · intro c n s hb hn hw hl
    refine answers_settled _ _ ?_
    rw [takeInterruptOp_best hb hn hw hl]
    obtain ⟨hcan, hlevel, hmode⟩ := takeable_iff.mp (bestLine_takeable hl)
    obtain ⟨l, hwl⟩ := withLine_eq (dropAssigns s) n c
    have hc : (withLine (dropAssigns s) n c).core c = s.core c := by rw [hwl]; rfl
    have hk := settle_enterTrap (modCore_core (withLine (dropAssigns s) n c) c fun k =>
      enterTrap k causeInt (n * 2 ^ 16) 0 (some (routePrio s n)))
    rw [hk, hc, Nat.mul_comm n]
    have hd : statDepth (s.core c) < 2 := canTake_depth (s := dropAssigns s) hcan
    refine ⟨trapEntered_enterTrap _ _ _ _ _ (by omega), fun hm => ?_, ?_, ?_⟩
    · have ha := assignee_withLine (s := dropAssigns s) (c := c) hm ((hmode hm).imp_right And.left)
      refine (assignee_settle ?_).trans ha
      rw [hwl]
      exact (lineLevel_congr rfl rfl rfl rfl rfl n).trans hlevel
    · rw [settle_mem, modCore_mem, hwl]; rfl
    · rw [settle_regs, modCore_regs, hwl]; rfl
  · intro c v s hv
    refine answers_settled _ _ ?_
    rw [coreRun_eq ((keyed_iff v).mpr hv)]
    have hcore : (rbitSet s (Reg.cpcCorectl c) 0 true).core c = s.core c := rfl
    refine ⟨?_, fun hr => ?_, fun hr => ?_, ?_, ?_⟩
    · rw [settle_rbit, rbit, rn, startCore_rget]
      exact rbit_rbitSet_same s _ (by decide) true
    · have hst := startCore_reset (s := rbitSet s (Reg.cpcCorectl c) 0 true) (c := c) hr
      rw [settle_core_awake _ _ (by rw [hst]; exact fun e => RunState.noConfusion e), hst, rn_startpc_rbitSet, hcore]
    · have hne : (s.core c).run ≠ .reset ∧ (s.core c).run ≠ .waiting := by
        rcases hr with h | h <;> rw [h] <;> exact ⟨fun e => RunState.noConfusion e, fun e => RunState.noConfusion e⟩
      rw [startCore_other (s := rbitSet s (Reg.cpcCorectl c) 0 true) hne.1]
      exact settle_core_awake _ _ hne.2
    · refine regsSameBut_settle fun a ha => (startCore_rget _ c a).trans ?_
      exact regsSameBut_rset s _ _ a ha
    · rw [settle_mem, startCore_mem, rbitSet_mem]
  · intro c v s hv hr
    refine answers_settled _ _ ?_
    rw [coreReset_run_eq ((keyed_iff v).mpr hv) hr]
    obtain ⟨hcore, hnmt, hrun⟩ := coreResetOp_core (rbitSet s (Reg.cpcCorectl c) 0 true) c
      (rbit_rbitSet_same s (Reg.cpcCorectl c) (by decide) true)
    rw [settle_core_awake _ _ (coreReset_run_ne_waiting _ c), settle_rbit]
    rw [rn_startpc_rbitSet] at hcore
    exact ⟨hcore, hnmt, hrun⟩
  · intro c v s hv hr hc
    refine answers_settled _ _ ?_
    rw [coreReset_stop_eq ((keyed_iff v).mpr hv) hr hc]
    obtain ⟨hcore, hnmt, hrun⟩ := coreResetOp_core (rbitSet s (Reg.cpcCorectl c) 0 false) c
      (rbit_rbitSet_same s (Reg.cpcCorectl c) (by decide) false)
    rw [settle_core_awake _ _ (coreReset_run_ne_waiting _ c), settle_rbit]
    exact ⟨hcore, hnmt, hrun⟩
  · intro c v s hv
    have hk : keyed v = false := Bool.eq_false_iff.mpr fun h => hv ((keyed_iff v).mp h)
    exact ⟨congrArg settled (corectlOp_unkeyed (by rw [key_run, hk]) s c),
      congrArg settled (corectlOp_unkeyed (by rw [key_reset, hk]) s c)⟩
  · intro c v s hrun
    have hp := plainReg_cpcCachectl c
    refine answers_settled _ _ ?_
    rw [when, if_pos hrun, cachectlOp_eq]
    have h0 := cachectlWord_testBit s c v (i := 0) (by decide)
    have h1 := cachectlWord_testBit s c v (i := 1) (by decide)
    rw [h0, h1]
    generalize hu : instrOff (dataOff s c (cacheOn s c false && !v.toNat.testBit 1)) c (cacheOn s c true && !v.toNat.testBit 0) = u
    have hbit : ∀ i, i < 13 → (0x7773 : Nat).testBit i = true →
        rbit (fieldWrite u (Reg.cpcCachectl c) (BitVec.ofNat 64 (cachectlWord s c v))) (Reg.cpcCachectl c) i = v.toNat.testBit i :=
      fun i hi hm => by
        rw [rbit, fieldWrite_testBit hp u _ (by omega) hm, BitVec.toNat_ofNat, Nat.testBit_mod_two_pow,
          decide_eq_true (show i < 64 by omega), Bool.true_and, cachectlWord_testBit s c v hi]
    have hfld : ∀ l w, l + w ≤ 32 → (∀ j, j < w → (0x7773 : Nat).testBit (l + j) = true) →
        rf (fieldWrite u (Reg.cpcCachectl c) (BitVec.ofNat 64 (cachectlWord s c v))) (Reg.cpcCachectl c) l w
          = fld (cachectlWord s c v) l w :=
      fun l w hl hm => by rw [rf, fieldWrite_fld hp u _ hl hm, BitVec.toNat_ofNat, fld_mod_two_pow _ (by omega)]
    have hd := dataOff_caches s c (cacheOn s c false && !v.toNat.testBit 1)
    have hi := instrOff_caches (dataOff s c (cacheOn s c false && !v.toNat.testBit 1)) c (cacheOn s c true && !v.toNat.testBit 0)
    rw [hu, hd.1, hd.2] at hi
    simp only [cacheOn, lockMask, settle_rbit, settle_rf, settle_core_dcache, settle_core_icache, fieldWrite_core]
    refine ⟨hbit 0 (by decide) (by decide), hbit 1 (by decide) (by decide), ?_, ?_, hbit 12 (by decide) (by decide), ?_, hi.1, hi.2⟩
    · exact (hfld 4 3 (by decide) (by decide)).trans (cachectlWord_fld s c v (by decide))
    · exact (hfld 8 3 (by decide) (by decide)).trans (cachectlWord_fld s c v (by decide))
    · exact (hfld 13 2 (by decide) (by decide)).trans (cachectlWord_plway s c v)
end

section
/-! The clause of O34 on a write says that its start leaves the objects as they were. It does not for every state. Starting the
operation connects its slice, and with the connection source FORCE of every link follows WCTL.FORCEWUS (R256), so the write under way
on another slice may be abandoned; its status entry goes to memory (R258, R262), at an address that the descriptor of that write
gives. Where the address lies in the first copy of a voted group of Locus, a disagreement of the copies is reported (R436), and where
the reaction to it is a block reset, Locus drops its cache and its count of unowned units. The state below has all of this. The
statement bounds neither the DRAM of the configuration nor the sources of a link: here the buffer has 74 GiB, so that the addresses
of the group are addresses of the buffer, which a slice reaches, and FORCE is not yet among the sources of a link whose slice has
FORCEWUS set. -/

namespace Sys2Proof.Machine.VotedStatus

/-- Address of the first word of LROOT, copy 0. -/
def lroot : Nat := 0x10_0020_0000

/-- A write of the unit in slot 0 of band 0, on actuator 0. -/
def write : Desc :=
  { kind := 2, act := 0, notag := false, close := false, profile := 0, count := 1, band := 0, slot := 0, wedgebits := 83320, firstTrack := 128
    slots := 1344, head := 0, data := 0, status := 0, aux := 0, vstatus := 0, clean := true }

/-- A write under way for a posted descriptor whose status array begins at `lroot`. -/
def underWay : MediaOp :=
  { src := .queue 0 0, d := { write with status := lroot }, done := 0, writing := true, opres := 0, ended := false, cfgErr := false, first := 0
    units := 0, vdone := 0, ok := 0 }

/-- A Store that has staged one chunk, of key 0. -/
def store : Tag := { Tag.free with st := .active, cmd := { HostCmd.none with op := .kvStore }, keys := [0] }

/-- Slice 0 is idle and enabled, and actuator 0 is ready for it. -/
def ready : State :=
  let s := rsetN (rsetN State.reset Reg.radGctl 1) (Reg.chdCtl 0) 1
  let s := modAct (modSpn s 0 fun x => { x with st := .run, atspeed := true }) 0 fun x => { x with st := .track }
  { s with
    ms := { s.ms with ready := true }, links := Vector.replicate 16 { live := [], holding := false, wd := [] }
    cqu := { s.cqu with tags := [(0, store)] }
    obj := { s.obj with chunks := [(0, { Chunk.absent with count := 1, staged := true })], unowned := 1 } }

/-- Slice 1 writes on actuator 2 with FORCEWUS set; the copies of LROOT disagree, and the reaction to that is a block reset. -/
def forced : State :=
  let s := modSlice (rsetN (rsetN ready (Reg.chdWctl 1) 0x100) (aFreact .loc) 8) 1 fun x =>
    { x with valid := true, dir := true, act := 2, op := some underWay }
  { s with conf := { s.conf with dramGib := 74 }, mem := [(lroot, 1)] }

theorem unowned_after_start : (mediaOpStartOp forced 0 0 write).obj.unowned = 0 := by decide +kernel

end Sys2Proof.Machine.VotedStatus
end

section
open Sys2Proof Sys2Proof.Machine Sys2Proof.Machine.VotedStatus

/-- Refutes O34: the start of a write abandons the write of another slice, whose status entry meets a disagreement of LROOT, and the
reaction to it resets Locus, so that the objects change. -/
theorem not_mediaOperations : ¬ Obligations.MediaOperations := by
  intro ⟨_, writeStarts, _⟩
  obtain ⟨t, ht, _, _, _, _, _, _, hobj⟩ := writeStarts 0 0 write 1 forced (by decide +kernel) (by decide +kernel) (by decide +kernel)
    (by decide +kernel) (by decide +kernel) (by decide +kernel) (by decide +kernel) rfl (by decide +kernel) (by decide +kernel)
    (by decide +kernel) (by decide +kernel) (by decide +kernel) (by decide +kernel) (by decide +kernel) (by decide +kernel)
  have hsettle : settle (mediaOpStartOp forced 0 0 write) = t := Host.Outcome.next.inj ht
  have hunowned : t.obj.unowned = 0 := by rw [← hsettle, settle_obj, unowned_after_start]
  have hbefore : forced.obj.unowned = 1 := by decide +kernel
  rw [hobj, hbefore] at hunowned
  exact absurd hunowned (by decide)

end

section
/-! Requests for a chip reset and the holds of the main die (R52, R66, R67, R77, R605). -/

namespace Sys2Proof.Machine

theorem releaseIfFree_eq (s : State) :
    releaseIfFree s = { s with rst := { s.rst with inChipReset := s.rst.inChipReset && resetHeld s } } := by
  unfold releaseIfFree
  cases h : s.rst.inChipReset <;> cases hh : resetHeld s <;> simp [← h]

/-- R67: a request made after fault events of a plain block stands with the power-fail sequence of before. -/
theorem requested_askReset_of_rest {s t : State} (h : rest t = rest s) (c : ResetCause) : requested s (askReset t c) c := by
  have hq := requested_askReset t c
  rwa [requested, rest_proj (fun u => u.pf.active) (fun _ => rfl) h] at hq

theorem requested_settle {s t : State} {c : ResetCause} (h : requested s t c) : requested s (settle t) c := by
  rwa [requested, settle_rst]

/-- The state in which a clock loss has been found (R52). -/
def clockLost (s : State) : State :=
  { (draw s).2 with rst := { s.rst with xtalOk := (draw s).1.toNat.testBit 0, pllLock := false, clkHold := true } }

theorem rest_clockLossOp (s : State) : rest (clockLossOp s) = rest (clockLost s) :=
  (rest_askReset _ _).trans (rest_raiseCond (b := .sys) (fun _ _ => rfl) (clockLost s) 1)

theorem requested_clockLossOp (s : State) : requested s (clockLossOp s) .clkloss :=
  requested_askReset_of_rest (s := clockLost s) (rest_raiseCond (b := .sys) (fun _ _ => rfl) (clockLost s) 1) .clkloss

/-- R52: the clocks are back, and CLKLOSS is no longer present. -/
def clockBack (s : State) : State :=
  setLive { s with rst := { s.rst with clkHold := false, xtalOk := true, pllLock := true } } .sys 1 false

theorem clklossReleaseOp_eq {s : State} (h : s.rst.clkHold = true) : clklossReleaseOp s = releaseIfFree (clockBack s) := by
  rw [clklossReleaseOp, when, if_pos h]
  rfl

theorem resetHeld_clockBack {s : State} (ht : s.rst.tempHold = false) (hp : s.rst.pinLow = false) (ha : s.tap.active = false) :
    resetHeld (clockBack s) = false := by
  simp [resetHeld, clockBack, setLive, ht, hp, ha]

theorem regsSameBut_setLive (s : State) (b : Blk) (i : Nat) (v : Bool) : regsSameBut s (setLive s b i v) [aFlive b] :=
  regsSameBut_rset s _ _

end Sys2Proof.Machine

section
open Sys2Proof Sys2Proof.Machine

/-- Settles O3: no event or unload withdraws a request for a chip reset, and a release ends the reset where no hold is left. -/
theorem resetRequests : Obligations.ResetRequests := by
  unfold Obligations.ResetRequests
  refine ⟨?_, ?_, ?_, ?_, ?_, ?_⟩
  · intro s
    have h := rest_clockLossOp s
    refine answers_settled _ _ ⟨?_, ?_, requested_settle (requested_clockLossOp s)⟩
    · rw [settle_rst]
      exact rest_proj (fun u => u.rst.clkHold) (fun _ => rfl) h
    · rw [settle_rst]
      exact rest_proj (fun u => u.rst.pllLock) (fun _ => rfl) h
  · intro s hc
    refine answers_settled _ _ ?_
    rw [clklossReleaseOp_eq hc, releaseIfFree_eq]
    refine ⟨by rw [settle_rst]; rfl, by rw [settle_rst]; rfl, by rw [settle_rst]; rfl, fun ht hp ha => ?_,
      regsSameBut_settle (regsSameBut_setLive _ .sys 1 false), settle_mem _, settle_datum _⟩
    rw [settle_rst, resetHeld_clockBack ht hp ha]
    exact Bool.and_false _
  · intro s
    have h : rest (nresetAssertOp s) = rest { s with rst := { s.rst with pinLow := true } } := rest_askReset _ _
    refine answers_settled _ _ ⟨?_, requested_settle (requested_askReset { s with rst := { s.rst with pinLow := true } } .pin)⟩
    rw [settle_rst]
    exact rest_proj (fun u => u.rst.pinLow) (fun _ => rfl) h
  · intro s
    refine answers_settled _ _ ?_
    rw [nresetReleaseOp, releaseIfFree_eq]
    refine ⟨by rw [settle_rst], settle_regs _, settle_mem _, ?_⟩
    rw [settle_rst]
    simp [resetHeld]
  · intro v s hk hb
    have he : rstctlChipOp s v = askReset s .soft := if_pos (by simp [(keyed_iff v).mpr hk, hb])
    refine answers_settled _ _ ?_
    rw [he]
    exact requested_settle (requested_askReset s .soft)
  · intro v s h
    refine congrArg settled (if_neg ?_)
    rw [Bool.and_eq_true, keyed_iff]
    rintro ⟨hk, hb⟩
    exact h.elim (fun h => h hk) fun h => Bool.false_ne_true (h.symm.trans hb)
end
end

section
/-! What a chip reset, a main-die power-on reset and a block reset put at reset, and what they keep (R66–R68, R78). -/

namespace Sys2Proof.Machine

/-! ### Registers -/

theorem tget_filter_out {α : Type} (d : α) (m : SMap α) (p : Nat × α → Bool) {k : Nat} (h : ∀ v, p (k, v) = false) :
    tget d (m.filter p) k = d := by
  induction m with
  | nil => rfl
  | cons e rest ih =>
    obtain ⟨k', v⟩ := e
    by_cases hp : p (k', v) = true
    · have hk : k' ≠ k := fun e => by rw [e, h v] at hp; cases hp
      rw [List.filter_cons_of_pos hp, tget, if_neg hk, ih]
    · rw [List.filter_cons_of_neg hp, ih]

theorem rget_mainDieReset (s : State) (a : Nat) :
    rget (mainDieReset s) a = if isPmuReg a = true then rget s a else regReset a := by
  split
  next h => exact MemEffect.tget_filter _ _ _ fun _ => h
  next h => exact tget_filter_out _ _ _ fun _ => Bool.not_eq_true _ ▸ h

theorem isPmuReg_pmuFrstsrc : isPmuReg Reg.pmuFrstsrc = true := by decide

theorem sysRstcause_ne_pmuFrstsrc : Reg.sysRstcause ≠ Reg.pmuFrstsrc := by decide

/-- From `s` to `t` no part of the state but the registers has changed. -/
def RegsOnly (s t : State) : Prop := t = { s with regs := t.regs }

theorem RegsOnly.rset (s : State) (a : Nat) (v : DWord) : RegsOnly s (rset s a v) := rfl

theorem RegsOnly.trans {s t u : State} (h : RegsOnly s t) (h' : RegsOnly t u) : RegsOnly s u := by
  rw [RegsOnly] at h h' ⊢
  rw [h', h]

/-- From `s` to `t` nothing but one register has changed. -/
def OnlyReg (s t : State) (a : Nat) : Prop := RegsOnly s t ∧ regsSameBut s t [a]

theorem OnlyReg.refl (s : State) (a : Nat) : OnlyReg s s a := ⟨rfl, fun _ _ => rfl⟩

theorem OnlyReg.set {s t : State} {a : Nat} (h : OnlyReg s t a) (v : DWord) : OnlyReg s (rset t a v) a :=
  ⟨h.1.trans (.rset t a v), fun b hb => (regsSameBut_rset t a v b hb).trans (h.2 b hb)⟩

/-- R537: the note of the fault that took the reset is FRSTSRC alone. -/
theorem noteFrstsrc_effect (s : State) (src : Option (Nat × Nat × Bool)) : OnlyReg s (noteFrstsrc s src) Reg.pmuFrstsrc := by
  unfold noteFrstsrc
  split
  · dsimp only
    split
    · exact ((((OnlyReg.refl s _).set _).set _).set _).set _
    · exact (((OnlyReg.refl s _).set _).set _).set _
  · exact (OnlyReg.refl s _).set _

/-! ### Heads that rest -/

theorem mem_fin16 (a : Fin 16) : a ∈ fin16 := by
  revert a
  decide

theorem allParked_iff (s : State) : allParked s = true ↔ ∀ a, (s.act a).st = .parked := by
  rw [allParked, List.all_eq_true]
  exact ⟨fun h a => of_decide_eq_true (h a (mem_fin16 a)), fun h a _ => decide_eq_true (h a)⟩

/-- A fold whose steps change nothing changes nothing. -/
theorem overList_id {α : Type} (l : List α) (s : State) (f : State → α → State) (h : ∀ x ∈ l, f s x = s) : overList l s f = s := by
  induction l with
  | nil => rfl
  | cons x rest ih =>
    rw [overList, List.foldl_cons, h x List.mem_cons_self]
    exact ih fun y hy => h y (List.mem_cons_of_mem _ hy)

theorem retractAll_parked {s : State} (h : allParked s = true) (c : Nat) : retractAll s c = s :=
  overList_id _ _ _ fun a _ => by rw [retractEntry, (allParked_iff s).mp h a]

/-- R67: with every head on its ramp the unload before a reset is of the bridges alone. -/
theorem unloadForReset_parked {s : State} (h : allParked s = true) :
    ∃ v o, unloadForReset s = { s with spns := v, pmu := { s.pmu with overRect := o } } := by
  unfold unloadForReset
  split
  · exact ⟨s.spns, s.pmu.overRect, rfl⟩
  · rw [retractAll_parked (s := rectifyAll s) h]
    exact ⟨_, _, rfl⟩

/-! ### A chip reset -/

/-- R67: the cores at a chip reset: core 0 runs from 0, the others stay in reset. -/
theorem core_of_reset_cores {t : State} (h : t.cores = State.reset.cores) (c : Fin 8) :
    (settle t).core c = CoreSt.reset (if c = 0 then .running else .reset) := by
  have hc : t.core c = State.reset.core c := by rw [State.core, State.core, h]
  rw [settle_core_awake t c (by rw [hc]; exact reset_core_run_ne_waiting c), hc, reset_core]

/-- `chipResetOp` before its note in FRSTSRC: the main die at reset with what R66, R67 and R78 keep. -/
def chipCleared (s : State) : State :=
  rsetN { mainDieReset s with
    tick := s.tick
    evr := { EvrSt.reset with recs := s.evr.recs, opsec := s.evr.opsec, pcyc := s.evr.pcyc }
    pmu := { (mainDieReset s).pmu with overRect := 0, overShort := s.pmu.overShort ||| turningMask s }
    boot := .resetReleased
    spns := s.spns.map fun (p : SpnSt) => { SpnSt.reset with amp := p.amp }
    rst := { (mainDieReset s).rst with xtalOk := s.rst.xtalOk, pllLock := s.rst.pllLock } }
    Reg.sysRstcause (causeBits s.rst.pending (rn s Reg.sysRstcause))

theorem chipResetOp_eq (s : State) : chipResetOp s = noteFrstsrc (chipCleared s) s.rst.faultSrc := rfl

theorem rget_chipCleared (s : State) {a : Nat} (hp : isPmuReg a = false) (hr : a ≠ Reg.sysRstcause) :
    rget (chipCleared s) a = regReset a := by
  have h := rget_mainDieReset s a
  rw [if_neg (Bool.eq_false_iff.mp hp)] at h
  exact (rget_rsetN_ne _ _ hr).trans h

/-- R67: the chip reset in effect, held as long as something holds the die, with every head on its ramp before. -/
theorem chipResetEvent_parked {s : State} (hq : s.rst.pending ≠ []) (hp : allParked s = true) :
    ∃ u m, u.tick = s.tick ∧ u.rst = s.rst ∧ u.evr = s.evr ∧ u.datum = s.datum ∧ u.media = s.media ∧ u.fct = s.fct ∧ u.regs = s.regs
      ∧ chipResetEvent s
        = { chipCleared u with regs := m, rst := { (chipCleared u).rst with inChipReset := resetHeld s } }
      ∧ ∀ a, a ≠ Reg.pmuFrstsrc → tget (regReset a) m a = rget (chipCleared u) a := by
  obtain ⟨v, o, hu⟩ := unloadForReset_parked hp
  obtain ⟨hm, hregs⟩ := noteFrstsrc_effect (chipCleared (unloadForReset s)) (unloadForReset s).rst.faultSrc
  rw [← chipResetOp_eq] at hm hregs
  have he : chipResetEvent s = releaseIfFree
      { chipResetOp (unloadForReset s) with rst := { (chipResetOp (unloadForReset s)).rst with inChipReset := true } } := by
    unfold chipResetEvent
    dsimp only
    rw [when, if_pos]
    rw [hu]
    exact Bool.and_eq_true_iff.mpr ⟨decide_eq_true hq, hp⟩
  rw [releaseIfFree_eq] at he
  refine ⟨unloadForReset s, (chipResetOp (unloadForReset s)).regs, ?_⟩
  rw [he, hu] at *
  refine ⟨rfl, rfl, rfl, rfl, rfl, rfl, rfl, ?_, fun a ha => hregs a (by simpa using ha)⟩
  rw [hm]
  rfl

/-! ### Block resets (R68) -/

/-- Blocks of one window, whose reset puts every register but the fault registers at its reset value. -/
def windowBlks : List Blk := [.lat, .fct, .loc, .cdc, .cqu, .hpa, .hpb, .buf, .spd, .dma, .evr, .cal, .tst]

theorem rget_clearBlock_in (s : State) {b : Blk} {a : Nat} (hl : blkBase b ≤ a) (hh : a < blkBase b + 0xFF00) :
    rget (clearBlock s b) a = regReset a :=
  tget_filter_out _ _ _ fun _ => by
    simp only [Bool.or_eq_false_iff, decide_eq_false_iff_not]
    exact ⟨⟨by omega, by omega⟩, trivial⟩

theorem rget_clearBlock_out (s : State) {b : Blk} {a : Nat} (h : a < blkBase b ∨ blkBase b + 0xFF00 ≤ a) :
    rget (clearBlock s b) a = rget s a :=
  MemEffect.tget_filter _ _ _ fun _ => by
    simp only [Bool.or_eq_true, decide_eq_true_eq]
    omega

/-- What the reset of a block of one window leaves: its registers cleared, memory, the tick and the resets asked for kept. -/
structure WindowReset (s : State) (b : Blk) (t : State) : Prop where
  regs : t.regs = (clearBlock s b).regs
  mem : t.mem = s.mem
  tick : t.tick = s.tick
  rst : t.rst = s.rst
  dmas : b = .dma → t.dmas = Vector.replicate 32 DmaSt.reset

theorem blockResetOf_window (s : State) {b : Blk} (hb : b ∈ windowBlks) : WindowReset s b (blockResetOf s b 0) := by
  have h : (blockResetOf s b 0).regs = (clearBlock s b).regs ∧ (blockResetOf s b 0).mem = s.mem
      ∧ (blockResetOf s b 0).tick = s.tick ∧ (blockResetOf s b 0).rst = s.rst := by
    simp only [windowBlks, List.mem_cons, List.not_mem_nil, or_false] at hb
    rcases hb with rfl | rfl | rfl | rfl | rfl | rfl | rfl | rfl | rfl | rfl | rfl | rfl | rfl <;> exact ⟨rfl, rfl, rfl, rfl⟩
  obtain ⟨hregs, hmem, htick, hrst⟩ := h
  exact ⟨hregs, hmem, htick, hrst, fun e => by rw [e]; rfl⟩

theorem blockOfLine_window (s : State) {b : Blk} (hb : b ∈ windowBlks) : blockOfLine s (lineOf b 0) = some (b, 0) := by
  simp only [windowBlks, List.mem_cons, List.not_mem_nil, or_false] at hb
  rcases hb with rfl | rfl | rfl | rfl | rfl | rfl | rfl | rfl | rfl | rfl | rfl | rfl | rfl <;> rfl

theorem unloadForReset_idle {s : State} (h : s.rst.pending = []) : unloadForReset s = s :=
  if_pos (by simp [h])

theorem blockResetOp_window {v : Word} {s : State} {b : Blk} (hk : v.toNat / 2 ^ 16 = 0xC4E5) (hq : s.rst.pending = [])
    (hb : b ∈ windowBlks) (hl : lineOf b 0 = v.toNat % 256) : WindowReset s b (blockResetOp s v) := by
  have h := blockResetOf_window s hb
  have he : blockResetOp s v = blockResetOf s b 0 := by
    rw [blockResetOp, if_pos ((keyed_iff v).mpr hk), ← hl, blockOfLine_window s hb]
    exact unloadForReset_idle (by rw [h.rst, hq])
  rwa [he]

end Sys2Proof.Machine

section
open Sys2Proof Sys2Proof.Machine

/-- Settles O4: with every head parked the unload is of the bridges alone, and the operations name what they keep. -/
theorem resetEffects : Obligations.ResetEffects := by
  unfold Obligations.ResetEffects
  constructor
  · intro s hq hp
    obtain ⟨u, m, htick, hrst, hevr, hdatum, hmedia, hfct, hregs, he, hm⟩ := chipResetEvent_parked hq hp
    have hc := core_of_reset_cores (t := chipResetEvent s) (by rw [he]; rfl)
    refine answers_settled _ _ ⟨?_, ?_, ?_, ?_, ?_, ?_, ?_, ?_, ?_, ?_, ?_, ?_, ?_, by rw [hc]; rfl, by rw [hc]; rfl, fun c h0 => ?_,
      fun c r => ?_, fun a _ hp hr => ?_⟩
    · rw [settle_rst, he]
      rfl
    · rw [settle_rst, he]
    · rw [settle_tick, he, ← htick]
      rfl
    · rw [settle_mem, he]
      rfl
    · rw [settle_boot, he]
      rfl
    · rw [settle_rn, he, ← hrst, rn, rn, ← show rget u _ = rget s _ by rw [rget, rget, hregs]]
      change (tget _ m _).toNat % _ = _
      rw [hm _ sysRstcause_ne_pmuFrstsrc, chipCleared, rget_rsetN_same, BitVec.toNat_ofNat]
      exact Nat.mod_mod_of_dvd _ (by decide)
    · rw [settle_evr, he, ← hevr]
      rfl
    · rw [settle_evr, he, ← hevr]
      rfl
    · rw [settle_evr, he, ← hevr]
      rfl
    · rw [settle_datum, he, ← hdatum]
      rfl
    · rw [settle_media, he, ← hmedia]
      rfl
    · rw [settle_fct, he, ← hfct]
      rfl
    · rw [settle_fct, he, ← hfct]
      rfl
    · rw [hc, if_neg h0]
      rfl
    · rw [gAt, hc]
      simp [CoreSt.reset, vget]
    · rw [settle_rget, he]
      refine (hm a fun e => ?_).trans (rget_chipCleared u hp hr)
      rw [e, isPmuReg_pmuFrstsrc] at hp
      cases hp
  · intro v s b hk hq hb hl
    obtain ⟨hregs, hmem, htick, _, hdma⟩ := blockResetOp_window hk hq hb hl
    refine answers_settled _ _ ⟨fun a h1 h2 => ?_, fun a h => ?_, fun h c => ?_, by rw [settle_mem, hmem], by rw [settle_tick, htick]⟩
    · rw [settle_rget, rget, hregs]
      exact rget_clearBlock_in s h1 h2
    · rw [settle_rget, rget, hregs]
      exact rget_clearBlock_out s h
    · rw [State.dmaCh, settle_dmas, hdma h]
      simp [vget]
end
end

section
/-! What ends with the operations under way when power fails or heads retract (R61, R626, R627): what these ends keep is said once,
for whatever accesses to memory, samples and the registers outside the PMU leave alone. -/

namespace Sys2Proof.Machine

theorem MemEffect.keeps {β : Type} {s t : State} (p : State → β) (hb : ∀ u, p (busRest u) = p u)
    (hr : ∀ u r, p { u with rst := r } = p u) (h : MemEffect s t) : p t = p s := by
  induction h with
  | refl => rfl
  | trans _ _ ih1 ih2 => exact ih2.trans ih1
  | mem s m => exact busRest_proj p hb (busRest_mem s m)
  | ms s m => exact busRest_proj p hb (busRest_ms s m)
  | reg s a v => exact busRest_proj p hb (busRest_rset s a v)
  | nmt s c => exact busRest_proj p hb (busRest_setNmt s c true)
  | rst s r => exact hr s r
  | fcaps s m => exact busRest_proj p hb (busRest_fcaps s m)
  | reset s b i => exact busRest_proj p hb (busRest_plainReset s b i)

/-- What is queued again is an operation that waits, and the reader that a read holds. -/
theorem requeue_keeps {β : Type} {p : State → β}
    (hw : ∀ (s : State) w, p { s with cqu := { s.cqu with waitOps := w } } = p s)
    (hr : ∀ (s : State) r, p { s with obj := { s.obj with readers := r } } = p s)
    (s : State) (o : MediaOp) (i : Nat) : p (requeue s o i) = p s := by
  unfold requeue
  split
  · rfl
  · dsimp only
    split
    · rfl
    · unfold addWait addReader
      split
      · exact (hr _ _).trans (hw s _)
      · exact hw s _

section
variable {β : Type} {p : State → β} (hmem : ∀ {s t}, MemEffect s t → p t = p s) (hpush : ∀ s ch v, p (evrPush s ch v) = p s)
  (hreg : ∀ s a v, isPmuReg a = false → p (rset s a v) = p s)
include hmem hpush hreg

omit hpush hreg in
theorem putStatus_keeps (s : State) (n : Fin 8) (o : MediaOp) (i v : Nat) : p (putStatus s n o i v) = p s := by
  rw [putStatus]
  split
  · rfl
  · exact hmem (MemEffect.busWrite _ _ _ _)

omit hmem hpush in
theorem chdReg_keeps (s : State) (n : Fin 8) {o : Nat} (h : 0x20_0010_0000 ≤ o ∧ o < 0x20_0011_0000) (v : DWord) :
    p (rset s (o + 0x10000 * n.val) v) = p s :=
  hreg s _ v (by simp only [isPmuReg, Bool.and_eq_false_iff, decide_eq_false_iff_not]; omega)

omit hmem hpush in
theorem countUnit_keeps (s : State) (n : Fin 8) (r : ReadStatus) : p (countUnit s n r) = p s := by
  have hset : ∀ t {o : Nat} v, 0x20_0010_0000 ≤ o ∧ o < 0x20_0011_0000 → p (rset t (o + 0x10000 * n.val) v) = p t :=
    fun t _ v h => chdReg_keeps hreg t n h v
  have h1 : p (if r.result = 0 then rcount s (Reg.chdUnitok n) 1
      else
        let s := chdIrq s n 0
        if r.result = 1 || r.result = 3 then rcount s (Reg.chdUnitfail n) 1
        else if r.result = 2 then rcount s (Reg.chdSyncmiss n) 1 else s) = p s := by
    split
    · exact hset _ _ (by decide)
    · dsimp only
      split
      · exact (hset _ _ (by decide)).trans (hset _ _ (by decide))
      · split
        · exact (hset _ _ (by decide)).trans (hset _ _ (by decide))
        · exact hset _ _ (by decide)
  unfold countUnit
  dsimp only
  split
  · exact (hset _ _ (by decide)).trans h1
  · exact h1

theorem endUnit_keeps (s : State) (n : Fin 8) (o : MediaOp) (i : Nat) (r : ReadStatus) : p (endUnit s n o i r) = p s := by
  have h : p (countUnit (putStatus s n o i (readStatusWord r)) n r) = p s :=
    (countUnit_keeps hreg _ _ _).trans (putStatus_keeps hmem _ _ _ _ _)
  unfold endUnit
  dsimp only
  split
  · have h' := (hpush (rcount _ (Reg.chdItersum n) r.giter) n.val (BitVec.ofNat 32 r.giter)).trans
      ((chdReg_keeps hreg _ n (by decide) _).trans h)
    split
    · exact (hpush _ _ _).trans h'
    · exact h'
  · exact h

theorem endUnits_keeps (k : Nat) (s : State) (n : Fin 8) (o : MediaOp) (i result : Nat) :
    p (endUnits s n o i k result) = p s := by
  induction k generalizing s i with
  | zero => rfl
  | succ k ih => exact (ih _ _).trans (endUnit_keeps hmem hpush hreg _ _ _ _ _)

omit hpush in
theorem endSlot_keeps (s : State) (n : Fin 8) (o : MediaOp) (i l w r : Nat) : p (endSlot s n o i l w r) = p s := by
  unfold endSlot
  dsimp only
  split
  · exact (chdReg_keeps hreg _ n (by decide) _).trans (putStatus_keeps hmem _ _ _ _ _)
  · exact (chdReg_keeps hreg _ n (by decide) _).trans (putStatus_keeps hmem _ _ _ _ _)

omit hpush in
theorem endSlots_keeps (k : Nat) (s : State) (n : Fin 8) (o : MediaOp) (i result : Nat) :
    p (endSlots s n o i k result) = p s := by
  induction k generalizing s i with
  | zero => rfl
  | succ k ih => exact (ih _ _).trans (endSlot_keeps hmem hreg _ _ _ _ _ _ _)

variable (hslice : ∀ s n f, p (modSlice s n f) = p s) (hreq : ∀ s o i, p (requeue s o i) = p s)
include hslice

theorem notReadAct_keeps (hreq : ∀ s o i, p (requeue s o i) = p s) (s : State) (a : Fin 16) : p (notReadAct s a) = p s := by
  unfold notReadAct
  split
  · rfl
  · unfold notRead
    split
    · rfl
    · split
      · exact (hslice _ _ _).trans ((hreq _ _ _).trans (endUnits_keeps hmem hpush hreg _ _ _ _ _ _))
      · rfl

omit hpush in
theorem abandonWrite_keeps (hreq : ∀ s o i, p (requeue s o i) = p s) (s : State) (n : Fin 8) (w r : Nat) :
    p (abandonWrite s n w r) = p s := by
  unfold abandonWrite
  split
  · rfl
  · dsimp only
    split
    · exact (hslice _ _ _).trans ((hslice _ _ _).trans ((hreq _ _ _).trans
        ((endSlots_keeps hmem hreg _ _ _ _ _ _).trans (endSlot_keeps hmem hreg _ _ _ _ _ _ _))))
    · rfl

omit hpush in
theorem wusAdd_keeps (hreq : ∀ s o i, p (requeue s o i) = p s) (hlink : ∀ s a f, p (modLink s a f) = p s)
    (s : State) (a : Fin 16) (src : WusSrc) : p (wusAdd s a src) = p s := by
  unfold wusAdd
  dsimp only
  split
  · rfl
  · split
    · exact hlink _ _ _
    · exact (abandonWrite_keeps hmem hreg hslice hreq _ _ _ _).trans ((chdReg_keeps hreg _ _ (by decide) _).trans (hlink _ _ _))

omit hpush in
theorem pfEndOp_keeps (s : State) (n : Fin 8) : p (pfEndOp s n) = p s := by
  unfold pfEndOp
  split
  · rfl
  · split
    · rfl
    · split
      · exact hslice _ _ _
      · split
        · exact (hslice _ _ _).trans (endSlots_keeps hmem hreg _ _ _ _ _ _)
        · rfl

end

/-! ### Actuators that retract (R344) -/

/-- The state of an actuator once it has entered RETRACT. -/
def retractedSt (st : ActState) : ActState := if st = .parked then .parked else .retract

theorem modAct_act_ne (s : State) {a b : Fin 16} (f : ActSt → ActSt) (h : a ≠ b) : (modAct s a f).act b = s.act b := by
  simp [modAct, State.act, vmod, vget_vset_ne _ _ h]

theorem notReadAct_acts (s : State) (a : Fin 16) : (notReadAct s a).acts = s.acts :=
  notReadAct_keeps (p := State.acts) (MemEffect.keeps State.acts (fun _ => rfl) fun _ _ => rfl)
    (fun _ _ _ => busRest_proj State.acts (fun _ => rfl) (busRest_evrPush _ _ _)) (fun _ _ _ _ => rfl) (fun _ _ _ => rfl)
    (requeue_keeps (fun _ _ => rfl) fun _ _ => rfl) s a

theorem notReadAct_spns (s : State) (a : Fin 16) : (notReadAct s a).spns = s.spns :=
  notReadAct_keeps (p := State.spns) (MemEffect.keeps State.spns (fun _ => rfl) fun _ _ => rfl)
    (fun _ _ _ => busRest_proj State.spns (fun _ => rfl) (busRest_evrPush _ _ _)) (fun _ _ _ _ => rfl) (fun _ _ _ => rfl)
    (requeue_keeps (fun _ _ => rfl) fun _ _ => rfl) s a

theorem retractedSt_idem (st : ActState) : retractedSt (retractedSt st) = retractedSt st := by
  cases st <;> rfl

/-- R344: entry to RETRACT moves the actuator that is not parked, and no other. -/
theorem retractEntry_st (s : State) (a b : Fin 16) (c : Nat) :
    ((retractEntry s a c).act b).st = if b = a then retractedSt (s.act b).st else (s.act b).st := by
  have hn : ∀ t : State, (notReadAct t a).act b = t.act b := fun t => by rw [State.act, State.act, notReadAct_acts]
  have hi : ∀ t : State, (radIrq t a 3).act b = t.act b := fun _ => rfl
  by_cases h : b = a
  · subst h
    rw [if_pos rfl]
    unfold retractEntry
    split <;> rename_i hs
    · rw [hs]; rfl
    · rw [hs]; rfl
    · rw [hi, modAct_act, hs]; rfl
    all_goals
      dsimp only
      rw [hn, hi, modAct_act, toSequencer, modAct_act, hs]
      rfl
  · rw [if_neg h]
    have hm : ∀ (t : State) f, (modAct t a f).act b = t.act b := fun t f => modAct_act_ne t f fun e => h e.symm
    unfold retractEntry
    split
    · rfl
    · rfl
    · rw [hi, hm]
    all_goals
      dsimp only
      rw [hn, hi, hm, toSequencer, hm]

theorem overRetract_st (l : List (Fin 16)) (s : State) (b : Fin 16) (c : Nat) :
    ((overList l s fun s a => retractEntry s a c).act b).st = if b ∈ l then retractedSt (s.act b).st else (s.act b).st := by
  induction l generalizing s with
  | nil => rfl
  | cons a rest ih =>
    refine (ih (retractEntry s a c)).trans ?_
    rw [retractEntry_st]
    by_cases h : b = a
    · subst h
      simp [retractedSt_idem]
    · simp [h]

theorem retractAll_st (s : State) (b : Fin 16) (c : Nat) : ((retractAll s c).act b).st = retractedSt (s.act b).st := by
  rw [retractAll, overRetract_st, if_pos (mem_fin16 b)]

theorem retractAll_spns (s : State) (c : Nat) : (retractAll s c).spns = s.spns := by
  unfold retractAll
  refine overList_keeps State.spns _ _ _ fun t a => ?_
  unfold retractEntry
  split
  · rfl
  · rfl
  · rfl
  all_goals exact (notReadAct_spns _ _).trans rfl

theorem rectifyAll_spn (s : State) (i : Fin 8) :
    ((rectifyAll s).spn i).st = if (s.spn i).st = .stopped then .stopped else .rectify := by
  have h : (rectifyAll s).spn i = if (s.spn i).st = .stopped then s.spn i else
      { s.spn i with st := .rectify, atspeed := false, duty := 0, integ := 0, failing := false, autoRestart := false } :=
    Vector.getElem_map _ _
  rw [h]
  split
  next hs => exact hs
  next => rfl

/-! ### What stands through the steps of the sequence -/

/-- The parts of the state that the steps of the power-fail sequence leave to step 1: the sequence itself, the queues, PFSTAT, and which
heads rest and which spindles are stopped. -/
structure PfView where
  pf : PfSt
  queues : Vector (List Nat) 17
  q17 : List (Nat × Nat)
  stopped : Bool
  waitQ : List (Fin 8)
  pfstat : DWord
  parked : Fin 16 → Prop
  halted : Fin 8 → Prop

def pfView (s : State) : PfView :=
  { pf := s.pf, queues := s.queues, q17 := s.cqu.q17, stopped := s.cqu.stopped, waitQ := s.pmu.waitQ
    pfstat := rget s Reg.pmuPfstat, parked := fun a => (s.act a).st = .parked, halted := fun i => (s.spn i).st = .stopped }

theorem pfView_pfstat (s : State) : (pfView s).pfstat = rget s Reg.pmuPfstat := rfl

theorem isPmuReg_outside {a : Nat} (h : a < 0x20_00B0_0000 ∨ 0x20_00B1_0000 ≤ a) : isPmuReg a = false := by
  simp only [isPmuReg, Bool.and_eq_false_iff, decide_eq_false_iff_not]
  omega

theorem ne_pmuPfstat {a : Nat} (h : isPmuReg a = false) : Reg.pmuPfstat ≠ a := fun e => by
  rw [← e] at h
  exact absurd h (by decide)

theorem pfView_rset (s : State) {a : Nat} (v : DWord) (h : isPmuReg a = false) : pfView (rset s a v) = pfView s := by
  unfold pfView
  rw [rget_rset_ne s v (ne_pmuPfstat h)]
  rfl

/-- Blocks in which the steps of the sequence can raise an event. -/
def pfBlks : List Blk := memBlks ++ [.evr, .dtm]

theorem pfBlks_window {b : Blk} (hb : b ∈ pfBlks) {a : Nat} (h : blkBase b ≤ a ∧ a < blkBase b + 0x1_0000) : isPmuReg a = false := by
  simp only [isPmuReg, Bool.and_eq_false_iff, decide_eq_false_iff_not]
  simp only [pfBlks, memBlks, List.cons_append, List.nil_append, List.mem_cons, List.not_mem_nil, or_false] at hb
  rcases hb with rfl | rfl | rfl | rfl | rfl | rfl | rfl <;> simp [blkBase, windowBase, blkWindow] at h <;> omega

theorem pfView_clearBlock (s : State) {b : Blk} (hb : b ∈ pfBlks) : pfView (clearBlock s b) = pfView s := by
  unfold pfView
  rw [MemEffect.rget_clearBlock s fun h => absurd (pfBlks_window hb h) (by decide)]
  rfl

theorem pfView_plainReset (s : State) {b : Blk} (hb : b ∈ pfBlks) (i : Nat) : pfView (plainReset s b i) = pfView s := by
  have hc := pfView_clearBlock s hb
  simp only [pfBlks, memBlks, List.cons_append, List.nil_append, List.mem_cons, List.not_mem_nil, or_false] at hb
  rcases hb with rfl | rfl | rfl | rfl | rfl | rfl | rfl
  case inr.inr.inr.inr.inr.inr =>
    simp only [plainReset]
    split
    · exact (pfView_rset _ _ (by decide)).trans ((pfView_rset _ _ (by decide)).trans hc)
    · exact hc
  case inl => rfl
  all_goals exact hc

theorem pfView_raiseWith {f : State → Blk → Nat → State} {b : Blk} (hb : b ∈ pfBlks) (hf : ∀ t i, f t b i = plainReset t b i)
    (s : State) (bits : List Nat) (c : Cap) : pfView (raiseWith f s b bits c) = pfView s := by
  refine raiseWith_rel (R := fun s t => pfView t = pfView s) (fun _ => rfl) (fun h h' => h'.trans h) (fun t a v ha => ?_)
    (fun _ _ => rfl) (fun _ _ => rfl) (fun _ _ => rfl) (fun t i => ?_) s bits c
  · refine pfView_rset t v (pfBlks_window hb ?_)
    rcases ha with rfl | rfl
    · rw [aFstat]; omega
    · rw [aFreact]; omega
  · rw [hf]
    exact pfView_plainReset t hb i

theorem pfView_memEffect {s t : State} (h : MemEffect s t) : pfView t = pfView s := by
  have hsub : ∀ {b}, b ∈ memBlks → b ∈ pfBlks := fun h => List.mem_append_left _ h
  induction h with
  | refl | mem | ms | rst | fcaps | nmt => rfl
  | trans _ _ ih1 ih2 => exact ih2.trans ih1
  | reg s a v ha =>
    obtain ⟨b, hb, hw⟩ := ha
    exact pfView_rset s v (pfBlks_window (hsub hb) hw)
  | reset s b i hb => exact pfView_plainReset s (hsub hb) i

theorem pfView_evrPush (s : State) (ch : Nat) (v : BitVec 32) : pfView (evrPush s ch v) = pfView s := by
  unfold evrPush
  split
  · rfl
  · split
    · rfl
    · exact (pfView_raiseWith (b := .evr) (by decide) (fun _ _ => rfl) _ _ _).trans (pfView_rset _ _ (by decide))

theorem pfView_requeue (s : State) (o : MediaOp) (i : Nat) : pfView (requeue s o i) = pfView s :=
  requeue_keeps (fun _ _ => rfl) (fun _ _ => rfl) s o i

theorem pfView_wusAdd (s : State) (a : Fin 16) (src : WusSrc) : pfView (wusAdd s a src) = pfView s :=
  wusAdd_keeps pfView_memEffect (fun s _ v h => pfView_rset s v h) (fun _ _ _ => rfl) pfView_requeue (fun _ _ _ => rfl) s a src

theorem retractedSt_parked (st : ActState) : retractedSt st = .parked ↔ st = .parked := by
  cases st <;> simp [retractedSt]

theorem pfView_retractEntry (s : State) (a : Fin 16) (c : Nat) : pfView (retractEntry s a c) = pfView s := by
  have hp : (pfView (retractEntry s a c)).parked = (pfView s).parked := funext fun b => propext <| by
    change ((retractEntry s a c).act b).st = .parked ↔ _
    rw [retractEntry_st]
    split
    · exact retractedSt_parked _
    · rfl
  have hn : ∀ t, pfView (notReadAct t a) = pfView t := fun t =>
    notReadAct_keeps pfView_memEffect pfView_evrPush (fun s _ v h => pfView_rset s v h) (fun _ _ _ => rfl) pfView_requeue t a
  have hi : ∀ t, pfView (radIrq t a 3) = pfView t := fun t => pfView_rset t _ (isPmuReg_outside (by
    rw [Reg.radIrqstat]
    omega))
  have hrest : { pfView (retractEntry s a c) with parked := (pfView s).parked } = pfView s := by
    have hm : ∀ (t : State) f p, { pfView (modAct t a f) with parked := p } = { pfView t with parked := p } := fun _ _ _ => rfl
    unfold retractEntry
    split
    · rfl
    · rfl
    · rw [hi, hm]
    all_goals
      dsimp only
      rw [hn, hi, hm, toSequencer, hm]
  rw [← hp] at hrest
  exact hrest

theorem pfView_retractAll (s : State) (c : Nat) : pfView (retractAll s c) = pfView s :=
  overList_keeps pfView _ _ _ fun t a => pfView_retractEntry t a c

theorem pfView_rectifyAll (s : State) : pfView (rectifyAll s) = pfView s := by
  have hh : (pfView (rectifyAll s)).halted = (pfView s).halted := funext fun i => propext <| by
    change ((rectifyAll s).spn i).st = .stopped ↔ (s.spn i).st = .stopped
    rw [rectifyAll_spn]
    split <;> simp [*]
  have hrest : { pfView (rectifyAll s) with halted := (pfView s).halted } = pfView s := rfl
  rw [← hh] at hrest
  exact hrest

theorem pfView_unloadForReset (s : State) : pfView (unloadForReset s) = pfView s := by
  unfold unloadForReset
  split
  · rfl
  · exact (pfView_retractAll _ _).trans (pfView_rectifyAll s)

theorem pfView_raise1_dtm (s : State) (i : Nat) : pfView (raise1 s .dtm i) = pfView s :=
  (pfView_unloadForReset _).trans (pfView_raiseWith (by decide) (fun _ _ => rfl) _ _ _)

/-! ### The flash array of the Datum die (R571, R574): what a rewrite and an append keep -/

section
variable {β : Type} {p : State → β} (hsec : ∀ s x, p (modDatum s fun d => { d with sectors := x }) = p s)
  (hrot : ∀ s x, p (modDatum s fun d => { d with rotation := x }) = p s)
include hsec hrot

theorem newCopy_keeps (s : State) (l : Nat) : p (newCopy s l) = p s := by
  unfold newCopy
  split
  · rfl
  · dsimp only
    refine (hrot _ _).trans ?_
    split
    · exact (hsec _ _).trans (hsec _ _)
    · exact hsec _ _

theorem wearMove_keeps (s : State) : p (wearMove s) = p s := by
  unfold wearMove
  split
  · rfl
  · exact newCopy_keeps hsec hrot s _

variable (hrew : ∀ s x, p (modDatum s fun d => { d with rewrites := x }) = p s)
  (hrec : ∀ s x, p (modDatum s fun d => { d with recs := x }) = p s)

omit hsec hrot in
include hrec in
theorem pulseSamples_keeps (s : State) (l : List Nat) : p (pulseSamples s l) = p s :=
  overList_keeps p _ _ _ fun t _ => hrec t _

/-- What a program of the flash leaves of a view: the view before it, or where a sector failed, that of its retirement. -/
def OnceFailed (p : State → β) (s t : State) (e : NorEv) : Prop :=
  ∃ u, p u = p s ∧ (p t = p u ∨ e.fail = true ∧ ∃ q, p t = p (retireSec u q))

include hrew hrec

theorem norRewrite_onceFailed (s : State) (l : Nat) (e : NorEv) : OnceFailed p s (norRewrite s l e) e := by
  have hend : ∀ t, p (if t.datum.rewrites % 16 = 0 then wearMove t else t) = p t := fun t => by
    split
    · exact wearMove_keeps hsec hrot t
    · rfl
  have hcopy : p (norRewrite s l e) = p (failFirst (pulseSamples (modDatum s endErases) e.pulses) e) :=
    (hend _).trans ((hrew _ _).trans (newCopy_keeps hsec hrot _ l))
  refine ⟨pulseSamples (modDatum s endErases) e.pulses, (pulseSamples_keeps hrec _ _).trans (hsec s _), ?_⟩
  rw [hcopy, failFirst]
  split
  next hf =>
    split
    · exact .inl rfl
    · exact .inr ⟨hf, _, rfl⟩
  next => exact .inl rfl

theorem norAppend_onceFailed (s : State) (l : Nat) (e : NorEv) : OnceFailed p s (norAppend s l e) e := by
  unfold norAppend
  split
  · exact norRewrite_onceFailed hsec hrot hrew hrec s l e
  · split
    next hf =>
      exact ⟨_, (pulseSamples_keeps hrec _ _).trans (hsec s _), .inr ⟨hf, _, newCopy_keeps hsec hrot _ l⟩⟩
    next => exact ⟨s, rfl, .inl (pulseSamples_keeps hrec s _)⟩

theorem counterAppend_onceFailed (hcnt : ∀ s x y, p (modDatum s fun d => { d with counters := x, savedTime := y }) = p s)
    (s : State) (o c : Nat) (e : NorEv) : OnceFailed p s (counterAppend s o c e) e := by
  have h : OnceFailed p s (if decide (128 ≤ s.datum.counters.length) = true then norRewrite s 1027 e else norAppend s 1027 e) e := by
    split
    · exact norRewrite_onceFailed hsec hrot hrew hrec s _ e
    · exact norAppend_onceFailed hsec hrot hrew hrec s _ e
  have hc : p (counterAppend s o c e)
      = p (if decide (128 ≤ s.datum.counters.length) = true then norRewrite s 1027 e else norAppend s 1027 e) := by
    unfold counterAppend
    exact hcnt _ _ _
  rwa [OnceFailed, hc]

end

theorem OnceFailed.keeps {β : Type} {p : State → β} {s t : State} {e : NorEv} (h : OnceFailed p s t e)
    (hfail : ∀ u q, p (retireSec u q) = p u) : p t = p s := by
  obtain ⟨u, hu, ht | ⟨-, q, ht⟩⟩ := h
  · rw [ht, hu]
  · rw [ht, hfail, hu]

theorem pfView_queueEvent (s : State) (code arg : Nat) : pfView (queueEvent s code arg) = pfView s := by
  unfold queueEvent
  refine (pfView_rset _ _ (by decide)).trans ?_
  split <;> rfl

theorem pfView_retireSec (s : State) (q : Nat) : pfView (retireSec s q) = pfView s := by
  have hpost : ∀ t, pfView (postEvent t 4 q) = pfView t := fun t => by
    unfold postEvent
    split
    · exact pfView_queueEvent t 4 q
    · rfl
  unfold retireSec
  dsimp only
  refine (hpost _).trans ?_
  split
  · exact (pfView_raise1_dtm _ 1).trans rfl
  · rfl

theorem pfView_countSaveNow (s : State) : pfView (countSaveNow s) = pfView s := by
  unfold countSaveNow
  split
  · exact ((counterAppend_onceFailed (p := pfView) (fun _ _ => rfl) (fun _ _ => rfl) (fun _ _ => rfl) (fun _ _ => rfl)
      (fun _ _ _ => rfl) _ _ _ _).keeps pfView_retireSec).trans rfl
  · rfl

/-! ### The sequence -/

/-- Step 1 (R61): the sequence is under way, and PFSTAT says so. -/
def pfStarted (s : State) : State :=
  rbitSet { s with pf := { s.pf with active := true, step3 := true, inputOk := false } } Reg.pmuPfstat 0 true

/-- The command queue unit stops, and no spindle waits for a grant any more. -/
def stopWork (t : State) : State := { t with cqu := { t.cqu with stopped := true }, pmu := { t.pmu with waitQ := [] } }

/-- Steps 2 and 3: the counters are saved, the units take no further work and no spindle waits for a grant. -/
def pfHalted (s : State) : State :=
  stopWork (countSaveNow (overList fin16 (pfStarted s) fun s a => wusAdd s a .pwrfail))

/-- The queues ended, with the operations of the slices. -/
def pfFlushed (s : State) : State := overList fin8 (flushQueues (pfHalted s)) pfEndOp

theorem powerFailOp_eq {s : State} (ha : s.pf.active = false) (hr : s.pf.railsOff = false) :
    powerFailOp s = headsAtRest (retractAll (rectifyAll (pfFlushed s)) 4) := by
  rw [powerFailOp, if_neg (by simp [hr]), if_neg (by simp [ha])]
  simp only [pfFlushed, pfHalted, stopWork, pfStarted]

theorem pfView_pfHalted (s : State) :
    pfView (pfHalted s) = { pfView (pfStarted s) with stopped := true, waitQ := [] } := by
  have h : pfView (countSaveNow (overList fin16 (pfStarted s) fun s a => wusAdd s a .pwrfail)) = pfView (pfStarted s) :=
    (pfView_countSaveNow _).trans (overList_keeps pfView _ _ _ fun t a => pfView_wusAdd t a .pwrfail)
  have hs : ∀ t, pfView (stopWork t) = { pfView t with stopped := true, waitQ := [] } := fun _ => rfl
  rw [pfHalted, hs, h]

theorem pfView_pfFlushed (s : State) :
    pfView (pfFlushed s)
      = { pfView (pfStarted s) with stopped := true, waitQ := [], queues := Vector.replicate 17 [], q17 := [] } := by
  have he : ∀ t, pfView (overList fin8 t pfEndOp) = pfView t := fun t => overList_keeps pfView _ _ _ fun u n =>
    pfEndOp_keeps pfView_memEffect (fun s _ v h => pfView_rset s v h) (fun _ _ _ => rfl) u n
  have hq : ∀ t, pfView (flushQueues t) = { pfView t with queues := Vector.replicate 17 [], q17 := [] } := fun t => by
    unfold flushQueues
    exact (overList_keeps pfView _ _ _ fun u a => pfView_memEffect (MemEffect.busWrite _ _ _ _)).trans rfl
  rw [pfFlushed, he, hq, pfView_pfHalted]

/-- What the rest of the last head notes: step 5 has ended, and a fault of rail 0 restarts the die. -/
theorem headsAtRest_keeps (s : State) :
    pfView (headsAtRest s) = { pfView s with pfstat := rget (headsAtRest s) Reg.pmuPfstat }
      ∧ rbit (headsAtRest s) Reg.pmuPfstat 0 = rbit s Reg.pmuPfstat 0 ∧ (headsAtRest s).acts = s.acts ∧ (headsAtRest s).spns = s.spns := by
  have hb : rbit (rbitSet s Reg.pmuPfstat 1 true) Reg.pmuPfstat 0 = rbit s Reg.pmuPfstat 0 := by
    rw [rbit, rn, rbitSet, rfSet, rget_rsetN_same, BitVec.toNat_ofNat, Nat.testBit_mod_two_pow, putFld_testBit_out _ _ (.inl (by decide))]
    rfl
  unfold headsAtRest
  dsimp only
  split
  · exact ⟨rfl, rfl, rfl, rfl⟩
  · split <;> split
    · exact ⟨rfl, hb, rfl, rfl⟩
    · exact ⟨rfl, hb, rfl, rfl⟩
    · exact ⟨rfl, rfl, rfl, rfl⟩
    · exact ⟨rfl, rfl, rfl, rfl⟩

theorem pfView_headsAtRest {t u : State} (h : pfView t = pfView u) :
    pfView (headsAtRest t) = { pfView u with pfstat := rget (headsAtRest t) Reg.pmuPfstat }
      ∧ rbit (headsAtRest t) Reg.pmuPfstat 0 = rbit u Reg.pmuPfstat 0 := by
  obtain ⟨hk, hb, -, -⟩ := headsAtRest_keeps t
  have hp : rget t Reg.pmuPfstat = rget u Reg.pmuPfstat := congrArg PfView.pfstat h
  rw [hb, hk, h, rbit, rbit, rn, rn, hp]
  exact ⟨rfl, rfl⟩

/-- Step 4 and the rest of the last head: every actuator that is not parked retracts, every spindle that is not stopped rectifies. -/
theorem endOfMotion_act (t : State) (a : Fin 16) (c : Nat) :
    ((headsAtRest (retractAll (rectifyAll t) c)).act a).st = retractedSt (t.act a).st := by
  obtain ⟨-, -, hacts, -⟩ := headsAtRest_keeps (retractAll (rectifyAll t) c)
  rw [State.act, hacts]
  exact retractAll_st _ a c

theorem endOfMotion_spn (t : State) (i : Fin 8) (c : Nat) :
    ((headsAtRest (retractAll (rectifyAll t) c)).spn i).st = if (t.spn i).st = .stopped then .stopped else .rectify := by
  obtain ⟨-, -, -, hspns⟩ := headsAtRest_keeps (retractAll (rectifyAll t) c)
  rw [State.spn, hspns, retractAll_spns]
  exact rectifyAll_spn t i

/-- R61: what detection leaves. -/
theorem pfView_powerFailOp {s : State} (ha : s.pf.active = false) (hr : s.pf.railsOff = false) :
    pfView (powerFailOp s) = { pfView (pfFlushed s) with pfstat := rget (powerFailOp s) Reg.pmuPfstat }
      ∧ rbit (powerFailOp s) Reg.pmuPfstat 0 = true := by
  have h := pfView_headsAtRest ((pfView_retractAll (rectifyAll (pfFlushed s)) 4).trans (pfView_rectifyAll _))
  rw [← powerFailOp_eq ha hr] at h
  have hp : (pfView (pfFlushed s)).pfstat = (pfView (pfStarted s)).pfstat := by rw [pfView_pfFlushed]
  rw [pfView_pfstat, pfView_pfstat] at hp
  have hb : rbit (pfFlushed s) Reg.pmuPfstat 0 = true := by
    rw [rbit, rn, hp]
    exact rbit_rbitSet_same _ _ (by decide) true
  exact ⟨h.1, h.2.trans hb⟩

theorem powerFailOp_act {s : State} (ha : s.pf.active = false) (hr : s.pf.railsOff = false) (a : Fin 16) :
    ((powerFailOp s).act a).st = retractedSt (s.act a).st := by
  have hp : ((pfFlushed s).act a).st = .parked ↔ (s.act a).st = .parked :=
    iff_of_eq (congrFun (congrArg PfView.parked (pfView_pfFlushed s)) a)
  rw [powerFailOp_eq ha hr, endOfMotion_act]
  simp only [retractedSt, hp]

theorem powerFailOp_spn {s : State} (ha : s.pf.active = false) (hr : s.pf.railsOff = false) (i : Fin 8) :
    ((powerFailOp s).spn i).st = if (s.spn i).st = .stopped then .stopped else .rectify := by
  have hp : ((pfFlushed s).spn i).st = .stopped ↔ (s.spn i).st = .stopped :=
    iff_of_eq (congrFun (congrArg PfView.halted (pfView_pfFlushed s)) i)
  rw [powerFailOp_eq ha hr, endOfMotion_spn]
  simp only [hp]

/-- R56, R347: the sequencer goes on with the actuators alone. -/
theorem sequencerGoesOn_acts (s t : State) : ∃ v, sequencerGoesOn s t = { t with acts := v } := by
  unfold sequencerGoesOn
  induction fin16 generalizing t with
  | nil => exact ⟨t.acts, rfl⟩
  | cons a rest ih =>
    by_cases h : (s.act a).st = .parked
    · obtain ⟨v, hv⟩ := ih t
      refine ⟨v, Eq.trans ?_ hv⟩
      rw [overList, List.foldl_cons, if_pos h]
      rfl
    · obtain ⟨v, hv⟩ := ih (modAct t a fun x => { x with st := .retract, profile := unldSegs s a, vcode := unldFirst s a })
      refine ⟨v, Eq.trans ?_ hv⟩
      rw [overList, List.foldl_cons, if_neg h]
      rfl

/-- Every core of a state whose cores stand in reset stays there at the end of a command. -/
theorem core_settle_reset {t : State} (h : t.cores = Vector.replicate 8 (CoreSt.reset .reset)) (c : Fin 8) :
    ((settle t).core c).run = .reset := by
  have hc : t.core c = CoreSt.reset .reset := by simp [State.core, h, vget]
  rw [settle_core_awake t c (by simp [hc, CoreSt.reset]), hc]
  rfl

/-- Step 7 (R61, R64): the end of hold-up, with the actuators that the sequencer still moves left open. -/
theorem pfHoldupOp_eq {s : State} (ha : s.pf.active = true) :
    ∃ v, pfHoldupOp s = { mainPorOp s false true with
      acts := v
      boot := if s.pf.inputOk then .softStart else .off
      rst := { (mainPorOp s false true).rst with pending := s.rst.deferred }
      pf := { PfSt.reset with railsOff := !s.pf.inputOk, inputOk := s.pf.inputOk }
      pmu := { (mainPorOp s false true).pmu with overRect := 0, overShort := 0xFF, pgood := 0 } } := by
  obtain ⟨v, hv⟩ := sequencerGoesOn_acts s (mainPorOp s false true)
  refine ⟨v, ?_⟩
  rw [pfHoldupOp, when, if_pos ha]
  dsimp only
  rw [hv]

end Sys2Proof.Machine

section
open Sys2Proof Sys2Proof.Machine

/-- Settles O5: the steps of the sequence keep what step 1 noted, and retract and rectify what is not at rest. -/
theorem powerFailSequence : Obligations.PowerFailSequence := by
  unfold Obligations.PowerFailSequence
  refine ⟨?_, ?_, ?_, ?_, ?_, ?_⟩
  · intro s ha hr
    obtain ⟨hv, hb⟩ := pfView_powerFailOp ha hr
    rw [pfView_pfFlushed] at hv
    have hpf : (powerFailOp s).pf = (pfStarted s).pf := congrArg PfView.pf hv
    have hq : (powerFailOp s).queues = Vector.replicate 17 [] := congrArg PfView.queues hv
    have hq17 : (powerFailOp s).cqu.q17 = [] := congrArg PfView.q17 hv
    have hstop : (powerFailOp s).cqu.stopped = true := congrArg PfView.stopped hv
    have hw : (powerFailOp s).pmu.waitQ = [] := congrArg PfView.waitQ hv
    refine answers_settled _ _ ⟨?_, ?_, ?_, ?_, ?_, ?_, fun q => ?_, ?_, fun a => ?_, fun i => ?_⟩
    · rw [settle_pf, hpf]; rfl
    · rw [settle_pf, hpf]; rfl
    · rw [settle_pf, hpf]; rfl
    · rw [settle_pmu, hw]
    · rw [settle_cqu, hstop]
    · rw [settle_rbit, hb]
    · rw [settle_queues, hq]; simp [vget]
    · rw [settle_cqu, hq17]
    · rw [State.act, settle_acts]
      exact powerFailOp_act ha hr a
    · rw [State.spn, settle_spns]
      exact powerFailOp_spn ha hr i
  · intro s ha hr
    refine congrArg settled ?_
    rw [powerFailOp, if_neg (by simp [hr]), if_pos ha]
  · intro s ha
    refine answers_settled _ _ ?_
    rw [pfFlushDoneOp, when, if_pos ha]
    refine ⟨?_, ?_, ?_, regsSameBut_settle (regsSameBut_rset _ _ _), settle_mem _⟩
    · rw [settle_rbit]
      exact rbit_rbitSet_same _ _ (by decide) true
    · rw [settle_obj]; rfl
    · rw [settle_obj]; rfl
  · intro s ha
    obtain ⟨v, hv⟩ := pfHoldupOp_eq ha
    refine answers_settled _ _ ?_
    rw [hv]
    refine ⟨?_, ?_, ?_, ?_, ?_, ?_, ?_, ?_, fun c => core_settle_reset rfl c, ?_, ?_⟩
    · rw [settle_rn]
      exact rn_rsetN_same _ _ (n := 0x21) (by decide)
    · rw [settle_pmu]
    · rw [settle_pmu]
    · rw [settle_pmu]
    · rw [settle_mem]; rfl
    · rw [settle_tick]; rfl
    · rw [settle_pf]; rfl
    · rw [settle_boot]
    · rw [settle_media]; rfl
    · rw [settle_obj]; rfl
  · intro s
    refine answers_settled _ _ ?_
    cases ha : s.pf.active with
    | true =>
      rw [inputReturnOp, if_pos ha]
      refine ⟨by rw [settle_pf]; rfl, fun _ => ?_, fun h => absurd h (by decide), regsSameBut_settle (regsSameBut_rset _ _ _), settle_mem _⟩
      rw [settle_rbit]
      exact rbit_rbitSet_same _ _ (by decide) true
    | false =>
      rw [inputReturnOp, if_neg (by simp [ha])]
      split
      next => exact ⟨by rw [settle_pf], fun h => absurd h (by decide), fun _ _ => ⟨by rw [settle_boot], by rw [settle_pf]⟩,
        regsSameBut_settle fun _ _ => rfl, settle_mem _⟩
      next hr => exact ⟨by rw [settle_pf], fun h => absurd h (by decide), fun _ h => absurd h hr,
        regsSameBut_settle fun _ _ => rfl, settle_mem _⟩
  · intro s hb hr
    exact congrArg settled (if_pos (by simp [hb, hr]))
end
end

section
/-! Events of a block that takes no reaction (R534, R536): an event of a kind that is acknowledged sets its source bit, may be
captured, and does nothing more. -/

namespace Sys2Proof.Machine

/-- From `s` to `t` source bit `i` of block `b` has been set, an event may have been captured, and nothing else has changed. -/
structure Noted (s : State) (b : Blk) (i : Nat) (t : State) : Prop where
  only : t = { s with regs := t.regs, fcaps := t.fcaps }
  regs : regsSameBut s t [aFstat b]
  fstat : ∀ j, j < 64 → j ≠ i → rbit t (aFstat b) j = rbit s (aFstat b) j
  set : i < 64 → rbit t (aFstat b) i = true

theorem Noted.proj {β : Type} {s t : State} {b : Blk} {i : Nat} (h : Noted s b i t) (f : State → β)
    (hf : ∀ u r c, f { u with regs := r, fcaps := c } = f u) : f t = f s := by
  rw [h.only, hf]

theorem rbit_rbitSet_ne (s : State) (a : Nat) {i j : Nat} (hj : j < 64) (h : j ≠ i) (v : Bool) :
    rbit (rbitSet s a i v) a j = rbit s a j := by
  rw [rbit, rn, rbitSet, rfSet, rget_rsetN_same, BitVec.toNat_ofNat, Nat.testBit_mod_two_pow, decide_eq_true hj,
    Bool.true_and, putFld_testBit_out _ _ (by omega)]
  rfl

theorem capture_fields (s : State) (b : Blk) (bits : List Nat) (c : Cap) :
    capture s b bits c = { s with fcaps := (capture s b bits c).fcaps } := by
  unfold capture
  split
  · rfl
  · split <;> rfl

theorem capture_only {s u : State} (h : RegsOnly s u) (b : Blk) (bits : List Nat) (c : Cap) :
    capture u b bits c = { s with regs := (capture u b bits c).regs, fcaps := (capture u b bits c).fcaps } := by
  have hr := congrArg (fun v : State => { v with regs := (capture u b bits c).regs, fcaps := (capture u b bits c).fcaps }) h
  refine Eq.trans ?_ hr
  conv_lhs => rw [capture_fields]
  rw [capture_regs]

theorem overList_inv {α : Type} {P : State → Prop} (l : List α) (s : State) (f : State → α → State) (h0 : P s)
    (h : ∀ t x, P t → P (f t x)) : P (overList l s f) := by
  induction l generalizing s with
  | nil => exact h0
  | cons x rest ih => exact ih _ (h s x h0)

/-- R536: an event of an acknowledged kind escalates nothing. -/
theorem escalate_acked {s : State} {b : Blk} {bits : List Nat} (hr : rn s (aFreact b) = 0)
    (hk : ∀ k, unacked s b k = true → eventsOfKind b bits k = 0) :
    RegsOnly s (escalate s b bits) ∧ ∀ a, rget (escalate s b bits) a = rget s a := by
  refine overList_inv (P := fun t => RegsOnly s t ∧ ∀ a, rget t a = rget s a) _ _ _ ⟨rfl, fun _ => rfl⟩ fun t k ht => ?_
  split
  · exact ht
  next h =>
    have hk' : eventsOfKind b bits k = 0 := hk k (by simp at h; exact h.2)
    have h0 : rn t (aFreact b) = 0 := by rw [rn, ht.2]; exact hr
    refine ⟨ht.1.trans (.rset _ _ _), fun a => ?_⟩
    by_cases ha : a = aFreact b
    · subst ha
      have hz : rget s (aFreact b) = 0 := BitVec.eq_of_toNat_eq hr
      rw [rfSet, rget_rsetN_same, rf, h0, hk', hz]
      simp [putFld, fld]
    · rw [rget_rfSet_ne _ _ _ _ ha, ht.2]

/-- An event of an acknowledged kind of a block whose kinds take no reaction is noted, and nothing more follows. -/
theorem raiseWith_noted {f : State → Blk → Nat → State} {s : State} {b : Blk} {i : Nat} {c : Cap} (hr : rn s (aFreact b) = 0)
    (hk : unacked s b (faultKind b i) = false) : Noted s b i (raiseWith f s b [i] c) := by
  obtain ⟨ho, hg⟩ := escalate_acked (bits := [i]) hr fun k h => by
    have hne : faultKind b i ≠ k := fun e => by rw [e, h] at hk; cases hk
    simp [eventsOfKind, hne]
  have hset : setFstat (escalate s b [i]) b [i] = rbitSet (escalate s b [i]) (aFstat b) i true := rfl
  have h0 : reactionOf (capture (setFstat (escalate s b [i]) b [i]) b [i] c) b i = 0 := reactionOf_zero _ _ _ (by
    rw [rn, rget, capture_regs, ← rget, hset, rget_rbitSet_ne _ _ _ (aFreact_ne_aFstat b), hg]
    exact hr)
  have he : raiseWith f s b [i] c = capture (setFstat (escalate s b [i]) b [i]) b [i] c := by
    simp [raiseWith, react, h0, overList]
  have hregs : ∀ a, rget (raiseWith f s b [i] c) a = rget (rbitSet (escalate s b [i]) (aFstat b) i true) a := fun a => by
    rw [he, rget, capture_regs, hset, rget]
  constructor
  · rw [he, hset]
    exact capture_only (ho.trans (.rset _ _ _)) _ _ _
  · intro a ha
    rw [hregs, rget_rbitSet_ne _ _ _ (by simpa using ha), hg]
  · intro j hj hne
    rw [rbit, rn, hregs, ← rn, ← rbit, rbit_rbitSet_ne _ _ hj hne, rbit, rn, hg]
    rfl
  · intro hi
    rw [rbit, rn, hregs]
    exact rbit_rbitSet_same _ _ hi true

theorem raise1_noted {s : State} {b : Blk} {i : Nat} (hq : s.rst.pending = []) (hr : rn s (aFreact b) = 0)
    (hk : unacked s b (faultKind b i) = false) : Noted s b i (raise1 s b i) := by
  have h : Noted s b i (raiseWith blockResetOf s b [i] Cap.none) := raiseWith_noted hr hk
  rwa [raise1, raise, unloadForReset_idle (by rw [h.only]; exact hq)]

end Sys2Proof.Machine
end

section
/-! The Datum die's own events, and the flash array beneath its requests (R571, R574, R578, R595, R601): where DTM takes no reaction
they change what the views below blank, and no request. -/

namespace Sys2Proof.Machine

/-- `s` with all blanked that an event of the Datum die can change where DTM takes no reaction. -/
def eventView (s : State) : State :=
  { s with regs := [], fcaps := [], dtm := { s.dtm with events := [], ovf := false }, datum := { s.datum with evq := [] } }

/-- `s` with all blanked that a rewrite or an append of a logical sector can change too. -/
def flashView (s : State) : State :=
  { eventView s with datum := { (eventView s).datum with sectors := [], rotation := 0, rewrites := 0, recs := [] } }

theorem flashView_of_eventView {s t : State} (h : eventView t = eventView s) : flashView t = flashView s := by
  simp only [flashView, h]

theorem eventView_proj {β : Type} {s t : State} (f : State → β) (hf : ∀ u, f (eventView u) = f u) (h : eventView t = eventView s) :
    f t = f s := by rw [← hf t, h, hf]

theorem flashView_proj {β : Type} {s t : State} (f : State → β) (hf : ∀ u, f (flashView u) = f u) (h : flashView t = flashView s) :
    f t = f s := by rw [← hf t, h, hf]

theorem Noted.eventView {s t : State} {b : Blk} {i : Nat} (h : Noted s b i t) : eventView t = eventView s := by
  rw [h.only]
  rfl

/-- The registers of DTM that events and requests go by: the request word, FREACT, and the source bits in FSTAT. -/
structure DtmRegs (s t : State) (l : List Nat) : Prop where
  req : rget t (Reg.dtmReq 0) = rget s (Reg.dtmReq 0)
  react : rget t (aFreact .dtm) = rget s (aFreact .dtm)
  fstat : ∀ j, j < 64 → j ∉ l → rbit t (aFstat .dtm) j = rbit s (aFstat .dtm) j

theorem DtmRegs.refl (s : State) (l : List Nat) : DtmRegs s s l := ⟨rfl, rfl, fun _ _ _ => rfl⟩

theorem DtmRegs.trans {s t u : State} {l : List Nat} (h : DtmRegs s t l) (h' : DtmRegs t u l) : DtmRegs s u l :=
  ⟨h'.req.trans h.req, h'.react.trans h.react, fun j hj hl => (h'.fstat j hj hl).trans (h.fstat j hj hl)⟩

theorem DtmRegs.of_regs {s t : State} (h : t.regs = s.regs) (l : List Nat) : DtmRegs s t l := by
  have hg : ∀ a, rget t a = rget s a := fun a => by rw [rget, rget, h]
  exact ⟨hg _, hg _, fun j _ _ => by rw [rbit, rbit, rn, rn, hg]⟩

/-- A register of DTM that is none of these may be written. -/
theorem DtmRegs.rset (s : State) {a : Nat} (v : DWord) (h : a ≠ Reg.dtmReq 0 ∧ a ≠ aFreact .dtm ∧ a ≠ aFstat .dtm) (l : List Nat) :
    DtmRegs s (rset s a v) l := by
  obtain ⟨h1, h2, h3⟩ := h
  exact ⟨rget_rset_ne s v h1.symm, rget_rset_ne s v h2.symm, fun j _ _ => by rw [rbit, rbit, rn_rset_ne s v h3.symm]⟩

theorem Noted.dtmRegs {s t : State} {i : Nat} (h : Noted s .dtm i t) : DtmRegs s t [i] :=
  ⟨h.regs _ (by simpa using (by decide : Reg.dtmReq 0 ≠ aFstat .dtm)), h.regs _ (by simpa using aFreact_ne_aFstat .dtm),
    fun j hj hl => h.fstat j hj (by simpa using hl)⟩

/-- DTM takes no reaction, no chip reset is asked for, and none of some source bits is set. -/
structure DtmCalm (s : State) (l : List Nat) : Prop where
  pending : s.rst.pending = []
  react : rn s (aFreact .dtm) = 0
  clear : ∀ j ∈ l, j < 64 ∧ rbit s (aFstat .dtm) j = false

theorem DtmCalm.of_quiet {s : State} (h : quiet s .dtm) {l : List Nat} (hl : ∀ j ∈ l, j < 64) : DtmCalm s l :=
  ⟨h.1, h.2.2, fun j hj => ⟨hl j hj, by rw [rbit, h.2.1, Nat.zero_testBit]⟩⟩

theorem DtmCalm.after {s t : State} {l l' : List Nat} (h : DtmCalm s l) (hv : flashView t = flashView s) (hr : DtmRegs s t l') :
    DtmCalm t (l.filter fun j => j ∉ l') := by
  refine ⟨(flashView_proj (fun u => u.rst.pending) (fun _ => rfl) hv).trans h.pending, by rw [rn, hr.react]; exact h.react, ?_⟩
  intro j hj
  obtain ⟨hj1, hj2⟩ := List.mem_filter.mp hj
  obtain ⟨h64, hb⟩ := h.clear j hj1
  exact ⟨h64, (hr.fstat j h64 (of_decide_eq_true hj2)).trans hb⟩

theorem unacked_dtm {s : State} {k : Nat} (h : rbit s (aFstat .dtm) k = false) : unacked s .dtm k = false := by
  have hn : bitsOfKind .dtm (· == k) (rn s (aFstat .dtm)) = [] := by
    rw [bitsOfKind, List.filter_eq_nil_iff]
    intro i _
    by_cases hi : i = k
    · rw [hi]
      change ¬ ((rbit s (aFstat .dtm) k && _) = true)
      simp [h]
    · simp [faultKind, hi]
  simp [unacked, hn]

theorem raise1_dtm {s : State} {i : Nat} (h : DtmCalm s [i]) : Noted s .dtm i (raise1 s .dtm i) :=
  raise1_noted h.pending h.react (unacked_dtm (h.clear i (List.mem_singleton_self i)).2)

/-! ### Events -/

theorem queueEvent_view (s : State) (code arg : Nat) (l : List Nat) :
    eventView (queueEvent s code arg) = eventView s ∧ DtmRegs s (queueEvent s code arg) l := by
  unfold queueEvent
  dsimp only
  split
  · exact ⟨rfl, (DtmRegs.of_regs (by rfl) l).trans (.rset (a := Reg.dtmIrqstat) _ _ (by decide) l)⟩
  · exact ⟨rfl, (DtmRegs.of_regs (by rfl) l).trans (.rset (a := Reg.dtmIrqstat) _ _ (by decide) l)⟩

theorem postEvent_view (s : State) (code arg : Nat) (l : List Nat) :
    eventView (postEvent s code arg) = eventView s ∧ DtmRegs s (postEvent s code arg) l := by
  unfold postEvent
  split
  · exact queueEvent_view s code arg l
  · exact ⟨rfl, .of_regs (by rfl) l⟩

theorem DtmRegs.mono {s t : State} {l l' : List Nat} (h : DtmRegs s t l) (hl : ∀ j ∈ l, j ∈ l') : DtmRegs s t l' :=
  ⟨h.req, h.react, fun j hj hn => h.fstat j hj fun hm => hn (hl j hm)⟩

theorem DtmCalm.mono {s : State} {l l' : List Nat} (h : DtmCalm s l) (hl : ∀ j ∈ l', j ∈ l) : DtmCalm s l' :=
  ⟨h.pending, h.react, fun j hj => h.clear j (hl j hj)⟩

/-- What a step of the die leaves that blanks no more than events do: calm again, but for the source bits it may have set. -/
theorem DtmCalm.next {s t : State} {l l' : List Nat} (h : DtmCalm s (l' ++ l)) (hv : flashView t = flashView s) (hr : DtmRegs s t l')
    (hl : ∀ j ∈ l, j ∉ l') : DtmCalm t l :=
  (h.after hv hr).mono fun j hj => List.mem_filter.mpr ⟨List.mem_append_right _ hj, decide_eq_true (hl j hj)⟩

theorem raiseCond_view {s : State} {i : Nat} (h : DtmCalm s [i]) :
    eventView (raiseCond s .dtm i) = eventView s ∧ DtmRegs s (raiseCond s .dtm i) [i] := by
  have hrs : DtmRegs s (setLive s .dtm i true) [] := .rset (a := aFlive .dtm) _ _ (by decide) []
  have hc : DtmCalm (setLive s .dtm i true) [i] := DtmCalm.next (s := s) (l' := []) h (by rfl) hrs (by simp)
  have hn : Noted (setLive s .dtm i true) .dtm i (raiseWith blockResetOf (setLive s .dtm i true) .dtm [i] Cap.none) :=
    raiseWith_noted hc.react (unacked_dtm (hc.clear i (List.mem_singleton_self i)).2)
  unfold raiseCond raiseCondWith
  split
  · rw [unloadForReset_idle h.pending]
    exact ⟨rfl, .refl s _⟩
  · rw [unloadForReset_idle (by rw [hn.only]; exact h.pending)]
    exact ⟨hn.eventView.trans rfl, (hrs.mono (by simp)).trans hn.dtmRegs⟩

/-- A condition of the die is an event of its source bit where it becomes present. -/
theorem followCond_view {s : State} {bit : Nat} (h : DtmCalm s [bit]) (code : Nat) (present : Bool) :
    eventView (followCond s bit code present) = eventView s ∧ DtmRegs s (followCond s bit code present) [bit] := by
  unfold followCond
  split
  · split
    · exact ⟨rfl, .refl s _⟩
    · obtain ⟨hv, hr⟩ := postEvent_view s code 0 []
      obtain ⟨hv', hr'⟩ := raiseCond_view (DtmCalm.next (l' := []) h (flashView_of_eventView hv) hr (by simp))
      exact ⟨hv'.trans hv, (hr.mono (by simp)).trans hr'⟩
  · exact ⟨rfl, .rset (a := aFlive .dtm) _ _ (by decide) _⟩

/-- R578, R595, R601: what the mailbox brings to the main die. -/
theorem datumSync_view {s : State} (h : DtmCalm s [2, 3]) :
    eventView (datumSync s) = eventView s ∧ DtmRegs s (datumSync s) [2, 3] := by
  have hq : ∀ (l : List (Nat × Nat)) t, eventView t = eventView s ∧ DtmRegs s t [] →
      eventView (overList l t fun s e => queueEvent s e.1 e.2) = eventView s
        ∧ DtmRegs s (overList l t fun s e => queueEvent s e.1 e.2) [] := fun l t ht =>
    overList_inv (P := fun t => eventView t = eventView s ∧ DtmRegs s t []) l t _ ht fun u e hu =>
      ⟨(queueEvent_view u e.1 e.2 []).1.trans hu.1, hu.2.trans (queueEvent_view u e.1 e.2 []).2⟩
  have hf : ∀ u, eventView u = eventView s → DtmRegs s u [] → ∀ x y,
      eventView (followCond (followCond u 3 4 x) 2 3 y) = eventView s ∧ DtmRegs s (followCond (followCond u 3 4 x) 2 3 y) [2, 3] := by
    intro u hv hr x y
    have hc : DtmCalm u [2, 3] := DtmCalm.next (l' := []) h (flashView_of_eventView hv) hr (by simp)
    obtain ⟨hv3, hr3⟩ := followCond_view (bit := 3) (hc.mono (by simp)) 4 x
    have hc2 : DtmCalm (followCond u 3 4 x) [2] :=
      DtmCalm.next (l' := [3]) (hc.mono (by simp)) (flashView_of_eventView hv3) hr3 (by simp)
    obtain ⟨hv2, hr2⟩ := followCond_view hc2 3 y
    exact ⟨hv2.trans (hv3.trans hv), (hr.mono (by simp)).trans ((hr3.mono (by simp)).trans (hr2.mono (by simp)))⟩
  unfold datumSync
  split
  · obtain ⟨hv, hr⟩ := hq s.datum.evq (modDatum s fun d => { d with evq := [] }) ⟨rfl, .of_regs (by rfl) _⟩
    exact hf _ hv hr _ _
  · exact ⟨rfl, .refl s _⟩

/-! ### The flash array -/

/-- R571: a sector that fails is retired, with a source bit and an event. -/
theorem retireSec_view {s : State} (h : DtmCalm s [1]) (q : Nat) :
    flashView (retireSec s q) = flashView s ∧ DtmRegs s (retireSec s q) [1] := by
  have hs : DtmRegs s (setSec s q { secOf s.datum q with st := .retired }) [] := .of_regs (by rfl) _
  have hc : DtmCalm (setSec s q { secOf s.datum q with st := .retired }) [1] := DtmCalm.next (l' := []) h (by rfl) hs (by simp)
  have hn := raise1_dtm hc
  unfold retireSec
  dsimp only
  split
  · obtain ⟨hv, hr⟩ := postEvent_view (raise1 (setSec s q { secOf s.datum q with st := .retired }) .dtm 1) 4 q [1]
    exact ⟨(flashView_of_eventView (hv.trans hn.eventView)).trans rfl, (hs.mono (by simp)).trans (hn.dtmRegs.trans hr)⟩
  · obtain ⟨hv, hr⟩ := postEvent_view (setSec s q { secOf s.datum q with st := .retired }) 4 q [1]
    exact ⟨(flashView_of_eventView hv).trans rfl, (hs.mono (by simp)).trans hr⟩

/-- The view of a program of the flash that moves no register. -/
def flashRegsView (s : State) : State × SMap DWord := (flashView s, s.regs)

/-- A program of the flash with at most one sector that fails, where DTM takes no reaction. -/
theorem OnceFailed.flash {s t : State} {e : NorEv} (h : OnceFailed flashRegsView s t e) (hc : DtmCalm s [1]) :
    flashView t = flashView s ∧ DtmRegs s t [1] := by
  obtain ⟨u, hu, ht⟩ := h
  have huv : flashView u = flashView s := congrArg Prod.fst hu
  have hur : DtmRegs s u [] := .of_regs (congrArg Prod.snd hu) _
  rcases ht with ht | ⟨-, q, ht⟩
  · exact ⟨(congrArg Prod.fst ht).trans huv, (hur.trans (.of_regs (congrArg Prod.snd ht) _)).mono (by simp)⟩
  · obtain ⟨hv, hr⟩ := retireSec_view (DtmCalm.next (l' := []) hc huv hur (by simp)) q
    exact ⟨(congrArg Prod.fst ht).trans (hv.trans huv), (hur.mono (by simp)).trans (hr.trans (.of_regs (congrArg Prod.snd ht) _))⟩

/-- Without a failing sector a program of the flash moves no register. -/
theorem OnceFailed.sound {β : Type} {p : State → β} {s t : State} {e : NorEv} (h : OnceFailed p s t e) (he : e.fail = false) :
    p t = p s := by
  obtain ⟨u, hu, ht | ⟨hf, -⟩⟩ := h
  · rw [ht, hu]
  · rw [he] at hf
    cases hf

theorem norRewrite_once (s : State) (l : Nat) (e : NorEv) : OnceFailed flashRegsView s (norRewrite s l e) e :=
  norRewrite_onceFailed (fun _ _ => rfl) (fun _ _ => rfl) (fun _ _ => rfl) (fun _ _ => rfl) s l e

theorem norAppend_once (s : State) (l : Nat) (e : NorEv) : OnceFailed flashRegsView s (norAppend s l e) e :=
  norAppend_onceFailed (fun _ _ => rfl) (fun _ _ => rfl) (fun _ _ => rfl) (fun _ _ => rfl) s l e

end Sys2Proof.Machine
end

section
/-! The power-on reset of the main die by a supply, and the reset of the Datum die (R66, R78, R583). -/

namespace Sys2Proof.Machine

/-- R66: the registers after a main-die power-on reset; those of the PMU stand where the AON supply does. -/
theorem rget_mainPorOp (s : State) (aon pf : Bool) {a : Nat} (ha : a ≠ Reg.sysRstcause) :
    rget (mainPorOp s aon pf) a = if isPmuReg a = true ∧ aon = false then rget s a else regReset a := by
  unfold mainPorOp
  dsimp only
  rw [rget_rsetN_ne _ _ ha]
  cases aon with
  | true => exact (if_neg (by simp)).symm
  | false => exact (rget_mainDieReset s a).trans (if_congr (by simp) rfl rfl)

/-- What a main-die power-on reset leaves whatever supply it comes from. -/
theorem mainPorOp_fields (s : State) (aon pf : Bool) :
    (mainPorOp s aon pf).tick = 0 ∧ (mainPorOp s aon pf).mem = [] ∧ (mainPorOp s aon pf).boot = .off
      ∧ (mainPorOp s aon pf).cores = Vector.replicate 8 (CoreSt.reset .reset)
      ∧ (mainPorOp s aon pf).pf = (if aon then PfSt.reset else s.pf)
      ∧ (mainPorOp s aon pf).datum = { s.datum with loaded := [] } ∧ (mainPorOp s aon pf).media = s.media := by
  cases aon <;> exact ⟨rfl, rfl, rfl, rfl, rfl, rfl, rfl⟩

theorem rn_rstcause_mainPorOp (s : State) (aon : Bool) : rn (mainPorOp s aon false) Reg.sysRstcause = 1 :=
  rn_rsetN_same _ _ (n := 1) (by decide)

/-- Start-up follows a main-die power-on reset where neither the supply nor a power-fail sequence holds the die. -/
theorem mainPorEvent_eq (s : State) (vio : Bool) :
    mainPorEvent s vio = { mainPorOp s vio false with
      boot := if vio || s.pf.active then .off else .softStart
      pmu := { (mainPorOp s vio false).pmu with pgood := 0 } } := by
  cases vio <;> rfl

/-- R583: the die as its own reset leaves it, before it tells the main die. -/
def datumRestarted (s : State) : State :=
  modDatum s fun d =>
    { d with
      sectors := scanSectors d.sectors, clock := d.savedTime * 2 ^ 15, slewHold := 0, clkvalid := false, recs := d.recsSaved
      mboxRes := none, portRes := none, portReq := none, portOut := [], cfgFresh := none, evq := [] }

theorem eventView_datumPorOp {s : State} (h : quiet s .dtm) : eventView (datumPorOp s) = eventView (datumRestarted s) := by
  have hq : quiet (datumRestarted s) .dtm := h
  have hc : DtmCalm (datumRestarted s) [2, 3] := .of_quiet hq (by decide)
  obtain ⟨hv, hr⟩ := postEvent_view (datumRestarted s) 5 0 []
  obtain ⟨hv', -⟩ := datumSync_view (DtmCalm.next (l' := []) hc (flashView_of_eventView hv) hr (by simp))
  exact hv'.trans hv

end Sys2Proof.Machine

section
open Sys2Proof Sys2Proof.Machine

/-- Settles O6: a power-on reset names what it keeps, and where DTM takes no reaction its events change nothing of the Datum die. -/
theorem supplyResets : Obligations.SupplyResets := by
  unfold Obligations.SupplyResets
  constructor
  · intro vio s
    obtain ⟨htick, hmem, -, hcores, hpf, hdatum, hmedia⟩ := mainPorOp_fields s vio false
    have hregs : ∀ a, rget (mainPorEvent s vio) a = rget (mainPorOp s vio false) a := fun a => by rw [mainPorEvent_eq]; rfl
    refine answers_settled _ _ ⟨?_, ?_, ?_, ?_, ?_, ?_, ?_, ?_, ?_, fun a ha hp => ?_, fun a ha hp => ?_⟩
    · rw [settle_rn, rn, hregs]
      exact rn_rstcause_mainPorOp s vio
    · rw [settle_tick, mainPorEvent_eq, htick]
    · rw [settle_mem, mainPorEvent_eq, hmem]
    · rw [settle_pmu, mainPorEvent_eq]
    · exact core_settle_reset (by rw [mainPorEvent_eq, hcores])
    · rw [settle_boot, mainPorEvent_eq]
    · rw [settle_pf, mainPorEvent_eq, hpf]
    · rw [settle_datum, mainPorEvent_eq, hdatum]
    · rw [settle_media, mainPorEvent_eq, hmedia]
    · rw [settle_rget, hregs, rget_mainPorOp s vio false ha]
      cases vio <;> simp [hp]
    · rw [settle_rget, hregs, rget_mainPorOp s vio false ha, if_neg (by simp [hp])]
  · intro s h
    have hv := eventView_datumPorOp h
    have hd : ∀ {β : Type} (f : State → β), (∀ u, f (eventView u) = f u) → f (datumPorOp s) = f (datumRestarted s) :=
      fun f hf => eventView_proj f hf hv
    refine answers_settled _ _ ⟨?_, ?_, ?_, ?_, ?_, ?_, ?_, ?_⟩
    · rw [settle_datum]; exact hd (fun u => u.datum.clkvalid) fun _ => rfl
    · rw [settle_datum]; exact hd (fun u => u.datum.clock) fun _ => rfl
    · rw [settle_datum]; exact hd (fun u => u.datum.recs) fun _ => rfl
    · rw [settle_datum]; exact hd (fun u => u.datum.keys) fun _ => rfl
    · rw [settle_datum]; exact hd (fun u => u.datum.rules) fun _ => rfl
    · rw [settle_datum]; exact hd (fun u => u.datum.chain) fun _ => rfl
    · rw [settle_datum]; exact hd (fun u => u.datum.bytes) fun _ => rfl
    · rw [settle_mem]; exact hd (fun u => u.mem) fun _ => rfl
end
end

section
/-! Rails, gates, the power budget and the spin grant (R54–R60). -/

namespace Sys2Proof.Machine

/-! ### Rails -/

theorem clampNat_le {lo hi : Nat} (h : lo ≤ hi) (x : Nat) : clampNat lo hi x ≤ hi := by
  unfold clampNat
  omega

theorem railHi_lt (r : Fin 6) : railLo r ≤ railHi r ∧ railHi r < 2 ^ 12 := by
  revert r
  decide

theorem railGoal_lt (r : Fin 6) (mv : Nat) : clampNat (railLo r) (railHi r) mv < 2 ^ 12 :=
  Nat.lt_of_le_of_lt (clampNat_le (railHi_lt r).1 mv) (railHi_lt r).2

theorem rn_setRail (s : State) (r : Fin 6) (mv : Nat) : rn (setRail s r mv) (Reg.pmuRailctl r) = clampNat (railLo r) (railHi r) mv :=
  rn_rsetN_same _ _ (Nat.lt_trans (railGoal_lt r mv) (by decide))

/-- R56: the target in force does not jump as a setpoint is written. -/
theorem railTarget_setRail (s : State) (r : Fin 6) (mv : Nat) : railTarget (setRail s r mv) r = railTarget s r := by
  have hg := railGoal_lt r mv
  have hslew : vget (setRail s r mv).pmu.slewFrom r
      = if railTarget s r = clampNat (railLo r) (railHi r) mv then none else some (railTarget s r, s.tick.toNat) := vget_vset _ _ _
  have htick : (setRail s r mv).tick = s.tick := rfl
  rw [railTarget, hslew, rf, rn_setRail, htick, fld, Nat.pow_zero, Nat.div_one, Nat.mod_eq_of_lt hg]
  generalize railTarget s r = x
  generalize clampNat (railLo r) (railHi r) mv = g
  by_cases h : x = g
  · simp [h]
  · simp only [h, if_false, Nat.sub_self, Nat.zero_div, Nat.add_zero, Nat.sub_zero]
    split <;> omega

theorem setPgood_testBit (s : State) (r : Fin 6) (b : Bool) : (setPgood s r b).pmu.pgood.toNat.testBit r = b := by
  have hr : r.val < 6 := r.isLt
  change (BitVec.ofNat 6 (putBit s.pmu.pgood.toNat r.val b)).toNat.testBit r = b
  rw [BitVec.toNat_ofNat, Nat.testBit_mod_two_pow, decide_eq_true hr, Bool.true_and]
  exact putFld_one_testBit _ _ _

theorem unacked_quiet {s : State} {b : Blk} (h : quiet s b) (k : Nat) : unacked s b k = false := by
  simp [unacked, h.2.1, bitsOfKind_zero]

/-- R530: a condition that becomes present in a quiet block is noted; one that was present already is no event. -/
theorem raiseCond_quiet {s : State} {b : Blk} (h : quiet s b) (i : Nat) :
    raiseCond s b i = s ∧ rbit s (aFlive b) i = true
      ∨ rbit s (aFlive b) i = false ∧ Noted (setLive s b i true) b i (raiseCond s b i) := by
  have hne : aFstat b ≠ aFlive b ∧ aFreact b ≠ aFlive b := by
    unfold aFstat aFlive aFreact
    omega
  have hq : quiet (setLive s b i true) b := ⟨h.1, (rn_rset_ne s _ hne.1).trans h.2.1, (rn_rset_ne s _ hne.2).trans h.2.2⟩
  have hn : Noted (setLive s b i true) b i (raiseWith blockResetOf (setLive s b i true) b [i] Cap.none) :=
    raiseWith_noted hq.2.2 (unacked_quiet hq _)
  unfold raiseCond raiseCondWith
  cases hl : rbit s (aFlive b) i with
  | true => exact .inl ⟨unloadForReset_idle h.1, rfl⟩
  | false =>
    rw [if_neg (by decide), unloadForReset_idle (by rw [hn.only]; exact h.1)]
    exact .inr ⟨rfl, hn⟩

theorem aFlive_ne_aFstat (b : Blk) : aFlive b ≠ aFstat b := by
  unfold aFlive aFstat
  omega

/-- What the condition of a quiet block leaves: its bit in FLIVE, the source bit in FSTAT where it is new, and no other register. -/
theorem raiseCond_quiet_regs {s : State} {b : Blk} (h : quiet s b) {i : Nat} (hi : i < 64) :
    rbit (raiseCond s b i) (aFlive b) i = true ∧ (rbit s (aFlive b) i = false → rbit (raiseCond s b i) (aFstat b) i = true)
      ∧ regsSameBut s (raiseCond s b i) [aFlive b, aFstat b] ∧ (raiseCond s b i).mem = s.mem ∧ (raiseCond s b i).pmu = s.pmu := by
  rcases raiseCond_quiet h i with ⟨he, hl⟩ | ⟨-, hn⟩
  · rw [he]
    exact ⟨hl, fun h0 => absurd hl (by simp [h0]), fun _ _ => rfl, rfl, rfl⟩
  · refine ⟨?_, fun _ => hn.set hi, fun a ha => ?_, (hn.proj (fun u => u.mem) fun _ _ _ => rfl).trans (rbitSet_mem _ _ _ _),
      (hn.proj (fun u => u.pmu) fun _ _ _ => rfl).trans (rbitSet_pmu _ _ _ _)⟩
    · rw [rbit, rn, hn.regs _ (by simpa using aFlive_ne_aFstat b)]
      exact rbit_rbitSet_same s _ hi true
    · simp only [List.mem_cons, List.not_mem_nil, or_false, not_or] at ha
      exact (hn.regs a (by simpa using ha.2)).trans (rget_rbitSet_ne s _ _ ha.1)

/-! ### A fault of rail 0 (R56) -/

/-- Heads that rest stay at rest, and the power-fail sequence stands, through a fault event of the PMU. -/
theorem raiseCond_pmu_parked (s : State) (i : Nat) :
    allParked (raiseCond s .pmu i) = allParked s ∧ (raiseCond s .pmu i).pf = s.pf := by
  have hr : rest (raiseCond s .pmu i) = rest s := rest_raiseCond (fun _ _ => rfl) s i
  have hu : ∀ t, allParked (unloadForReset t) = allParked t := fun t => by
    rw [Bool.eq_iff_iff, allParked_iff, allParked_iff]
    exact forall_congr' fun a => iff_of_eq (congrFun (congrArg PfView.parked (pfView_unloadForReset t)) a)
  have ha : (raiseCondWith blockResetOf s .pmu i Cap.none).acts = s.acts := by
    unfold raiseCondWith
    split
    · rfl
    · exact (raiseWith_keeps State.acts blockResetOf _ .pmu [i] _ (fun _ _ => rfl) fun t u h =>
        busRest_proj State.acts (fun _ => rfl) h).trans rfl
  have hp : allParked (raiseCondWith blockResetOf s .pmu i Cap.none) = allParked s := by
    unfold allParked State.act
    rw [ha]
  exact ⟨(hu _).trans hp, rest_proj (fun u => u.pf) (fun _ => rfl) hr⟩

theorem reset_allParked {t : State} (h : t.acts = Vector.replicate 16 ActSt.reset) (a : Fin 16) : (t.act a).st = .parked := by
  simp [State.act, h, vget, ActSt.reset]

theorem overSequencer_st (s : State) (l : List (Fin 16)) (t : State) (b : Fin 16) :
    ((overList l t fun t a => if (s.act a).st = .parked then t
      else modAct t a fun x => { x with st := .retract, profile := unldSegs s a, vcode := unldFirst s a }).act b).st
      = if b ∈ l ∧ (s.act b).st ≠ .parked then .retract else (t.act b).st := by
  induction l generalizing t with
  | nil => simp [overList]
  | cons a rest ih =>
    refine (ih _).trans ?_
    beta_reduce
    by_cases ha : (s.act a).st = .parked <;> by_cases hb : b = a
    · subst hb; simp [ha]
    · simp [ha, hb]
    · subst hb; simp [ha]
    · rw [if_neg ha, modAct_act_ne _ _ fun e => hb e.symm]
      simp [hb]

/-- R56: the heads that the sequencer still moves are those that were not at rest. -/
theorem allParked_sequencerGoesOn (s : State) {t : State} (h : t.acts = Vector.replicate 16 ActSt.reset) :
    allParked (sequencerGoesOn s t) = allParked s := by
  rw [Bool.eq_iff_iff, allParked_iff, allParked_iff]
  refine forall_congr' fun a => ?_
  rw [sequencerGoesOn, overSequencer_st, reset_allParked h]
  by_cases hp : (s.act a).st = .parked <;> simp [hp, mem_fin16]

/-- The die after a fault of rail 0, before the notice of heads at rest. -/
def rail0Down (s : State) : State :=
  { sequencerGoesOn s (mainPorOp s false false) with
    rst := { (sequencerGoesOn s (mainPorOp s false false)).rst with rail0 := true }
    pmu := { (sequencerGoesOn s (mainPorOp s false false)).pmu with overRect := turningMask s, overShort := 0 } }

theorem rail0Fault_eq (s : State) : rail0Fault s = headsAtRest (rail0Down s) := rfl

/-- What the notice of heads at rest leaves. -/
theorem headsAtRest_fields (s : State) :
    rget (headsAtRest s) Reg.sysRstcause = rget s Reg.sysRstcause ∧ (headsAtRest s).mem = s.mem ∧ (headsAtRest s).tick = s.tick
      ∧ (headsAtRest s).cores = s.cores ∧ (headsAtRest s).pf = s.pf
      ∧ (s.rst.rail0 = true → if allParked s then (headsAtRest s).boot = (if s.pf.active then s.boot else .softStart)
          else (headsAtRest s).rst.rail0 = true) := by
  have hr : rget (rbitSet s Reg.pmuPfstat 1 true) Reg.sysRstcause = rget s Reg.sysRstcause := rget_rbitSet_ne _ _ _ (by decide)
  unfold headsAtRest
  cases hp : allParked s with
  | false => exact ⟨rfl, rfl, rfl, rfl, rfl, fun h => h⟩
  | true =>
    dsimp only
    rw [if_neg (by decide)]
    cases ha : s.pf.active <;> cases h0 : s.rst.rail0
    · simp [h0]
    · simp [h0, ha, rget]
    · simp [h0, hr]
    · simp [h0, ha, rget]
      exact hr

theorem rail0Fault_fields (s : State) :
    rn (rail0Fault s) Reg.sysRstcause = 1 ∧ (rail0Fault s).mem = [] ∧ (rail0Fault s).tick = 0
      ∧ (rail0Fault s).cores = Vector.replicate 8 (CoreSt.reset .reset) ∧ (rail0Fault s).pf = s.pf
      ∧ (if allParked s then (rail0Fault s).boot = (if s.pf.active then .off else .softStart) else (rail0Fault s).rst.rail0 = true) := by
  obtain ⟨htick, hmem, hboot, hcores, hpf, -, -⟩ := mainPorOp_fields s false false
  obtain ⟨v, hv⟩ := sequencerGoesOn_acts s (mainPorOp s false false)
  have hg : ∀ a, rget (sequencerGoesOn s (mainPorOp s false false)) a = rget (mainPorOp s false false) a := fun a => by rw [hv]; rfl
  have hp : allParked (rail0Down s) = allParked s := allParked_sequencerGoesOn s rfl
  obtain ⟨hr, hm, ht, hc, hf, hb⟩ := headsAtRest_fields (rail0Down s)
  rw [rail0Fault_eq, rn, hr, hm, ht, hc, hf]
  have hb := hb rfl
  rw [hp] at hb
  unfold rail0Down at *
  rw [hv] at *
  refine ⟨?_, hmem, htick, hcores, hpf, ?_⟩
  · exact rn_rstcause_mainPorOp s false
  · split
    next h =>
      rw [if_pos h] at hb
      rw [hb]
      change (if (mainPorOp s false false).pf.active = true then (mainPorOp s false false).boot else _) = _
      rw [hpf, hboot]
      rfl
    next h =>
      rwa [if_neg h] at hb

/-! ### Gates (R54) -/

/-- GATE as a plain register, with a bit for each spindle and each front end. -/
theorem plainReg_pmuGate : plainReg Reg.pmuGate 0xFFFFFF = true := by decide +kernel

/-- The front ends of a list whose actuators are off their ramps, as GATE has them. -/
def loadedBits (s : State) (l : List (Fin 16)) (m : Nat) : Nat :=
  l.foldl (fun m a => if (s.act a).st = .parked then m else putBit m (8 + a.val) true) m

theorem loadedBits_testBit (s : State) (l : List (Fin 16)) (m i : Nat) :
    (loadedBits s l m).testBit i = (m.testBit i || l.any fun a => decide (i = 8 + a.val) && decide ((s.act a).st ≠ .parked)) := by
  induction l generalizing m with
  | nil => simp [loadedBits]
  | cons a rest ih =>
    refine (ih _).trans ?_
    by_cases hp : (s.act a).st = .parked
    · simp [hp]
    · by_cases hi : i = 8 + a.val
      · subst hi
        simp [hp, putBit, putFld_one_testBit]
      · simp [hp, hi, putBit, putFld_testBit_out m _ (l := 8 + a.val) (w := 1) (i := i) (by omega)]

/-- R54: a bit of GATE as written, but for front ends of loaded actuators. -/
theorem rbit_gateWriteOp (s : State) (v : Word) {i : Nat} (hi : i < 24) :
    rbit (gateWriteOp s v) Reg.pmuGate i = (v.toNat.testBit i && !(loadedBits s fin16 0).testBit i) := by
  have h : rbit (gateWriteOp s v) Reg.pmuGate i = (v &&& ~~~(BitVec.ofNat 32 (loadedBits s fin16 0))).toNat.testBit i :=
    rbit_fieldWrite32 plainReg_pmuGate s _ (by omega) (by revert i; decide)
  have h32 : i < 32 := by omega
  rw [h, BitVec.testBit_toNat, BitVec.getLsbD_and, BitVec.getLsbD_not, BitVec.getLsbD_ofNat]
  simp [h32, BitVec.testBit_toNat]

/-! ### The budget (R60) -/

/-- The entry of BUDGET in the map of the PMU: 300 to 4,000. -/
theorem regAt_pmuBudget : ∃ r, regAt Reg.pmuBudget = some (.pmu, r, 0) ∧ r.w64 = false ∧ r.rw = 0xFFFF ∧ r.w1c = 0
    ∧ r.clamps = [(0, 16, 300, 4000)] :=
  ⟨_, rfl, rfl, rfl, rfl, rfl⟩

theorem rn_budgetWriteOp (s : State) (v : Word) :
    rn (budgetWriteOp s v) Reg.pmuBudget % 2 ^ 16 = clampNat 300 4000 (v.toNat % 2 ^ 16) := by
  obtain ⟨r, hr, hw, hrw, hc, hcl⟩ := regAt_pmuBudget
  have hfull : r.full + 1 = 2 ^ 32 := by rw [RegRow.full, hw]; rfl
  have hz : (v.zeroExtend 64).toNat % (r.full + 1) = v.toNat := by rw [zeroExtend_toNat, hfull, Nat.mod_eq_of_lt v.isLt]
  have h := writtenValue_fld (r := r) (l := 0) (w := 16) (by decide) (by rw [hrw]; decide) (by rw [hc]; decide)
    (rget s Reg.pmuBudget) (v.zeroExtend 64)
  rw [budgetWriteOp, fieldWrite32, fieldWrite_at hr, rn, rget_rset_same]
  rw [hz, hcl] at h
  simp only [fld, Nat.pow_zero, Nat.div_one, clampFields, clampNat] at h ⊢
  rw [h]
  omega

theorem fieldWrite32_pmu (s : State) (a : Nat) (v : Word) : (fieldWrite32 s a v).pmu = s.pmu := by
  obtain ⟨m, h⟩ := fieldWrite_rest s a (v.zeroExtend 64)
  rw [fieldWrite32, h]

theorem fieldWrite32_spns (s : State) (a : Nat) (v : Word) : (fieldWrite32 s a v).spns = s.spns := by
  obtain ⟨m, h⟩ := fieldWrite_rest s a (v.zeroExtend 64)
  rw [fieldWrite32, h]

/-! ### Grants (R58) -/

theorem modSpn_spn_ne (s : State) {i j : Fin 8} (f : SpnSt → SpnSt) (h : i ≠ j) : (modSpn s i f).spn j = s.spn j := by
  simp [modSpn, State.spn, vmod, vget_vset_ne _ _ h]

/-- The state as a grant has counted its spindle and noted the rotor. -/
def granted (s : State) (i : Fin 8) (o : RotorObs) : State :=
  noteObs { withdraw s i with pmu := { (withdraw s i).pmu with starting := setSpn (withdraw s i).pmu.starting i true } } i o

/-- R58, R364: a rotor that is still goes to LOCATE. -/
theorem spinGrantOp_still {s : State} {o : RotorObs} {i : Fin 8} {l : List (Fin 8)} (hq : s.pmu.waitQ = i :: l)
    (hf : grantFits s = true) (hs : (s.spn i).st = .waitgrant) (hc : rotorClass s i o = 0) :
    spinGrantOp s o = spnLocate (granted s i o) i false := by
  have hc' : rotorClass (granted s i o) i o = 0 := hc
  have hw : spinGrantOp s o = spnGrant s i o := by
    rw [spinGrantOp, hq]
    exact if_pos (by simp [hf, hs])
  rw [hw, spnGrant]
  exact if_pos hc'

end Sys2Proof.Machine

section
open Sys2Proof Sys2Proof.Machine

/-- Settles O7: each clause is the equation of its command on the registers of the PMU; a fault of rail 0 leaves the heads at rest
where they were. -/
theorem railsAndBudget : Obligations.RailsAndBudget := by
  unfold Obligations.RailsAndBudget
  refine ⟨?_, ?_, ?_, ?_, ?_, ?_, ?_⟩
  · intro r v s
    refine answers_settled _ _ ⟨?_, regsSameBut_settle (regsSameBut_rset _ _ _), settle_mem _, ?_⟩
    · rw [settle_rn]
      exact rn_setRail s r _
    · rw [railTarget, settle_rf, settle_pmu, settle_tick]
      exact railTarget_setRail s r _
  · intro r s hr hq
    have h64 : r.val < 64 := by omega
    have hq' : quiet (setPgood s r false) .pmu := hq
    obtain ⟨hlive, hstat, hregs, hmem, hpmu⟩ := raiseCond_quiet_regs hq' h64
    have he : railfaultOp s r = raiseCond (setPgood s r false) .pmu r := if_neg hr
    refine answers_settled _ _ ?_
    rw [he]
    refine ⟨?_, ?_, fun h0 => ?_, regsSameBut_settle hregs, ?_⟩
    · rw [settle_pmu, hpmu]
      exact setPgood_testBit s r false
    · rw [settle_rbit, hlive]
    · rw [settle_rbit]
      exact hstat h0
    · rw [settle_mem, hmem]
      rfl
  · intro s
    obtain ⟨hp, hpf⟩ := raiseCond_pmu_parked (setPgood s 0 false) 0
    obtain ⟨hcause, hmem, htick, hcores, hf, hb⟩ := rail0Fault_fields (raiseCond (setPgood s 0 false) .pmu 0)
    have hp' : allParked (raiseCond (setPgood s 0 false) .pmu 0) = allParked s := hp
    have hpf' : (raiseCond (setPgood s 0 false) .pmu 0).pf = s.pf := hpf
    rw [hpf'] at hf hb
    rw [hp'] at hb
    have he : railfaultOp s 0 = rail0Fault (raiseCond (setPgood s 0 false) .pmu 0) := by
      rw [railfaultOp, if_pos rfl]
      rfl
    refine answers_settled _ _ ?_
    rw [he]
    refine ⟨?_, ?_, ?_, core_settle_reset hcores, ?_, ?_⟩
    · rw [settle_rn, hcause]
    · rw [settle_mem, hmem]
    · rw [settle_tick, htick]
    · rw [settle_pf, hf]
    · rw [settle_boot, settle_rst]; exact hb
  · intro r s
    refine answers_settled _ _ ⟨?_, ?_, regsSameBut_settle (regsSameBut_rset _ _ _), settle_mem _⟩
    · rw [settle_pmu]
      exact setPgood_testBit s r true
    · rw [settle_rbit]
      exact rbit_rbitSet_same _ _ (by omega) false
  · intro v s
    have hl : ∀ i, (loadedBits s fin16 0).testBit i = fin16.any fun a => decide (i = 8 + a.val) && decide ((s.act a).st ≠ .parked) :=
      fun i => by rw [loadedBits_testBit, Nat.zero_testBit, Bool.false_or]
    refine answers_settled _ _ ⟨fun n => ?_, fun a => ?_, regsSameBut_settle (fieldWrite32_regsSameBut s _ _), ?_⟩
    · have hn : (loadedBits s fin16 0).testBit n = false := by
        rw [hl, List.any_eq_false]
        intro a _
        simp
        omega
      rw [settle_rbit, rbit_gateWriteOp s v (by omega), hn, Bool.not_false, Bool.and_true]
    · have ha : (loadedBits s fin16 0).testBit (8 + a.val) = !decide ((s.act a).st = .parked) := by
        rw [hl, Bool.eq_iff_iff, List.any_eq_true]
        constructor
        · rintro ⟨b, -, hb⟩
          obtain ⟨hab, hb⟩ := Bool.and_eq_true_iff.mp hb
          have : a = b := Fin.ext (by simpa using hab)
          rw [this]
          simpa using hb
        · exact fun h => ⟨a, mem_fin16 a, by simpa using h⟩
      rw [settle_rbit, rbit_gateWriteOp s v (by omega), ha, Bool.not_not]
    · rw [settle_mem]; exact fieldWrite32_mem s _ _
  · intro v s
    refine answers_settled _ _ ⟨?_, regsSameBut_settle (fieldWrite32_regsSameBut s _ _), ?_, ?_⟩
    · rw [settle_rn]; exact rn_budgetWriteOp s v
    · rw [settle_spns]; exact fieldWrite32_spns s _ _
    · rw [settle_pmu]; exact fieldWrite32_pmu s _ _
  · intro o s i l hq hf hs hc
    refine answers_settled _ _ ?_
    rw [spinGrantOp_still hq hf hs hc]
    refine ⟨?_, ?_, ?_, fun j hj => ?_, settle_regs _, settle_mem _⟩
    · rw [settle_pmu]
      change s.pmu.waitQ.filter _ = _
      rw [hq, List.filter_cons_of_neg (by simp)]
    · rw [settle_pmu]
      change (BitVec.ofNat 8 (putBit s.pmu.starting.toNat i.val true)).toNat.testBit i = true
      rw [BitVec.toNat_ofNat, Nat.testBit_mod_two_pow, decide_eq_true i.isLt, Bool.true_and]
      exact putFld_one_testBit _ _ _
    · rw [State.spn, settle_spns, ← State.spn, spnLocate, modSpn_spn]
    · rw [State.spn, settle_spns, ← State.spn, spnLocate, modSpn_spn_ne _ _ hj.symm, granted, noteObs, modSpn_spn_ne _ _ hj.symm]
      rfl
end
end

section
/-! Start-up from the rails to the host ports (R69–R76, R425, R427, R438). -/

namespace Sys2Proof.Machine

/-! ### Fields of a register -/

theorem rf_rfSet_same (s : State) (a x : Nat) {l w : Nat} (h : l + w ≤ 64) : rf (rfSet s a l w x) a l w = x % 2 ^ w := by
  rw [rf, rn, rfSet, rget_rsetN_same, BitVec.toNat_ofNat, fld_mod_two_pow _ h, fld_putFld_same]

theorem rf_rbitSet_out (s : State) (a : Nat) {l w i : Nat} (h : l + w ≤ 64) (hi : i < l ∨ l + w ≤ i) (v : Bool) :
    rf (rbitSet s a i v) a l w = rf s a l w := by
  rw [rf, rn, rbitSet, rfSet, rget_rsetN_same, BitVec.toNat_ofNat, fld_mod_two_pow _ h, fld_putFld_out _ _ (by omega)]
  rfl

theorem regsSameBut.trans {s t u : State} {l : List Nat} (h : regsSameBut s t l) (h' : regsSameBut t u l) : regsSameBut s u l :=
  fun a ha => (h' a ha).trans (h a ha)

theorem regsSameBut.mono {s t : State} {l l' : List Nat} (h : regsSameBut s t l) (hl : ∀ a ∈ l, a ∈ l') : regsSameBut s t l' :=
  fun a ha => h a fun hm => ha (hl a hm)

/-! ### The rails (R71) -/

/-- No rail is outside its band: the bits of all six clear. -/
def railsLive (s : State) (l : List (Fin 6)) : State := overList l s fun s r => setLive s .pmu r false

theorem railsLive_effect (s : State) (l : List (Fin 6)) :
    RegsOnly s (railsLive s l) ∧ regsSameBut s (railsLive s l) [aFlive .pmu] :=
  overList_inv (P := fun t => RegsOnly s t ∧ regsSameBut s t [aFlive .pmu]) _ _ _ ⟨rfl, fun _ _ => rfl⟩ fun t r ht =>
    ⟨ht.1.trans (.rset _ _ _), ht.2.trans (regsSameBut_setLive t .pmu r false)⟩

theorem railsLive_bit (l : List (Fin 6)) (s : State) (r : Fin 6) (h : r ∈ l ∨ rbit s (aFlive .pmu) r = false) :
    rbit (railsLive s l) (aFlive .pmu) r = false := by
  induction l generalizing s with
  | nil => exact h.resolve_left List.not_mem_nil
  | cons q rest ih =>
    refine ih (setLive s .pmu q false) ?_
    by_cases hq : r = q
    · exact .inr (by rw [hq]; exact rbit_rbitSet_same s _ (by omega) false)
    · rcases h with h | h
      · exact .inl ((List.mem_cons.mp h).resolve_left hq)
      · exact .inr ((rbit_rbitSet_ne s _ (by omega) (fun e => hq (Fin.ext e)) false).trans h)

/-- Step 7 with all banks good, before the self-test is noted: core 0 starts. -/
def railsUp (s : State) : State :=
  { railsLive s [0, 1, 2, 3, 4, 5] with
    tick := 0, pmu := { (railsLive s [0, 1, 2, 3, 4, 5]).pmu with pgood := 0x3F }
    rst := { (railsLive s [0, 1, 2, 3, 4, 5]).rst with xtalOk := true, pllLock := true }
    cores := vset (railsLive s [0, 1, 2, 3, 4, 5]).cores 0 (CoreSt.reset .running) }

theorem railsGoodOp_eq {s : State} (h : s.boot = .softStart) :
    railsGoodOp s 0 = { rfSet (railsUp s) Reg.sysBootstat 0 8 7 with
      ms := { s.ms with spdTestDone := true, spdTestFail := 0 }, boot := .resetReleased } := by
  have hms : (railsLive s [0, 1, 2, 3, 4, 5]).ms = s.ms := by rw [(railsLive_effect s _).1]
  rw [railsGoodOp, if_pos h, spdSelfTest, if_pos rfl]
  rw [← hms]
  rfl

/-! ### The boot images (R72) -/

/-- BOOTSTAT of a verdict on slot A and slot B. -/
def bootNoted (s : State) (aOk bOk : Bool) : State :=
  rbitSet (rbitSet (rbitSet (rfSet s Reg.sysBootstat 0 8 9) Reg.sysBootstat 9 (!aOk)) Reg.sysBootstat 8 (!aOk)) Reg.sysBootstat 10
    (!aOk && !bOk)

theorem bootNoted_code (s : State) (aOk bOk : Bool) : rf (bootNoted s aOk bOk) Reg.sysBootstat 0 8 = 9 := by
  rw [bootNoted, rf_rbitSet_out _ _ (by decide) (by decide), rf_rbitSet_out _ _ (by decide) (by decide),
    rf_rbitSet_out _ _ (by decide) (by decide), rf_rfSet_same _ _ _ (by decide)]
  rfl

theorem bootNoted_bits (s : State) (aOk bOk : Bool) :
    rbit (bootNoted s aOk bOk) Reg.sysBootstat 8 = !aOk ∧ rbit (bootNoted s aOk bOk) Reg.sysBootstat 9 = !aOk
      ∧ rbit (bootNoted s aOk bOk) Reg.sysBootstat 10 = (!aOk && !bOk) := by
  refine ⟨?_, ?_, rbit_rbitSet_same _ _ (by decide) _⟩
  · rw [bootNoted, rbit_rbitSet_ne _ _ (by decide) (by decide), rbit_rbitSet_same _ _ (by decide)]
  · rw [bootNoted, rbit_rbitSet_ne _ _ (by decide) (by decide), rbit_rbitSet_ne _ _ (by decide) (by decide),
      rbit_rbitSet_same _ _ (by decide)]

theorem bootNoted_effect (s : State) (aOk bOk : Bool) : OnlyReg s (bootNoted s aOk bOk) Reg.sysBootstat :=
  ((((OnlyReg.refl s _).set _).set _).set _).set _

theorem bootVerdictOp_good {s : State} {aOk bOk : Bool} (hs : s.boot = .resetReleased) (h : (aOk || bOk) = true) :
    bootVerdictOp s aOk bOk = { bootNoted s aOk bOk with boot := .imageVerified } := by
  rw [bootVerdictOp, when, if_pos (by simp [hs])]
  exact if_pos h

/-- With both slots bad core 0 halts, before SIGFAIL is raised. -/
def bootFailed (s : State) : State := modCore (bootNoted s false false) 0 fun k => { k with run := .halted }

theorem bootVerdictOp_bad {s : State} (hs : s.boot = .resetReleased) :
    bootVerdictOp s false false = { raise1 (bootFailed s) .sys 3 with boot := .halted } := by
  rw [bootVerdictOp, when, if_pos (by simp [hs])]
  exact if_neg (by decide)

theorem quiet_bootFailed {s : State} (h : quiet s .sys) : quiet (bootFailed s) .sys := by
  obtain ⟨ho, hr⟩ := bootNoted_effect s false false
  have hg : ∀ a, a ≠ Reg.sysBootstat → rn (bootFailed s) a = rn s a := fun a ha => by
    rw [rn, rget, bootFailed, modCore_regs, ← rget, hr a (by simpa using ha), ← rn]
  exact ⟨(congrArg (fun u : State => u.rst.pending) ho).trans h.1, (hg _ (by decide)).trans h.2.1, (hg _ (by decide)).trans h.2.2⟩

theorem rf_boot (s : State) (b : BootPhase) (a l w : Nat) : rf { s with boot := b } a l w = rf s a l w := rfl

theorem rbit_boot (s : State) (b : BootPhase) (a i : Nat) : rbit { s with boot := b } a i = rbit s a i := rfl

theorem core_boot (s : State) (b : BootPhase) (c : Fin 8) : ({ s with boot := b } : State).core c = s.core c := rfl

theorem RegsOnly.mem {s t : State} (h : RegsOnly s t) : t.mem = s.mem := by rw [h]

theorem mem_boot (s : State) (b : BootPhase) : ({ s with boot := b } : State).mem = s.mem := rfl

theorem regsSameBut_boot {s t : State} {l : List Nat} (h : regsSameBut s t l) (b : BootPhase) : regsSameBut s { t with boot := b } l := h

theorem bootVerdictOp_bad_effect {s : State} (hs : s.boot = .resetReleased) (hq : quiet s .sys) :
    (bootVerdictOp s false false).boot = .halted ∧ ((bootVerdictOp s false false).core 0).run = .halted
      ∧ rbit (bootVerdictOp s false false) (aFstat .sys) 3 = true := by
  have hq' := quiet_bootFailed hq
  have hn := raise1_noted (i := 3) hq'.1 hq'.2.2 (unacked_quiet hq' _)
  rw [bootVerdictOp_bad hs, core_boot, rbit_boot, hn.proj (fun u => u.core 0) fun _ _ _ => rfl, bootFailed, modCore_core]
  exact ⟨rfl, rfl, hn.set (by decide)⟩

/-! ### The configuration (R73–R76, R599) -/

/-- What the counters' save and the rule windows leave of start-up. -/
structure BootView where
  boot : BootPhase
  conf : Conf
  fresh : Bool

def bootView (s : State) : BootView := { boot := s.boot, conf := s.conf, fresh := s.rst.fresh }

@[simp] theorem bootView_rsetN (s : State) (a n : Nat) : bootView (rsetN s a n) = bootView s := rfl

theorem bootView_pmu (s : State) (p : PmuSt) : bootView { s with pmu := p } = bootView s := rfl

theorem bootView_setRail (s : State) (r : Fin 6) (mv : Nat) : bootView (setRail s r mv) = bootView s :=
  (bootView_pmu _ _).trans (bootView_rsetN _ _ _)

theorem bootView_writeWindow (s : State) (n : Fin 8) (r : Rule) : bootView (writeWindow s n r) = bootView s := by
  unfold writeWindow
  exact (bootView_rsetN _ _ _).trans ((bootView_rsetN _ _ _).trans (bootView_rsetN _ _ _))

theorem bootView_of_rest {s t : State} (h : rest t = rest s) : bootView t = bootView s := rest_proj bootView (fun _ => rfl) h

theorem bootView_postEvent (s : State) (code arg : Nat) : bootView (postEvent s code arg) = bootView s := by
  unfold postEvent
  split
  · unfold queueEvent
    dsimp only
    split <;> rfl
  · rfl

theorem bootView_retireSec (s : State) (q : Nat) : bootView (retireSec s q) = bootView s := by
  unfold retireSec
  refine (bootView_postEvent _ _ _).trans ?_
  split
  · exact (bootView_of_rest (rest_raise (fun _ _ => rfl) _ [1] _)).trans rfl
  · rfl

theorem bootView_counterAppend (s : State) (o c : Nat) (e : NorEv) : bootView (counterAppend s o c e) = bootView s :=
  (counterAppend_onceFailed (p := bootView) (fun _ _ => rfl) (fun _ _ => rfl) (fun _ _ => rfl) (fun _ _ => rfl) (fun _ _ _ => rfl)
    s o c e).keeps bootView_retireSec

theorem bootView_countSaveNow (s : State) : bootView (countSaveNow s) = bootView s := by
  unfold countSaveNow
  split
  · exact (bootView_counterAppend _ _ _ _).trans rfl
  · rfl

theorem bootView_freshCounters (s : State) (e : NorEv) : bootView (freshCounters s e).2 = bootView s := bootView_counterAppend s _ _ e

theorem bootView_loadCounters (s : State) : bootView (loadCounters s) = bootView s := by
  have he : ∀ (t : State) e, bootView { t with evr := e } = bootView t := fun _ _ => rfl
  have hd : bootView (norDraw s).2 = bootView s := rfl
  unfold loadCounters
  dsimp only
  refine (he _ _).trans ?_
  split
  · rfl
  · exact (bootView_freshCounters _ _).trans hd

theorem bootView_applyPmu (s : State) (c : CfgLoad) : bootView (applyPmu s c) = bootView s := by
  unfold applyPmu
  refine (overList_keeps bootView _ _ _ fun t r => bootView_setRail t r _).trans ?_
  simp only [bootView_rsetN]

theorem bootView_writeWindows (s : State) : bootView (writeWindows s) = bootView s := by
  unfold writeWindows
  refine overList_keeps bootView _ _ _ fun t e => ?_
  split
  · split
    · exact bootView_writeWindow _ _ _
    · rfl
  · rfl

theorem bootView_storeClamp (s : State) (l : List Bool) (bad : Bool) : bootView (storeClamp s l bad) = bootView s :=
  bootView_of_rest (rest_of_busRest (busRest_busWrite _ _ _ _))

/-- R71, R74: the configuration is in force and the load no longer fresh. -/
theorem bootView_configLoadOp {s : State} (h : s.boot = .imageVerified) :
    bootView (configLoadOp s) = { boot := .configLoaded, conf := (cfgParse s).conf, fresh := false } := by
  have hb : ∀ t, bootView t = { boot := .configLoaded, conf := (cfgParse s).conf, fresh := s.rst.fresh } →
      bootView (if t.rst.fresh then { loadCounters (applyPmu t (cfgParse s)) with rst := { t.rst with fresh := false } } else countSaveNow t)
        = { boot := .configLoaded, conf := (cfgParse s).conf, fresh := false } := by
    intro t ht
    split
    next =>
      have hl := (bootView_loadCounters (applyPmu t (cfgParse s))).trans ((bootView_applyPmu t _).trans ht)
      exact congrArg (fun v : BootView => { v with fresh := false }) hl
    next hf =>
      have hff : t.rst.fresh = false := by simpa using hf
      rw [bootView_countSaveNow, ht, ← hff]
      exact congrArg (fun b : Bool => BootView.mk _ _ b) (congrArg BootView.fresh ht).symm
  rw [configLoadOp, when, if_pos (by simp [h])]
  exact hb _ ((bootView_storeClamp _ _ _).trans ((bootView_writeWindows { s with conf := (cfgParse s).conf, boot := .configLoaded })))

/-! ### The buffer and HOSTRDY (R69, R425, R427) -/

theorem dramTrainingOp_good {s : State} {gib : Nat} (hs : s.boot = .configLoaded) (rate : Nat) (hg : gib ≠ 0) :
    dramTrainingOp s gib rate true = { rfSet s Reg.sysBootstat 0 8 11 with
      conf := { s.conf with dramGib := min s.conf.dramGib gib }
      ms := { s.ms with gib := gib, rate := rate, bufTestDone := true, bufTestFail := false, init := true }
      boot := .trained } := by
  rw [dramTrainingOp, when, if_pos (by simp [hs]), if_neg hg]
  rfl

theorem bufInitOp_eq {s : State} (hs : s.boot = .trained) : bufInitOp s = { zeroBuffer (rfSet s Reg.sysBootstat 0 8 12) with
    ms := { (zeroBuffer (rfSet s Reg.sysBootstat 0 8 12)).ms with ready := true, init := false }, boot := .bufferReady } := by
  rw [bufInitOp, when, if_pos (by simp [hs])]

theorem hostrdyOp_effect (s : State) :
    rbit (hostrdyOp s) Reg.sysBootctl 0 = true ∧ (s.boot = .bufferReady → (hostrdyOp s).boot = .hostReady)
      ∧ (s.boot ≠ .bufferReady → (hostrdyOp s).boot = s.boot)
      ∧ regsSameBut s (hostrdyOp s) [Reg.sysBootctl, Reg.sysBootstat] ∧ (hostrdyOp s).mem = s.mem := by
  have hset := rbit_rbitSet_same s Reg.sysBootctl (i := 0) (by decide) true
  have hregs : regsSameBut s (rbitSet s Reg.sysBootctl 0 true) [Reg.sysBootctl, Reg.sysBootstat] :=
    regsSameBut.mono (l := [Reg.sysBootctl]) (regsSameBut_rset _ _ _) (by simp)
  by_cases hb : s.boot = .bufferReady
  · have he : hostrdyOp s = { rfSet (rbitSet s Reg.sysBootctl 0 true) Reg.sysBootstat 0 8 14 with boot := .hostReady } := if_pos hb
    rw [he]
    refine ⟨?_, fun _ => rfl, fun h => absurd hb h, regsSameBut_boot (hregs.trans ?_) _, rfl⟩
    · rw [rbit_boot, rbit, rn, rget_rfSet_ne _ _ _ _ (by decide)]
      exact hset
    · exact regsSameBut.mono (l := [Reg.sysBootstat]) (regsSameBut_rset _ _ _) (by simp)
  · have he : hostrdyOp s = rbitSet s Reg.sysBootctl 0 true := if_neg hb
    rw [he]
    exact ⟨hset, fun h => absurd h hb, fun _ => rfl, hregs, rfl⟩

end Sys2Proof.Machine

section
open Sys2Proof Sys2Proof.Machine

/-- Settles O8: each step of start-up is the equation of its command; the counters' save and the rule windows leave what the load of
the configuration has put in force. -/
theorem startUp : Obligations.StartUp := by
  unfold Obligations.StartUp
  refine ⟨?_, ?_, ?_, ?_, ?_, ?_, ?_⟩
  · intro s hs
    obtain ⟨-, hregs⟩ := railsLive_effect s [0, 1, 2, 3, 4, 5]
    have hcore : (railsGoodOp s 0).core 0 = CoreSt.reset .running := by
      rw [railsGoodOp_eq hs]
      exact vget_vset _ _ _
    have hcore' : (settle (railsGoodOp s 0)).core 0 = CoreSt.reset .running := by
      rw [settle_core_awake _ _ (by rw [hcore]; decide), hcore]
    have hg : ∀ a, rget (railsUp s) a = rget (railsLive s [0, 1, 2, 3, 4, 5]) a := fun _ => rfl
    refine answers_settled _ _ ⟨?_, ?_, ?_, ?_, ?_, by rw [hcore']; rfl, by rw [hcore']; rfl, ?_, fun r => ?_, ?_⟩
    · rw [settle_boot, railsGoodOp_eq hs]
    · rw [settle_tick, railsGoodOp_eq hs]; rfl
    · rw [settle_pmu, railsGoodOp_eq hs]; rfl
    · rw [settle_ms, railsGoodOp_eq hs]
    · rw [settle_ms, railsGoodOp_eq hs]
    · rw [settle_rf, railsGoodOp_eq hs]
      exact rf_rfSet_same (railsUp s) Reg.sysBootstat 7 (by decide)
    · rw [settle_rbit, railsGoodOp_eq hs]
      have h := rget_rfSet_ne (railsUp s) 0 8 7 (show aFlive .pmu ≠ Reg.sysBootstat by decide)
      change (rget (rfSet (railsUp s) Reg.sysBootstat 0 8 7) (aFlive .pmu)).toNat.testBit r = false
      rw [h, hg]
      exact railsLive_bit _ s r (.inl (by revert r; decide))
    · rw [railsGoodOp_eq hs]
      refine regsSameBut_settle fun a ha => ?_
      simp only [List.mem_cons, List.not_mem_nil, or_false, not_or] at ha
      exact (rget_rfSet_ne (railsUp s) 0 8 7 ha.1).trans (hregs a (by simpa using ha.2))
  · intro aOk bOk s hs hok
    have hor : (aOk || bOk) = true := by simpa using hok
    obtain ⟨ho, hregs⟩ := bootNoted_effect s aOk bOk
    obtain ⟨h8, h9, h10⟩ := bootNoted_bits s aOk bOk
    refine answers_settled _ _ ?_
    rw [bootVerdictOp_good hs hor]
    refine ⟨by rw [settle_boot], ?_, ?_, ?_, ?_, regsSameBut_settle (regsSameBut_boot hregs _), ?_⟩
    · rw [settle_rf, rf_boot]; exact bootNoted_code s aOk bOk
    · rw [settle_rbit, rbit_boot]; exact h8
    · rw [settle_rbit, rbit_boot]; exact h9
    · rw [settle_rbit, rbit_boot]
      refine h10.trans ?_
      rw [← Bool.not_or, hor]
      rfl
    · rw [settle_mem]
      exact (mem_boot _ _).trans ho.mem
  · intro s hs hq
    obtain ⟨hboot, hrun, hbit⟩ := bootVerdictOp_bad_effect hs hq
    refine answers_settled _ _ ⟨?_, ?_, ?_⟩
    · rw [settle_boot]; exact hboot
    · rw [settle_core_awake _ _ (by rw [hrun]; decide)]; exact hrun
    · rw [settle_rbit]; exact hbit
  · intro s hs
    have h := bootView_configLoadOp hs
    refine answers_settled _ _ ⟨?_, ?_, ?_⟩
    · rw [settle_boot]; exact congrArg BootView.boot h
    · rw [settle_conf]; exact congrArg BootView.conf h
    · rw [settle_rst]; exact congrArg BootView.fresh h
  · intro gib rate s hs hg
    refine answers_settled _ _ ?_
    rw [dramTrainingOp_good hs rate hg]
    refine ⟨by rw [settle_boot], by rw [settle_conf], by rw [settle_ms], by rw [settle_ms], by rw [settle_ms], by rw [settle_ms], ?_,
      regsSameBut_settle (regsSameBut_rset _ _ _)⟩
    rw [settle_rf]
    exact rf_rfSet_same s Reg.sysBootstat 11 (by decide)
  · intro s hs
    refine answers_settled _ _ ?_
    rw [bufInitOp_eq hs]
    refine ⟨by rw [settle_boot], by rw [settle_ms], by rw [settle_ms], fun a ha => ?_, fun a ha => ?_, fun w hw => ?_⟩
    · rw [settle_mem]
      exact tget_filter_out 0 s.mem _ fun _ => decide_eq_false (by omega)
    · rw [settle_mem]
      exact MemEffect.tget_filter 0 s.mem _ fun _ => decide_eq_true ha
    · rw [eccOf, settle_ms]
      exact tget_filter_out none s.ms.ecc _ fun _ => decide_eq_false (by omega)
  · intro s
    obtain ⟨hbit, hready, hother, hregs, hmem⟩ := hostrdyOp_effect s
    refine answers_settled _ _ ⟨?_, ?_, ?_, regsSameBut_settle hregs, ?_⟩
    · rw [settle_rbit]; exact hbit
    · rw [settle_boot]; exact hready
    · rw [settle_boot]; exact hother
    · rw [settle_mem]; exact hmem
end
end

section
/-! Requests of the Datum die and their responses at the mailbox and the port (R567, R568, R579, R588–R590, R596, R597, R599, R601). -/

namespace Sys2Proof.Machine

/-! ### Bytes of the flash -/

theorem tget_flashPut_below (m : SMap Byte) (bs : List Byte) {a k : Nat} (h : k < a) : tget 0xFF (flashPut m a bs) k = tget 0xFF m k := by
  induction bs generalizing m a with
  | nil => rfl
  | cons b rest ih => exact (ih _ (Nat.lt_succ_of_lt h)).trans (tget_tset_ne _ _ _ _ (Nat.ne_of_lt h))

theorem tget_flashPut_in (m : SMap Byte) (bs : List Byte) (a : Nat) {i : Nat} (h : i < bs.length) :
    tget 0xFF (flashPut m a bs) (a + i) = bs.getD i 0 := by
  induction bs generalizing m a i with
  | nil => cases h
  | cons b rest ih =>
    cases i with
    | zero => exact (tget_flashPut_below _ rest (Nat.lt_succ_self a)).trans (tget_tset_same _ _ _ _)
    | succ i =>
      have := ih (tset 0xFF m a b) (a + 1) (Nat.lt_of_succ_lt_succ h)
      rwa [Nat.add_assoc, Nat.add_comm 1 i] at this

theorem tget_flashPut_above (m : SMap Byte) (bs : List Byte) {a k : Nat} (h : a + bs.length ≤ k) :
    tget 0xFF (flashPut m a bs) k = tget 0xFF m k := by
  induction bs generalizing m a with
  | nil => rfl
  | cons b rest ih =>
    rw [List.length_cons] at h
    exact (ih _ (by omega)).trans (tget_tset_ne _ _ _ _ (by omega))

/-! ### Requests and their answers -/

/-- What the Datum die and the configuration in force hold, but for the events kept and the keys loaded. -/
def dieView (s : State) : DatumSt × Conf := ({ s.datum with evq := [], loaded := [] }, s.conf)

theorem dieView_rset (s : State) (a : Nat) (v : DWord) : dieView (rset s a v) = dieView s := rfl

theorem dieView_queueEvent (s : State) (code arg : Nat) : dieView (queueEvent s code arg) = dieView s := by
  unfold queueEvent
  refine (dieView_rset _ _ _).trans ?_
  split <;> rfl

theorem dieView_postEvent (s : State) (code arg : Nat) : dieView (postEvent s code arg) = dieView s := by
  unfold postEvent
  split
  · exact dieView_queueEvent s code arg
  · rfl

theorem dieView_followCond (s : State) (bit code : Nat) (present : Bool) : dieView (followCond s bit code present) = dieView s := by
  have hr : ∀ t, dieView (raiseCond t .dtm bit) = dieView t := fun t =>
    rest_proj dieView (fun _ => rfl) (rest_raiseCond (fun _ _ => rfl) t bit)
  unfold followCond
  split
  · split
    · rfl
    · exact (hr _).trans (dieView_postEvent s code 0)
  · exact dieView_rset _ _ _

theorem dieView_datumSync (s : State) : dieView (datumSync s) = dieView s := by
  unfold datumSync
  split
  · exact (dieView_followCond _ _ _ _).trans ((dieView_followCond _ _ _ _).trans
      (overList_keeps dieView _ _ _ fun t e => dieView_queueEvent t e.1 e.2))
  · rfl

/-- What makes a request at the mailbox wait: BUSY, the request word, and no response yet. -/
def reqView (s : State) : Bool × DWord × Option (List Byte) := (s.dtm.busy, rget s (Reg.dtmReq 0), s.datum.mboxRes)

theorem reqView_of_flash {s t : State} {l : List Nat} (h : flashView t = flashView s ∧ DtmRegs s t l) : reqView t = reqView s := by
  obtain ⟨hv, hr⟩ := h
  have hb : t.dtm.busy = s.dtm.busy := flashView_proj (fun u => u.dtm.busy) (fun _ => rfl) hv
  have hm : t.datum.mboxRes = s.datum.mboxRes := flashView_proj (fun u => u.datum.mboxRes) (fun _ => rfl) hv
  rw [reqView, hb, hr.req, hm]
  rfl

/-- A request answered at the mailbox. -/
def answered (s : State) (cmd r : Nat) (body : List Byte) : State :=
  modDatum s fun d => { d with mboxRes := some (respFrame cmd r body) }

theorem answer_mailbox {s : State} {cmd : Nat} (hb : s.dtm.busy = true) (hc : reqCmd s = cmd) (hm : s.datum.mboxRes = none) (r : Nat)
    (body : List Byte) : answer s .mailbox cmd r body = answered s cmd r body := if_pos (by simp [hb, hc, hm])

theorem notWorn {s : State} (h : 3341 ≤ usableSectors s) (c : ReqClass) :
    (c.write && (decide (usableSectors s < 3334) || (decide (usableSectors s < 3341) && !c.ledger))) = false := by
  have h1 : ¬ usableSectors s < 3334 := by omega
  have h2 : ¬ usableSectors s < 3341 := by omega
  simp [h1, h2]

/-- R596: a request that the mailbox brings is answered with the result and the body of its effect. -/
theorem serve_mailbox {s : State} {cmd : Nat} (h : asks s .mailbox cmd) (c : ReqClass) (f : State → Nat × List Byte × State)
    {r : Nat} {body : List Byte} {t : State} (he : f s = (r, body, t)) (hf : reqView t = reqView s) :
    dieView (serve s .mailbox cmd c f) = dieView (answered t cmd r body) := by
  obtain ⟨⟨hup, hb, hc, hm⟩, hw⟩ := h
  simp only [reqView, Prod.mk.injEq] at hf
  obtain ⟨hb', hq', hm'⟩ := hf
  have ha : answer t .mailbox cmd r body = answered t cmd r body :=
    answer_mailbox (hb'.trans hb) (by rw [reqCmd, rf, rn, hq', ← hc]; rfl) (hm'.trans hm) r body
  have hs : serve s .mailbox cmd c f = datumSync (answer t .mailbox cmd r body) := by
    simp [serve, hup, notWorn hw, he]
  rw [hs, dieView_datumSync, ha]

/-- A request answered at the port. -/
def portAnswered (s : State) (cmd r : Nat) (body : List Byte) : State :=
  modDatum s fun d => { d with portReq := none, portRes := some (respFrame cmd r body) }

/-- R597: a request that the port may send is answered there. -/
theorem serve_port {s : State} {cmd : Nat} (h : asks s .port cmd) {c : ReqClass} (hp : c.port = true)
    (f : State → Nat × List Byte × State) {r : Nat} {body : List Byte} {t : State} (he : f s = (r, body, t)) :
    dieView (serve s .port cmd c f) = dieView (portAnswered t cmd r body) := by
  obtain ⟨hc, hw⟩ := h
  have hs : serve s .port cmd c f = datumSync (if c.write && r = 0 then postEvent (portAnswered t cmd r body) 6 cmd
      else portAnswered t cmd r body) := by
    simp [serve, hc, hp, notWorn hw, he, answer, portAnswered]
  rw [hs, dieView_datumSync]
  split
  · exact dieView_postEvent _ _ _
  · rfl

/-- R597: a request that the port may not send is denied. -/
theorem serve_port_denied {s : State} {cmd : Nat} (h : asks s .port cmd) {c : ReqClass} (hp : c.port = false)
    (f : State → Nat × List Byte × State) : serve s .port cmd c f = portAnswered s cmd 8 [] := by
  obtain ⟨hc, -⟩ := h
  simp [serve, hc, hp, answer, portAnswered]

theorem replied_mailbox {t u : State} {cmd r : Nat} {body : List Byte} (h : dieView t = dieView (answered u cmd r body)) :
    replied (settle t) .mailbox cmd r body := by
  change (settle t).datum.mboxRes = _
  rw [settle_datum]
  exact congrArg (fun v : DatumSt × Conf => v.1.mboxRes) h

theorem floors_of_view {t u : State} {cmd r : Nat} {body : List Byte} (h : dieView t = dieView (answered u cmd r body)) :
    (settle t).datum.floors = u.datum.floors := by
  rw [settle_datum]
  exact congrArg (fun v : DatumSt × Conf => v.1.floors) h

theorem bytes_of_view {t u : State} {cmd r : Nat} {body : List Byte} (h : dieView t = dieView (answered u cmd r body)) :
    (settle t).datum.bytes = u.datum.bytes := by
  rw [settle_datum]
  exact congrArg (fun v : DatumSt × Conf => v.1.bytes) h

theorem replied_port {t u : State} {cmd r : Nat} {body : List Byte} (h : dieView t = dieView (portAnswered u cmd r body)) :
    replied (settle t) .port cmd r body := by
  change (settle t).datum.portRes = _ ∧ (settle t).datum.portReq = _
  rw [settle_datum]
  exact ⟨congrArg (fun v : DatumSt × Conf => v.1.portRes) h, congrArg (fun v : DatumSt × Conf => v.1.portReq) h⟩

/-! ### The mailbox (R596, R598, R601) -/

theorem dtmResp_nodup : ((List.range 64).map Reg.dtmResp).Nodup := by decide +kernel

theorem ofBytes_lt (bs : List Byte) : ofBytes bs < 256 ^ bs.length := by
  induction bs with
  | nil => exact Nat.one_pos
  | cons b rest ih =>
    have hb := b.isLt
    rw [ofBytes, List.length_cons, Nat.pow_succ]
    omega

theorem rn_putResp (s : State) (f : List Byte) {i : Nat} (h : i < 64) :
    rn (putResp s f) (Reg.dtmResp i) = ofBytes ((f.drop (4 * i)).take 4) := by
  have hlt : ofBytes ((f.drop (4 * i)).take 4) < 2 ^ 64 :=
    Nat.lt_of_lt_of_le (ofBytes_lt _) (Nat.le_trans (Nat.pow_le_pow_right (by decide) (List.length_take_le 4 _)) (by decide))
  have hr := overList_rsetN_mem (f := Reg.dtmResp) (g := fun _ k => ofBytes ((f.drop (4 * k)).take 4)) (fun _ _ _ _ => rfl)
    dtmResp_nodup s (List.mem_range.mpr h)
  rw [rn, putResp, hr, BitVec.toNat_ofNat, Nat.mod_eq_of_lt hlt]

theorem putResp_only (s : State) (f : List Byte) : RegsOnly s (putResp s f) :=
  overList_inv (P := RegsOnly s) _ _ _ rfl fun _ _ h => h.trans (.rset _ _ _)

theorem rget_putResp_ne (s : State) (f : List Byte) {a : Nat} (h : ∀ i, i < 64 → a ≠ Reg.dtmResp i) :
    rget (putResp s f) a = rget s a :=
  overList_rsetN_ne (f := Reg.dtmResp) (g := fun _ k => ofBytes ((f.drop (4 * k)).take 4)) _ s fun hm => by
    obtain ⟨i, hi, rfl⟩ := List.mem_map.mp hm
    exact h i (List.mem_range.mp hi) rfl

theorem RegsOnly.proj {β : Type} {s t : State} (h : RegsOnly s t) (f : State → β) (hf : ∀ u r, f { u with regs := r } = f u) :
    f t = f s := by rw [h, hf]

/-- The request at the mailbox has ended, and the response has been taken. -/
def requestEnded (s : State) (up : Bool) : State :=
  let s := modDatum s fun d => { d with mboxRes := none }
  endRequest { s with dtm := { s.dtm with linkUp := up } }

theorem requestEnded_fields (s : State) (up : Bool) :
    (requestEnded s up).dtm = { s.dtm with busy := false, linkUp := up } ∧ (requestEnded s up).datum = { s.datum with mboxRes := none }
      ∧ (requestEnded s up).mem = s.mem ∧ (requestEnded s up).rst = s.rst := ⟨rfl, rfl, rfl, rfl⟩

theorem rget_requestEnded (s : State) (up : Bool) {a : Nat} (h : a ≠ Reg.dtmIrqstat) : rget (requestEnded s up) a = rget s a :=
  rget_rbitSet_ne _ _ _ h

/-- The response of a request stands in RESP, and the request has ended. -/
def responded (s : State) (f : List Byte) (up : Bool) : State := requestEnded (putResp s f) up

theorem mailboxResponseOp_eq {s : State} {f : List Byte} (hf : s.datum.mboxRes = some f) (hb : s.dtm.busy = true) :
    mailboxResponseOp s = responded s f true := by
  simp only [mailboxResponseOp, hf, hb, if_true, responded, requestEnded]

theorem mailboxTimeoutOp_eq {s : State} (hb : s.dtm.busy = true) :
    mailboxTimeoutOp s = raise1 (responded s (respFrame (reqCmd s) 0xFF []) false) .dtm 0 := by
  simp only [mailboxTimeoutOp, when, hb, if_true, responded, requestEnded]

/-- What `responded` leaves, all at once. -/
theorem responded_fields (s : State) (f : List Byte) (up : Bool) :
    (responded s f up).dtm = { s.dtm with busy := false, linkUp := up } ∧ (responded s f up).datum = { s.datum with mboxRes := none }
      ∧ (responded s f up).mem = s.mem ∧ (responded s f up).rst = s.rst := by
  obtain ⟨hdtm, hdatum, hmem, hrst⟩ := requestEnded_fields (putResp s f) up
  have h := putResp_only s f
  rw [responded, hdtm, hdatum, hmem, hrst, h.proj State.dtm fun _ _ => rfl, h.proj State.datum fun _ _ => rfl,
    h.proj State.mem fun _ _ => rfl, h.proj State.rst fun _ _ => rfl]
  exact ⟨rfl, rfl, rfl, rfl⟩

theorem rget_responded (s : State) (f : List Byte) (up : Bool) {a : Nat} (h : a ≠ Reg.dtmIrqstat) :
    rget (responded s f up) a = rget (putResp s f) a := rget_requestEnded _ up h

theorem rbit_responded (s : State) (f : List Byte) (up : Bool) : rbit (responded s f up) Reg.dtmIrqstat 0 = true :=
  rbit_rbitSet_same _ _ (by decide) true

theorem dtmResp_ne {i a : Nat} (ha : a < 0x20_00C0_0200 ∨ 0x20_00C0_0300 ≤ a) (h : i < 64) : a ≠ Reg.dtmResp i := by
  rw [Reg.dtmResp]
  omega

theorem rn_responded (s : State) (f : List Byte) (up : Bool) {i : Nat} (h : i < 64) :
    rn (responded s f up) (Reg.dtmResp i) = ofBytes ((f.drop (4 * i)).take 4) := by
  rw [rn, rget_responded s f up (dtmResp_ne (by decide) h).symm, ← rn, rn_putResp s f h]

theorem quiet_responded {s : State} (h : quiet s .dtm) (f : List Byte) (up : Bool) : quiet (responded s f up) .dtm := by
  obtain ⟨hp, hs, hr⟩ := h
  have hg : ∀ a, a ≠ Reg.dtmIrqstat → (a < 0x20_00C0_0200 ∨ 0x20_00C0_0300 ≤ a) → rn (responded s f up) a = rn s a := fun a h1 h2 => by
    rw [rn, rget_responded s f up h1, rget_putResp_ne s f fun i hi => dtmResp_ne h2 hi, ← rn]
  refine ⟨?_, (hg _ (by decide) (by decide)).trans hs, (hg _ (by decide) (by decide)).trans hr⟩
  obtain ⟨-, -, -, hrst⟩ := responded_fields s f up
  rw [hrst, hp]

theorem timeout_word {cmd : Nat} (h : cmd < 256) : ofBytes (((respFrame cmd 0xFF []).drop (4 * 0)).take 4) = cmd + 0xFF00 := by
  have hm : cmd % 256 = cmd := Nat.mod_eq_of_lt h
  simp [respFrame, toBytes, ofBytes, hm]

theorem reqCmd_lt (s : State) : reqCmd s < 256 := Nat.mod_lt _ (by decide)

theorem mailboxTimeoutOp_effect {s : State} (hb : s.dtm.busy = true) (hq : quiet s .dtm) :
    (mailboxTimeoutOp s).dtm = { s.dtm with busy := false, linkUp := false } ∧ rn (mailboxTimeoutOp s) (Reg.dtmResp 0) = reqCmd s + 0xFF00
      ∧ rbit (mailboxTimeoutOp s) Reg.dtmIrqstat 0 = true ∧ rbit (mailboxTimeoutOp s) (aFstat .dtm) 0 = true
      ∧ (mailboxTimeoutOp s).mem = s.mem := by
  obtain ⟨hdtm, -, hmem, -⟩ := responded_fields s (respFrame (reqCmd s) 0xFF []) false
  have hirq := rbit_responded s (respFrame (reqCmd s) 0xFF []) false
  have hword := rn_responded s (respFrame (reqCmd s) 0xFF []) false (i := 0) (by decide)
  have hn : Noted _ .dtm 0 _ := raise1_dtm (.of_quiet (quiet_responded hq (respFrame (reqCmd s) 0xFF []) false) (by decide))
  rw [mailboxTimeoutOp_eq hb, hn.proj State.dtm fun _ _ _ => rfl, hn.proj State.mem fun _ _ _ => rfl, rn,
    hn.regs _ (by simpa using (by decide : Reg.dtmResp 0 ≠ aFstat .dtm)), rbit, rn,
    hn.regs _ (by simpa using (by decide : Reg.dtmIrqstat ≠ aFstat .dtm)), hdtm, hmem]
  exact ⟨rfl, hword.trans (timeout_word (reqCmd_lt s)), hirq, hn.set (by decide), rfl⟩

theorem mailboxDoorOp_eq {s : State} {v : Word} (hk : v.toNat / 2 ^ 16 = 0xC4E5) (h0 : v.toNat.testBit 0 = true)
    (hb : s.dtm.busy = false) :
    mailboxDoorOp s v = { s with
      dtm := { s.dtm with busy := true }
      datum := { s.datum with mboxRes :=
        if (mailboxUp s && !requestCodes.contains (reqCmd s)) = true then some (respFrame (reqCmd s) 1 []) else none } } := by
  let u : State := modDatum { s with dtm := { s.dtm with busy := true } } fun d => { d with mboxRes := none }
  have hc : (keyed v && v.toNat.testBit 0 && !s.dtm.busy) = true := by
    rw [keyed, hk, h0, hb]
    rfl
  have hu : mailboxDoorOp s v =
      if (mailboxUp s && !requestCodes.contains (reqCmd s)) = true then answer u .mailbox (reqCmd s) 1 [] else u := if_pos hc
  have ha : answer u .mailbox (reqCmd s) 1 [] = answered u (reqCmd s) 1 [] := answer_mailbox rfl rfl rfl 1 []
  rw [hu, ha]
  split <;> rfl

/-! ### What the requests do before they are answered -/

/-- No register of DTM lies in the window of a block below it. -/
theorem dtm_above {a : Nat} (h : a < 0x20_00C0_0000) : a ≠ Reg.dtmReq 0 ∧ a ≠ aFreact .dtm ∧ a ≠ aFstat .dtm := by
  have h1 : 0x20_00C0_0000 ≤ Reg.dtmReq 0 := by decide
  have h2 : 0x20_00C0_0000 ≤ aFreact .dtm := by decide
  have h3 : 0x20_00C0_0000 ≤ aFstat .dtm := by decide
  omega

theorem reqView_memEffect {s t : State} (h : MemEffect s t) : (reqView t, t.datum) = (reqView s, s.datum) := by
  have hreg : ∀ {b}, b ∈ memBlks → ¬ (blkBase b ≤ Reg.dtmReq 0 ∧ Reg.dtmReq 0 < blkBase b + 0x1_0000) := fun {b} hb h => by
    simp only [memBlks, List.mem_cons, List.not_mem_nil, or_false] at hb
    rcases hb with rfl | rfl | rfl | rfl | rfl <;> exact absurd h (by decide)
  induction h with
  | refl | mem | ms | rst | fcaps | nmt => rfl
  | trans _ _ ih1 ih2 => exact ih2.trans ih1
  | reg s a v ha =>
    obtain ⟨b, hb, hw⟩ := ha
    have hne : Reg.dtmReq 0 ≠ a := fun e => hreg hb (e ▸ hw)
    rw [reqView, rget_rset_ne s v hne]
    rfl
  | reset s b i hb =>
    have hd : (plainReset s b i).dtm = s.dtm ∧ (plainReset s b i).datum = s.datum := by
      simp only [memBlks, List.mem_cons, List.not_mem_nil, or_false] at hb
      rcases hb with rfl | rfl | rfl | rfl | rfl <;> exact ⟨rfl, rfl⟩
    rw [reqView, MemEffect.rget_plainReset hb (hreg hb), hd.1, hd.2]
    rfl

/-- R589: an image streamed to the scratchpad touches nothing of the Datum die. -/
theorem streamImage_view (s : State) (img : ImageInfo) :
    (reqView (streamImage s img), (streamImage s img).datum) = (reqView s, s.datum) := by
  unfold streamImage
  split
  · exact reqView_memEffect (.busWrite _ _ _ _)
  · rfl

theorem writeWindows_only (s : State) : RegsOnly s (writeWindows s) ∧ DtmRegs s (writeWindows s) [] := by
  refine overList_inv (P := fun t => RegsOnly s t ∧ DtmRegs s t []) _ _ _ ⟨rfl, .refl s []⟩ fun t e ht => ?_
  split
  next n _ =>
    split
    · have hn := n.isLt
      have h1 := dtm_above (a := Reg.locRwhandle n) (by rw [Reg.locRwhandle]; omega)
      have h2 := dtm_above (a := Reg.locRwfirst n) (by rw [Reg.locRwfirst]; omega)
      have h3 := dtm_above (a := Reg.locRwlast n) (by rw [Reg.locRwlast]; omega)
      exact ⟨ht.1.trans ((RegsOnly.rset _ _ _).trans ((RegsOnly.rset _ _ _).trans (.rset _ _ _))),
        ht.2.trans ((DtmRegs.rset _ _ h1 []).trans ((DtmRegs.rset _ _ h2 []).trans (.rset _ _ h3 [])))⟩
    · exact ht
  · exact ht

theorem norRewrite_view {s : State} (h : DtmCalm s [1]) (l : Nat) (e : NorEv) :
    flashView (norRewrite s l e) = flashView s ∧ DtmRegs s (norRewrite s l e) [1] := (norRewrite_once s l e).flash h

/-- R582: a counter record is appended, whether to the sector or to a new copy of it. -/
theorem counterAppend_eq {s : State} (h : DtmCalm s [1]) (o c : Nat) (e : NorEv) :
    ∃ u x y, (flashView u = flashView s ∧ DtmRegs s u [1])
      ∧ counterAppend s o c e = modDatum u fun d => { d with counters := (o, x, c) :: y, savedTime := clockSec d } := by
  unfold counterAppend
  refine ⟨if decide (128 ≤ s.datum.counters.length) = true then norRewrite s 1027 e else norAppend s 1027 e, _, _, ?_, rfl⟩
  split
  · exact (norRewrite_once s 1027 e).flash h
  · exact (norAppend_once s 1027 e).flash h

/-- R588: a floor is raised. -/
theorem raiseFloor_view {s : State} (h : DtmCalm s [1]) (k : Fin 3) (build : Nat) :
    reqView (raiseFloor s k build) = reqView s ∧ (raiseFloor s k build).datum.floors = vmod s.datum.floors k (Nat.max build) := by
  let u : State := (norDraw (modDatum s fun d => { d with floors := vmod d.floors k (Nat.max build) })).2
  have hv := norRewrite_view (s := u) ⟨h.pending, h.react, h.clear⟩ 1026
  exact ⟨(reqView_of_flash (hv _)).trans rfl, flashView_proj (fun u => u.datum.floors) (fun _ => rfl) (hv _).1⟩

theorem vget_raised_same {n : Nat} (v : Vector Nat n) (i : Fin n) (build : Nat) :
    vget (vmod v i (Nat.max build)) i = max (vget v i) build := by
  rw [vmod, vget_vset]
  exact Nat.max_comm _ _

theorem vget_raised_ne {n : Nat} (v : Vector Nat n) {i j : Fin n} (h : i ≠ j) (build : Nat) :
    vget (vmod v i (Nat.max build)) j = vget v j := by rw [vmod, vget_vset_ne _ _ h]

theorem programSpan_sound (n : Nat) (s : State) (l : Nat) (e : NorEv) (he : e.fail = false) :
    flashRegsView (programSpan s l n e) = flashRegsView s := by
  induction n generalizing s l e with
  | zero => rfl
  | succ n ih => exact (ih _ _ _ rfl).trans ((norAppend_once s l e).sound he)

/-- A span of sectors programmed, of which the first may fail. -/
theorem programSpan_view {s : State} (h : DtmCalm s [1]) (l n : Nat) (e : NorEv) :
    flashView (programSpan s l n e) = flashView s ∧ DtmRegs s (programSpan s l n e) [1] := by
  cases n with
  | zero => exact ⟨rfl, .refl s _⟩
  | succ n =>
    obtain ⟨hv, hr⟩ := (norAppend_once s l e).flash h
    have hs := programSpan_sound n (norAppend s l e) (l + 1) { e with fail := false, pulses := [] } rfl
    exact ⟨(congrArg Prod.fst hs).trans hv, hr.trans (.of_regs (congrArg Prod.snd hs) _)⟩

/-! ### The requests answered -/

/-- BOOTSTAT of step 8, where BOOTREQ is of start-up (R71). -/
def bootBegun (s : State) : State := if s.boot = .resetReleased then rfSet s Reg.sysBootstat 0 8 8 else s

theorem bootBegun_view (s : State) : (reqView (bootBegun s), (bootBegun s).datum) = (reqView s, s.datum) := by
  unfold bootBegun
  split
  · have h := rget_rfSet_ne s 0 8 8 (show Reg.dtmReq 0 ≠ Reg.sysBootstat by decide)
    rw [reqView, h]
    rfl
  · rfl

/-- R589: result and body of BOOTREQ, by the verdicts on the two slots. -/
def bootAnswer (a b : ImageInfo) (floor : Nat) : Nat × List Byte :=
  if judge a floor = 0 then (0, 0 :: toBytes 4 a.entry)
  else if judge b floor = 0 then (0, 1 :: toBytes 4 b.entry)
  else (if judge b floor = 1 then 2 else judge b floor, [])

theorem bootreqOp_view {s : State} (h : asks s .mailbox 0x01) (a b : ImageInfo) :
    ∃ t, t.datum.floors = s.datum.floors ∧ dieView (bootreqOp s a b)
      = dieView (answered t 0x01 (bootAnswer a b (vget s.datum.floors 0)).1 (bootAnswer a b (vget s.datum.floors 0)).2) := by
  have hA := (streamImage_view (bootBegun s) a).trans (bootBegun_view s)
  have hB := (streamImage_view (streamImage (bootBegun s) a) b).trans hA
  have hf : (bootBegun s).datum.floors = s.datum.floors := congrArg (fun v => v.2.floors) (bootBegun_view s)
  have huse : ∀ (t : State) n, reqView (modDatum t fun d => { d with bootSlot := n }) = reqView t := fun _ _ => rfl
  unfold bootreqOp bootAnswer
  by_cases ha : judge a (vget s.datum.floors 0) = 0
  · rw [if_pos ha]
    exact ⟨_, congrArg (fun v => v.2.floors) hA, serve_mailbox h _ _ (if_pos (by rw [← hf] at ha; exact ha))
      ((huse _ _).trans (congrArg Prod.fst hA))⟩
  · have ha' : ¬ judge a (vget (bootBegun s).datum.floors 0) = 0 := by rwa [hf]
    rw [if_neg ha]
    by_cases hb : judge b (vget s.datum.floors 0) = 0
    · rw [if_pos hb]
      exact ⟨_, congrArg (fun v => v.2.floors) hB, serve_mailbox h _ _ ((if_neg ha').trans (if_pos (by rw [← hf] at hb; exact hb)))
        ((huse _ _).trans (congrArg Prod.fst hB))⟩
    · have hb' : ¬ judge b (vget (bootBegun s).datum.floors 0) = 0 := by rwa [hf]
      rw [if_neg hb, ← hf]
      exact ⟨_, (congrArg (fun v => v.2.floors) hB).trans hf.symm, serve_mailbox h _ _ ((if_neg ha').trans (if_neg hb')) (congrArg Prod.fst hB)⟩

theorem datumVerifyOp_view {s : State} (h : asks s .mailbox 0x02) {kind : Nat} (hk : kind = 1 ∨ kind = 2) (build : Nat) (sigOk : Bool) :
    dieView (datumVerifyOp s kind build sigOk false) = dieView (answered s 0x02 (judgeMicrocode s kind build sigOk) []) := by
  unfold datumVerifyOp
  refine serve_mailbox h _ _ ?_ rfl
  simp [hk]

theorem datumVerifyOp_raises {s : State} (h : asks s .mailbox 0x02) {kind : Nat} (hk : kind = 1 ∨ kind = 2) (hq : quiet s .dtm) {build : Nat}
    {sigOk : Bool} (hj : judgeMicrocode s kind build sigOk = 0) :
    dieView (datumVerifyOp s kind build sigOk true)
      = dieView (answered (raiseFloor s (if kind = 1 then 1 else 2) build) 0x02 0 []) := by
  unfold datumVerifyOp
  refine serve_mailbox h _ _ ?_ (raiseFloor_view (.of_quiet hq (by decide)) _ _).1
  simp [hk, hj]

theorem fwcommitOp_view {s : State} (h : asks s .mailbox 0x04) (hq : quiet s .dtm) {slot : Nat} (hs : slot < 2) {img : ImageInfo}
    (hj : judge img (vget s.datum.floors 0) = 0) (floor : Bool) :
    dieView (fwcommitOp s slot floor img) = dieView (answered (if floor then raiseFloor s 0 img.build else s) 0x04 0 []) := by
  unfold fwcommitOp
  refine serve_mailbox h _ _ ?_ ?_
  · rw [commitSlot, if_neg (by omega)]
    exact if_pos hj
  · cases floor
    · rfl
    · exact (raiseFloor_view (.of_quiet hq (by decide)) _ _).1

/-- R590: what FWWRITE leaves of the plain bytes. -/
def slotBytes (s : State) (slot offset : Nat) (bytes : List Byte) : SMap Byte :=
  flashPut (if offset = 0 then eraseSlot s slot else s).datum.bytes (slotBase slot + offset) bytes

theorem fwwriteOp_view {s : State} (h : asks s .mailbox 0x03) (hq : quiet s .dtm) {slot offset : Nat} {bytes : List Byte} (e : NorEv)
    (hs : slot < 2) (hb : bytes ≠ []) (hl : offset + bytes.length ≤ 2 ^ 21) :
    ∃ t, t.datum.bytes = slotBytes s slot offset bytes ∧ dieView (fwwriteOp s slot offset bytes e) = dieView (answered t 0x03 0 []) := by
  let u : State := if offset = 0 then eraseSlot s slot else s
  have hu : u.regs = s.regs ∧ u.rst = s.rst ∧ reqView u = reqView s := by
    unfold u
    split <;> exact ⟨rfl, rfl, rfl⟩
  obtain ⟨hregs, hrst, hreq⟩ := hu
  have hg : ∀ a, rget u a = rget s a := fun a => by rw [rget, rget, hregs]
  have hc : DtmCalm u [1] := .of_quiet ⟨by rw [hrst]; exact hq.1, by rw [rn, hg]; exact hq.2.1, by rw [rn, hg]; exact hq.2.2⟩ (by decide)
  have hp := programSpan_view hc ((slotBase slot + offset) / 4096)
    ((slotBase slot + offset + bytes.length - 1) / 4096 - (slotBase slot + offset) / 4096 + 1) e
  have hbytes := flashView_proj (fun v => v.datum.bytes) (fun _ => rfl) hp.1
  unfold fwwriteOp
  refine ⟨modDatum (programSpan u ((slotBase slot + offset) / 4096)
    ((slotBase slot + offset + bytes.length - 1) / 4096 - (slotBase slot + offset) / 4096 + 1) e)
      fun d => { d with bytes := flashPut d.bytes (slotBase slot + offset) bytes }, ?_, serve_mailbox h _ _ ?_ ?_⟩
  · exact congrArg (fun m => flashPut m (slotBase slot + offset) bytes) hbytes
  · rw [writeSlot, if_neg]
    simp only [Bool.or_eq_true, decide_eq_true_eq, not_or]
    exact ⟨⟨by omega, by omega⟩, hb⟩
  · exact (reqView_of_flash hp).trans hreq

theorem tget_slotBytes_in (s : State) (slot offset : Nat) (bytes : List Byte) {i : Nat} (h : i < bytes.length) :
    tget 0xFF (slotBytes s slot offset bytes) (slot * 2 ^ 21 + offset + i) = bytes.getD i 0 := by
  have hb : slotBase slot = slot * 2 ^ 21 := by rw [slotBase]; omega
  rw [← hb]
  exact tget_flashPut_in _ _ _ h

theorem tget_slotBytes_out (s : State) (slot : Nat) {offset : Nat} {bytes : List Byte} {i : Nat} (hi : i < 2 ^ 21)
    (h : i < offset ∨ offset + bytes.length ≤ i) :
    tget 0xFF (slotBytes s slot offset bytes) (slot * 2 ^ 21 + i)
      = if offset = 0 then 0xFF else tget 0xFF s.datum.bytes (slot * 2 ^ 21 + i) := by
  have hb : slotBase slot = slot * 2 ^ 21 := by rw [slotBase]; omega
  have hn : slotBase (slot + 1) = slot * 2 ^ 21 + 2 ^ 21 := by rw [slotBase]; omega
  have hput : tget 0xFF (slotBytes s slot offset bytes) (slot * 2 ^ 21 + i)
      = tget 0xFF (if offset = 0 then eraseSlot s slot else s).datum.bytes (slot * 2 ^ 21 + i) := by
    rcases h with h | h
    · exact tget_flashPut_below _ _ (by omega)
    · exact tget_flashPut_above _ _ (by omega)
  rw [hput]
  split
  · exact tget_filter_out _ _ _ fun _ => by
      simp only [Bool.or_eq_false_iff, decide_eq_false_iff_not]
      omega
  · rfl

theorem cfgBytes_congr {s t : State} (h : t.datum.bytes = s.datum.bytes) (off n : Nat) : cfgBytes t off n = cfgBytes s off n := by
  rw [cfgBytes, cfgBytes, h]

theorem cfgLength_congr {s t : State} (h : t.datum.bytes = s.datum.bytes) : cfgLength t = cfgLength s := by
  have hb : cfgBytes t = cfgBytes s := funext fun off => funext fun n => cfgBytes_congr h off n
  have hn : cfgNat t = cfgNat s := funext fun off => funext fun n => congrArg ofBytes (cfgBytes_congr h off n)
  unfold cfgLength
  rw [hn, hb]

/-- The block as CFGREAD gives it: 54 bytes where its header is bad (R599). -/
def cfgBlock (s : State) : List Byte := cfgBytes s 0 (if cfgLength s = 0 then 0x36 else cfgLength s)

theorem cfgBlock_congr {s t : State} (h : t.datum.bytes = s.datum.bytes) : cfgBlock t = cfgBlock s := by
  rw [cfgBlock, cfgBlock, cfgLength_congr h, cfgBytes_congr h]

/-- OPSEC and PCYC as CFGREAD with FRESH gives them (R599). -/
def freshPair (d : DatumSt) : Nat × Nat := ((lastCounters d).1, ((lastCounters d).2 + 1) % 2 ^ 32)

theorem cfgreadOp_fresh {s : State} (h : asks s .mailbox 0x10) (hq : quiet s .dtm) :
    ∃ t, t.datum.cfgFresh = some (freshPair s.datum) ∧ lastCounters t.datum = freshPair s.datum
      ∧ dieView (cfgreadOp s .mailbox true) = dieView (answered t 0x10 0
          (toBytes 8 (freshPair s.datum).1 ++ toBytes 4 (freshPair s.datum).2 ++ cfgBlock s)) := by
  obtain ⟨hw, hwr⟩ := writeWindows_only s
  let n := norDraw (writeWindows s)
  have hd : n.2.datum = s.datum := hw.proj State.datum fun _ _ => rfl
  have hc : DtmCalm (writeWindows s) [1] :=
    DtmCalm.next (s := s) (l' := []) (.of_quiet hq (by decide)) (hw.proj flashView fun _ _ => rfl) hwr (by simp)
  obtain ⟨u, x, y, hu, he⟩ := counterAppend_eq (s := n.2) ⟨hc.pending, hc.react, hc.clear⟩ (freshPair s.datum).1 (freshPair s.datum).2 n.1
  have hub : u.datum.bytes = s.datum.bytes := (flashView_proj (fun v => v.datum.bytes) (fun _ => rfl) hu.1).trans (congrArg DatumSt.bytes hd)
  have hfresh : freshCounters n.2 n.1 = (freshPair s.datum, counterAppend n.2 (freshPair s.datum).1 (freshPair s.datum).2 n.1) := by
    rw [freshCounters, hd]
    rfl
  have hreq : reqView (writeWindows s) = reqView s := reqView_of_flash ⟨hw.proj flashView fun _ _ => rfl, hwr⟩
  unfold cfgreadOp
  refine ⟨modDatum (freshCounters n.2 n.1).2 fun d => { d with cfgFresh := some (freshCounters n.2 n.1).1 }, ?_, ?_, serve_mailbox h _ _ ?_ ?_⟩
  · rw [hfresh]; rfl
  · rw [hfresh, he]; rfl
  · have hblk : cfgBlock (freshCounters n.2 n.1).2 = cfgBlock s := cfgBlock_congr (by rw [hfresh, he]; exact hub)
    rw [← hblk]
    refine Eq.trans (b := (0, toBytes 8 (freshCounters n.2 n.1).1.1 ++ toBytes 4 (freshCounters n.2 n.1).1.2
      ++ cfgBlock (freshCounters n.2 n.1).2, modDatum (freshCounters n.2 n.1).2 fun d => { d with cfgFresh := some (freshCounters n.2 n.1).1 })) rfl ?_
    rw [hfresh]
  · rw [hfresh, he]
    exact (reqView_of_flash hu).trans hreq

theorem cfgwriteOp_view {s : State} (h : asks s .mailbox 0x11) (hq : quiet s .dtm) (bytes : List Byte) (e : NorEv) :
    ∃ t, t.datum.bytes = flashPut s.datum.bytes cfgBase (bytes.take 4096) ∧ t.conf = s.conf
      ∧ dieView (cfgwriteOp s .mailbox bytes e) = dieView (answered t 0x11 0 []) := by
  have hv := norRewrite_view (s := s) (.of_quiet hq (by decide)) 1024 e
  have hb := flashView_proj (fun v => v.datum.bytes) (fun _ => rfl) hv.1
  have hconf := flashView_proj State.conf (fun _ => rfl) hv.1
  have hreq : ∀ (t : State) m, reqView (modDatum t fun d => { d with bytes := m }) = reqView t := fun _ _ => rfl
  unfold cfgwriteOp
  refine ⟨modDatum (norRewrite s 1024 e) fun d => { d with bytes := flashPut d.bytes cfgBase (bytes.take 4096) }, ?_, ?_,
    serve_mailbox h _ _ rfl ((hreq _ _).trans (reqView_of_flash hv))⟩
  · exact congrArg (fun m => flashPut m cfgBase (bytes.take 4096)) hb
  · exact hconf

end Sys2Proof.Machine

section
open Sys2Proof Sys2Proof.Machine

/-- Settles O52: a request is answered with what its effect gives, and the events that follow an answer change neither the answer nor
what the die and the configuration hold. -/
theorem datumLinks : Obligations.DatumLinks := by
  unfold Obligations.DatumLinks
  refine ⟨?_, ?_, ?_, ?_, ?_, ?_, ?_, ?_, ?_, ?_, ?_, ?_, ?_, ?_, ?_, ?_⟩
  · intro v s hk h0 hb
    refine answers_settled _ _ ?_
    rw [mailboxDoorOp_eq hk h0 hb, settle_dtm, settle_datum, settle_regs, settle_mem]
    exact ⟨rfl, rfl, rfl, rfl⟩
  · intro v s h
    have hc : (keyed v && v.toNat.testBit 0 && !s.dtm.busy) = false := by
      rcases h with h | h
      · rw [keyed, decide_eq_false h]; rfl
      · rw [h, Bool.not_true, Bool.and_false]
    exact congrArg (fun t => Host.Outcome.next (settle t)) (if_neg (by rw [hc]; decide))
  · intro f s hf hb
    obtain ⟨hdtm, hdatum, hmem, -⟩ := responded_fields s f true
    refine answers_settled _ _ ?_
    rw [mailboxResponseOp_eq hf hb, settle_dtm, settle_datum, settle_mem, settle_rbit, hdtm, hdatum, hmem]
    refine ⟨rfl, rfl, rfl, rbit_responded s f true, fun i hi => ?_, rfl⟩
    rw [settle_rn, rn_responded s f true hi]
  · intro s hb hq
    obtain ⟨hdtm, hword, hirq, hstat, hmem⟩ := mailboxTimeoutOp_effect hb hq
    refine answers_settled _ _ ?_
    rw [settle_dtm, settle_rn, settle_rbit, settle_rbit, settle_mem, hdtm]
    exact ⟨rfl, rfl, hword, hirq, hstat, hmem⟩
  · intro req s hh hr
    have he : portRequestOp s req = if portCodes.contains (req.headD 0).toNat then modDatum s fun d => { d with portReq := some req, portRes := none }
        else portAnswered (modDatum s fun d => { d with portReq := some req, portRes := none }) (req.headD 0).toNat
          (if requestCodes.contains (req.headD 0).toNat then 8 else 1) [] := if_pos (by simp [hh, hr])
    refine answers_settled _ _ ?_
    rw [he, settle_regs, settle_mem]
    split
    · exact ⟨settle_datum _, rfl, rfl⟩
    · exact ⟨replied_port rfl, rfl, rfl⟩
  · intro s hh
    have he : portResponseOp s = modDatum s fun d => { d with portOut := d.portRes.getD [], portRes := none } := if_pos hh
    refine answers_settled _ _ ?_
    rw [he, settle_datum, settle_regs, settle_mem]
    exact ⟨rfl, rfl, rfl⟩
  · intro s hh
    have he : portStatusOp s = modDatum (drawBytes s 1).2 fun d => { d with portOut := (drawBytes s 1).1 } := if_pos hh
    refine answers_settled _ _ ?_
    rw [he, settle_datum, settle_regs, settle_mem]
    exact ⟨rfl, rfl, rfl, rfl, rfl⟩
  · intro a b s h
    obtain ⟨t, hfl, hv⟩ := bootreqOp_view h a b
    have hrep := replied_mailbox hv
    refine answers_settled _ _ ⟨fun ha => ?_, fun ha hb => ?_, fun ha hb => ?_, (floors_of_view hv).trans hfl⟩
    · have hans : bootAnswer a b (vget s.datum.floors 0) = (0, 0 :: toBytes 4 a.entry) := if_pos ha
      rw [hans] at hrep
      exact hrep
    · have hans : bootAnswer a b (vget s.datum.floors 0) = (0, 1 :: toBytes 4 b.entry) := (if_neg ha).trans (if_pos hb)
      rw [hans] at hrep
      exact hrep
    · have hans : bootAnswer a b (vget s.datum.floors 0)
          = (if judge b (vget s.datum.floors 0) = 1 then 2 else judge b (vget s.datum.floors 0), []) := (if_neg ha).trans (if_neg hb)
      rw [hans] at hrep
      exact hrep
  · intro kind build sigOk s h hk hq
    have hv := datumVerifyOp_view h hk build sigOk
    refine ⟨answers_settled _ _ ⟨replied_mailbox hv, floors_of_view hv⟩, fun hj => ?_⟩
    have hr := datumVerifyOp_raises h hk hq hj
    have hf := (floors_of_view hr).trans (raiseFloor_view (.of_quiet hq (by decide)) _ build).2
    refine answers_settled _ _ ⟨replied_mailbox hr, ?_, ?_⟩
    · rw [hf]
      exact vget_raised_same _ _ build
    · rw [hf]
      exact vget_raised_ne _ (by split <;> decide) build
  · intro slot offset bytes e s h hq hs hb hl
    obtain ⟨t, ht, hv⟩ := fwwriteOp_view h hq e hs hb hl
    have hbytes := (bytes_of_view hv).trans ht
    refine answers_settled _ _ ⟨replied_mailbox hv, fun i hi => ?_, fun i hi ho => ?_⟩
    · rw [hbytes, tget_slotBytes_in s slot offset bytes hi]
    · rw [hbytes, tget_slotBytes_out s slot hi ho]
  · intro slot floor img s h hq hs hj
    have hv := fwcommitOp_view h hq hs hj floor
    refine answers_settled _ _ ⟨replied_mailbox hv, ?_⟩
    rw [floors_of_view hv]
    cases floor
    · rfl
    · refine (congrArg (fun v => vget v 0) (raiseFloor_view (.of_quiet hq (by decide)) 0 img.build).2).trans ?_
      exact vget_raised_same _ 0 img.build
  · intro fresh s h
    have hv : dieView (cfgreadOp s .port fresh) = dieView (portAnswered s 0x10 0 (cfgBlock s)) := serve_port h rfl _ rfl
    refine answers_settled _ _ ⟨replied_port hv, ?_⟩
    rw [settle_datum]
    exact congrArg (fun v : DatumSt × Conf => v.1.counters) hv
  · intro s h hq
    obtain ⟨t, hfresh, hlast, hv⟩ := cfgreadOp_fresh h hq
    refine answers_settled _ _ ⟨replied_mailbox hv, ?_, ?_⟩
    · rw [settle_datum]
      exact (congrArg (fun v : DatumSt × Conf => v.1.cfgFresh) hv).trans hfresh
    · rw [settle_datum]
      exact (congrArg (fun v : DatumSt × Conf => lastCounters v.1) hv).trans hlast
  · intro bytes e s h hq
    obtain ⟨t, hb, hc, hv⟩ := cfgwriteOp_view h hq bytes e
    refine answers_settled _ _ ⟨replied_mailbox hv, fun i hi h4 => ?_, ?_⟩
    · rw [bytes_of_view hv, hb, tget_flashPut_in _ _ _ (by rw [List.length_take]; omega)]
      simp [List.getD_eq_getElem?_getD, h4]
    · rw [settle_conf]
      exact (congrArg Prod.snd hv).trans hc
  · intro bytes e s h
    have he : cfgwriteOp s .port bytes e = portAnswered s 0x11 8 [] := serve_port_denied h rfl _
    refine answers_settled _ _ ?_
    rw [he]
    refine ⟨replied_port rfl, ?_, settle_conf _⟩
    rw [settle_datum]
    rfl
  · intro src s h
    cases src with
    | mailbox =>
      have hv : dieView (calreadOp s .mailbox) = dieView (answered s 0x12 0 calBytes) := serve_mailbox h _ _ rfl rfl
      exact answers_settled _ _ ⟨replied_mailbox hv, bytes_of_view hv⟩
    | port =>
      have hv : dieView (calreadOp s .port) = dieView (portAnswered s 0x12 0 calBytes) := serve_port h rfl _ rfl
      refine answers_settled _ _ ⟨replied_port hv, ?_⟩
      rw [settle_datum]
      exact congrArg (fun v : DatumSt × Conf => v.1.bytes) hv
end
end

section
/-! The clause of O20 on PERST# says that a function in D3hot is then in D3cold, in every state. It is not where the reaction to the
source LINKDOWN of the port's block is a block reset (R68, R534): PERST# first takes the link down, the reaction returns the port to
its reset values and with them its function to D0, and the power state that the assertion then finds is no longer D3hot. The statement
asks nothing of FREACT in this clause, as it does in those on a link error and on the link going down. -/

namespace Sys2Proof.Machine.PerstInD3hot

/-- The link of port A is up, its function in D3hot, and the reaction to LINKDOWN (2 in FREACT) is a block reset. -/
def d3hot : State :=
  modPort (rsetN State.reset (aFreact .hpa) (2 * 2 ^ 6)) .a fun x => { x with perst := false, linkUp := true, dstate := 3 }

/-- The block reset leaves D0, which PERST# keeps. -/
theorem dstate_after_perst : ((perstAssertOp d3hot .a).port .a).dstate = 0 := by decide +kernel

end Sys2Proof.Machine.PerstInD3hot
end

section
open Sys2Proof Sys2Proof.Machine Sys2Proof.Machine.PerstInD3hot

/-- Refutes O20: a block reset in reaction to LINKDOWN takes the function from D3hot to D0 before PERST# can leave it in D3cold. -/
theorem not_hostControllers : ¬ Obligations.HostControllers := by
  intro ⟨_, _, perst, _⟩
  obtain ⟨t, ht, _, _, _, _, _, _, _, hd⟩ := perst .a d3hot (by decide +kernel) (by decide +kernel)
  have hsettle : settle (perstAssertOp d3hot .a) = t := Host.Outcome.next.inj ht
  have hbefore : (d3hot.port .a).dstate = 3 := by decide +kernel
  have hafter : (t.port .a).dstate = 0 := by
    rw [← hsettle, State.port, settle_ports]
    exact dstate_after_perst
  rw [hbefore, hafter] at hd
  exact absurd hd (by decide)

end

section
/-! The end of a command where no other waits for a lock (R131, R142), and the events that end one (R116): they change nothing but the
command queue unit and the ports. -/

namespace Sys2Proof.Machine

/-! ### Lists and maps -/

theorem mem_tins {α : Type} {m : SMap α} {k : Nat} {v : α} {e : Nat × α} (h : e ∈ tins m k v) : e ∈ m ∨ e = (k, v) := by
  induction m with
  | nil => exact .inr (List.mem_singleton.mp h)
  | cons f rest ih =>
    obtain ⟨k', v'⟩ := f
    unfold tins at h
    split at h
    · rcases List.mem_cons.mp h with h | h
      · exact .inr h
      · exact .inl h
    · split at h
      · rcases List.mem_cons.mp h with h | h
        · exact .inr h
        · exact .inl (List.mem_cons_of_mem _ h)
      · rcases List.mem_cons.mp h with h | h
        · exact .inl (h ▸ List.mem_cons_self)
        · exact (ih h).imp_left (List.mem_cons_of_mem _)

theorem mem_tset {α : Type} [DecidableEq α] {d : α} {m : SMap α} {k : Nat} {v : α} {e : Nat × α} (h : e ∈ tset d m k v) :
    e ∈ m ∨ e = (k, v) := by
  unfold tset at h
  split at h
  · exact .inl (List.mem_filter.mp h).1
  · exact mem_tins h

section
variable {α : Type} {p : α → Bool} {f : α → α}

theorem find?_lmodFirst_same (hf : ∀ x, p (f x) = p x) (l : List α) : (lmodFirst p f l).find? p = (l.find? p).map f := by
  induction l with
  | nil => rfl
  | cons x rest ih =>
    by_cases hx : p x = true
    · simp [lmodFirst, hx, hf]
    · simp [lmodFirst, hx, ih]

theorem find?_lmodFirst_ne {q : α → Bool} (hf : ∀ x, q (f x) = q x) (hq : ∀ x, p x = true → q x = false) (l : List α) :
    (lmodFirst p f l).find? q = l.find? q := by
  induction l with
  | nil => rfl
  | cons x rest ih =>
    by_cases hx : p x = true
    · simp [lmodFirst, hx, hf, hq x hx]
    · simp only [lmodFirst, hx]
      simp [List.find?_cons, ih]

theorem mem_lmodFirst {x : α} {l : List α} (h : x ∈ lmodFirst p f l) : ∃ y ∈ l, x = y ∨ x = f y := by
  induction l with
  | nil => cases h
  | cons y rest ih =>
    by_cases hy : p y = true
    · rw [lmodFirst, if_pos hy] at h
      rcases List.mem_cons.mp h with h | h
      · exact ⟨y, List.mem_cons_self, .inr h⟩
      · exact ⟨x, List.mem_cons_of_mem _ h, .inl rfl⟩
    · rw [lmodFirst, if_neg hy] at h
      rcases List.mem_cons.mp h with h | h
      · exact ⟨y, List.mem_cons_self, .inl h⟩
      · obtain ⟨z, hz, he⟩ := ih h
        exact ⟨z, List.mem_cons_of_mem _ hz, he⟩

end

/-! ### No command waits for a lock -/

/-- No command is in LOCKWAIT. -/
def NoWaiters (s : State) : Prop := ∀ e ∈ s.cqu.tags, e.2.st ≠ .lockwait

theorem foldl_insertAseq_eq_nil (l acc : List (Nat × Nat)) :
    l.foldl (fun l e => insertAseq e l) acc = [] ↔ l = [] ∧ acc = [] := by
  induction l generalizing acc with
  | nil => simp
  | cons e rest ih =>
    have h : insertAseq e acc ≠ [] := by
      cases acc with
      | nil => simp [insertAseq]
      | cons f r =>
        rw [insertAseq]
        split <;> simp
    simp [ih, h]

theorem waiters_eq_nil (s : State) : waiters s = [] ↔ NoWaiters s := by
  simp [waiters, foldl_insertAseq_eq_nil, NoWaiters, List.filter_eq_nil_iff]

/-- `s` with all blanked that the end of a command can change where no command waits for a lock. -/
def endView (s : State) : State := { s with cqu := CquSt.reset, ports := Vector.replicate 2 PortSt.reset }

theorem endView_proj {β : Type} {s t : State} (f : State → β) (hf : ∀ u, f (endView u) = f u) (h : endView t = endView s) : f t = f s := by
  rw [← hf t, h, hf]

/-- From `s` to `t` nothing but the command queue unit and the ports has changed, and still no command waits for a lock. -/
def EndsCalm (s t : State) : Prop := NoWaiters s → endView t = endView s ∧ NoWaiters t

namespace EndsCalm

theorem refl (s : State) : EndsCalm s s := fun h => ⟨rfl, h⟩

theorem trans {s t u : State} (h : EndsCalm s t) (h' : EndsCalm t u) : EndsCalm s u := fun hs =>
  ⟨(h' (h hs).2).1.trans (h hs).1, (h' (h hs).2).2⟩

theorem ite {s t u : State} {c : Prop} [Decidable c] (ht : EndsCalm s t) (hu : EndsCalm s u) : EndsCalm s (if c then t else u) := by
  split
  · exact ht
  · exact hu

/-- What leaves the tags changes no command's state. -/
theorem of_tags {s t : State} (hv : endView t = endView s) (ht : t.cqu.tags = s.cqu.tags) : EndsCalm s t := fun h =>
  ⟨hv, fun e he => h e (ht ▸ he)⟩

theorem modPort (s : State) (p : Port) (f : PortSt → PortSt) : EndsCalm s (modPort s p f) := of_tags rfl rfl

theorem compq (s : State) (l : List Nat) : EndsCalm s { s with cqu := { s.cqu with compq := l } } := of_tags rfl rfl

theorem setTag (s : State) (t : Nat) {x : Tag} (hx : x.st ≠ .lockwait) : EndsCalm s (setTag s t x) := fun h =>
  ⟨rfl, fun e he => by
    rcases mem_tset he with he | rfl
    · exact h e he
    · exact hx⟩

theorem freeTagNow (s : State) (t : Nat) : EndsCalm s (freeTagNow s t) := by
  refine (setTag s t (x := Tag.free) (by decide)).trans fun h => ⟨rfl, fun e he => ?_⟩
  obtain ⟨e', he', rfl⟩ := List.mem_map.mp he
  have h' := h e' he'
  split <;> exact h'

theorem postOne (s : State) (held : List (Port × Nat)) (t : Nat) : EndsCalm s (postOne s held t).2 := by
  unfold Machine.postOne
  dsimp only
  split
  · exact refl s
  · split
    · exact refl s
    · exact (modPort _ _ _).trans (freeTagNow _ _)

theorem postAll (l : List Nat) (s : State) (held : List (Port × Nat)) : EndsCalm s (postAll s held l) := by
  induction l generalizing s held with
  | nil => exact refl s
  | cons t rest ih => exact (postOne s held t).trans (ih _ _)

theorem postCompletions (s : State) : EndsCalm s (postCompletions s) :=
  ite (refl s) ((postAll _ _ _).trans (postAll _ _ _))

theorem releaseWaiters (s : State) : EndsCalm s (releaseWaiters s) := fun h => by
  rw [Machine.releaseWaiters, (waiters_eq_nil s).mpr h]
  exact ⟨rfl, h⟩

theorem locksChanged (s : State) : EndsCalm s (locksChanged s) :=
  (releaseWaiters s).trans ((releaseWaiters _).trans (postCompletions _))

theorem settleRdy (s : State) (p : Port) : EndsCalm s (settleRdy s p) := ite (modPort _ _ _) (refl s)

/-- R142: a command that succeeds. -/
theorem complete (s : State) (t dw0 : Nat) : EndsCalm s (complete s t scOk dw0) := by
  have hdrop : EndsCalm s (dropLocks s t fun _ => false) := of_tags rfl rfl
  unfold Machine.complete
  rw [if_pos rfl]
  dsimp only
  split
  · exact hdrop.trans ((ite (freeTagNow _ _) (refl _)).trans ((locksChanged _).trans (settleRdy _ _)))
  · exact hdrop.trans ((setTag _ t (by intro h; cases h)).trans ((compq _ _).trans (locksChanged _)))

/-! ### Events (R116) -/

theorem giveAen (s : State) (p : Port) (t : Nat) (e : Aen) : EndsCalm s (giveAen s p t e) :=
  (modPort s p _).trans (complete _ _ _)

theorem postAen (s : State) (p : Port) (e : Aen) : EndsCalm s (postAen s p e) := by
  unfold Machine.postAen
  dsimp only
  generalize hw : (if (decide (e.ty = 7) && decide ((s.port p).dstate = 4)) = true then Machine.modPort s p fun x => { x with wake := true }
    else s) = u
  have hu : EndsCalm s u := hw ▸ ite (modPort s p _) (refl s)
  split
  · exact hu.trans (ite (modPort _ _ _) (giveAen _ _ _ _))
  · exact hu.trans (modPort _ _ _)

theorem smartOn (s : State) (p : Port) (bit info : Nat) : EndsCalm s (smartOn s p bit info) := ite (postAen s p _) (refl s)

theorem smartEvent (s : State) (bit info : Nat) : EndsCalm s (smartEvent s bit info) :=
  (smartOn s .a bit info).trans (ite (refl _) (smartOn _ _ _ _))

theorem postNs (s : State) (n : Ns) (e : Aen) : EndsCalm s (postNs s n e) :=
  (ite (postAen s .a e) (refl s)).trans (ite (postAen _ _ _) (refl _))

end EndsCalm

end Sys2Proof.Machine
end

section
/-! Recovery, relocation, patrol, refresh and the replay after a power failure (R65, R115, R118, R181, R264–R270, R280–R287, R290). -/

namespace Sys2Proof.Machine

/-! ### The Unrecoverable Object log and the critical warning -/

/-- What the events of a poisoned chunk or of a critical warning leave: the map, memory, registers and ladders. -/
def logView (s : State) : SMap Chunk × Memory × List Ladder := (s.obj.chunks, s.mem, s.ladders)

theorem setWarning_ends (s : State) (bit : Fin 5) (info : Nat) :
    NoWaiters s → endView (setWarning s bit info) = endView { s with obj := { s.obj with critWarn := s.obj.critWarn ||| (1 <<< bit.val) } }
      ∧ NoWaiters (setWarning s bit info) := by
  intro h
  unfold setWarning
  split
  next hb =>
    have hc : s.obj.critWarn ||| (1 <<< bit.val) = s.obj.critWarn := by
      revert hb
      generalize s.obj.critWarn = w
      revert w bit
      decide
    rw [hc]
    exact ⟨rfl, h⟩
  next => exact EndsCalm.smartEvent { s with obj := { s.obj with critWarn := s.obj.critWarn ||| (1 <<< bit.val) } } _ _ h

theorem logView_addUnrec {s : State} (h : NoWaiters s) (slot handle cause chunk unit maddr : Nat) :
    logView (addUnrec s slot handle cause chunk unit maddr) = logView s := by
  unfold addUnrec
  split
  · rfl
  next n _ =>
    dsimp only
    generalize hu : ({ s with obj := { s.obj with unrec := _, unrecNext := _ } } : State) = u
    have hn : NoWaiters u := hu ▸ h
    obtain ⟨hw, hwn⟩ := setWarning_ends u 2 0 hn
    obtain ⟨hp, -⟩ := EndsCalm.postNs (setWarning u 2 0) n { ty := 7, info := 0, log := 0xC0 } hwn
    refine (endView_proj logView (fun _ => rfl) (hp.trans hw)).trans ?_
    rw [← hu]
    rfl

theorem chunkAt_putChunk_same (s : State) (k : Nat) (c : Chunk) : chunkAt (putChunk s k c) k = c := tget_tset_same _ _ _ _

theorem chunkAt_putChunk_ne (s : State) {j k : Nat} (c : Chunk) (h : j ≠ k) : chunkAt (putChunk s k c) j = chunkAt s j :=
  tget_tset_ne _ _ _ _ h

theorem chunkAt_congr {s t : State} (h : t.obj.chunks = s.obj.chunks) (k : Nat) : chunkAt t k = chunkAt s k := by
  rw [chunkAt, chunkAt, h]

/-- A chunk that owns a unit on media has a live version there. -/
theorem count_of_ownerOf {s : State} {maddr key : Nat} (h : ownerOf s maddr = some key) (hs : (chunkAt s key).staged = false) :
    (chunkAt s key).count ≠ 0 := by
  obtain ⟨e, he, rfl⟩ := Option.map_eq_some_iff.mp h
  have hc := List.find?_some he
  rw [placedAt, if_neg (by simp [hs])] at hc
  simp only [covers, Bool.and_eq_true, decide_eq_true_eq] at hc
  omega

/-- R118, R281: the version that owns the unit is poisoned, and nothing else of the map changes. -/
theorem declareUnrec_owned {s : State} {maddr key : Nat} (ho : ownerOf s maddr = some key) (hs : (chunkAt s key).staged = false)
    (h : NoWaiters s) (cause : Nat) :
    logView (declareUnrec s maddr cause) = logView (putChunk s key { chunkAt s key with poison := true, dirty := true }) := by
  have hp : poisonChunk s key = putChunk s key { chunkAt s key with poison := true, dirty := true } :=
    if_neg (count_of_ownerOf ho hs)
  unfold declareUnrec
  rw [ho]
  dsimp only
  rw [if_neg (by simp [hs]), hp]
  exact logView_addUnrec (s := putChunk s key { chunkAt s key with poison := true, dirty := true }) h _ _ _ _ _ _

/-! ### Ladders -/

/-- R287: a band marked for refresh is due within the days given. -/
theorem note_markRefresh (s : State) (bk days : Nat) : ∃ d, d ≤ days
    ∧ tget BandNote.none (markRefresh s bk days).bands bk = { tget BandNote.none s.bands bk with refreshDays := some d } := by
  cases hx : (tget BandNote.none s.bands bk).refreshDays with
  | none => exact ⟨days, Nat.le_refl _, by simp [markRefresh, hx]⟩
  | some x => exact ⟨min x days, Nat.min_le_right _ _, by simp [markRefresh, hx]⟩

theorem maddr_of_ladderAt {s : State} {m : Nat} {l : Ladder} (h : ladderAt s m = some l) : l.maddr = m := by
  simpa using List.find?_some h

theorem ladderAt_modLadder_same (s : State) (m : Nat) {f : Ladder → Ladder} (hf : ∀ l, (f l).maddr = l.maddr) :
    ladderAt (modLadder s m f) m = (ladderAt s m).map f :=
  find?_lmodFirst_same (p := fun l : Ladder => decide (l.maddr = m)) (fun l => by rw [hf]) s.ladders

theorem ladderAt_modLadder_ne (s : State) {m m' : Nat} (h : m' ≠ m) {f : Ladder → Ladder} (hf : ∀ l, (f l).maddr = l.maddr) :
    ladderAt (modLadder s m' f) m = ladderAt s m :=
  find?_lmodFirst_ne (p := fun l : Ladder => decide (l.maddr = m')) (q := fun l : Ladder => decide (l.maddr = m)) (fun l => by rw [hf])
    (fun l hl => by simpa [of_decide_eq_true hl] using h) s.ladders

theorem ladderAt_endLadder (s : State) (m : Nat) : ladderAt (endLadder s m) m = none := by
  have hf : (s.ladders.filter fun l => decide (l.maddr ≠ m)).find? (fun l => decide (l.maddr = m)) = none := by
    rw [List.find?_eq_none]
    intro l hl
    simpa using (List.mem_filter.mp hl).2
  unfold endLadder
  dsimp only
  split
  · refine List.find?_eq_none.mpr fun l hl => ?_
    obtain ⟨y, hy, he⟩ := mem_lmodFirst hl
    have hy' := List.find?_eq_none.mp hf y hy
    rcases he with rfl | rfl <;> exact hy'
  · exact hf

/-- `s` with the ladders blanked. -/
def unladdered (s : State) : State := { s with ladders := [] }

theorem unladdered_endLadder (s : State) (m : Nat) : unladdered (endLadder s m) = unladdered s := by
  unfold endLadder
  dsimp only
  split <;> rfl

theorem busRest_returnRec (s : State) (l : Ladder) : busRest (returnRec s l) = busRest s := by
  have hread : ∀ t a, busRest (busReadNat t 0 a 4).2 = busRest t := fun t a => by
    unfold busReadNat
    have h := busRest_busRead t 0 a 4 none
    split <;> simp_all
  unfold returnRec
  split
  · rfl
  next r _ =>
    have h := hread s (recBase r)
    split
    next u he =>
      rw [he] at h
      exact (busRest_busWriteNat _ _ _ _ _).trans h
    next u he =>
      rw [he] at h
      exact h

/-- R270, R287: a ladder that ends with its unit recovered leaves the map and the media. -/
theorem ladderRecovered_fields (s : State) (l : Ladder) :
    (ladderRecovered s l).obj.chunks = s.obj.chunks ∧ (ladderRecovered s l).media = s.media
      ∧ (6 ≤ l.step → (tget BandNote.none (ladderRecovered s l).bands (bandKey (maddrSpindle l.maddr) (maddrBand l.maddr))).refreshDays = some 0) := by
  have hr := busRest_returnRec s l
  have hc : (returnRec s l).obj.chunks = s.obj.chunks := busRest_proj (fun u => u.obj.chunks) (fun _ => rfl) hr
  have hm : (returnRec s l).media = s.media := busRest_proj State.media (fun _ => rfl) hr
  have he : ∀ {β : Type} (f : State → β), (∀ u, f (unladdered u) = f u) → ∀ t, f (endLadder t l.maddr) = f t := fun f hf t => by
    rw [← hf, unladdered_endLadder, hf]
  unfold ladderRecovered
  dsimp only
  rw [he (fun u => u.obj.chunks) (fun _ => rfl), he State.media (fun _ => rfl), he State.bands (fun _ => rfl)]
  by_cases h6 : 6 ≤ l.step
  · rw [if_pos h6]
    obtain ⟨d, hd, hn⟩ := note_markRefresh (returnRec s l) (bandKey (maddrSpindle l.maddr) (maddrBand l.maddr)) 0
    rw [hn, Nat.le_zero.mp hd]
    exact ⟨hc, hm, fun _ => rfl⟩
  · rw [if_neg h6]
    exact ⟨hc, hm, fun h => absurd h h6⟩

theorem ladderAt_ladderRecovered (s : State) (l : Ladder) : ladderAt (ladderRecovered s l) l.maddr = none := ladderAt_endLadder _ _

theorem ladderStepOp_passed {s : State} {maddr : Nat} {l : Ladder} (hl : ladderAt s maddr = some l) (hw : l.waiting = false)
    (h5 : l.step ≤ 5) : ladderStepOp s maddr .passed = ladderRecovered s l := by
  simp [ladderStepOp, hl, hw, when, h5]

theorem ladderStepOp_rebuilt {s : State} {maddr : Nat} {l : Ladder} (hl : ladderAt s maddr = some l) (hw : l.waiting = false)
    (h6 : 6 ≤ l.step) (info : List Byte) :
    ladderStepOp s maddr (.rebuilt info) = if recoveredOk s maddr info then ladderRecovered s l else ladderFailed s l := by
  have h5 : ¬ l.step ≤ 5 := by omega
  simp [ladderStepOp, hl, hw, when, h5]

theorem ladderStepOp_failed {s : State} {maddr : Nat} {l : Ladder} (hl : ladderAt s maddr = some l) (hw : l.waiting = false) :
    ladderStepOp s maddr .failed = ladderFailed s l := by
  simp [ladderStepOp, hl, hw, when]

/-- R266: a step that fails goes on to the next. -/
theorem ladderFailed_next {s : State} {m : Nat} {l : Ladder} (hl : ladderAt s m = some l) (h : l.step < lastStep s) :
    (∃ l', ladderAt (ladderFailed s l) m = some l' ∧ l'.step = l.step + 1 ∧ l'.tags = l.tags)
      ∧ (ladderFailed s l).obj.chunks = s.obj.chunks := by
  obtain rfl := maddr_of_ladderAt hl
  have hu : ∀ u : State, busRest u = busRest s →
      let t := modLadder u l.maddr fun l => { l with step := l.step + 1, recIdx := if l.step = 5 then none else l.recIdx }
      (∃ l', ladderAt t l.maddr = some l' ∧ l'.step = l.step + 1 ∧ l'.tags = l.tags) ∧ t.obj.chunks = s.obj.chunks := by
    intro u hb
    have hladder : ladderAt u l.maddr = some l := by
      rw [ladderAt, busRest_proj State.ladders (fun _ => rfl) hb]
      exact hl
    have hc : u.obj.chunks = s.obj.chunks := busRest_proj (fun v => v.obj.chunks) (fun _ => rfl) hb
    refine ⟨⟨{ l with step := l.step + 1, recIdx := if l.step = 5 then none else l.recIdx }, ?_, rfl, rfl⟩, hc⟩
    refine (ladderAt_modLadder_same u l.maddr ?_).trans ?_
    · exact fun _ => rfl
    · rw [hladder]
      rfl
  unfold ladderFailed
  rw [if_pos h]
  dsimp only
  split
  · exact hu _ (busRest_returnRec s l)
  · exact hu s rfl

/-- R281: at the last step the version that owns the unit is poisoned. -/
theorem ladderFailed_last {s : State} {m key : Nat} {l : Ladder} (hl : ladderAt s m = some l) (h : lastStep s ≤ l.step)
    (ho : ownerOf s m = some key) (hs : (chunkAt s key).staged = false) (hw : NoWaiters s) :
    ladderAt (ladderFailed s l) m = none ∧ (ladderFailed s l).obj.chunks
        = (putChunk s key { chunkAt s key with poison := true, dirty := true }).obj.chunks ∧ (ladderFailed s l).mem = s.mem := by
  have hm := maddr_of_ladderAt hl
  have hmoot : ladderMoot s l = false := by
    rw [ladderMoot, hm, ho]
    exact hs
  have he : ladderFailed s l = endLadder (declareUnrec s m l.cause) m := by
    rw [ladderFailed, if_neg (by omega), hmoot, hm]
    rfl
  have hv := declareUnrec_owned ho hs hw l.cause
  have hk : ∀ {β : Type} (f : State → β), (∀ u, f (unladdered u) = f u) → f (endLadder (declareUnrec s m l.cause) m) = f (declareUnrec s m l.cause) :=
    fun f hf => by rw [← hf, unladdered_endLadder, hf]
  rw [he, hk (fun u => u.obj.chunks) (fun _ => rfl), hk State.mem (fun _ => rfl)]
  exact ⟨ladderAt_endLadder _ _, congrArg (fun v => v.1) hv, congrArg (fun v => v.2.1) hv⟩

/-! ### Commands off the ladder (R268) -/

theorem tagAt_modTag_same (s : State) (t : Nat) (f : Tag → Tag) : tagAt (modTag s t f) t = f (tagAt s t) := tget_tset_same _ _ _ _

theorem tagAt_modTag_ne (s : State) {t k : Nat} (f : Tag → Tag) (h : k ≠ t) : tagAt (modTag s t f) k = tagAt s k := tget_tset_ne _ _ _ _ h

/-- What commands taken off their ladders leave: all but the ladders and the tags. -/
def ladderView (s : State) : State := { s with ladders := [], cqu := { s.cqu with tags := [] } }

theorem ladderView_proj {β : Type} {s t : State} (f : State → β) (hf : ∀ u, f (ladderView u) = f u) (h : ladderView t = ladderView s) :
    f t = f s := by rw [← hf t, h, hf]

/-- A command given a result: one that it has stays, else it is the one of R268. -/
def givenResult (x : Tag) (bad : List Nat) : Tag :=
  { x with
    bad := x.bad ++ bad, sct := if x.sc = 0 then scUnrecovered.1 else x.sct, sc := if x.sc = 0 then scUnrecovered.2 else x.sc }

/-- The result of a command once it has been given one, and once more. -/
theorem givenResult_sc (x : Tag) (bad : List Nat) :
    (x.sc = 0 → (givenResult x bad).sct = 2 ∧ (givenResult x bad).sc = 0x81)
      ∧ (x.sct = 2 ∧ x.sc = 0x81 → (givenResult x bad).sct = 2 ∧ (givenResult x bad).sc = 0x81) := by
  refine ⟨fun h => ?_, fun h => ?_⟩
  · simp [givenResult, h, scUnrecovered]
  · simp [givenResult, h.1, h.2]

/-- The command has the result of R268. -/
def Unrecovered (s : State) (k : Nat) : Prop := (tagAt s k).sct = 2 ∧ (tagAt s k).sc = 0x81

/-- The commands of a list given a result: one of them whose result was 0 has that of R268, which stays. -/
theorem overGiven_tag (l : List Nat) (bad : List Nat) (s : State) {k : Nat} (h : Unrecovered s k ∨ (tagAt s k).sc = 0 ∧ k ∈ l) :
    Unrecovered (overList l s fun s t => modTag s t fun x => givenResult x bad) k := by
  induction l generalizing s with
  | nil => exact h.resolve_right fun h => List.not_mem_nil h.2
  | cons t rest ih =>
    refine ih _ ?_
    by_cases hk : k = t
    · subst hk
      obtain ⟨hzero, hset⟩ := givenResult_sc (tagAt s k) bad
      rw [Unrecovered, tagAt_modTag_same]
      exact .inl (h.elim hset fun h => hzero h.1)
    · rw [Unrecovered, tagAt_modTag_ne s _ hk]
      exact h.imp_right fun ⟨h0, hm⟩ => ⟨h0, (List.mem_cons.mp hm).resolve_left hk⟩

theorem giveUp_eq (s : State) (l : Ladder) :
    giveUp s l scUnrecovered = modLadder (overList l.tags s fun u t => modTag u t fun x => givenResult x (ownerOf s l.maddr).toList) l.maddr
      fun l => { l with tags := [], background := true } := rfl

theorem giveUp_view (s : State) (l : Ladder) : ladderView (giveUp s l scUnrecovered) = ladderView s :=
  overList_keeps ladderView l.tags s (fun u t => modTag u t fun x => givenResult x (ownerOf s l.maddr).toList) fun _ _ => rfl

theorem giveUp_tag {s : State} {l : Ladder} {k : Nat} (hk : k ∈ l.tags) (h : Unrecovered s k ∨ (tagAt s k).sc = 0) :
    Unrecovered (giveUp s l scUnrecovered) k :=
  overGiven_tag l.tags (ownerOf s l.maddr).toList s (h.imp_right fun h0 => ⟨h0, hk⟩)

/-- R268: the ladder goes on in the background, without commands; others are as they were. -/
theorem giveUp_ladder {s : State} {m : Nat} {x : Ladder} (h : ladderAt s m = some x) (l : Ladder) :
    ladderAt (giveUp s l scUnrecovered) m = some (if l.maddr = m then { x with tags := [], background := true } else x) := by
  have hs : ∀ u : State, u.ladders = s.ladders → ladderAt u m = some x := fun u hu => by rw [ladderAt, hu]; exact h
  have hl : (overList l.tags s fun u t => modTag u t fun x => givenResult x (ownerOf s l.maddr).toList).ladders = s.ladders :=
    overList_keeps State.ladders _ _ _ fun _ _ => rfl
  rw [giveUp_eq]
  by_cases hm : l.maddr = m
  · rw [if_pos hm, hm]
    refine (ladderAt_modLadder_same _ m ?_).trans ?_
    · exact fun _ => rfl
    · rw [hs _ (hm ▸ hl)]
      rfl
  · rw [if_neg hm]
    refine (ladderAt_modLadder_ne _ hm ?_).trans (hs _ hl)
    exact fun _ => rfl

/-- The ladders that stop for a command. -/
def stoppedFor (s : State) (ls : List Ladder) : State := overList ls s fun s l => giveUp s l scUnrecovered

theorem stoppedFor_view (s : State) (ls : List Ladder) : ladderView (stoppedFor s ls) = ladderView s :=
  overList_keeps ladderView ls s _ giveUp_view

theorem stoppedFor_tag (ls : List Ladder) (s : State) {k : Nat} (hk : ∀ l ∈ ls, k ∈ l.tags)
    (h : Unrecovered s k ∨ (tagAt s k).sc = 0 ∧ ls ≠ []) : Unrecovered (stoppedFor s ls) k := by
  induction ls generalizing s with
  | nil => exact h.resolve_right fun h => h.2 rfl
  | cons l rest ih =>
    exact ih _ (fun l' h' => hk l' (List.mem_cons_of_mem _ h'))
      (.inl (giveUp_tag (hk l List.mem_cons_self) (h.imp_right And.left)))

theorem stoppedFor_ladder (ls : List Ladder) (s : State) {m : Nat} {x : Ladder} (hx : ladderAt s m = some x)
    (h : x.tags = [] ∧ x.background = true ∨ ∃ l ∈ ls, l.maddr = m) :
    ∃ l', ladderAt (stoppedFor s ls) m = some l' ∧ l'.tags = [] ∧ l'.background = true ∧ l'.step = x.step := by
  induction ls generalizing s x with
  | nil =>
    obtain ⟨ht, hb⟩ := h.resolve_right fun ⟨l, hl, _⟩ => List.not_mem_nil hl
    exact ⟨x, hx, ht, hb, rfl⟩
  | cons l rest ih =>
    have hg := giveUp_ladder hx l
    by_cases hm : l.maddr = m
    · rw [if_pos hm] at hg
      obtain ⟨l', hl', ht, hb, hs⟩ := ih (giveUp s l scUnrecovered) hg (.inl ⟨rfl, rfl⟩)
      exact ⟨l', hl', ht, hb, hs⟩
    · rw [if_neg hm] at hg
      refine ih _ hg (h.imp_right fun ⟨l', hl', he⟩ => ⟨l', ?_, he⟩)
      exact (List.mem_cons.mp hl').resolve_left fun e => hm (e ▸ he)

/-! ### Relocation (R171, R280) -/

theorem cond_keeps {β : Type} {p : State → β} {c : Prop} [Decidable c] {s t : State} {x : β} (hs : p s = x) (ht : p t = x) :
    p (if c then s else t) = x := by
  split
  · exact hs
  · exact ht

section
variable {β : Type} {p : State → β} (hlat : ∀ (s : State) x, p { s with lat := x } = p s)
  (hmedia : ∀ (s : State) x, p { s with media := x } = p s) (hbus : ∀ (s : State) m a n v, p (busWriteNat s m a n v).2 = p s)

include hlat

theorem openFor_keeps (s : State) (maddr : Nat) : p (openFor s maddr) = p s := by
  unfold openFor openGroup
  split
  · split
    · exact hlat _ _
    · rfl
  · rfl

include hmedia hbus

theorem placeUnit_keeps (s : State) (spindle band slot : Nat) (info : List Byte) : p (placeUnit s spindle band slot info) = p s := by
  have hset : p (setMediaSlot s spindle band slot info) = p s := by
    unfold setMediaSlot
    split
    · exact hmedia _ _
    · rfl
  have hgroup : ∀ (s : State) g f, p (modGroup s g f) = p s := fun s _ _ => hlat s _
  have himage : ∀ (s : State) g part q bs, p (addImage s g part q bs) = p s := fun s _ _ _ _ => hlat s _
  unfold placeUnit
  extract_lets media bus
  have hbus' : p bus = p s := (hbus _ _ _ _ _).trans hset
  obtain ⟨u, hu⟩ : ∃ u, u = bus := ⟨bus, rfl⟩
  rw [← hu] at hbus' ⊢
  refine cond_keeps hbus' ?_
  obtain ⟨o, ho⟩ : ∃ o, o = groupOf u spindle band := ⟨_, rfl⟩
  rw [← ho]
  cases o with
  | none => exact hbus'
  | some y =>
    exact (hgroup _ _ _).trans
      (cond_keeps ((himage _ _ _ _ _).trans ((himage _ _ _ _ _).trans hbus')) ((himage _ _ _ _ _).trans hbus'))

theorem placeChunk_keeps (hdur : ∀ (s : State) x, p { s with obj := { s.obj with durable := x } } = p s) (s : State) (key maddr : Nat) :
    ∃ t, p t = p s ∧ placeChunk s key maddr
      = putChunk t key { chunkAt s key with tier := 0, loc := locOfMaddr maddr, staged := false, dirty := true } := by
  refine ⟨_, (hdur _ _).trans ?_, rfl⟩
  exact (overList_keeps p _ _ _ fun _ _ => placeUnit_keeps hlat hmedia hbus _ _ _ _ _).trans (openFor_keeps hlat s maddr)

end

theorem chunks_putChunk {s t : State} (h : t.obj.chunks = s.obj.chunks) (key : Nat) (c : Chunk) :
    (putChunk t key c).obj.chunks = (putChunk s key c).obj.chunks := congrArg (fun m => tset Chunk.absent m key c) h

/-- R280: a version placed on media has its new place in the map, and no other entry changes. -/
theorem chunks_placeChunk (s : State) (key maddr : Nat) :
    (placeChunk s key maddr).obj.chunks
      = (putChunk s key { chunkAt s key with tier := 0, loc := locOfMaddr maddr, staged := false, dirty := true }).obj.chunks := by
  obtain ⟨t, ht, he⟩ := placeChunk_keeps (p := fun u => u.obj.chunks) (fun _ _ => rfl) (fun _ _ => rfl)
    (fun s m a n v => busRest_proj (fun u => u.obj.chunks) (fun _ => rfl) (busRest_busWriteNat s m a n v)) (fun _ _ => rfl) s key maddr
  rw [he]
  exact chunks_putChunk ht _ _

theorem relocateChunkOp_placed {s : State} {handle chunk maddr : Nat} (hc : (chunkAt s (chunkKey handle chunk)).count ≠ 0)
    (hs : (chunkAt s (chunkKey handle chunk)).staged = false) (hb : bandTakes s maddr (chunkAt s (chunkKey handle chunk)).count = true) :
    relocateChunkOp s handle chunk maddr = placeChunk s (chunkKey handle chunk) maddr := by
  have hfit : maddrUnit maddr + (chunkAt s (chunkKey handle chunk)).count ≤ dataSlots := by
    simp only [bandTakes, Bool.and_eq_true, decide_eq_true_eq] at hb
    exact hb.1.2
  unfold relocateChunkOp bringTo
  dsimp only
  rw [if_neg (by simp [hc, hs]), if_pos hfit, when, if_pos hb]

theorem relocateChunkOp_overwritten {s : State} {handle chunk : Nat} (hs : (chunkAt s (chunkKey handle chunk)).staged = true)
    (ht : tombAt s handle chunk = none) (maddr : Nat) : relocateChunkOp s handle chunk maddr = rcount s Reg.locCasfail 1 := by
  unfold relocateChunkOp
  dsimp only
  rw [if_pos (by simp [hs]), ht]

/-! ### Patrol (R284–R287) -/

/-- The note that a patrol leaves of a band. -/
def patrolNote (s : State) (bk hard soft : Nat) : State :=
  { s with bands := tset BandNote.none s.bands bk { tget BandNote.none s.bands bk with hard := hard, soft := soft } }

theorem patrolBandOp_eq {s : State} {i : Fin 8} {band : Nat} (hm : s.lat.mig.active = false) (ha : atSpeed s i = true)
    (hb : band < 2 ^ 21) (hard soft years : Nat) (deep : Bool) :
    patrolBandOp s i band hard soft years deep
      = if deep then markRefresh (patrolNote s (bandKey i band) hard soft) (bandKey i band) 0
        else if 8 ≤ hard || 2048 ≤ soft then markRefresh (patrolNote s (bandKey i band) hard soft) (bandKey i band) 7
        else if 8 ≤ years then markRefresh (patrolNote s (bandKey i band) hard soft) (bandKey i band) 30
        else patrolNote s (bandKey i band) hard soft := by
  unfold patrolBandOp
  rw [when, if_pos (by simp [hm, ha]), if_neg (by omega)]
  rfl

theorem markRefresh_fields (s : State) (bk days : Nat) : (markRefresh s bk days).regs = s.regs ∧ (markRefresh s bk days).mem = s.mem :=
  ⟨rfl, rfl⟩

/-- R286, R287: the note on a patrolled band. -/
theorem patrolBandOp_note {s : State} {i : Fin 8} {band : Nat} (hm : s.lat.mig.active = false) (ha : atSpeed s i = true)
    (hb : band < 2 ^ 21) (hard soft years : Nat) (deep : Bool) :
    ∃ r, tget BandNote.none (patrolBandOp s i band hard soft years deep).bands (bandKey i band)
        = { refreshDays := r, hard := hard, soft := soft }
      ∧ (deep = true → r = some 0) ∧ (8 ≤ hard → ∃ d, r = some d ∧ d ≤ 7)
      ∧ (patrolBandOp s i band hard soft years deep).regs = s.regs ∧ (patrolBandOp s i band hard soft years deep).mem = s.mem := by
  have hn : tget BandNote.none (patrolNote s (bandKey i band) hard soft).bands (bandKey i band)
      = { tget BandNote.none s.bands (bandKey i band) with hard := hard, soft := soft } := tget_tset_same _ _ _ _
  have hmark := fun days => note_markRefresh (patrolNote s (bandKey i band) hard soft) (bandKey i band) days
  rw [hn] at hmark
  rw [patrolBandOp_eq hm ha hb]
  cases deep with
  | true =>
    obtain ⟨d, hd, he⟩ := hmark 0
    have hd0 : d = 0 := Nat.le_zero.mp hd
    rw [if_pos rfl]
    exact ⟨some d, he, fun _ => by rw [hd0], fun _ => ⟨d, rfl, by omega⟩, markRefresh_fields _ _ _⟩
  | false =>
    rw [if_neg (by decide)]
    split
    · obtain ⟨d, hd, he⟩ := hmark 7
      exact ⟨some d, he, fun h => absurd h (by decide), fun _ => ⟨d, rfl, hd⟩, markRefresh_fields _ _ _⟩
    next hh =>
      have hlt : ¬ 8 ≤ hard := fun h => hh (by simp [h])
      split
      · obtain ⟨d, -, he⟩ := hmark 30
        exact ⟨some d, he, fun h => absurd h (by decide), fun h => absurd h hlt, markRefresh_fields _ _ _⟩
      · exact ⟨_, hn, fun h => absurd h (by decide), fun h => absurd h hlt, rfl, rfl⟩

theorem tlerExpireOp_stops {s : State} {k m : Nat} {l : Ladder} (ht : tlerOf s k ≠ 0) (hl : ladderAt s m = some l)
    (hk : l.tags.contains k = true) (h5 : l.step ≤ 5) :
    ((∃ l', ladderAt (tlerExpireOp s k) m = some l' ∧ l'.tags = [] ∧ l'.background = true ∧ l'.step = l.step)
        ∧ ((tagAt s k).sc = 0 → Unrecovered (tlerExpireOp s k) k)) ∧ ladderView (tlerExpireOp s k) = ladderView s := by
  have he : tlerExpireOp s k = stoppedFor s (s.ladders.filter fun l => l.tags.contains k && decide (l.step ≤ 5)) := by
    rw [tlerExpireOp, when, if_pos (decide_eq_true ht)]
    rfl
  have hmem : l ∈ s.ladders.filter fun l => l.tags.contains k && decide (l.step ≤ 5) :=
    List.mem_filter.mpr ⟨List.mem_of_find?_eq_some hl, by rw [hk, decide_eq_true h5]; rfl⟩
  rw [he]
  refine ⟨⟨stoppedFor_ladder _ s hl (.inr ⟨l, hmem, maddr_of_ladderAt hl⟩), fun h0 => stoppedFor_tag _ s (fun l' h' => ?_) (.inr ⟨h0, ?_⟩)⟩,
    stoppedFor_view s _⟩
  · exact List.contains_iff_mem.mp (Bool.and_eq_true_iff.mp (List.mem_filter.mp h').2).1
  · exact List.ne_nil_of_mem hmem

/-- R284: a patrol that falls behind starts its spindle. -/
theorem patrolSpinupOp_starts {s : State} {i : Fin 8} {behind : Nat} (hb : 7 < behind) (hq : s.pmu.waitQ = []) (hs : (s.spn i).st = .stopped)
    (hm : s.lat.mig.active = false) (hh : spnHears s i = true) (hf : (s.spn i).failed = false) :
    patrolSpinupOp s i behind = spnListen (rcount s (Reg.spnStarts i) 1) i := by
  rw [patrolSpinupOp, when, if_pos (by simp [hb, hq, hs, hm])]
  simp [spnStartOp, hh, hs, hf]

theorem spnListen_fields (s : State) (i : Fin 8) :
    ((spnListen s i).spn i).st = .listen ∧ (∀ j, j ≠ i → (spnListen s i).spn j = s.spn j) ∧ (spnListen s i).mem = s.mem := by
  refine ⟨by rw [spnListen, modSpn_spn], fun j hj => ?_, rfl⟩
  rw [spnListen, modSpn_spn_ne _ _ hj.symm]
  rfl

/-! ### Refresh -/

/-- From `s` to `t` versions have only gone to the buffer: each keeps its size and data. -/
def Buffered (s t : State) : Prop :=
  ∀ k, (chunkAt t k).count = (chunkAt s k).count ∧ (chunkAt t k).data = (chunkAt s k).data
    ∧ ((chunkAt s k).staged = true → (chunkAt t k).staged = true)

theorem Buffered.trans {s t u : State} (h : Buffered s t) (h' : Buffered t u) : Buffered s u := fun k => by
  obtain ⟨hc, hd, hs⟩ := h k
  obtain ⟨hc', hd', hs'⟩ := h' k
  exact ⟨hc'.trans hc, hd'.trans hd, fun h => hs' (hs h)⟩

theorem buffered_refl (s : State) : Buffered s s := fun _ => ⟨rfl, rfl, id⟩

theorem relocateToBuffer_eq {s : State} {key : Nat} (h : (chunkAt s key).count ≠ 0) :
    ∃ t, t.obj.chunks = s.obj.chunks ∧ relocateToBuffer s key = putChunk t key { chunkAt s key with staged := true, dirty := true } :=
  ⟨_, by dsimp only; split <;> rfl, if_neg h⟩

theorem relocateToBuffer_staged {s : State} {key : Nat} (h : (chunkAt s key).count ≠ 0) : (chunkAt (relocateToBuffer s key) key).staged = true := by
  obtain ⟨t, -, he⟩ := relocateToBuffer_eq h
  rw [he, chunkAt_putChunk_same]

theorem relocateToBuffer_buffered (s : State) (key : Nat) : Buffered s (relocateToBuffer s key) := fun k => by
  by_cases h : (chunkAt s key).count = 0
  · rw [relocateToBuffer, if_pos h]
    exact buffered_refl s k
  · obtain ⟨t, ht, he⟩ := relocateToBuffer_eq h
    rw [he]
    by_cases hk : k = key
    · subst hk
      rw [chunkAt_putChunk_same]
      exact ⟨rfl, rfl, fun _ => rfl⟩
    · rw [chunkAt_putChunk_ne _ _ hk, chunkAt_congr ht]
      exact buffered_refl s k

theorem relocateToBuffer_unchanged (s : State) (key : Nat) :
    (relocateToBuffer s key).regs = s.regs ∧ (relocateToBuffer s key).mem = s.mem := by
  unfold relocateToBuffer
  dsimp only
  split
  · exact ⟨rfl, rfl⟩
  · split <;> exact ⟨rfl, rfl⟩

theorem overBuffered (l : List Nat) (s : State) :
    Buffered s (overList l s relocateToBuffer)
      ∧ ∀ k ∈ l, (chunkAt s k).count ≠ 0 → (chunkAt (overList l s relocateToBuffer) k).staged = true := by
  induction l generalizing s with
  | nil => exact ⟨buffered_refl s, fun _ h => absurd h List.not_mem_nil⟩
  | cons key rest ih =>
    obtain ⟨hb, hs⟩ := ih (relocateToBuffer s key)
    have hkey := relocateToBuffer_buffered s key
    refine ⟨hkey.trans hb, fun k hk hc => ?_⟩
    rcases List.mem_cons.mp hk with rfl | hk
    · exact (hb k).2.2 (relocateToBuffer_staged hc)
    · exact hs k hk ((hkey k).1 ▸ hc)

/-- R287: a band given up changes the lattice only. -/
theorem releaseBand_keeps {β : Type} {p : State → β} (hlat : ∀ (s : State) x, p { s with lat := x } = p s) (s : State) (spindle band : Nat) :
    p (releaseBand s spindle band) = p s := by
  have hgroup : ∀ (s : State) g f, p (modGroup s g f) = p s := fun s _ _ => hlat s _
  have hdrop : ∀ (s : State) g, p (dropImages s g) = p s := fun s _ => hlat s _
  unfold releaseBand
  cases groupOf s spindle band with
  | none => rfl
  | some y => exact cond_keeps rfl (cond_keeps ((hdrop _ _).trans ((hgroup _ _ _).trans (hgroup _ _ _))) (hgroup _ _ _))

/-- The band is a member of a group under rebuild. -/
def inRebuild (s : State) (i : Fin 8) (band : Nat) : Bool :=
  match groupOf s i band with
  | some (g, _) => (groupAt s g).st = .rebuild
  | none => false

theorem inRebuild_eq_false {s : State} {i : Fin 8} {band : Nat} (hg : ∀ g j, groupOf s i band = some (g, j) → (groupAt s g).st ≠ .rebuild) :
    inRebuild s i band = false := by
  unfold inRebuild
  cases ho : groupOf s i band with
  | none => rfl
  | some y => exact decide_eq_false (hg y.1 y.2 ho)

theorem bandRefreshOp_eq (s : State) (i : Fin 8) (band : Nat) :
    bandRefreshOp s i band
      = when (!s.obj.readers.contains (i.val, band) && !inRebuild s i band
            && dirtyFits s (((chunksInBand s i band).map fun k => 4128 * (chunkAt s k).count).sum)) s fun s =>
          let t := overList (chunksInBand s i band) s relocateToBuffer
          releaseBand { t with bands := tset BandNote.none t.bands (bandKey i band) BandNote.none } i band := rfl

/-- R287: a refreshed band has its live versions in the buffer and no note left. -/
theorem bandRefreshOp_fields {s : State} {i : Fin 8} {band : Nat} (hr : s.obj.readers.contains (i.val, band) = false)
    (hg : ∀ g j, groupOf s i band = some (g, j) → (groupAt s g).st ≠ .rebuild)
    (hfit : dirtyFits s (((chunksInBand s i band).map fun k => 4128 * (chunkAt s k).count).sum) = true) :
    (∀ k ∈ chunksInBand s i band, (chunkAt s k).count ≠ 0 →
        (chunkAt (bandRefreshOp s i band) k).staged = true ∧ (chunkAt (bandRefreshOp s i band) k).data = (chunkAt s k).data)
      ∧ tget BandNote.none (bandRefreshOp s i band).bands (bandKey i band) = BandNote.none
      ∧ (bandRefreshOp s i band).regs = s.regs ∧ (bandRefreshOp s i band).mem = s.mem := by
  obtain ⟨u, hu⟩ : ∃ u, u = overList (chunksInBand s i band) s relocateToBuffer := ⟨_, rfl⟩
  have he : bandRefreshOp s i band = releaseBand { u with bands := tset BandNote.none u.bands (bandKey i band) BandNote.none } i band := by
    rw [bandRefreshOp_eq, when, if_pos (by rw [hr, hfit, inRebuild_eq_false hg]; rfl), hu]
  obtain ⟨hb, hs⟩ := overBuffered (chunksInBand s i band) s
  rw [← hu] at hb hs
  rw [he]
  have hc : ∀ k, chunkAt (releaseBand { u with bands := tset BandNote.none u.bands (bandKey i band) BandNote.none } i band) k = chunkAt u k :=
    chunkAt_congr (releaseBand_keeps (p := fun v => v.obj.chunks) (fun _ _ => rfl) _ _ _)
  refine ⟨fun k hk h0 => ?_, ?_, ?_, ?_⟩
  · rw [hc]
    exact ⟨hs k hk h0, (hb k).2.1⟩
  · rw [releaseBand_keeps (p := State.bands) (fun _ _ => rfl)]
    exact tget_tset_same BandNote.none u.bands (bandKey i band) BandNote.none
  · rw [releaseBand_keeps (p := State.regs) (fun _ _ => rfl), hu]
    exact overList_keeps State.regs _ _ _ fun t k => (relocateToBuffer_unchanged t k).1
  · rw [releaseBand_keeps (p := State.mem) (fun _ _ => rfl), hu]
    exact overList_keeps State.mem _ _ _ fun t k => (relocateToBuffer_unchanged t k).2

/-! ### The replay after a power failure (R65) -/

/-- A chunk of the record goes to the map; the version it replaces stays durable. -/
def replayed (s : State) (e : Nat × Chunk) : State :=
  let old := chunkAt s e.1
  putChunk (if old.count = 0 then s else { s with obj := { s.obj with durable := tset Chunk.absent s.obj.durable e.1 old } }) e.1 e.2

theorem replayed_eq (s : State) (e : Nat × Chunk) : ∃ d, replayed s e = putChunk { s with obj := { s.obj with durable := d } } e.1 e.2 := by
  unfold replayed
  dsimp only
  split
  · exact ⟨s.obj.durable, rfl⟩
  · exact ⟨_, rfl⟩

theorem chunkAt_replayed (s : State) (e : Nat × Chunk) (k : Nat) :
    chunkAt (replayed s e) k = if k = e.1 then e.2 else chunkAt s k := by
  obtain ⟨d, h⟩ := replayed_eq s e
  rw [h]
  split
  next hk => rw [hk, chunkAt_putChunk_same]
  next hk => exact chunkAt_putChunk_ne _ _ hk

theorem chunkAt_overReplayed_ne (rec : SMap Chunk) (s : State) {k : Nat} (h : k ∉ rec.map (·.1)) :
    chunkAt (overList rec s replayed) k = chunkAt s k := by
  induction rec generalizing s with
  | nil => rfl
  | cons e rest ih =>
    obtain ⟨hk, hrest⟩ := not_or.mp (List.mem_cons.not.mp h)
    exact (ih (replayed s e) hrest).trans ((chunkAt_replayed s e k).trans (if_neg hk))

theorem chunkAt_overReplayed_mem (rec : SMap Chunk) (s : State) (hn : (rec.map (·.1)).Nodup) {e : Nat × Chunk} (h : e ∈ rec) :
    chunkAt (overList rec s replayed) e.1 = e.2 := by
  induction rec generalizing s with
  | nil => exact absurd h List.not_mem_nil
  | cons f rest ih =>
    obtain ⟨hf, hrest⟩ := List.nodup_cons.mp hn
    rcases List.mem_cons.mp h with rfl | h
    · exact (chunkAt_overReplayed_ne rest _ hf).trans ((chunkAt_replayed s e e.1).trans (if_pos rfl))
    · exact ih (replayed s f) hrest h

/-- Start-up's part of the replay: BOOTSTAT and the zone tables. -/
theorem replayStages {s : State} (hz : ∀ i ∈ zonelessSpindles s, serves s i = false) :
    zoneStage (rootStage s) = if s.boot = .bufferReady then loadZones (rfSet s Reg.sysBootstat 0 8 13) else s := by
  by_cases h : s.boot = .bufferReady
  · have hf : (zonelessSpindles s).filter (fun i => serves s i) = [] := by
      simpa [List.filter_eq_nil_iff] using hz
    have hr : rootStage s = rfSet s Reg.sysBootstat 0 8 13 := if_pos h
    rw [if_pos h, hr, zoneStage, if_pos (show (rfSet s Reg.sysBootstat 0 8 13).boot = .bufferReady from h)]
    change overList ((zonelessSpindles s).filter fun i => serves s i) _ _ = _
    rw [hf]
    rfl
  · rw [if_neg h, rootStage, if_neg h, zoneStage, if_neg h]

theorem replayStages_fields {s : State} (hz : ∀ i ∈ zonelessSpindles s, serves s i = false) :
    regsSameBut s (zoneStage (rootStage s)) [Reg.sysBootstat] ∧ (zoneStage (rootStage s)).obj = s.obj ∧ (zoneStage (rootStage s)).mem = s.mem
      ∧ (zoneStage (rootStage s)).cqu = s.cqu ∧ (zoneStage (rootStage s)).ms = s.ms
      ∧ (s.boot = .bufferReady → rf (zoneStage (rootStage s)) Reg.sysBootstat 0 8 = 13 ∧ (zoneStage (rootStage s)).geom = (loadZones s).geom) := by
  rw [replayStages hz]
  split
  · exact ⟨fun a ha => rget_rfSet_ne s _ _ _ (by simpa using ha), rfl, rfl, rfl, rfl, fun _ => ⟨rf_rfSet_same s _ _ (by decide), rfl⟩⟩
  next h => exact ⟨fun _ _ => rfl, rfl, rfl, rfl, rfl, fun hb => absurd hb h⟩

/-- The replay after its start-up part. -/
def recordReplay (s : State) (ok : Bool) (missing : List (Nat × Nat)) : State :=
  match s.obj.pfRecord with
  | none => if rbit s Reg.sysRstcause 5 then setWarning s 4 0 else s
  | some rec =>
    when s.ms.ready s fun s =>
      let s := { s with obj := { s.obj with pfRecord := none } }
      if !ok then overList s.obj.nss s fun s n => addUnrec s n.slot (nsObject n.slot) 3 0xFFFF_FFFF_FFFF_FFFF 0xFFFF 0
      else
        let gone := missing.map fun e => chunkKey e.1 e.2
        overList missing (overList (rec.filter fun e => !gone.contains e.1) s replayed) fun s e => reportMissing s e.1 e.2

theorem powerFailReplayOp_eq (s : State) (ok : Bool) (missing : List (Nat × Nat)) :
    powerFailReplayOp s ok missing = recordReplay (zoneStage (rootStage s)) ok missing := rfl

theorem recordReplay_whole {s : State} {rec : SMap Chunk} (hr : s.obj.pfRecord = some rec) (hm : s.ms.ready = true) :
    recordReplay s true [] = overList rec { s with obj := { s.obj with pfRecord := none } } replayed := by
  have hf : (rec.filter fun e => !([] : List Nat).contains e.1) = rec := List.filter_eq_self.mpr fun _ _ => rfl
  unfold recordReplay
  rw [hr]
  dsimp only
  rw [when, if_pos hm, if_neg (by decide), List.map_nil, hf]
  rfl

theorem recordReplay_missing {s : State} (hr : s.obj.pfRecord = none) (hc : rbit s Reg.sysRstcause 5 = true) (ok : Bool)
    (missing : List (Nat × Nat)) : recordReplay s ok missing = setWarning s 4 0 := by
  unfold recordReplay
  rw [hr]
  exact if_pos hc

/-- R65: each chunk of the record is in the map, and no other changed. -/
theorem powerFailReplayOp_record {s : State} {rec : SMap Chunk} (hr : s.obj.pfRecord = some rec) (hm : s.ms.ready = true)
    (hn : (rec.map (·.1)).Nodup) (hz : ∀ i ∈ zonelessSpindles s, serves s i = false) :
    let t := powerFailReplayOp s true []
    t.obj.pfRecord = none ∧ (∀ e ∈ rec, chunkAt t e.1 = e.2) ∧ (∀ k, k ∉ rec.map (·.1) → chunkAt t k = chunkAt s k)
      ∧ (s.boot = .bufferReady → rf t Reg.sysBootstat 0 8 = 13 ∧ t.geom = (loadZones s).geom)
      ∧ regsSameBut s t [Reg.sysBootstat] ∧ t.mem = s.mem := by
  obtain ⟨hregs, hobj, hmem, -, hms, hboot⟩ := replayStages_fields hz
  have he : powerFailReplayOp s true [] = _ :=
    (powerFailReplayOp_eq s true []).trans (recordReplay_whole (by rw [hobj, hr]) (by rw [hms, hm]))
  generalize zoneStage (rootStage s) = u at *
  have hkeeps : ∀ {β : Type} (p : State → β), (∀ (s : State) x, p { s with obj := { s.obj with durable := x } } = p s) →
      (∀ (s : State) x, p { s with obj := { s.obj with chunks := x } } = p s) → ∀ v, p (overList rec v replayed) = p v :=
    fun p hd hc v => overList_keeps p _ _ _ fun t e => by
      obtain ⟨d, hd'⟩ := replayed_eq t e
      rw [hd']
      exact (hc _ _).trans (hd _ _)
  have hpf : ∀ v : State, (overList rec v replayed).obj.pfRecord = v.obj.pfRecord := hkeeps (fun v => v.obj.pfRecord) (fun _ _ => rfl) fun _ _ => rfl
  have hr' : ∀ v : State, (overList rec v replayed).regs = v.regs := hkeeps State.regs (fun _ _ => rfl) fun _ _ => rfl
  have hm' : ∀ v : State, (overList rec v replayed).mem = v.mem := hkeeps State.mem (fun _ _ => rfl) fun _ _ => rfl
  have hg' : ∀ v : State, (overList rec v replayed).geom = v.geom := hkeeps State.geom (fun _ _ => rfl) fun _ _ => rfl
  dsimp only
  rw [he]
  refine ⟨hpf _, fun e h => chunkAt_overReplayed_mem rec _ hn h, fun k hk => ?_, fun hb => ⟨?_, ?_⟩, ?_, (hm' _).trans hmem⟩
  · exact (chunkAt_overReplayed_ne rec _ hk).trans (chunkAt_congr (congrArg ObjSt.chunks hobj) k)
  · rw [← (hboot hb).1, rf, rf, rn, rn, rget, rget, hr']
  · rw [hg']
    exact (hboot hb).2
  · intro a ha
    rw [← hregs a ha, rget, rget, hr']

/-- R65: a power failure that left no record raises the warning of bit 4. -/
theorem powerFailReplayOp_noRecord {s : State} (hr : s.obj.pfRecord = none) (hc : rbit s Reg.sysRstcause 5 = true) (hw : calm s)
    (hz : ∀ i ∈ zonelessSpindles s, serves s i = false) (ok : Bool) (missing : List (Nat × Nat)) :
    let t := powerFailReplayOp s ok missing
    t.obj = { s.obj with critWarn := s.obj.critWarn ||| 16 } ∧ regsSameBut s t [Reg.sysBootstat] ∧ t.mem = s.mem := by
  obtain ⟨hregs, hobj, hmem, hcqu, -, -⟩ := replayStages_fields hz
  have hc' : rbit (zoneStage (rootStage s)) Reg.sysRstcause 5 = true := by
    rw [← hc, rbit, rbit, rn, rn, hregs Reg.sysRstcause (by decide)]
  have he := (powerFailReplayOp_eq s ok missing).trans (recordReplay_missing (by rw [hobj, hr]) hc' ok missing)
  have hnone : NoWaiters (zoneStage (rootStage s)) := by
    rw [NoWaiters, hcqu]
    exact (waiters_eq_nil s).mp hw.1
  obtain ⟨hv, -⟩ := setWarning_ends _ 4 0 hnone
  dsimp only
  rw [he]
  generalize zoneStage (rootStage s) = u at *
  refine ⟨?_, fun a ha => ?_, ?_⟩
  · rw [endView_proj State.obj (fun _ => rfl) hv, hobj]
    rfl
  · rw [← hregs a ha, rget, rget, endView_proj State.regs (fun _ => rfl) hv]
  · rw [endView_proj State.mem (fun _ => rfl) hv, ← hmem]

end Sys2Proof.Machine

section
open Sys2Proof Sys2Proof.Machine

/-- Settles O36: R268 of a time limit, R284 of a patrol's spin-up, R65 of the replay and the other clauses, each by the lemma that names its
outcome. -/
theorem recoveryAndPatrol : Obligations.RecoveryAndPatrol := by
  unfold Obligations.RecoveryAndPatrol
  have hladder : ∀ (s : State) m, ladderAt (settle s) m = ladderAt s m := fun s m => by rw [ladderAt, settle_ladders, ladderAt]
  have hchunk : ∀ (s : State) k, chunkAt (settle s) k = chunkAt s k := fun s k => chunkAt_congr (by rw [settle_obj]) k
  have htagAt : ∀ (s : State) k, tagAt (settle s) k = tagAt s k := fun s k => by rw [tagAt, settle_cqu, tagAt]
  refine ⟨?_, ?_, ?_, ?_, ?_, ?_, ?_, ?_, ?_, ?_, ?_, ?_, ?_⟩
  · intro maddr l s hl hw h5
    obtain rfl := maddr_of_ladderAt hl
    obtain ⟨hc, hm, -⟩ := ladderRecovered_fields s l
    refine answers_settled _ _ ?_
    rw [ladderStepOp_passed hl hw h5, hladder, settle_obj, settle_media]
    exact ⟨ladderAt_ladderRecovered s l, hc, hm⟩
  · intro maddr info l s hl hw h6 hok
    obtain rfl := maddr_of_ladderAt hl
    obtain ⟨hc, hm, hb⟩ := ladderRecovered_fields s l
    refine answers_settled _ _ ?_
    rw [ladderStepOp_rebuilt hl hw h6, if_pos hok, hladder, settle_obj, settle_media, settle_bands]
    exact ⟨ladderAt_ladderRecovered s l, hb h6, hc, hm⟩
  · intro maddr info l s hl hw h6 hok
    refine congrArg settled ?_
    rw [ladderStepOp_rebuilt hl hw h6, if_neg (by rw [hok]; decide), ladderStepOp_failed hl hw]
  · intro maddr l s hl hw hlast
    refine answers_settled _ _ ?_
    rw [ladderStepOp_failed hl hw, hladder, settle_obj]
    exact ladderFailed_next hl hlast
  · intro maddr key l s hl hw hlast ho hs hcalm
    obtain ⟨hgone, hc, hm⟩ := ladderFailed_last hl hlast ho hs ((waiters_eq_nil s).mp hcalm.1)
    refine answers_settled _ _ ?_
    rw [ladderStepOp_failed hl hw, hladder, settle_mem]
    refine ⟨hgone, ?_, fun j hj => ?_, hm⟩
    · rw [hchunk, chunkAt_congr hc, chunkAt_putChunk_same]
    · rw [hchunk, chunkAt_congr hc, chunkAt_putChunk_ne _ _ hj]
  · intro k m l s ht hl hk h5
    obtain ⟨⟨hgone, htag⟩, hv⟩ := tlerExpireOp_stops ht hl hk h5
    refine answers_settled _ _ ?_
    rw [hladder, htagAt, settle_obj, settle_regs, settle_mem]
    exact ⟨hgone, htag, ladderView_proj State.obj (fun _ => rfl) hv, ladderView_proj State.regs (fun _ => rfl) hv,
      ladderView_proj State.mem (fun _ => rfl) hv⟩
  · intro handle chunk newMaddr s hc hs hb
    refine answers_settled _ _ ?_
    rw [relocateChunkOp_placed hc hs hb]
    have hp := chunks_placeChunk s (chunkKey handle chunk) newMaddr
    refine ⟨?_, fun j hj => ?_⟩
    · rw [hchunk, chunkAt_congr hp, chunkAt_putChunk_same]
    · rw [hchunk, chunkAt_congr hp, chunkAt_putChunk_ne _ _ hj]
  · intro handle chunk newMaddr s hs ht
    refine answers_settled _ _ ?_
    rw [relocateChunkOp_overwritten hs ht, settle_rn, settle_obj, settle_media, settle_mem]
    refine ⟨(rn_rsetN_same s Reg.locCasfail ?_).trans ?_, rfl, rfl, rfl⟩
    · unfold satAdd
      omega
    · rfl
  · intro i band hard soft years deep s hm ha hb
    obtain ⟨r, hn, hdeep, hhard, hr, hmem⟩ := patrolBandOp_note hm ha hb hard soft years deep
    refine answers_settled _ _ ?_
    rw [settle_bands, settle_regs, settle_mem, hn]
    exact ⟨rfl, rfl, hdeep, hhard, hr, hmem⟩
  · intro i behind s hb hq hs hm hh hf
    obtain ⟨hst, hother, hmem⟩ := spnListen_fields (rcount s (Reg.spnStarts i) 1) i
    refine answers_settled _ _ ?_
    rw [patrolSpinupOp_starts hb hq hs hm hh hf, State.spn, settle_spns, ← State.spn, settle_mem]
    refine ⟨hst, fun j hj => ?_, hmem⟩
    rw [State.spn, settle_spns]
    exact hother j hj
  · intro i band s hr hg hfit
    obtain ⟨hk, hb, hregs, hmem⟩ := bandRefreshOp_fields hr hg hfit
    refine answers_settled _ _ ⟨fun k hk' h0 => ?_, ?_, ?_, ?_⟩
    · rw [hchunk]
      exact hk k hk' h0
    · rw [settle_bands, hb]
    · rw [settle_regs, hregs]
    · rw [settle_mem, hmem]
  · intro rec s hr hm hn hz
    obtain ⟨hpf, hin, hout, hboot, hregs, hmem⟩ := powerFailReplayOp_record hr hm hn hz
    refine answers_settled _ _ ⟨?_, fun e he => ?_, fun k hk => ?_, ?_, regsSameBut_settle hregs, ?_⟩
    · rw [settle_obj, hpf]
    · rw [hchunk, hin e he]
    · rw [hchunk, hout k hk]
    · rw [settle_rf, settle_geom]
      exact hboot
    · rw [settle_mem, hmem]
  · intro ok missing s hr hc hw hz
    obtain ⟨hobj, hregs, hmem⟩ := powerFailReplayOp_noRecord hr hc hw hz ok missing
    refine answers_settled _ _ ⟨?_, regsSameBut_settle hregs, ?_⟩
    · rw [settle_obj, hobj]
    · rw [settle_mem, hmem]

end
end

section
/-! The clauses of O23 and O24 on a write say that with DIRTYCAP 0 it waits in ACTIVE. A write waits for the chunks that it has staged
(R99); one of no LBAs (R104 counts them from 1, the statements do not) stages none, so nothing of it is left to become durable, and it
completes at once. -/

namespace Sys2Proof.Machine.EmptyWrite

/-- A namespace of the NVM command set whose key is the first of its epoch 1. -/
def ns : Ns :=
  { nsid := 1, cmdset := 0, nguid := [], size := 0, attA := false, attB := false, keyep := 1, keyDraw := 0, created := 0, recGen := 0
    nextSerial := 0, zones := [], objs := [] }

/-- A command of no LBAs is ACTIVE, its key is loaded, and DIRTYCAP is 0. -/
def active (op : HostOp) : State :=
  let s := rfSet State.reset Reg.pmuPfctl 8 8 0
  { s with
    obj := { s.obj with nss := [ns] }
    datum := { s.datum with loaded := [(0, { epoch := 1, draw := 0 })] }
    cqu := { s.cqu with tags := [(0, { Tag.free with st := .active, cmd := { HostCmd.none with op := op, nsid := 1 } })] } }

theorem write_completes : (tagAt (writeOp (active .write) 0) 0).st = .completing := by decide +kernel
theorem zoneAppend_completes : (tagAt (zoneAppendOp (active .zoneAppend) 0) 0).st = .completing := by decide +kernel

theorem calm_active (op : HostOp) : calm (active op) := ⟨by cases op <;> decide +kernel, rfl⟩

/-- Where DIRTYCAP is 0, a command that `Staged` describes waits in ACTIVE. -/
theorem active_of_staged {s t : State} {k dw0 : Nat} {r : Nat × Nat} (h : Staged s t k r dw0) (hw : writesThrough s = true) :
    (tagAt t k).st = .active := by
  rwa [Staged, if_pos hw] at h

end Sys2Proof.Machine.EmptyWrite
end

section
open Sys2Proof Sys2Proof.Machine Sys2Proof.Machine.EmptyWrite

/-- Refutes O23: with DIRTYCAP 0 a Write of no LBAs does not wait in ACTIVE. -/
theorem not_nvmCommands : ¬ Obligations.NvmCommands := by
  intro ⟨_, _, _, _, write, _⟩
  obtain ⟨t, ht, hstaged, _⟩ := write 0 ns (active .write) rfl (by decide +kernel) (calm_active _) (by decide +kernel) (by decide +kernel)
    ⟨rfl, by decide +kernel, by decide +kernel, by decide +kernel⟩
  have hsettle : settle (writeOp (active .write) 0) = t := Host.Outcome.next.inj ht
  have hwaits := active_of_staged hstaged (by decide +kernel)
  rw [← hsettle, tagAt, settle_cqu, ← tagAt, write_completes] at hwaits
  exact absurd hwaits (by decide)

/-- Refutes O24: with DIRTYCAP 0 a Zone Append of no LBAs does not wait in ACTIVE. -/
theorem not_zonedCommands : ¬ Obligations.ZonedCommands := by
  intro ⟨append, _⟩
  obtain ⟨t, ht, hstaged, _⟩ := append 0 ns (active .zoneAppend) rfl (by decide +kernel) (calm_active _) (by decide +kernel) (by decide +kernel)
    ⟨rfl, by decide +kernel, by decide +kernel, by decide +kernel⟩ rfl
  have hsettle : settle (zoneAppendOp (active .zoneAppend) 0) = t := Host.Outcome.next.inj ht
  have hwaits := active_of_staged hstaged (by decide +kernel)
  rw [← hsettle, tagAt, settle_cqu, ← tagAt, zoneAppend_completes] at hwaits
  exact absurd hwaits (by decide)
end

section
/-! The completion of a command where no other waits for a lock and no entry waits to be written (R133, R141, R142). -/

namespace Sys2Proof.Machine

/-! ### Versions stored for a Zone Append that fails (R135) -/

/-- `s` with all blanked that a new version of a chunk changes. -/
def unstored (s : State) : State := { s with regs := [], obj := { s.obj with chunks := [], durable := [] } }

theorem unstored_proj {β : Type} {s t : State} (f : State → β) (hf : ∀ u, f (unstored u) = f u) (h : unstored t = unstored s) :
    f t = f s := by rw [← hf t, h, hf]

/-- Registers of the codec that follow a new version (R169). -/
def storeRegs : List Nat := [Reg.cdcWseq, Reg.cdcChunksr, Reg.cdcChunksc, Reg.cdcSaved]

/-- What new versions of chunks leave. -/
def StoresOnly (s t : State) : Prop := unstored t = unstored s ∧ regsSameBut s t storeRegs

theorem StoresOnly.refl (s : State) : StoresOnly s s := ⟨rfl, fun _ _ => rfl⟩

theorem StoresOnly.trans {s t u : State} (h : StoresOnly s t) (h' : StoresOnly t u) : StoresOnly s u :=
  ⟨h'.1.trans h.1, fun a ha => (h'.2 a ha).trans (h.2 a ha)⟩

theorem StoresOnly.ite {s t u : State} {c : Prop} [Decidable c] (ht : StoresOnly s t) (hu : StoresOnly s u) :
    StoresOnly s (if c then t else u) := by
  split
  · exact ht
  · exact hu

theorem StoresOnly.rset (s : State) (v : DWord) {a : Nat} (ha : a ∈ storeRegs) : StoresOnly s (rset s a v) :=
  ⟨rfl, fun _ hb => tget_tset_ne _ _ _ _ fun h => hb (h ▸ ha)⟩

theorem storesOnly_storeChunk (s : State) (k e : Nat) (d : List Byte) : StoresOnly s (storeChunk s k e d) := by
  have hput : ∀ t c, StoresOnly t (putChunk t k c) := fun t c => ⟨rfl, fun _ _ => rfl⟩
  have hdurable : ∀ t m, StoresOnly t { t with obj := { t.obj with durable := m } } := fun t m => ⟨rfl, fun _ _ => rfl⟩
  have hcount : ∀ t a n, a ∈ storeRegs → StoresOnly t (rcount t a n) := fun t a n ha => StoresOnly.rset t _ ha
  unfold storeChunk
  dsimp only
  refine StoresOnly.trans ?_ (hput _ _)
  have hseq : StoresOnly s (takeWseq s (packing s d).2).2 := StoresOnly.rset s _ (by decide)
  have hn : ∀ (t : State) (b : Bool) (n : Nat), StoresOnly t (if b = true then rcount t Reg.cdcChunksr 1 else rcount (rcount t Reg.cdcChunksc 1) Reg.cdcSaved n) :=
    fun _ _ _ => .ite (hcount _ _ _ (by decide)) ((hcount _ _ _ (by decide)).trans (hcount _ _ _ (by decide)))
  exact hseq.trans ((hn _ _ _).trans (.ite (.refl _) (hdurable _ _)))

theorem StoresOnly.overList {α : Type} {f : State → α → State} (hf : ∀ s a, StoresOnly s (f s a)) (l : List α) (s : State) :
    StoresOnly s (overList l s f) := by
  induction l generalizing s with
  | nil => exact .refl s
  | cons a rest ih => exact (hf s a).trans (ih _)

theorem storesOnly_zeroAppend (s : State) (t : Nat) : StoresOnly s (zeroAppend s t) := by
  unfold zeroAppend
  dsimp only
  split
  · exact .refl s
  · split
    · exact .refl s
    · exact .overList (fun u k => .ite (.refl u) (storesOnly_storeChunk u _ _ _)) _ s

theorem zeroAppend_of_ne {s : State} {t : Nat} (h : (tagAt s t).cmd.op ≠ .zoneAppend) : zeroAppend s t = s := by
  simp [zeroAppend, h]

/-! ### A command enters COMPLETING -/

/-- The command queue unit as the command of tag `t` enters COMPLETING with its tag `x`: its range-lock entries are released (R133). -/
def enterCqu (c : CquSt) (t : Nat) (x : Tag) : CquSt :=
  { c with locks := c.locks.filter fun l => l.tag ≠ t || false, tags := tset Tag.free c.tags t x, compq := c.compq ++ [t] }

/-- A tag in COMPLETING with a result. -/
def resultTag (x : Tag) (r : Nat × Nat) (dw0 : Nat) : Tag := { x with st := .completing, sct := r.1, sc := r.2, dw0 := dw0 }

/-- `s` with the LBAs of a Zone Append that fails with the result `r` zeroed. -/
def zeroed (s : State) (t : Nat) (r : Nat × Nat) : State := if r = scOk then s else zeroAppend s t

/-- `s` with the command of tag `t` in COMPLETING, before any entry is written. -/
def entered (s : State) (t : Nat) (r : Nat × Nat) (dw0 : Nat) : State :=
  { zeroed s t r with cqu := enterCqu s.cqu t (resultTag (tagAt s t) r dw0) }

theorem storesOnly_zeroed (s : State) (t : Nat) (r : Nat × Nat) : StoresOnly s (zeroed s t r) :=
  .ite (.refl s) (storesOnly_zeroAppend s t)

theorem zeroed_of {s : State} {t : Nat} {r : Nat × Nat} (h : r = scOk ∨ (tagAt s t).cmd.op ≠ .zoneAppend) : zeroed s t r = s := by
  unfold zeroed
  split
  · rfl
  next hr => exact zeroAppend_of_ne (h.resolve_left hr)

theorem zeroed_cqu (s : State) (t : Nat) (r : Nat × Nat) : (zeroed s t r).cqu = s.cqu :=
  unstored_proj State.cqu (fun _ => rfl) (storesOnly_zeroed s t r).1

theorem zeroed_ports (s : State) (t : Nat) (r : Nat × Nat) : (zeroed s t r).ports = s.ports :=
  unstored_proj State.ports (fun _ => rfl) (storesOnly_zeroed s t r).1

theorem complete_alive {s : State} {t : Nat} (h : (tagAt s t).dead = false) (r : Nat × Nat) (dw0 : Nat) :
    complete s t r dw0 = locksChanged (entered s t r dw0) := by
  have he : entered s t r dw0 = { zeroed s t r with cqu := enterCqu (zeroed s t r).cqu t (resultTag (tagAt s t) r dw0) } := by
    rw [zeroed_cqu]
    rfl
  unfold complete
  rw [if_neg (by simp [h]), he]
  rfl

section
variable (s : State) (t : Nat) (r : Nat × Nat) (dw0 : Nat)

theorem entered_tags : (entered s t r dw0).cqu.tags = tset Tag.free s.cqu.tags t (resultTag (tagAt s t) r dw0) := rfl

theorem tagAt_entered_same : tagAt (entered s t r dw0) t = resultTag (tagAt s t) r dw0 := by
  rw [tagAt, entered_tags, tget_tset_same]

theorem tagAt_entered_ne {j : Nat} (h : j ≠ t) : tagAt (entered s t r dw0) j = tagAt s j := by
  rw [tagAt, entered_tags, tget_tset_ne _ _ _ _ h, tagAt]

theorem entered_compq : (entered s t r dw0).cqu.compq = s.cqu.compq ++ [t] := rfl

theorem entered_port (p : Port) : (entered s t r dw0).port p = s.port p := congrArg (vget · (portIx p)) (zeroed_ports s t r)

theorem noWaiters_entered (h : NoWaiters s) : NoWaiters (entered s t r dw0) := by
  intro e he
  rw [entered_tags] at he
  rcases mem_tset he with he | rfl
  · exact h e he
  · intro hs
    cases hs

end

/-! ### Its entry is written (R141, R142) -/

/-- The completion queue that takes the entry of tag `k` at once. -/
def entryQueue (s : State) (k : Nat) : Option Cq :=
  (cqOfSq (s.port (tagAt s k).port) (tagAt s k).sqid).filter fun q => cqRoom q && !q.stopped && (tagAt s k).waits.isNone && !s.cqu.stopped

/-- The state in which the entry of tag `k`, the only one that waits, has been written where its queue takes it. -/
def posted (s : State) (k : Nat) : State :=
  match entryQueue s k with
  | none => s
  | some q => writeCqe s k (tagAt s k) q

theorem locksChanged_noWaiters {s : State} (h : NoWaiters s) : locksChanged s = postCompletions s := by
  have hr : releaseWaiters s = s := by
    rw [releaseWaiters, (waiters_eq_nil s).mpr h]
    rfl
  rw [locksChanged, hr, hr]

theorem writeCqe_compq (s : State) (k : Nat) (x : Tag) (q : Cq) : (writeCqe s k x q).cqu.compq = s.cqu.compq.filter fun u => u ≠ k := rfl

theorem postOne_unstopped {s : State} (h : s.cqu.stopped = false) (k : Nat) : (postOne s [] k).2 = posted s k := by
  unfold postOne posted entryQueue
  dsimp only
  cases cqOfSq (s.port (tagAt s k).port) (tagAt s k).sqid with
  | none => rfl
  | some q =>
    cases hr : cqRoom q <;> cases hs : q.stopped <;> cases hw : (tagAt s k).waits <;> simp [Option.filter, h, hr, hs]

theorem postCompletions_single {s : State} {k : Nat} (h : s.cqu.compq = [k]) : postCompletions s = posted s k := by
  unfold postCompletions
  split
  next hs =>
    have hq : entryQueue s k = none := by simp [entryQueue, hs]
    rw [posted, hq]
  next hs =>
    have hone := postOne_unstopped (by simpa using hs) k
    have hfirst : postAll s [] s.cqu.compq = posted s k := by rw [h, postAll, postAll, hone]
    dsimp only
    rw [hfirst]
    cases hq : entryQueue s k with
    | none =>
      have hp : posted s k = s := by rw [posted, hq]
      rw [hp, hfirst, hp]
    | some q =>
      have hp : posted s k = writeCqe s k (tagAt s k) q := by rw [posted, hq]
      rw [hp, writeCqe_compq, h]
      simp [postAll]

/-- R133, R142: with no command in LOCKWAIT and no entry waiting, a command that completes enters COMPLETING, and its entry is written
where its queue takes it. -/
theorem complete_eq_posted {s : State} {k : Nat} (hc : calm s) (hd : (tagAt s k).dead = false) (r : Nat × Nat) (dw0 : Nat) :
    complete s k r dw0 = posted (entered s k r dw0) k := by
  obtain ⟨hw, hq⟩ := hc
  rw [complete_alive hd, locksChanged_noWaiters (noWaiters_entered s k r dw0 ((waiters_eq_nil s).mp hw)),
    postCompletions_single (by rw [entered_compq, hq]; rfl)]

theorem entryQueue_entered (s : State) (k : Nat) (r : Nat × Nat) (dw0 : Nat) : entryQueue (entered s k r dw0) k = entryQueue s k := by
  unfold entryQueue
  rw [tagAt_entered_same, entered_port]
  rfl

/-- R147: an Abort whose entry waits for that of another command stays in COMPLETING. -/
theorem complete_of_waits {s : State} {k : Nat} (hc : calm s) (hd : (tagAt s k).dead = false) (hw : (tagAt s k).waits.isSome = true)
    (r : Nat × Nat) (dw0 : Nat) : complete s k r dw0 = entered s k r dw0 := by
  have hq : entryQueue s k = none := by
    obtain ⟨u, hu⟩ := Option.isSome_iff_exists.mp hw
    simp [entryQueue, hu]
  rw [complete_eq_posted hc hd, posted, entryQueue_entered, hq]

/-! ### What a written entry leaves of a port -/

/-- A completion queue without its entries. -/
def untaken (c : Cq) : Cq := { c with tail := 0, entries := [] }

/-- A port with all blanked that a completion entry and its message change. -/
def unposted (x : PortSt) : PortSt :=
  { x with
    posted := none, pba := [], msgs := [], lastMsg := none, agg := [], errs := [], errNum := 0
    cqs := x.cqs.map untaken }

theorem unposted_proj {β : Type} {x y : PortSt} (f : PortSt → β) (hf : ∀ z, f (unposted z) = f z) (h : unposted y = unposted x) : f y = f x := by
  rw [← hf y, h, hf]

theorem unposted_sendMsix (x : PortSt) (v : Nat) : unposted (sendMsix x v) = unposted x := by
  unfold sendMsix
  split
  · rfl
  · split <;> rfl

theorem cqs_sendMsix (x : PortSt) (v : Nat) : (sendMsix x v).cqs = x.cqs := by
  unfold sendMsix
  split
  · rfl
  · split <;> rfl

theorem unposted_signal (x : PortSt) (tick qid v : Nat) : unposted (signal x tick qid v) = unposted x := by
  unfold signal
  dsimp only
  split
  · exact unposted_sendMsix _ _
  · split
    · exact unposted_sendMsix _ _
    · rfl

theorem cqs_signal (x : PortSt) (tick qid v : Nat) : (signal x tick qid v).cqs = x.cqs := by
  unfold signal
  dsimp only
  split
  · exact cqs_sendMsix _ _
  · split
    · exact cqs_sendMsix _ _
    · rfl

theorem map_lmodFirst {α β : Type} {p : α → Bool} {f : α → α} {g : α → β} (h : ∀ x, g (f x) = g x) (l : List α) :
    (lmodFirst p f l).map g = l.map g := by
  induction l with
  | nil => rfl
  | cons x rest ih =>
    rw [lmodFirst]
    split <;> simp [h, ih]

/-- The entry of a command (R142). -/
def entryOf (x : Tag) : Cqe := { sqid := x.sqid, cid := x.cmd.cid, sct := x.sct, sc := x.sc, dw0 := x.dw0 }

/-- A completion queue that has taken an entry. -/
def tookEntry (e : Cqe) (c : Cq) : Cq := { c with tail := (c.tail + 1) % c.size, entries := e :: c.entries }

theorem cqs_putCqe (p : PortSt) (x : Tag) (q : Cq) :
    (putCqe p x q).cqs = lmodFirst (fun c => decide (c.qid = q.qid)) (tookEntry (entryOf x)) p.cqs := by
  unfold putCqe
  dsimp only
  split <;> rfl

theorem unposted_putCqe (p : PortSt) (x : Tag) (q : Cq) : unposted (putCqe p x q) = unposted p := by
  have hcqs : (putCqe p x q).cqs.map untaken = p.cqs.map untaken := by
    rw [cqs_putCqe]
    exact map_lmodFirst (f := tookEntry _) (g := untaken) (fun _ => rfl) p.cqs
  unfold unposted
  rw [hcqs]
  unfold putCqe
  dsimp only
  split <;> rfl

theorem port_writeCqe (s : State) (k : Nat) (x : Tag) (q : Cq) :
    (writeCqe s k x q).port x.port = signal (putCqe (s.port x.port) x q) s.tick.toNat q.qid q.vector :=
  modPort_port s x.port _

theorem modPort_port_ne (s : State) {p q : Port} (f : PortSt → PortSt) (h : q ≠ p) : (modPort s p f).port q = s.port q := by
  have hix : portIx p ≠ portIx q := by cases p <;> cases q <;> simp_all [portIx]
  exact vget_vset_ne _ _ hix

theorem unposted_writeCqe (s : State) (k : Nat) (x : Tag) (q : Cq) (p : Port) : unposted ((writeCqe s k x q).port p) = unposted (s.port p) := by
  by_cases h : p = x.port
  · rw [h, port_writeCqe, unposted_signal, unposted_putCqe]
  · exact congrArg unposted (modPort_port_ne s _ h)

theorem unposted_posted (s : State) (k : Nat) (p : Port) : unposted ((posted s k).port p) = unposted (s.port p) := by
  unfold posted
  split
  · rfl
  · exact unposted_writeCqe _ _ _ _ _

theorem unposted_complete {s : State} {k : Nat} (hc : calm s) (hd : (tagAt s k).dead = false) (r : Nat × Nat) (dw0 : Nat) (p : Port) :
    unposted ((complete s k r dw0).port p) = unposted (s.port p) := by
  rw [complete_eq_posted hc hd, unposted_posted, entered_port]

/-! ### What else it leaves -/

theorem endView_posted (s : State) (k : Nat) : endView (posted s k) = endView s := by
  unfold posted
  split <;> rfl

theorem endView_complete_zeroed {s : State} {k : Nat} (hc : calm s) (hd : (tagAt s k).dead = false) (r : Nat × Nat) (dw0 : Nat) :
    endView (complete s k r dw0) = endView (zeroed s k r) := by
  rw [complete_eq_posted hc hd, endView_posted]
  rfl

theorem endView_complete {s : State} {k : Nat} (hc : calm s) (hd : (tagAt s k).dead = false) {r : Nat × Nat}
    (hr : r = scOk ∨ (tagAt s k).cmd.op ≠ .zoneAppend) (dw0 : Nat) : endView (complete s k r dw0) = endView s := by
  rw [endView_complete_zeroed hc hd, zeroed_of hr]

/-! ### The command has completed -/

/-- The tag `k` is in COMPLETING with a result, and its entry waits. -/
def EntryWaits (t : State) (k : Nat) (r : Nat × Nat) (dw0 : Nat) : Prop :=
  (tagAt t k).st = .completing ∧ (tagAt t k).sct = r.1 ∧ (tagAt t k).sc = r.2 ∧ (tagAt t k).dw0 = dw0 ∧ k ∈ t.cqu.compq

/-- The tag `k` is free, and the entry of the command `x` stands in the queue that was `q`. -/
def EntryWritten (t : State) (k : Nat) (x : Tag) (q : Cq) (r : Nat × Nat) (dw0 : Nat) : Prop :=
  (tagAt t k).st = .free ∧ ∃ q' ∈ (t.port x.port).cqs, q'.qid = q.qid ∧ q'.tail = (q.tail + 1) % q.size
    ∧ q'.entries = { sqid := x.sqid, cid := x.cmd.cid, sct := r.1, sc := r.2, dw0 := dw0 } :: q.entries

theorem completed_iff (s t : State) (k : Nat) (r : Nat × Nat) (dw0 : Nat) : Completed s t k r dw0 ↔
    match entryQueue s k with
    | none => EntryWaits t k r dw0
    | some q => EntryWritten t k (tagAt s k) q r dw0 := by
  unfold Completed entryQueue
  dsimp only
  cases cqOfSq (s.port (tagAt s k).port) (tagAt s k).sqid with
  | none => rfl
  | some q =>
    simp only [Option.filter]
    split <;> rfl

/-- The end of the command of tag `k` finds in `u` what it finds in `s`. -/
structure SameEnd (s u : State) (k : Nat) : Prop where
  port : (tagAt u k).port = (tagAt s k).port
  sqid : (tagAt u k).sqid = (tagAt s k).sqid
  cid : (tagAt u k).cmd.cid = (tagAt s k).cmd.cid
  queue : entryQueue u k = entryQueue s k

theorem SameEnd.refl (s : State) (k : Nat) : SameEnd s s k := ⟨rfl, rfl, rfl, rfl⟩

theorem SameEnd.of_eq {s u : State} {k : Nat} (ht : tagAt u k = tagAt s k) (hs : u.cqu.stopped = s.cqu.stopped)
    (hsq : ∀ p, (u.port p).sqs = (s.port p).sqs) (hcq : ∀ p, (u.port p).cqs = (s.port p).cqs) : SameEnd s u k :=
  ⟨by rw [ht], by rw [ht], by rw [ht], by simp only [entryQueue, cqOfSq, ht, hs, hsq, hcq]⟩

theorem SameEnd.completed {s u t : State} {k : Nat} (h : SameEnd s u k) {r : Nat × Nat} {dw0 : Nat} (hc : Completed u t k r dw0) :
    Completed s t k r dw0 := by
  rw [completed_iff] at hc ⊢
  rw [h.queue] at hc
  revert hc
  cases entryQueue s k with
  | none => exact id
  | some q =>
    unfold EntryWritten
    dsimp only
    rw [h.port, h.sqid, h.cid]
    exact id

@[simp] theorem settle_port (s : State) (p : Port) : (settle s).port p = s.port p := by rw [State.port, settle_ports, State.port]

@[simp] theorem settle_tagAt (s : State) (k : Nat) : tagAt (settle s) k = tagAt s k := by rw [tagAt, settle_cqu, tagAt]

@[simp] theorem completed_settle {s t : State} {k : Nat} {r : Nat × Nat} {dw0 : Nat} :
    Completed s (settle t) k r dw0 ↔ Completed s t k r dw0 := by
  simp only [Completed, settle_tagAt, settle_port, settle_cqu]

theorem tget_map_snd {α : Type} (d : α) (g : α → α) (hg : g d = d) (m : SMap α) (k : Nat) :
    tget d (m.map fun e => (e.1, g e.2)) k = g (tget d m k) := by
  induction m with
  | nil => exact hg.symm
  | cons e rest ih =>
    simp only [List.map_cons, tget]
    split
    · rfl
    · exact ih

/-- A tag that waits no longer for tag `t`. -/
def unwaiting (t : Nat) (x : Tag) : Tag := if x.waits = some t then { x with waits := none } else x

theorem tagAt_freeTagNow (s : State) (t k : Nat) : tagAt (freeTagNow s t) k = unwaiting t (tagAt (setTag s t Tag.free) k) := by
  have hmap : ∀ m : SMap Tag, (m.map fun e => if e.2.waits = some t then (e.1, { e.2 with waits := none }) else e)
      = m.map fun e => (e.1, unwaiting t e.2) := fun m => List.map_congr_left fun e _ => by
    unfold unwaiting
    split <;> rfl
  have hfree : unwaiting t Tag.free = Tag.free := rfl
  unfold freeTagNow tagAt
  dsimp only
  rw [hmap, tget_map_snd _ _ hfree]

theorem tagAt_freeTagNow_same (s : State) (t : Nat) : tagAt (freeTagNow s t) t = Tag.free := by
  rw [tagAt_freeTagNow, tagAt, setTag, tget_tset_same]
  rfl

theorem qid_of_cqOfSq {x : PortSt} {sqid : Nat} {q : Cq} (h : cqOfSq x sqid = some q) :
    x.cqs.find? (fun c => decide (c.qid = q.qid)) = some q := by
  unfold cqOfSq at h
  split at h
  · cases h
  next sq _ =>
    have hq : q.qid = sq.cqid := by simpa using List.find?_some h
    rwa [hq]

/-- R141, R142: the entry of a command is written where its queue takes it; else the tag stays in COMPLETING. -/
theorem completed_complete {s : State} {k : Nat} (hc : calm s) (hd : (tagAt s k).dead = false) (r : Nat × Nat) (dw0 : Nat) :
    Completed s (complete s k r dw0) k r dw0 := by
  rw [completed_iff, complete_eq_posted hc hd, posted]
  have hqueue : entryQueue (entered s k r dw0) k = entryQueue s k := entryQueue_entered s k r dw0
  rw [hqueue]
  cases hq : entryQueue s k with
  | none =>
    dsimp only
    refine ⟨?_, ?_, ?_, ?_, List.mem_append_right _ (List.mem_singleton.mpr rfl)⟩ <;> rw [tagAt_entered_same] <;> rfl
  | some q =>
    obtain ⟨hcq, -⟩ := Option.filter_eq_some_iff.mp hq
    have hfind := qid_of_cqOfSq hcq
    have hp : (tagAt (entered s k r dw0) k).port = (tagAt s k).port := by rw [tagAt_entered_same]; rfl
    refine ⟨congrArg Tag.st (tagAt_freeTagNow_same _ k), ?_⟩
    have hcqs : ((writeCqe (entered s k r dw0) k (tagAt (entered s k r dw0) k) q).port (tagAt s k).port).cqs
        = lmodFirst (fun c => decide (c.qid = q.qid)) (tookEntry (entryOf (resultTag (tagAt s k) r dw0))) (s.port (tagAt s k).port).cqs := by
      rw [← hp, port_writeCqe, cqs_signal, cqs_putCqe, hp, entered_port, tagAt_entered_same]
    rw [hcqs]
    exact ⟨_, List.mem_of_find?_eq_some ((find?_lmodFirst_same (f := tookEntry _) (fun _ => rfl) _).trans (congrArg (Option.map _) hfind)), rfl, rfl, rfl⟩

end Sys2Proof.Machine
end

section
/-! The links of the host ports, and the command whose transfer fails (R86–R89, R94, R123). -/

namespace Sys2Proof.Machine

/-! ### Counters, ports and configuration registers -/

theorem rn_rcount_same (s : State) (a n : Nat) : rn (rcount s a n) a = min 0xFFFF_FFFF (rn s a + n) :=
  rn_rsetN_same s a (Nat.lt_of_le_of_lt (Nat.min_le_left _ _) (by decide))

theorem regsSameBut_rcount (s : State) (a n : Nat) : regsSameBut s (rcount s a n) [a] := regsSameBut_rset s a _

theorem regsSameBut_rfSet (s : State) (a l w x : Nat) : regsSameBut s (rfSet s a l w x) [a] := regsSameBut_rset s a _

theorem rn_of_regsSameBut {s t : State} {l : List Nat} (h : regsSameBut s t l) {a : Nat} (ha : a ∉ l) : rn t a = rn s a :=
  congrArg BitVec.toNat (h a ha)

theorem otherPort_ne (p : Port) : otherPort p ≠ p := by cases p <;> decide

theorem cfgVar_cfgSet_same (x : PortSt) (off v : Nat) : cfgVar (cfgSet x off v) off = v := tget_tset_same _ _ _ _

theorem cfgVar_cfgSet_ne (x : PortSt) {off off' : Nat} (v : Nat) (h : off' / 4 ≠ off / 4) : cfgVar (cfgSet x off v) off' = cfgVar x off' :=
  tget_tset_ne _ _ _ _ h

theorem cfgBit_cfgStatus_same (x : PortSt) (off bit : Nat) : cfgBit (cfgStatus x off bit) off bit = true := by
  rw [cfgBit, cfgStatus, cfgVar_cfgSet_same]
  exact putFld_one_testBit _ _ true

theorem cfgBit_cfgStatus_ne (x : PortSt) {off off' : Nat} (bit bit' : Nat) (h : off' / 4 ≠ off / 4) :
    cfgBit (cfgStatus x off bit) off' bit' = cfgBit x off' bit' := by
  rw [cfgBit, cfgStatus, cfgVar_cfgSet_ne _ _ h, cfgBit]

theorem cfgBit_congr {x y : PortSt} (h : y.cfg = x.cfg) (off bit : Nat) : cfgBit y off bit = cfgBit x off bit := by
  rw [cfgBit, cfgVar, h, cfgBit, cfgVar]

theorem cfgBit_aerCor (x : PortSt) (bit : Nat) : cfgBit (aerCor x bit) (capAer + 0x10) bit = true := by
  rw [aerCor, cfgBit_cfgStatus_ne _ _ _ (by decide), cfgBit_cfgStatus_same]

theorem cfgBit_aerUnc (x : PortSt) (bit : Nat) : cfgBit (aerUnc x bit) (capAer + 4) bit = true := by
  rw [aerUnc, cfgBit_cfgStatus_ne _ _ _ (by decide), cfgBit_cfgStatus_same]

theorem rn_modPort (s : State) (p : Port) (f : PortSt → PortSt) (a : Nat) : rn (modPort s p f) a = rn s a := rfl

/-! ### The state code of the link -/

theorem setLtssm_port (s : State) (p : Port) : (setLtssm s p).port p = { s.port p with ltssm := ((setLtssm s p).port p).ltssm } := by
  unfold setLtssm
  dsimp only
  rw [modPort_port]
  rfl

theorem setLtssm_port_ne (s : State) {p q : Port} (h : q ≠ p) : (setLtssm s p).port q = s.port q := modPort_port_ne _ _ h

theorem enterRecovery_port (s : State) (p : Port) : (enterRecovery s p).port p
    = { s.port p with inRec := true, pm := .l0, clkreq := true, ltssm := ((enterRecovery s p).port p).ltssm } := by
  have h := setLtssm_port (modPort (rcount s (Reg.hpRecovcnt (portNum p)) 1) p fun x => { x with inRec := true, pm := .l0, clkreq := true }) p
  rw [modPort_port] at h
  exact h

theorem enterRecovery_cfg (s : State) (p : Port) : ((enterRecovery s p).port p).cfg = (s.port p).cfg := by rw [enterRecovery_port]

theorem enterRecovery_port_ne (s : State) {p q : Port} (h : q ≠ p) : (enterRecovery s p).port q = s.port q :=
  (setLtssm_port_ne _ h).trans (modPort_port_ne _ _ h)

theorem enterRecovery_count (s : State) (p : Port) :
    rn (enterRecovery s p) (Reg.hpRecovcnt (portNum p)) = min 0xFFFF_FFFF (rn s (Reg.hpRecovcnt (portNum p)) + 1) := rn_rcount_same s _ 1

theorem regsSameBut_enterRecovery (s : State) (p : Port) : regsSameBut s (enterRecovery s p) [Reg.hpRecovcnt (portNum p)] :=
  regsSameBut_rcount s _ 1

/-! ### LINKCTL (R86, R94) -/

theorem or_retrain_mod (v : Word) : (v ||| 0x100).toNat % 8 = v.toNat % 8 := by
  have h : (v ||| 0x100).toNat % 2 ^ 3 = v.toNat % 2 ^ 3 := by
    refine Nat.eq_of_testBit_eq fun i => ?_
    simp only [Nat.testBit_mod_two_pow, BitVec.toNat_or, Nat.testBit_or]
    by_cases hi : i < 3
    · have h8 : (0x100 : Word).toNat.testBit i = false := by
        interval_cases i <;> decide
      rw [h8, Bool.or_false]
    · simp [hi]
  exact h

theorem or_retrain_testBit (v : Word) : (v ||| 0x100).toNat.testBit 8 = true := by
  rw [BitVec.toNat_or, Nat.testBit_or]
  exact Bool.or_eq_true_iff.mpr (.inr (by decide))

/-- R86: RETRAIN of a link that is up. -/
theorem linkctlWrite_retrain {s : State} {p : Port} (hp : portExists s p = true) (hu : (s.port p).linkUp = true) (v : Word) :
    linkctlWrite s p (v ||| 0x100) = enterRecovery (rfSet s (Reg.hpLinkctl (portNum p)) 0 3 (min s.conf.maxRate (v.toNat % 8))) p := by
  have hport : ∀ x, (rfSet s (Reg.hpLinkctl (portNum p)) 0 3 x).port p = s.port p := fun _ => rfl
  simp only [linkctlWrite, when, hp, if_true, or_retrain_mod, or_retrain_testBit, hport, hu, Bool.and_true]

theorem linkctlWrite_retrains {s : State} {p : Port} (hp : portExists s p = true) (hup : (s.port p).linkUp = true) (v : Word) :
    let t := linkctlWrite s p (v ||| 0x100)
    rf t (Reg.hpLinkctl (portNum p)) 0 3 = min s.conf.maxRate (v.toNat % 8)
      ∧ rn t (Reg.hpRecovcnt (portNum p)) = min 0xFFFF_FFFF (rn s (Reg.hpRecovcnt (portNum p)) + 1)
      ∧ (t.port p).linkUp = true ∧ (t.port p).inRec = true
      ∧ regsSameBut s t [Reg.hpLinkctl (portNum p), Reg.hpRecovcnt (portNum p)] ∧ t.mem = s.mem := by
  have hne : Reg.hpLinkctl (portNum p) ∉ [Reg.hpRecovcnt (portNum p)] := by cases p <;> decide
  have hne' : Reg.hpRecovcnt (portNum p) ∉ [Reg.hpLinkctl (portNum p)] := by cases p <;> decide
  have hset := regsSameBut_rfSet s (Reg.hpLinkctl (portNum p)) 0 3 (min s.conf.maxRate (v.toNat % 8))
  have hlimit := rf_rfSet_same s (Reg.hpLinkctl (portNum p)) (min s.conf.maxRate (v.toNat % 8)) (show 0 + 3 ≤ 64 by decide)
  have hup' : ((rfSet s (Reg.hpLinkctl (portNum p)) 0 3 (min s.conf.maxRate (v.toNat % 8))).port p).linkUp = true := hup
  have hmem : (rfSet s (Reg.hpLinkctl (portNum p)) 0 3 (min s.conf.maxRate (v.toNat % 8))).mem = s.mem := rfl
  dsimp only
  rw [linkctlWrite_retrain hp hup]
  generalize rfSet s (Reg.hpLinkctl (portNum p)) 0 3 (min s.conf.maxRate (v.toNat % 8)) = u at *
  refine ⟨?_, ?_, ?_, ?_, ?_, hmem⟩
  · rw [rf, rn_of_regsSameBut (regsSameBut_enterRecovery u p) hne, ← rf, hlimit, Nat.mod_eq_of_lt (by omega)]
  · rw [enterRecovery_count, rn_of_regsSameBut hset hne']
  · rw [enterRecovery_port]
    exact hup'
  · rw [enterRecovery_port]
  · exact (hset.mono (by simp)).trans ((regsSameBut_enterRecovery u p).mono (by simp))

/-! ### Correctable errors (R94) -/

/-- A correctable error counted and shown. -/
def correctable (s : State) (p : Port) (bit : Nat) : State :=
  modPort (rcount s (Reg.hpErrcor (portNum p)) 1) p fun x => aerCor x bit

section
variable {s : State} {p : Port} (hl : linkCarries s p = true) (replay : Bool)
include hl

theorem correctableLinkErrorOp_stays :
    let t := correctableLinkErrorOp s p replay false
    rn t (Reg.hpErrcor (portNum p)) = min 0xFFFF_FFFF (rn s (Reg.hpErrcor (portNum p)) + 1)
      ∧ t.port p = aerCor (s.port p) (if replay then 12 else 0) ∧ regsSameBut s t [Reg.hpErrcor (portNum p)]
      ∧ t.port (otherPort p) = s.port (otherPort p) ∧ t.mem = s.mem := by
  have heq : correctableLinkErrorOp s p replay false = correctable s p (if replay then 12 else 0) := by
    simp only [correctableLinkErrorOp, when, hl, if_true]
    rfl
  dsimp only
  rw [heq]
  exact ⟨rn_rcount_same s _ 1, modPort_port _ p _, regsSameBut_rcount s _ 1, modPort_port_ne _ _ (otherPort_ne p), rfl⟩

theorem correctableLinkErrorOp_recovers :
    let t := correctableLinkErrorOp s p replay true
    rn t (Reg.hpErrcor (portNum p)) = min 0xFFFF_FFFF (rn s (Reg.hpErrcor (portNum p)) + 1)
      ∧ cfgBit (t.port p) (capAer + 0x10) (if replay then 12 else 0) = true ∧ (t.port p).inRec = true
      ∧ rn t (Reg.hpRecovcnt (portNum p)) = min 0xFFFF_FFFF (rn s (Reg.hpRecovcnt (portNum p)) + 1)
      ∧ t.port (otherPort p) = s.port (otherPort p) ∧ t.mem = s.mem := by
  have hne : Reg.hpErrcor (portNum p) ∉ [Reg.hpRecovcnt (portNum p)] := by cases p <;> decide
  have hne' : Reg.hpRecovcnt (portNum p) ∉ [Reg.hpErrcor (portNum p)] := by cases p <;> decide
  obtain ⟨hcount, hport, hregs, hother, hmem⟩ := correctableLinkErrorOp_stays hl replay
  have heq : correctableLinkErrorOp s p replay true = enterRecovery (correctableLinkErrorOp s p replay false) p := by
    simp only [correctableLinkErrorOp, when, hl, if_true]
    rfl
  dsimp only
  rw [heq]
  refine ⟨?_, ?_, ?_, ?_, ?_, hmem⟩
  · rw [rn_of_regsSameBut (regsSameBut_enterRecovery _ p) hne, hcount]
  · rw [cfgBit_congr (enterRecovery_cfg _ p), hport]
    exact cfgBit_aerCor _ _
  · rw [enterRecovery_port]
  · rw [enterRecovery_count, rn_of_regsSameBut hregs hne']
  · rw [enterRecovery_port_ne _ (otherPort_ne p), hother]

end

/-! ### A command that ends before its work is done (R26, R94, R146) -/

theorem calm_congr {s u : State} (ht : u.cqu.tags = s.cqu.tags) (hq : u.cqu.compq = s.cqu.compq) (h : calm s) : calm u := by
  unfold calm waiters at h ⊢
  rw [ht, hq]
  exact h

/-- `s` with all blanked that a command taken off the media and off its ladders changes. -/
def unqueued (s : State) : State :=
  { s with ladders := [], cqu := { s.cqu with waitOps := [] }, obj := { s.obj with readers := [] } }

theorem unqueued_proj {β : Type} {s t : State} (f : State → β) (hf : ∀ u, f (unqueued u) = f u) (h : unqueued t = unqueued s) :
    f t = f s := by rw [← hf t, h, hf]

/-- The command of tag `t` has left the queues of the media and its ladders. -/
def withdrawn (s : State) (t : Nat) : State :=
  let s := dropWaits s fun w => w.tag = t
  { s with ladders := s.ladders.map fun l => { l with tags := l.tags.filter fun u => u ≠ t } }

theorem endWith_eq (s : State) (t : Nat) (r : Nat × Nat) : endWith s t r
    = if (tagAt (withdrawn s t) t).mops = 0 then complete (withdrawn s t) t r 0
      else modTag (withdrawn s t) t fun x => { x with aborted := true, sct := r.1, sc := r.2 } := rfl

theorem unqueued_dropWaits (s : State) (p : WaitOp → Bool) : unqueued (dropWaits s p) = unqueued s := by
  unfold dropWaits
  refine (overList_keeps unqueued _ _ _ fun u w => ?_).trans rfl
  unfold dropReader
  split <;> rfl

theorem dropWaits_waitOps (s : State) (p : WaitOp → Bool) : (dropWaits s p).cqu.waitOps = s.cqu.waitOps.filter fun w => !p w := by
  unfold dropWaits
  refine (overList_keeps (fun u => u.cqu.waitOps) _ _ _ fun u w => ?_).trans rfl
  unfold dropReader
  split <;> rfl

theorem unqueued_withdrawn (s : State) (t : Nat) : unqueued (withdrawn s t) = unqueued s := unqueued_dropWaits s _

theorem withdrawn_waitOps (s : State) (t : Nat) : ∀ w ∈ (withdrawn s t).cqu.waitOps, w.tag ≠ t := by
  intro w hw
  have hw' : w ∈ (dropWaits s fun w => decide (w.tag = t)).cqu.waitOps := hw
  rw [dropWaits_waitOps] at hw'
  simpa using (List.mem_filter.mp hw').2

theorem withdrawn_tags (s : State) (t : Nat) : (withdrawn s t).cqu.tags = s.cqu.tags :=
  unqueued_proj (fun u => u.cqu.tags) (fun _ => rfl) (unqueued_withdrawn s t)

theorem withdrawn_tagAt (s : State) (t k : Nat) : tagAt (withdrawn s t) k = tagAt s k := by rw [tagAt, withdrawn_tags, tagAt]

theorem withdrawn_calm {s : State} (h : calm s) (t : Nat) : calm (withdrawn s t) :=
  calm_congr (withdrawn_tags s t) (unqueued_proj (fun u => u.cqu.compq) (fun _ => rfl) (unqueued_withdrawn s t)) h

/-! ### A transfer that fails (R94) -/

/-- The error of a transaction counted, shown and reported, before its command ends. -/
def transferFault (s : State) (p : Port) (bit aer : Nat) : State :=
  portFault (modPort (rcount s (Reg.hpErrunc (portNum p)) 1) p fun x => aerUnc x aer) p bit

/-- `s` with all blanked that the report of a plain source changes. -/
def unreported (s : State) : State := { s with regs := [], fcaps := [] }

theorem unreported_proj {β : Type} {s t : State} (f : State → β) (hf : ∀ u, f (unreported u) = f u) (h : unreported t = unreported s) :
    f t = f s := by rw [← hf t, h, hf]

theorem unreported_rset (s : State) (a : Nat) (v : DWord) : unreported (rset s a v) = unreported s := rfl

theorem unreported_reported (s : State) (b : Blk) (bits : List Nat) : unreported (reported s b bits) = unreported s := by
  have hset : unreported (setFstat s b bits) = unreported s := overList_keeps unreported _ _ _ fun u i => unreported_rset u _ _
  refine Eq.trans ?_ hset
  unfold reported capture
  split
  · rfl
  · split <;> rfl

section
variable {s : State} {p : Port} (hq : quiet s (blkOfPort p)) (bit aer : Nat)
include hq

theorem transferFault_eq : transferFault s p bit aer
    = reported (modPort (rcount s (Reg.hpErrunc (portNum p)) 1) p fun x => aerUnc x aer) (blkOfPort p) [bit] := by
  obtain ⟨hpend, hstat, hreact⟩ := hq
  have h := regsSameBut_rcount s (Reg.hpErrunc (portNum p)) 1
  have hq' : quiet (modPort (rcount s (Reg.hpErrunc (portNum p)) 1) p fun x => aerUnc x aer) (blkOfPort p) := by
    refine ⟨hpend, ?_, ?_⟩
    · rw [rn_modPort, rn_of_regsSameBut h (by cases p <;> decide), hstat]
    · rw [rn_modPort, rn_of_regsSameBut h (by cases p <;> decide), hreact]
  exact raise1_quiet hq' bit

theorem transferFault_view : unreported (transferFault s p bit aer) = unreported (modPort s p fun x => aerUnc x aer) := by
  rw [transferFault_eq hq, unreported_reported]
  exact congrArg (fun u : State => modPort u p fun x => aerUnc x aer) (unreported_rset s _ _)

theorem transferFault_port : (transferFault s p bit aer).port p = aerUnc (s.port p) aer := by
  rw [unreported_proj (fun u => u.port p) (fun _ => rfl) (transferFault_view hq bit aer), modPort_port]

theorem transferFault_cqu : (transferFault s p bit aer).cqu = s.cqu :=
  (unreported_proj State.cqu (fun _ => rfl) (transferFault_view hq bit aer)).trans rfl

theorem transferFault_obj : (transferFault s p bit aer).obj = s.obj :=
  (unreported_proj State.obj (fun _ => rfl) (transferFault_view hq bit aer)).trans rfl

theorem transferFault_mem : (transferFault s p bit aer).mem = s.mem :=
  (unreported_proj State.mem (fun _ => rfl) (transferFault_view hq bit aer)).trans rfl

theorem transferFault_sqs (q : Port) : ((transferFault s p bit aer).port q).sqs = (s.port q).sqs := by
  rw [unreported_proj (fun u => u.port q) (fun _ => rfl) (transferFault_view hq bit aer)]
  by_cases h : q = p
  · rw [h, modPort_port]
    rfl
  · rw [modPort_port_ne _ _ h]

theorem transferFault_cqs (q : Port) : ((transferFault s p bit aer).port q).cqs = (s.port q).cqs := by
  rw [unreported_proj (fun u => u.port q) (fun _ => rfl) (transferFault_view hq bit aer)]
  by_cases h : q = p
  · rw [h, modPort_port]
    rfl
  · rw [modPort_port_ne _ _ h]

theorem transferFault_fstat (hb : bit < 64) : rbit (transferFault s p bit aer) (aFstat (blkOfPort p)) bit = true := by
  rw [transferFault_eq hq]
  exact reported_fstat _ _ hb

theorem transferFault_errunc : rn (transferFault s p bit aer) (Reg.hpErrunc (portNum p)) = min 0xFFFF_FFFF (rn s (Reg.hpErrunc (portNum p)) + 1) := by
  rw [transferFault_eq hq]
  exact (rn_of_regsSameBut (reported_regsSameBut _ _ _) (by cases p <;> decide)).trans (rn_rcount_same s _ 1)

end

theorem transferError_cmd {s : State} {p : Port} {k : Nat} (hl : linkCarries s p = true) (hq : quiet s (blkOfPort p))
    (ha : (tagAt s k).st = .active) (hp : (tagAt s k).port = p) (hd : (tagAt s k).dead = false) (bit aer : Nat) :
    transferError s p (.cmd k) bit aer = endWith (transferFault s p bit aer) k scTransfer := by
  have ht : tagAt (transferFault s p bit aer) k = tagAt s k := by rw [tagAt, transferFault_cqu hq, tagAt]
  have hfail : failTransfer (transferFault s p bit aer) p k = endWith (transferFault s p bit aer) k scTransfer := by
    simp [failTransfer, ht, ha, hp, hd]
  simp only [transferError, when, hl, if_true, failTarget]
  exact hfail

/-- R94: the command of a transfer that failed completes with Data Transfer Error; the source, the count and Advanced Error Reporting
show the error. -/
theorem transferError_completes {s : State} {p : Port} {k : Nat} (hl : linkCarries s p = true) (hq : quiet s (blkOfPort p))
    (ha : (tagAt s k).st = .active) (hp : (tagAt s k).port = p) (hd : (tagAt s k).dead = false) (hm : (tagAt s k).mops = 0)
    (hc : calm s) {bit : Nat} (hb : bit < 64) (aer : Nat) :
    let t := transferError s p (.cmd k) bit aer
    Completed s t k scTransfer 0 ∧ rbit t (aFstat (blkOfPort p)) bit = true
      ∧ rn t (Reg.hpErrunc (portNum p)) = min 0xFFFF_FFFF (rn s (Reg.hpErrunc (portNum p)) + 1)
      ∧ cfgBit (t.port p) (capAer + 4) aer = true
      ∧ ((tagAt s k).cmd.op ≠ .zoneAppend → t.obj.chunks = s.obj.chunks) ∧ t.obj.nss = s.obj.nss ∧ t.mem = s.mem := by
  have hcqu := transferFault_cqu hq bit aer
  have hu := unqueued_withdrawn (transferFault s p bit aer) k
  obtain ⟨w, hw⟩ : ∃ w, w = withdrawn (transferFault s p bit aer) k := ⟨_, rfl⟩
  have ht : tagAt w k = tagAt s k := by rw [hw, withdrawn_tagAt, tagAt, hcqu, tagAt]
  have hcalm : calm w := hw ▸ withdrawn_calm (calm_congr (by rw [hcqu]) (by rw [hcqu]) hc) k
  have hdead : (tagAt w k).dead = false := by rw [ht, hd]
  have heq : transferError s p (.cmd k) bit aer = complete w k scTransfer 0 := by
    rw [transferError_cmd hl hq ha hp hd, endWith_eq, ← hw, ht, if_pos hm]
  have hports : w.ports = (transferFault s p bit aer).ports := by
    rw [hw]
    exact unqueued_proj State.ports (fun _ => rfl) hu
  have hport : ∀ q, w.port q = (transferFault s p bit aer).port q := fun q => congrArg (vget · (portIx q)) hports
  have hend : SameEnd s w k := by
    refine .of_eq ht ?_ (fun q => ?_) (fun q => ?_)
    · rw [hw, unqueued_proj (fun u => u.cqu.stopped) (fun _ => rfl) hu, hcqu]
    · rw [hport, transferFault_sqs hq]
    · rw [hport, transferFault_cqs hq]
  have hview := endView_complete_zeroed hcalm hdead scTransfer 0
  obtain ⟨hstores, hregs⟩ := storesOnly_zeroed w k scTransfer
  have hregsEq : (complete w k scTransfer 0).regs = (zeroed w k scTransfer).regs := endView_proj State.regs (fun _ => rfl) hview
  have hrn : ∀ a, a ∉ storeRegs → rn (complete w k scTransfer 0) a = rn (transferFault s p bit aer) a := fun a h => by
    have hwr : w.regs = (transferFault s p bit aer).regs := by
      rw [hw]
      exact unqueued_proj State.regs (fun _ => rfl) hu
    have hz : rget (zeroed w k scTransfer) a = rget w a := hregs a h
    simp only [rn, rget] at hz ⊢
    rw [hregsEq, hz, hwr]
  have hobj : ∀ {β : Type} (f : ObjSt → β), (∀ o l, f { o with readers := l } = f o) → f w.obj = f s.obj := fun f hf => by
    have h := unqueued_proj (fun u => f u.obj) (fun u => hf u.obj _) hu
    rw [hw, h, transferFault_obj hq]
  dsimp only
  rw [heq]
  refine ⟨hend.completed (completed_complete hcalm hdead _ _), ?_, ?_, ?_, fun hop => ?_, ?_, ?_⟩
  · rw [rbit, hrn _ (by cases p <;> decide), ← rbit, transferFault_fstat hq _ _ hb]
  · rw [hrn _ (by cases p <;> decide), transferFault_errunc hq]
  · have h : cfgVar ((complete w k scTransfer 0).port p) = cfgVar (w.port p) :=
      unposted_proj cfgVar (fun _ => rfl) (unposted_complete hcalm hdead scTransfer 0 p)
    rw [cfgBit, h, hport, transferFault_port hq, ← cfgBit, cfgBit_aerUnc]
  · rw [endView_proj (fun u => u.obj.chunks) (fun _ => rfl) (endView_complete hcalm hdead (.inr (ht ▸ hop)) 0)]
    exact hobj ObjSt.chunks fun _ _ => rfl
  · rw [endView_proj (fun u => u.obj.nss) (fun _ => rfl) hview, unstored_proj (fun u => u.obj.nss) (fun _ => rfl) hstores]
    exact hobj ObjSt.nss fun _ _ => rfl
  · rw [endView_proj State.mem (fun _ => rfl) hview, unstored_proj State.mem (fun _ => rfl) hstores, hw,
      unqueued_proj State.mem (fun _ => rfl) hu, transferFault_mem hq]

/-- R94, R146: while media operations of the command are under way, it is marked, and starts none. -/
theorem transferError_marks {s : State} {p : Port} {k : Nat} (hl : linkCarries s p = true) (hq : quiet s (blkOfPort p))
    (ha : (tagAt s k).st = .active) (hp : (tagAt s k).port = p) (hd : (tagAt s k).dead = false) (hm : (tagAt s k).mops ≠ 0)
    {bit : Nat} (hb : bit < 64) (aer : Nat) :
    let t := transferError s p (.cmd k) bit aer
    tagAt t k = { tagAt s k with aborted := true, sct := 0, sc := 4 } ∧ (∀ w ∈ t.cqu.waitOps, w.tag ≠ k)
      ∧ rbit t (aFstat (blkOfPort p)) bit = true ∧ t.obj.chunks = s.obj.chunks ∧ t.obj.nss = s.obj.nss ∧ t.mem = s.mem := by
  have hu := unqueued_withdrawn (transferFault s p bit aer) k
  have ht : tagAt (withdrawn (transferFault s p bit aer) k) k = tagAt s k := by rw [withdrawn_tagAt, tagAt, transferFault_cqu hq, tagAt]
  have heq : transferError s p (.cmd k) bit aer
      = modTag (withdrawn (transferFault s p bit aer) k) k fun x => { x with aborted := true, sct := 0, sc := 4 } := by
    rw [transferError_cmd hl hq ha hp hd, endWith_eq, ht, if_neg hm]
    rfl
  have hobj : ∀ {β : Type} (f : ObjSt → β), (∀ o l, f { o with readers := l } = f o) →
      f (withdrawn (transferFault s p bit aer) k).obj = f s.obj := fun f hf => by
    rw [unqueued_proj (fun u => f u.obj) (fun u => hf u.obj _) hu, transferFault_obj hq]
  dsimp only
  rw [heq]
  refine ⟨by rw [tagAt_modTag_same, ht], withdrawn_waitOps _ _, ?_, hobj ObjSt.chunks fun _ _ => rfl, hobj ObjSt.nss fun _ _ => rfl, ?_⟩
  · have h : (withdrawn (transferFault s p bit aer) k).regs = (transferFault s p bit aer).regs :=
      unqueued_proj State.regs (fun _ => rfl) hu
    have hr := transferFault_fstat hq bit aer hb
    simp only [rbit, rn, rget, modTag, setTag] at hr ⊢
    rw [h, hr]
  · exact (unqueued_proj State.mem (fun _ => rfl) hu).trans (transferFault_mem hq bit aer)

end Sys2Proof.Machine
end

section
open Sys2Proof Sys2Proof.Machine

/-- Settles O19: each event of a link changes its port and its counters alone, and one of a transfer ends its command. -/
theorem hostLinks : Obligations.HostLinks := by
  refine ⟨?_, ?_, ?_, ?_, ?_, ?_, ?_, ?_, ?_⟩
  · intro p rate width flit s hp hperst hrate hcut hwidth hflit
    have heq : linkTrainedOp s p rate width flit = setLtssm (modPort s p fun x =>
        { x with linkUp := true, inRec := false, clkreq := true, rate := rate, width := width, flit := flit, pm := .l0 }) p := by
      have hflit' : (decide (rate < 5) || flit) = true := by simpa using hflit
      simp [linkTrainedOp, when, hp, hperst, hrate, hcut, hwidth, hflit']
    refine answers_settled _ _ ?_
    simp only [settle_port, settle_regs, settle_mem]
    rw [heq, setLtssm_port, modPort_port, setLtssm_port_ne _ (otherPort_ne p), modPort_port_ne _ _ (otherPort_ne p)]
    exact ⟨rfl, rfl, rfl, rfl, rfl, rfl, rfl, rfl, rfl, rfl⟩
  · intro p v s hp hup
    refine answers_settled _ _ ?_
    simp only [settle_rf, settle_rn, settle_port, settle_mem]
    obtain ⟨hlimit, hcount, hup', hrec, hregs, hmem⟩ := linkctlWrite_retrains hp hup v
    exact ⟨hlimit, hcount, hup', hrec, regsSameBut_settle hregs, hmem⟩
  · intro p replay recovery s hl
    refine answers_settled _ _ ?_
    simp only [settle_rn, settle_port, settle_mem]
    cases recovery with
    | false =>
      obtain ⟨hcount, hport, hregs, hother, hmem⟩ := correctableLinkErrorOp_stays hl replay
      refine ⟨hcount, ?_, fun _ => ⟨hport, regsSameBut_settle hregs⟩, nofun, hother, hmem⟩
      rw [hport]
      exact cfgBit_aerCor _ _
    | true =>
      obtain ⟨hcount, hbit, hrec, hrecov, hother, hmem⟩ := correctableLinkErrorOp_recovers hl replay
      exact ⟨hcount, hbit, nofun, fun _ => ⟨hrec, hrecov⟩, hother, hmem⟩
  · intro p k s hl hq ha hp hd hm hc
    obtain ⟨hdone, hstat, hcount, hbit, hchunks, hnss, hmem⟩ := transferError_completes hl hq ha hp hd hm hc (show 0 < 64 by decide) 12
    refine answers_settled _ _ ?_
    simp only [completed_settle, settle_rbit, settle_rn, settle_port, settle_obj, settle_mem]
    exact ⟨hdone, hstat, hcount, hbit, hchunks, hnss, hmem⟩
  · intro p k s hl hq ha hp hd hm hc
    obtain ⟨hdone, hstat, hcount, hbit, hchunks, hnss, hmem⟩ := transferError_completes hl hq ha hp hd hm hc (show 1 < 64 by decide) 14
    refine answers_settled _ _ ?_
    simp only [completed_settle, settle_rbit, settle_rn, settle_port, settle_obj, settle_mem]
    exact ⟨hdone, hstat, hcount, hbit, hchunks, hnss, hmem⟩
  · intro p k s hl hq ha hp hd hm hc
    obtain ⟨hdone, hstat, -, hbit, hchunks, hnss, hmem⟩ := transferError_completes hl hq ha hp hd hm hc (show 1 < 64 by decide) 20
    refine answers_settled _ _ ?_
    simp only [completed_settle, settle_rbit, settle_port, settle_obj, settle_mem]
    exact ⟨hdone, hstat, hbit, hchunks, hnss, hmem⟩
  · intro p k s hl hq ha hp hd hm
    obtain ⟨htag, hwaits, hstat, hchunks, hnss, hmem⟩ := transferError_marks hl hq ha hp hd hm (show 1 < 64 by decide) 20
    refine answers_settled _ _ ?_
    simp only [tagAt, settle_cqu, settle_rbit, settle_obj, settle_mem]
    have hst : (tget Tag.free (urOrCaReceivedOp s p (.cmd k)).cqu.tags k) = _ := htag
    rw [hst]
    exact ⟨ha, rfl, rfl, rfl, hwaits, hstat, hchunks, hnss, hmem⟩
  · intro p s hp hperst
    have heq : perstDeassertOp s p = modPort s p fun x => { x with perst := false, clkreq := true, dstate := 0, wake := false } := by
      simp [perstDeassertOp, when, hp, hperst]
    refine answers_settled _ _ ?_
    simp only [settle_port, settle_regs, settle_mem, heq]
    exact ⟨modPort_port s p _, modPort_port_ne _ _ (otherPort_ne p), rfl, rfl⟩
  · intro p pm s hp hup hpm
    have heq : linkPowerStateOp s p pm = setLtssm (modPort s p fun x => { x with pm := pm, inRec := false, clkreq := asksClock pm }) p := by
      simp [linkPowerStateOp, when, hp, hup, hpm]
    have hport := setLtssm_port (modPort s p fun x => { x with pm := pm, inRec := false, clkreq := asksClock pm }) p
    rw [modPort_port] at hport
    refine answers_settled _ _ ?_
    simp only [settle_port, settle_regs, settle_mem]
    refine ⟨?_, ?_, ?_, ?_⟩
    · rw [heq]
      exact hport
    · rw [heq, setLtssm_port_ne _ (otherPort_ne p), modPort_port_ne _ _ (otherPort_ne p)]
    · rw [heq]
      rfl
    · rw [heq]
      rfl
end

section
/-! Entry to PS3, its joining by the other controller, and its reversal (R119, R120, R149, R150). -/

namespace Sys2Proof.Machine

/-! ### Slices and actuators -/

@[simp] theorem settle_act (s : State) (a : Fin 16) : (settle s).act a = s.act a := by rw [State.act, settle_acts, State.act]

/-- No slice holds an operation. -/
def Unworked (s : State) : Prop := ∀ n : Fin 8, (s.slice n).op = none

theorem notReadAct_unworked {s : State} (h : Unworked s) (a : Fin 16) : notReadAct s a = s := by
  unfold notReadAct
  split
  · rfl
  next n _ => rw [notRead, h n]

theorem cutOps_unworked {s : State} (h : Unworked s) : cutOps s = s := by
  refine overList_id _ s _ fun n _ => ?_
  rw [notRead, h n]
  dsimp only
  rw [cutWrite, h n]

/-- The state of an actuator once an UNLOAD has reached it (R342). -/
def unloadedSt (st : ActState) : ActState := if st = .parked then .parked else if st = .retract then .retract else .unload

theorem unloadedSt_idem (st : ActState) : unloadedSt (unloadedSt st) = unloadedSt st := by cases st <;> rfl

/-- `s` with all blanked that commands of actuators change. -/
def unradius (s : State) : State := { s with regs := [], acts := Vector.replicate 16 ActSt.reset }

theorem unradius_proj {β : Type} {s t : State} (f : State → β) (hf : ∀ u, f (unradius u) = f u) (h : unradius t = unradius s) :
    f t = f s := by rw [← hf t, h, hf]

theorem rbit_gctl_radIgnored (s : State) (a : Fin 16) : rbit (radIgnored s a) Reg.radGctl 0 = rbit s Reg.radGctl 0 := by
  have hne : Reg.radGctl ≠ Reg.radCmdign a := by
    revert a
    decide
  rw [rbit, rn, radIgnored, rget_rcount_ne _ _ hne, rbit, rn]

/-- Step 2 of R149 for one actuator. -/
def unloadStep (s : State) (a : Fin 16) : State := if (s.act a).st = .parked then s else unloadOp s a

theorem unloadLoaded_eq (s : State) : unloadLoaded s = overList fin16 s unloadStep := rfl

/-- What step 2 of R149 leaves of one actuator, and of all others. -/
theorem unloadStep_facts {s : State} (hw : Unworked s) (hg : rbit s Reg.radGctl 0 = true) (a : Fin 16) :
    unradius (unloadStep s a) = unradius s ∧ rbit (unloadStep s a) Reg.radGctl 0 = true
      ∧ (∀ b, b ≠ a → ((unloadStep s a).act b).st = (s.act b).st)
      ∧ (actPresent s a = true → ((unloadStep s a).act a).st = unloadedSt (s.act a).st) := by
  unfold unloadStep
  split
  next hp => exact ⟨rfl, hg, fun _ _ => rfl, fun _ => by rw [hp]; rfl⟩
  next hp =>
    unfold unloadOp radCommand
    rw [hg]
    split
    next hn => exact ⟨rfl, hg, fun _ _ => rfl, fun h => by simp [h] at hn⟩
    next =>
      have hignored : unradius (radIgnored s a) = unradius s ∧ rbit (radIgnored s a) Reg.radGctl 0 = true
          ∧ (∀ b, b ≠ a → ((radIgnored s a).act b).st = (s.act b).st) :=
        ⟨rfl, (rbit_gctl_radIgnored s a).trans hg, fun _ _ => rfl⟩
      have hentry : (s.act a).st ≠ .retract → unradius (unloadEntry s a) = unradius s ∧ rbit (unloadEntry s a) Reg.radGctl 0 = true
          ∧ (∀ b, b ≠ a → ((unloadEntry s a).act b).st = (s.act b).st) ∧ ((unloadEntry s a).act a).st = unloadedSt (s.act a).st := by
        intro hr
        unfold unloadEntry
        split
        next h => exact absurd h hp
        next h => exact absurd h hr
        next h => exact ⟨rfl, hg, fun _ _ => rfl, by rw [h]; rfl⟩
        all_goals
          next h =>
            have hseq : notReadAct (toSequencer s a .unload) a = toSequencer s a .unload := notReadAct_unworked (s := toSequencer s a .unload) hw a
            rw [hseq, h]
            refine ⟨rfl, hg, fun b hb => ?_, ?_⟩
            · rw [toSequencer, modAct_act_ne _ _ hb.symm]
            · rw [toSequencer, modAct_act]
              rfl
      simp only [Bool.not_true, Bool.false_eq_true, if_false]
      split
      next h => exact absurd h hp
      next h =>
        obtain ⟨hv, hb, ho⟩ := hignored
        refine ⟨hv, hb, ho, fun _ => ?_⟩
        rw [h]
        exact h
      all_goals
        next h =>
          obtain ⟨hv, hb, ho, hs⟩ := hentry (by rw [h]; decide)
          exact ⟨hv, hb, ho, fun _ => hs⟩

theorem overUnload_facts (l : List (Fin 16)) {s : State} (hw : Unworked s) (hg : rbit s Reg.radGctl 0 = true) :
    unradius (overList l s unloadStep) = unradius s ∧ ∀ b : Fin 16, actPresent s b = true →
      ((overList l s unloadStep).act b).st = if b ∈ l then unloadedSt (s.act b).st else (s.act b).st := by
  induction l generalizing s with
  | nil => exact ⟨rfl, fun _ _ => rfl⟩
  | cons a rest ih =>
    obtain ⟨hv, hb, ho, ha⟩ := unloadStep_facts hw hg a
    have hw' : Unworked (unloadStep s a) := fun n => by
      rw [unradius_proj (fun u => u.slice n) (fun _ => rfl) hv]
      exact hw n
    obtain ⟨hv', hst⟩ := ih hw' hb
    refine ⟨hv'.trans hv, fun b hpb => ?_⟩
    have hpb' : actPresent (unloadStep s a) b = true := by
      rw [actPresent, unradius_proj State.conf (fun _ => rfl) hv]
      exact hpb
    have hrest := hst b hpb'
    rw [overList, List.foldl_cons, ← overList, hrest]
    by_cases h : b = a
    · subst h
      rw [ha hpb, if_pos List.mem_cons_self, unloadedSt_idem, ite_self]
    · rw [ho b h]
      simp [h]

/-! ### Gates (R54) -/

theorem overGate_bit (g : Bool) (l : List (Fin 8)) (s : State) {n : Fin 8} (hn : slicePresent s n = true) :
    rbit (overList l s fun s (m : Fin 8) => if slicePresent s m = true then rbitSet s Reg.pmuGate m g else s) Reg.pmuGate n
      = if n ∈ l then g else rbit s Reg.pmuGate n := by
  induction l generalizing s with
  | nil => rfl
  | cons m rest ih =>
    rw [overList, List.foldl_cons, ← overList]
    by_cases hm : slicePresent s m = true
    · have hn' : slicePresent (rbitSet s Reg.pmuGate m g) n = true := hn
      rw [if_pos hm, ih _ hn']
      by_cases h : n = m
      · subst h
        rw [rbit_rbitSet_same _ _ (by omega), ite_self, if_pos List.mem_cons_self]
      · rw [rbit_rbitSet_ne _ _ (by omega) (fun e => h (Fin.ext e))]
        simp [h]
    · rw [if_neg hm, ih _ hn]
      have h : n ≠ m := fun e => hm (e ▸ hn)
      simp [h]

theorem gateSlices_bit (s : State) (g : Bool) {n : Fin 8} (hn : slicePresent s n = true) : rbit (gateSlices s g) Reg.pmuGate n = g := by
  rw [gateSlices, overGate_bit g fin8 s hn, if_pos (mem_fin8 n)]

/-! ### What a reversal leaves (R150) -/

/-- The ports, the buffer's state and the gates of the slices. -/
def gatesView (s : State) : Vector PortSt 2 × MemSt × DWord := (s.ports, s.ms, rget s Reg.pmuGate)

theorem gatesView_rcount (s : State) {a : Nat} (n : Nat) (h : Reg.pmuGate ≠ a) : gatesView (rcount s a n) = gatesView s :=
  congrArg (fun v => (s.ports, s.ms, v)) (rget_rcount_ne s n h)

theorem gatesView_spnStartOp (s : State) (i : Fin 8) : gatesView (spnStartOp s i) = gatesView s := by
  have hign : Reg.pmuGate ≠ Reg.spnCmdign i := by
    revert i
    decide
  have hstarts : Reg.pmuGate ≠ Reg.spnStarts i := by
    revert i
    decide
  have hi : gatesView (spnIgnored s i) = gatesView s := gatesView_rcount s 1 hign
  have hl : ∀ u : State, gatesView u = gatesView s → gatesView (spnListen (rcount u (Reg.spnStarts i) 1) i) = gatesView s := fun u hu =>
    (gatesView_rcount u 1 hstarts).trans hu
  unfold spnStartOp
  dsimp only
  split
  · exact hi
  · split
    · split
      · exact hi
      · exact hl s rfl
    · exact hl _ rfl
    all_goals exact hi

/-- The slices ungated, and a buffer that serves out of self-refresh. -/
def ungated (s : State) : State := gateSlices { s with ms := { s.ms with selfref := s.ms.selfref && !s.ms.ready } } false

/-- The spindles that brake started again. -/
def caught (s : State) : State := overList fin8 s fun s i => if (s.spn i).st = .brake then spnStartOp s i else s

theorem undoPs3_late {s : State} (h : 3 ≤ s.cqu.psStep) :
    undoPs3 s = { caught (ungated s) with cqu := { (caught (ungated s)).cqu with psStep := 2, psUndo := true } } := by
  unfold undoPs3 caught ungated
  dsimp only
  rw [if_pos h]

theorem gatesView_caught (s : State) : gatesView (caught s) = gatesView s :=
  overList_keeps gatesView fin8 s _ fun t i => cond_keeps (gatesView_spnStartOp t i) rfl

theorem gateSlices_keeps {β : Type} {p : State → β} (hp : ∀ t i v, p (rbitSet t Reg.pmuGate i v) = p t) (s : State) (g : Bool) :
    p (gateSlices s g) = p s := by
  unfold gateSlices
  refine overList_keeps p fin8 s _ fun t n => ?_
  split
  · exact hp t n g
  · rfl

/-- R150: at step 3 or 4 the reversal ungates the slices and takes the buffer out of self-refresh. -/
theorem undoPs3_late_fields {s : State} (h : 3 ≤ s.cqu.psStep) :
    (undoPs3 s).cqu.psStep = 2 ∧ (undoPs3 s).cqu.psUndo = true ∧ (undoPs3 s).ports = s.ports
      ∧ (∀ n : Fin 8, slicePresent s n = true → rbit (undoPs3 s) Reg.pmuGate n = false)
      ∧ (undoPs3 s).ms.selfref = (s.ms.selfref && !s.ms.ready) := by
  have hview := gatesView_caught (ungated s)
  have hports : (ungated s).ports = s.ports := gateSlices_keeps (p := State.ports) (fun _ _ _ => rfl) _ false
  have hself : (ungated s).ms.selfref = (s.ms.selfref && !s.ms.ready) := gateSlices_keeps (p := fun u => u.ms.selfref) (fun _ _ _ => rfl) _ false
  have hgate : ∀ n : Fin 8, slicePresent s n = true → rbit (ungated s) Reg.pmuGate n = false := fun n hn => gateSlices_bit _ false hn
  rw [undoPs3_late h]
  generalize ungated s = u at *
  generalize caught u = v at *
  refine ⟨rfl, rfl, (congrArg (fun w => w.1) hview).trans hports, fun n hn => ?_, (congrArg (fun w => w.2.1.selfref) hview).trans hself⟩
  have hreg : rget v Reg.pmuGate = rget u Reg.pmuGate := congrArg (fun w => w.2.2) hview
  exact (congrArg (fun w => w.toNat.testBit n) hreg).trans (hgate n hn)

/-- R150: the end of the reversal. -/
theorem endReversal_fields (s : State) (loads : Bool) :
    (endReversal s loads).cqu.psStep = 0 ∧ (endReversal s loads).cqu.reversing = false ∧ (endReversal s loads).cqu.psUndo = false
      ∧ ((endReversal s loads).port s.cqu.psPort).ps = (s.port s.cqu.psPort).lastOpPs := by
  have hload : ∀ (u : State) a, unradius (loadOp u a) = unradius u := fun u a => by
    unfold loadOp radCommand
    split
    · rfl
    · split
      · rfl
      · dsimp only
        split <;> rfl
  obtain ⟨u, hu⟩ : ∃ u, u = if loads = true then
      overList fin16 s fun s a => if ((s.act a).st = .parked && (s.spn (spnOf a)).atspeed) = true then loadOp s a else s else s := ⟨_, rfl⟩
  have hview : unradius u = unradius s := by
    rw [hu]
    exact cond_keeps (overList_keeps unradius fin16 s _ fun t a => cond_keeps (hload t a) rfl) rfl
  have hcqu : u.cqu = s.cqu := unradius_proj State.cqu (fun _ => rfl) hview
  have hport : u.port s.cqu.psPort = s.port s.cqu.psPort := unradius_proj (fun v => v.port s.cqu.psPort) (fun _ => rfl) hview
  refine ⟨rfl, rfl, rfl, ?_⟩
  unfold endReversal
  rw [← hu]
  dsimp only
  have hq : s.cqu.psPort ≠ (if s.cqu.psPort = .a then .b else .a) := by
    cases s.cqu.psPort <;> decide
  have hps : ((modPort u u.cqu.psPort fun x => { x with ps := x.lastOpPs }).port s.cqu.psPort).ps = (s.port s.cqu.psPort).lastOpPs := by
    rw [hcqu, modPort_port, hport]
  split
  · refine (congrArg PortSt.ps (modPort_port_ne _ _ ?_)).trans hps
    rw [show (modPort u u.cqu.psPort fun x => { x with ps := x.lastOpPs }).cqu.psPort = s.cqu.psPort from congrArg CquSt.psPort hcqu]
    exact hq
  · exact hps

/-! ### The steps of PS3_ENTRY (R149) -/

section
variable {s : State} (hu : s.cqu.psUndo = false)
include hu

theorem ps3EntryOp_one (hk : s.cqu.psStep = 1) (hr : s.cqu.reversing = false) (hw : Unworked s) :
    ps3EntryOp s = unloadLoaded { s with cqu := { s.cqu with psStep := 2 } } := by
  simp only [ps3EntryOp, hu, hk, hr, when, Bool.false_eq_true, ↓reduceIte]
  refine if_pos (List.all_eq_true.mpr fun n _ => ?_)
  rw [hw n, Bool.or_true]

theorem ps3EntryOp_three (hk : s.cqu.psStep = 3) (hr : s.cqu.reversing = false) :
    ps3EntryOp s = (fun u => if s.cqu.psBoth = true then modPort u (if s.cqu.psPort = .a then .b else .a) fun x => { x with ps := 3 } else u)
      (modPort { s with cqu := { s.cqu with psStep := 4 }, ms := { s.ms with selfref := true } } s.cqu.psPort fun x => { x with ps := 3 }) := by
  simp [ps3EntryOp, hu, hk, hr, when]

theorem ps3EntryOp_four (hk : s.cqu.psStep = 4) (hr : s.cqu.reversing = false) (ht : turningMask s = 0) :
    ps3EntryOp s = { s with cqu := { s.cqu with psStep := 0 } } := by
  simp [ps3EntryOp, hu, hk, hr, when, ht]

theorem ps3EntryOp_reversed (hk : s.cqu.psStep = 4) (hr : s.cqu.reversing = true) : ps3EntryOp s = undoPs3 s := by
  simp [ps3EntryOp, hu, hk, hr, when]

end

theorem ps3EntryOp_undoing {s : State} (hu : s.cqu.psUndo = true) :
    ps3EntryOp s = if fin8.any (spinsUp s) then s else endReversal s true := by
  simp [ps3EntryOp, hu]

/-- R120: without a command in flight a controller that enables it decides the entry. -/
theorem autonomousPs3Op_decides {s : State} {p : Port} (hr : (s.port p).rdy = true)
    (hf : (tget 0 (s.port p).features 0x0C).testBit 0 = true) (ht : s.cqu.tags = []) : autonomousPs3Op s p = decidePs3 s p := by
  simp [autonomousPs3Op, when, hr, hf, ht]

end Sys2Proof.Machine
end

section
open Sys2Proof Sys2Proof.Machine

/-- Settles O21, step by step of the entry and of its reversal. -/
theorem powerStateEntry : Obligations.PowerStateEntry := by
  refine ⟨?_, ?_, ?_, ?_, ?_, ?_, ?_, ?_⟩
  · intro p s hr hf ht hk hps hw
    have hcut := cutOps_unworked (s := { modPort s p fun x => { x with lastOpPs := x.ps } with
      cqu := { s.cqu with psStep := 1, psTarget := 3, psPort := p, psBoth := false, psUndo := false, reversing := false } }) hw
    have heq : autonomousPs3Op s p = { modPort s p fun x => { x with lastOpPs := x.ps } with
        cqu := { s.cqu with psStep := 1, psTarget := 3, psPort := p, psBoth := false, psUndo := false, reversing := false } } := by
      rw [autonomousPs3Op_decides hr hf ht, decidePs3, if_neg hps, if_neg (by simp [hk])]
      exact hcut
    refine answers_settled _ _ ?_
    simp only [settle_cqu, settle_port, settle_regs, settle_mem]
    rw [heq]
    exact ⟨rfl, rfl, rfl, rfl, congrArg PortSt.lastOpPs (modPort_port s p _), modPort_port_ne s _ (otherPort_ne p), rfl, rfl⟩
  · intro p s hr hf ht hk hu hrev hboth hq hps
    have heq : autonomousPs3Op s p = modPort { s with cqu := { s.cqu with psBoth := true } } p fun x => { x with lastOpPs := x.ps } := by
      rw [autonomousPs3Op_decides hr hf ht, decidePs3, if_neg hps, if_pos (by simp [hk, hu]), if_neg (by simp [hrev, hboth, hq])]
    refine answers_settled _ _ ?_
    simp only [settle_cqu, settle_port, settle_regs, settle_mem]
    rw [heq]
    exact ⟨rfl, congrArg PortSt.lastOpPs (modPort_port _ p _), rfl, rfl⟩
  · intro s hk hr hu hg hw
    obtain ⟨hview, hst⟩ := overUnload_facts fin16 (s := { s with cqu := { s.cqu with psStep := 2 } }) hw hg
    refine answers_settled _ _ ?_
    simp only [settle_cqu, settle_act, settle_spns, settle_mem]
    rw [ps3EntryOp_one hu hk hr hw, unloadLoaded_eq]
    refine ⟨?_, fun a ha => ?_, ?_, ?_⟩
    · rw [unradius_proj State.cqu (fun _ => rfl) hview]
    · rw [hst a ha, if_pos (mem_fin16 a)]
      rfl
    · rw [unradius_proj State.spns (fun _ => rfl) hview]
    · rw [unradius_proj State.mem (fun _ => rfl) hview]
  · intro s hk hr hu
    refine answers_settled _ _ ?_
    simp only [settle_cqu, settle_ms, settle_port, settle_regs, settle_mem]
    rw [ps3EntryOp_three hu hk hr]
    obtain ⟨u, hdef⟩ : ∃ u, u = modPort { s with cqu := { s.cqu with psStep := 4 }, ms := { s.ms with selfref := true } } s.cqu.psPort
      fun x => { x with ps := 3 } := ⟨_, rfl⟩
    have hps : (u.port s.cqu.psPort).ps = 3 := by rw [hdef, modPort_port]
    have hfields : u.cqu.psStep = 4 ∧ u.ms.selfref = true ∧ u.regs = s.regs ∧ u.mem = s.mem := by
      rw [hdef]
      exact ⟨rfl, rfl, rfl, rfl⟩
    rw [← hdef]
    obtain ⟨hstep, hself, hregs, hmem⟩ := hfields
    have hne : s.cqu.psPort ≠ (if s.cqu.psPort = .a then .b else .a) := by cases s.cqu.psPort <;> decide
    have hall : ∀ p, p = s.cqu.psPort ∨ p = (if s.cqu.psPort = .a then .b else .a) := fun p => by
      cases p <;> cases s.cqu.psPort <;> decide
    cases hb : s.cqu.psBoth with
    | false =>
      simp only [Bool.false_eq_true, if_false]
      exact ⟨hstep, hself, hps, nofun, hregs, hmem⟩
    | true =>
      simp only [if_true]
      have hps' : ((modPort u (if s.cqu.psPort = .a then .b else .a) fun x => { x with ps := 3 }).port s.cqu.psPort).ps = 3 := by
        rw [modPort_port_ne _ _ hne, hps]
      refine ⟨hstep, hself, hps', fun _ p => ?_, hregs, hmem⟩
      rcases hall p with rfl | rfl
      · exact hps'
      · rw [modPort_port]
  · intro s hk hr hu ht
    refine answers_settled _ _ ?_
    simp only [settle_cqu, settle_ports, settle_regs, settle_mem]
    rw [ps3EntryOp_four hu hk hr ht]
    exact ⟨rfl, rfl, rfl, rfl⟩
  · intro s hk hr hu
    obtain ⟨hstep, hundo, hports, hgate, hself⟩ := undoPs3_late_fields (s := s) (by omega)
    refine answers_settled _ _ ?_
    simp only [settle_cqu, settle_ports, settle_ms, settle_rbit]
    rw [ps3EntryOp_reversed hu hk hr]
    refine ⟨hstep, hundo, hgate, hports, fun h => ?_⟩
    rw [hself, h, Bool.not_true, Bool.and_false]
  · intro s hu hup
    obtain ⟨hstep, hrev, hundo, hps⟩ := endReversal_fields s true
    refine answers_settled _ _ ?_
    simp only [settle_cqu, settle_port]
    rw [ps3EntryOp_undoing hu, if_neg (by simp [hup])]
    exact ⟨hstep, hrev, hundo, hps⟩
  · intro s hu hup
    have heq : ps3EntryOp s = s := by rw [ps3EntryOp_undoing hu, if_pos hup]
    exact congrArg (fun u => Host.Outcome.next (settle u)) heq
end

section
/-! The end of an admin command: what it finds, what it leaves, and what reaches the host (R98, R112, R142). -/

namespace Sys2Proof.Machine

/-! ### Tags -/

theorem mem_of_tget_ne {α : Type} {d : α} {m : SMap α} {k : Nat} (h : tget d m k ≠ d) : (k, tget d m k) ∈ m := by
  induction m with
  | nil => exact absurd rfl h
  | cons e rest ih =>
    unfold tget at h ⊢
    split at h
    next he =>
      rw [if_pos he, ← he]
      exact List.mem_cons_self
    next he =>
      rw [if_neg he]
      exact List.mem_cons_of_mem _ (ih h)

/-- A tag in use is listed. -/
theorem tag_listed {s : State} {k : Nat} (h : (tagAt s k).st ≠ .free) : (k, tagAt s k) ∈ s.cqu.tags :=
  mem_of_tget_ne fun he => h (congrArg Tag.st he)

theorem calm_setTag {s : State} (h : calm s) (k : Nat) {x : Tag} (hx : x.st ≠ .lockwait) : calm (setTag s k x) := by
  refine ⟨(waiters_eq_nil _).mpr fun e he => ?_, h.2⟩
  rcases mem_tset he with he | rfl
  · exact (waiters_eq_nil s).mp h.1 e he
  · exact hx

theorem calm_modTag {s : State} (h : calm s) (k : Nat) {f : Tag → Tag} (hx : (f (tagAt s k)).st ≠ .lockwait) : calm (modTag s k f) :=
  calm_setTag h k hx

section
variable {s : State} {k : Nat} {op : HostOp}

/-- What a command that is handed to firmware stands in (R143). -/
theorem ready_facts (h : ready s k op = true) :
    (tagAt s k).st = .active ∧ (tagAt s k).cmd.op = op ∧ (tagAt s k).mops = 0 ∧ s.cqu.stopped = false
      ∧ ((tagAt s k).dead = true → runsOn op = true) := by
  simp only [ready, Bool.and_eq_true, decide_eq_true_eq, Bool.not_eq_true', Bool.or_eq_true] at h
  obtain ⟨⟨⟨⟨⟨⟨⟨⟨⟨hst, hop⟩, hm⟩, -⟩, hs⟩, -⟩, -⟩, -⟩, -⟩, hd⟩ := h
  refine ⟨hst, hop, hm, hs, fun hdead => ?_⟩
  rw [hdead] at hd
  exact hd.resolve_left (by decide)

theorem ready_active (h : ready s k op = true) : (tagAt s k).st = .active := (ready_facts h).1
theorem ready_op (h : ready s k op = true) : (tagAt s k).cmd.op = op := (ready_facts h).2.1

theorem ready_alive (h : ready s k op = true) (ho : runsOn op = false) : (tagAt s k).dead = false := by
  obtain ⟨-, -, -, -, hd⟩ := ready_facts h
  cases hdead : (tagAt s k).dead with
  | false => rfl
  | true => exact absurd (hd hdead) (by simp [ho])

theorem readyAdmin_ready (h : readyAdmin s k op = true) : ready s k op = true := (Bool.and_eq_true_iff.mp h).2
theorem readyAdmin_admin (h : readyAdmin s k op = true) : (tagAt s k).admin = true := (Bool.and_eq_true_iff.mp h).1

theorem adminCmd_ready (h : readyAdmin s k .adminOther = true) (f : Tag → State) : adminCmd s k f = f (tagAt s k) := if_pos h

end

/-! ### The end of a command after changes that its completion does not see -/

theorem SameEnd.of_queue {s u : State} {k : Nat} (ht : tagAt u k = tagAt s k) (hs : u.cqu.stopped = s.cqu.stopped)
    (hq : cqOfSq (u.port (tagAt s k).port) (tagAt s k).sqid = cqOfSq (s.port (tagAt s k).port) (tagAt s k).sqid) : SameEnd s u k :=
  ⟨by rw [ht], by rw [ht], by rw [ht], by simp only [entryQueue, ht, hs, hq]⟩

/-- The command queue unit with all blanked that the end of a command changes. -/
def unfiled (c : CquSt) : CquSt := { c with tags := [], locks := [], compq := [] }

theorem unfiled_complete {s : State} {k : Nat} (hc : calm s) (hd : (tagAt s k).dead = false) (r : Nat × Nat) (dw0 : Nat) :
    unfiled (complete s k r dw0).cqu = unfiled s.cqu := by
  rw [complete_eq_posted hc hd, posted]
  split <;> rfl

/-- What completing a command leaves of a state that its completion does not tell from `s`. -/
theorem complete_after {s u : State} {k : Nat} (hend : SameEnd s u k) (hc : calm u) (hd : (tagAt u k).dead = false) {r : Nat × Nat}
    (hr : r = scOk ∨ (tagAt u k).cmd.op ≠ .zoneAppend) (dw0 : Nat) :
    Completed s (complete u k r dw0) k r dw0 ∧ endView (complete u k r dw0) = endView u
      ∧ ∀ p, unposted ((complete u k r dw0).port p) = unposted (u.port p) :=
  ⟨hend.completed (completed_complete hc hd _ _), endView_complete hc hd hr dw0, unposted_complete hc hd r dw0⟩

theorem unposted_find {x y : PortSt} (h : unposted y = unposted x) (qid : Nat) {q : Cq}
    (hq : x.cqs.find? (fun c => decide (c.qid = qid)) = some q) :
    ∃ q', y.cqs.find? (fun c => decide (c.qid = qid)) = some q' ∧ untaken q' = untaken q := by
  have hcqs : y.cqs.map untaken = x.cqs.map untaken := congrArg PortSt.cqs h
  have hfind : ∀ l : List Cq, (l.find? fun c => decide (c.qid = qid)).map untaken = (l.map untaken).find? fun c => decide (c.qid = qid) := fun l => by
    rw [List.find?_map]
    rfl
  have hy := hfind y.cqs
  rw [hcqs, ← hfind, hq] at hy
  obtain ⟨q', hq', he⟩ := Option.map_eq_some_iff.mp hy
  exact ⟨q', hq', he⟩

theorem unposted_qid_ne {x y : PortSt} (h : unposted y = unposted x) {qid : Nat} (hx : ∀ q ∈ x.cqs, q.qid ≠ qid) : ∀ q ∈ y.cqs, q.qid ≠ qid := by
  have hcqs : y.cqs.map untaken = x.cqs.map untaken := congrArg PortSt.cqs h
  intro q hq
  have hm : untaken q ∈ x.cqs.map untaken := hcqs ▸ List.mem_map_of_mem hq
  obtain ⟨q', hq', he⟩ := List.mem_map.mp hm
  have hid : q'.qid = q.qid := (congrArg Cq.qid he : (untaken q').qid = (untaken q).qid)
  rw [← hid]
  exact hx q' hq'

/-! ### Data sent to the host (R93, R98) -/

/-- `s` with all blanked that data sent to the host change. -/
def unsent (s : State) : State := { s with hostMem := [], ports := Vector.replicate 2 PortSt.reset }

theorem unsent_proj {β : Type} {s t : State} (f : State → β) (hf : ∀ u, f (unsent u) = f u) (h : unsent t = unsent s) : f t = f s := by
  rw [← hf t, h, hf]

theorem unsent_hostPut (s : State) (p : Port) (c : HostCmd) (len off : Nat) (bs : List Byte) : unsent (hostPut s p c len off bs) = unsent s := by
  unfold hostPut
  split
  · rfl
  · dsimp only
    split <;> rfl

theorem hostPut_port (s : State) (p q : Port) (c : HostCmd) (len off : Nat) (bs : List Byte) :
    (hostPut s p c len off bs).port q = { s.port q with posted := ((hostPut s p c len off bs).port q).posted } := by
  unfold hostPut
  split
  · rfl
  · dsimp only
    split
    · rfl
    · by_cases h : q = p
      · rw [h, modPort_port]
        rfl
      · rw [modPort_port_ne _ _ h]
        rfl

theorem unsent_sendHost (s : State) (x : Tag) (bs : List Byte) : unsent (sendHost s x bs) = unsent s := unsent_hostPut _ _ _ _ _ _

section
variable (s : State) (x : Tag) (bs : List Byte)

@[simp] theorem sendHost_cqu : (sendHost s x bs).cqu = s.cqu := unsent_proj State.cqu (fun _ => rfl) (unsent_sendHost s x bs)
@[simp] theorem sendHost_obj : (sendHost s x bs).obj = s.obj := unsent_proj State.obj (fun _ => rfl) (unsent_sendHost s x bs)
@[simp] theorem sendHost_regs : (sendHost s x bs).regs = s.regs := unsent_proj State.regs (fun _ => rfl) (unsent_sendHost s x bs)
@[simp] theorem sendHost_mem : (sendHost s x bs).mem = s.mem := unsent_proj State.mem (fun _ => rfl) (unsent_sendHost s x bs)
@[simp] theorem sendHost_datum : (sendHost s x bs).datum = s.datum := unsent_proj State.datum (fun _ => rfl) (unsent_sendHost s x bs)
theorem sendHost_tagAt (k : Nat) : tagAt (sendHost s x bs) k = tagAt s k := by rw [tagAt, sendHost_cqu, tagAt]

theorem sendHost_calm {s : State} (h : calm s) : calm (sendHost s x bs) := calm_congr (by rw [sendHost_cqu]) (by rw [sendHost_cqu]) h

theorem sameEnd_sendHost (k : Nat) : SameEnd s (sendHost s x bs) k := by
  have hport : ∀ q, (sendHost s x bs).port q = { s.port q with posted := ((sendHost s x bs).port q).posted } := fun q => hostPut_port _ _ _ _ _ _ _
  refine .of_eq (sendHost_tagAt s x bs k) (by rw [sendHost_cqu]) (fun q => ?_) (fun q => ?_)
  · rw [hport]
  · rw [hport]

end

end Sys2Proof.Machine
end

section
/-! Queues, Abort, event requests and features (R98, R112, R113, R116, R119, R145–R147). -/

namespace Sys2Proof.Machine

theorem sameEnd_modPort {s : State} {k : Nat} (p : Port) {f : PortSt → PortSt}
    (hf : cqOfSq (f (s.port (tagAt s k).port)) (tagAt s k).sqid = cqOfSq (s.port (tagAt s k).port) (tagAt s k).sqid) :
    SameEnd s (modPort s p f) k := by
  refine .of_queue rfl rfl ?_
  by_cases h : (tagAt s k).port = p
  · rw [h, modPort_port, ← h, hf]
  · rw [modPort_port_ne _ _ h]

/-- The command completes after its port has changed. -/
theorem complete_modPort {s : State} {k : Nat} (hr : readyAdmin s k .adminOther = true) (hc : calm s) (f : PortSt → PortSt) (dw0 : Nat) :
    let t := complete (modPort s (tagAt s k).port f) k scOk dw0
    unposted (t.port (tagAt s k).port) = unposted (f (s.port (tagAt s k).port)) ∧ endView t = endView s
      ∧ (cqOfSq (f (s.port (tagAt s k).port)) (tagAt s k).sqid = cqOfSq (s.port (tagAt s k).port) (tagAt s k).sqid →
        Completed s t k scOk dw0) := by
  have hd : (tagAt (modPort s (tagAt s k).port f) k).dead = false := ready_alive (readyAdmin_ready hr) rfl
  have hc' : calm (modPort s (tagAt s k).port f) := hc
  refine ⟨?_, endView_complete hc' hd (.inl rfl) dw0, fun hq => ?_⟩
  · rw [unposted_complete hc' hd, modPort_port]
  · exact (sameEnd_modPort _ hq).completed (completed_complete hc' hd scOk dw0)

theorem endView_fields {s t : State} (h : endView t = endView s) : t.obj = s.obj ∧ t.regs = s.regs ∧ t.mem = s.mem :=
  ⟨endView_proj State.obj (fun _ => rfl) h, endView_proj State.regs (fun _ => rfl) h, endView_proj State.mem (fun _ => rfl) h⟩

/-! ### Queues (R98, R112) -/

section
variable {s : State} {k : Nat} (hr : readyAdmin s k .adminOther = true)
include hr

theorem admin_alive : (tagAt s k).dead = false := ready_alive (readyAdmin_ready hr) rfl

theorem admin_op : (tagAt s k).cmd.op ≠ .zoneAppend := by
  rw [ready_op (readyAdmin_ready hr)]
  decide

theorem createIoCqOp_creates {qid size vector : Nat} (h1 : 1 ≤ qid) (h2 : qid ≤ 128) (h3 : 2 ≤ size) (h4 : size ≤ 4096) (h5 : vector < 256)
    (hn : ((s.port (tagAt s k).port).cqs.any fun q => decide (q.qid = qid)) = false) :
    createIoCqOp s k qid size vector = complete (modPort s (tagAt s k).port fun p =>
      { p with cqs := p.cqs ++ [{ qid := qid, size := size, vector := vector, head := 0, tail := 0, entries := [], stopped := false }] }) k scOk 0 := by
  have hq : (decide (qid = 0) || decide (128 < qid) || (s.port (tagAt s k).port).cqs.any fun q => decide (q.qid = qid)) = false := by
    rw [hn, Bool.or_false]
    simpa using ⟨by omega, by omega⟩
  have hs : (decide (size < 2) || decide (4096 < size)) = false := by simpa using ⟨by omega, by omega⟩
  rw [createIoCqOp, adminCmd_ready hr]
  simp only [hq, hs, Bool.false_eq_true, ↓reduceIte]
  exact if_neg (by omega)

theorem createIoSqOp_creates {qid size cqid : Nat} (h1 : 1 ≤ qid) (h2 : qid ≤ 128) (h3 : 2 ≤ size) (h4 : size ≤ 4096) (h5 : cqid ≠ 0)
    (hc : ((s.port (tagAt s k).port).cqs.any fun q => decide (q.qid = cqid)) = true)
    (hn : ((s.port (tagAt s k).port).sqs.any fun q => decide (q.qid = qid)) = false) :
    createIoSqOp s k qid size cqid = complete (modPort s (tagAt s k).port fun p =>
      { p with sqs := p.sqs ++ [{ qid := qid, size := size, cqid := cqid, tail := 0, head := 0, stopped := false }] }) k scOk 0 := by
  have hq : (decide (qid = 0) || decide (128 < qid) || (s.port (tagAt s k).port).sqs.any fun q => decide (q.qid = qid)) = false := by
    rw [hn, Bool.or_false]
    simpa using ⟨by omega, by omega⟩
  have hs : (decide (size < 2) || decide (4096 < size)) = false := by simpa using ⟨by omega, by omega⟩
  have hcq : (decide (cqid = 0) || !(s.port (tagAt s k).port).cqs.any fun q => decide (q.qid = cqid)) = false := by
    rw [hc]
    simpa using h5
  rw [createIoSqOp, adminCmd_ready hr]
  simp only [hq, hs, hcq, Bool.false_eq_true, ↓reduceIte]

theorem createIoSqOp_badQid {qid : Nat} (h : qid = 0 ∨ 128 < qid) (size cqid : Nat) : createIoSqOp s k qid size cqid = complete s k scQid 0 := by
  rw [createIoSqOp, adminCmd_ready hr]
  exact if_pos (by rcases h with h | h <;> simp [h])

theorem deleteIoSqOp_deletes {qid : Nat} (h0 : qid ≠ 0) (hs : ((s.port (tagAt s k).port).sqs.any fun q => decide (q.qid = qid)) = true)
    (hi : (s.cqu.tags.any fun e => decide (e.2.port = (tagAt s k).port) && decide (e.2.sqid = qid)) = false) :
    deleteIoSqOp s k qid = complete (modPort s (tagAt s k).port fun p => { p with sqs := p.sqs.filter fun q => q.qid ≠ qid }) k scOk 0 := by
  have hq : (decide (qid = 0) || !(s.port (tagAt s k).port).sqs.any fun q => decide (q.qid = qid)) = false := by
    rw [hs]
    simpa using h0
  rw [deleteIoSqOp, adminCmd_ready hr]
  simp only [hq, hi, Bool.false_eq_true, ↓reduceIte]

theorem deleteIoCqOp_deletes {qid : Nat} (h0 : qid ≠ 0) (hc : ((s.port (tagAt s k).port).cqs.any fun q => decide (q.qid = qid)) = true)
    (hs : ((s.port (tagAt s k).port).sqs.any fun q => decide (q.cqid = qid)) = false) :
    deleteIoCqOp s k qid = complete (modPort s (tagAt s k).port fun p => { p with cqs := p.cqs.filter fun q => q.qid ≠ qid }) k scOk 0 := by
  have hq : (decide (qid = 0) || !(s.port (tagAt s k).port).cqs.any fun q => decide (q.qid = qid)) = false := by
    rw [hc]
    simpa using h0
  rw [deleteIoCqOp, adminCmd_ready hr]
  simp only [hq, hs, Bool.false_eq_true, ↓reduceIte]

end

/-- The completion queue of a submission queue that stays is found as before the other is deleted. -/
theorem cqOfSq_deleteSq (x : PortSt) {sqid qid : Nat} (h : sqid ≠ qid) :
    cqOfSq { x with sqs := x.sqs.filter fun q => q.qid ≠ qid } sqid = cqOfSq x sqid := by
  have hf : (x.sqs.filter fun q => decide (q.qid ≠ qid)).find? (fun q => decide (q.qid = sqid)) = x.sqs.find? fun q => decide (q.qid = sqid) := by
    rw [List.find?_filter]
    congr 1
    funext q
    by_cases hq : q.qid = sqid <;> simp [hq, h]
  unfold cqOfSq
  dsimp only
  rw [hf]

theorem cqOfSq_deleteCq (x : PortSt) (sqid : Nat) {qid : Nat} (h : (x.sqs.any fun q => decide (q.cqid = qid)) = false) :
    cqOfSq { x with cqs := x.cqs.filter fun q => q.qid ≠ qid } sqid = cqOfSq x sqid := by
  unfold cqOfSq
  dsimp only
  split
  · rfl
  next q hq =>
    have hne : q.cqid ≠ qid := by simpa using List.any_eq_false.mp h q (List.mem_of_find?_eq_some hq)
    rw [List.find?_filter]
    congr 1
    funext c
    by_cases hc : c.qid = q.cqid <;> simp [hc, hne]

/-! ### Abort (R145–R147) -/

/-- The Aborts counted: from 0 those that aborted, from 16 the others. -/
def abortCounted (s : State) (dw0 : Nat) : State :=
  rfSet s Reg.cquAbortcnt (16 * dw0) 16 (min 0xFFFF (rf s Reg.cquAbortcnt (16 * dw0) 16 + 1))

theorem rf_abortCounted (s : State) {dw0 : Nat} (h : dw0 ≤ 1) :
    rf (abortCounted s dw0) Reg.cquAbortcnt (16 * dw0) 16 = min 65535 (rf s Reg.cquAbortcnt (16 * dw0) 16 + 1) := by
  rw [abortCounted, rf_rfSet_same _ _ _ (by omega), Nat.mod_eq_of_lt (by omega)]

theorem tagAt_abortCounted (s : State) (dw0 k : Nat) : tagAt (abortCounted s dw0) k = tagAt s k := rfl

theorem calm_abortCounted {s : State} (h : calm s) (dw0 : Nat) : calm (abortCounted s dw0) := h

/-- The Abort's tag waits for that of the command it aborted, if any. -/
def awaiting (s : State) (t : Nat) (target : Option Nat) : State := modTag s t fun x => { x with waits := target }

theorem tagAt_awaiting_same (s : State) (t : Nat) (target : Option Nat) : tagAt (awaiting s t target) t = { tagAt s t with waits := target } :=
  tagAt_modTag_same s t _

theorem calm_awaiting {s : State} (h : calm s) (t : Nat) (target : Option Nat) (hst : (tagAt s t).st ≠ .lockwait) :
    calm (awaiting s t target) := calm_modTag h t hst

theorem endAbort_eq (s : State) (t : Nat) (target : Option Nat) (dw0 : Nat) :
    endAbort s t target dw0 = complete (awaiting (abortCounted s dw0) t target) t scOk dw0 := rfl

/-- `s` with all blanked that marking a command changes. -/
def unmarked (s : State) : State := { unqueued s with cqu := { (unqueued s).cqu with tags := [] } }

theorem unmarked_proj {β : Type} {s t : State} (f : State → β) (hf : ∀ u, f (unmarked u) = f u) (h : unmarked t = unmarked s) : f t = f s := by
  rw [← hf t, h, hf]

/-- The command marked: it starts no further operation, and has its result (R146). -/
def markedAborted (s : State) (u : Nat) : State :=
  modTag (withdrawn s u) u fun x => { x with aborted := true, sct := scAbort.1, sc := scAbort.2 }

theorem unmarked_markedAborted (s : State) (u : Nat) : unmarked (markedAborted s u) = unmarked s :=
  congrArg (fun v : State => { v with cqu := { v.cqu with tags := [] } }) (unqueued_withdrawn s u)

theorem abortCommand_marks {s : State} {u : Nat} (h : (tagAt s u).mops ≠ 0) : abortCommand s u = markedAborted s u := by
  rw [abortCommand, endWith_eq, withdrawn_tagAt, if_neg h]
  rfl

theorem tagAt_markedAborted_same (s : State) (u : Nat) :
    tagAt (markedAborted s u) u = { tagAt s u with aborted := true, sct := scAbort.1, sc := scAbort.2 } := by
  rw [markedAborted, tagAt_modTag_same, withdrawn_tagAt]

theorem tagAt_markedAborted_ne (s : State) {u k : Nat} (h : k ≠ u) : tagAt (markedAborted s u) k = tagAt s k := by
  rw [markedAborted, tagAt_modTag_ne _ _ h, withdrawn_tagAt]

theorem calm_markedAborted {s : State} (h : calm s) {u : Nat} (hst : (tagAt s u).st ≠ .lockwait) : calm (markedAborted s u) := by
  refine calm_modTag (withdrawn_calm h u) u ?_
  rw [withdrawn_tagAt]
  exact hst

theorem endView_entered_ok (s : State) (k dw0 : Nat) : endView (entered s k scOk dw0) = endView s := rfl

section
variable {s : State} {k : Nat} (hr : readyAdmin s k .adminOther = true)
  (hw : (s.cqu.tags.filter fun e => decide (e.2.port = (tagAt s k).port) && e.2.waits.isSome) = [])
include hr hw

theorem waits_of_noAborts : (tagAt s k).waits = none := by
  have hin := tag_listed (s := s) (k := k) (by rw [ready_active (readyAdmin_ready hr)]; decide)
  have h := List.filter_eq_nil_iff.mp hw _ hin
  simpa using h

theorem abortOp_none {sqid cid : Nat} (ht : abortTarget s (tagAt s k).port sqid cid = none) :
    abortOp s k sqid cid = endAbort s k none 1 := by
  rw [abortOp, adminCmd_ready hr]
  dsimp only
  rw [hw, if_neg (by decide), ht]

theorem abortOp_some {sqid cid u : Nat} {y : Tag} (ht : abortTarget s (tagAt s k).port sqid cid = some (u, y)) (ha : abortable y = true) :
    abortOp s k sqid cid
      = endAbort (abortCommand s u) k (if (tagAt (abortCommand s u) u).st = .free then none else some u) 0 := by
  rw [abortOp, adminCmd_ready hr]
  dsimp only
  rw [hw, if_neg (by decide), ht]
  dsimp only
  rw [if_pos ha]

end

theorem admin_of_abortable {x : Tag} (h : abortable x = true) : x.admin = false := by
  rw [abortable, Bool.and_eq_true] at h
  simpa using h.1

theorem not_lockwait_of_ready {s : State} {k : Nat} {op : HostOp} (h : ready s k op = true) : (tagAt s k).st ≠ .lockwait := by
  rw [ready_active h]
  decide

/-- R147: with no such command the Abort answers 1 and is counted as not aborting. -/
theorem abortOp_gone {s : State} {k sqid cid : Nat} (hr : readyAdmin s k .adminOther = true) (hc : calm s)
    (hw : (s.cqu.tags.filter fun e => decide (e.2.port = (tagAt s k).port) && e.2.waits.isSome) = [])
    (ht : abortTarget s (tagAt s k).port sqid cid = none) :
    Completed s (abortOp s k sqid cid) k scOk 1 ∧ endView (abortOp s k sqid cid) = endView (abortCounted s 1) := by
  have hsame : tagAt (awaiting (abortCounted s 1) k none) k = tagAt s k := by
    rw [tagAt_awaiting_same, tagAt_abortCounted, ← waits_of_noAborts hr hw]
  have hcalm : calm (awaiting (abortCounted s 1) k none) :=
    calm_awaiting (calm_abortCounted hc 1) k none (not_lockwait_of_ready (readyAdmin_ready hr))
  have hend : SameEnd s (awaiting (abortCounted s 1) k none) k := .of_eq hsame rfl (fun _ => rfl) (fun _ => rfl)
  rw [abortOp_none hr hw ht, endAbort_eq]
  obtain ⟨hdone, hview, -⟩ := complete_after hend hcalm (by rw [hsame]; exact admin_alive hr) (.inl rfl) 1
  exact ⟨hdone, hview⟩

/-- R146, R147: a command with media operations under way is marked, and the Abort's own entry waits for it. -/
theorem abortOp_marks {s : State} {k sqid cid u : Nat} {y : Tag} (hr : readyAdmin s k .adminOther = true) (hc : calm s)
    (hw : (s.cqu.tags.filter fun e => decide (e.2.port = (tagAt s k).port) && e.2.waits.isSome) = [])
    (ht : abortTarget s (tagAt s k).port sqid cid = some (u, y)) (hy : tagAt s u = y) (ha : abortable y = true) (hm : y.mops ≠ 0)
    (hst : y.st = .active) :
    u ≠ k ∧ abortOp s k sqid cid = entered (awaiting (abortCounted (markedAborted s u) 0) k (some u)) k scOk 0 := by
  subst hy
  have hne : u ≠ k := by
    rintro rfl
    exact absurd (readyAdmin_admin hr) (by simp [admin_of_abortable ha])
  have hvk : tagAt (markedAborted s u) k = tagAt s k := tagAt_markedAborted_ne s hne.symm
  have hvcalm : calm (markedAborted s u) := calm_markedAborted hc (by rw [hst]; decide)
  have hzk : tagAt (awaiting (abortCounted (markedAborted s u) 0) k (some u)) k = { tagAt s k with waits := some u } := by
    rw [tagAt_awaiting_same, tagAt_abortCounted, hvk]
  have hzcalm : calm (awaiting (abortCounted (markedAborted s u) 0) k (some u)) := by
    refine calm_awaiting (calm_abortCounted hvcalm 0) k (some u) ?_
    rw [tagAt_abortCounted, hvk]
    exact not_lockwait_of_ready (readyAdmin_ready hr)
  have hfree : ¬ (tagAt (markedAborted s u) u).st = .free := by
    rw [tagAt_markedAborted_same]
    exact fun h => absurd (hst.symm.trans h) (by decide)
  refine ⟨hne, ?_⟩
  rw [abortOp_some hr hw ht ha, abortCommand_marks hm, if_neg hfree, endAbort_eq]
  refine complete_of_waits hzcalm ?_ ?_ _ _
  · rw [hzk]
    exact admin_alive hr
  · rw [hzk]
    rfl

theorem abortOp_marks_fields {s : State} {k u : Nat} (hne : u ≠ k) :
    let t := entered (awaiting (abortCounted (markedAborted s u) 0) k (some u)) k scOk 0
    tagAt t u = { tagAt s u with aborted := true, sct := scAbort.1, sc := scAbort.2 } ∧ (∀ w ∈ t.cqu.waitOps, w.tag ≠ u)
      ∧ tagAt t k = resultTag { tagAt s k with waits := some u } scOk 0
      ∧ rf t Reg.cquAbortcnt 0 16 = min 65535 (rf s Reg.cquAbortcnt 0 16 + 1)
      ∧ t.obj.chunks = s.obj.chunks ∧ t.obj.nss = s.obj.nss ∧ t.mem = s.mem := by
  have hview := unmarked_markedAborted s u
  have htu := tagAt_markedAborted_same s u
  have htk := tagAt_markedAborted_ne s hne.symm
  have hwaits : ∀ w ∈ (markedAborted s u).cqu.waitOps, w.tag ≠ u := withdrawn_waitOps s u
  have hchunks := unmarked_proj (fun w => w.obj.chunks) (fun _ => rfl) hview
  have hnss := unmarked_proj (fun w => w.obj.nss) (fun _ => rfl) hview
  have hmem := unmarked_proj State.mem (fun _ => rfl) hview
  generalize markedAborted s u = v at *
  have hend := endView_entered_ok (awaiting (abortCounted v 0) k (some u)) k 0
  dsimp only
  refine ⟨?_, hwaits, ?_, ?_, ?_, ?_, ?_⟩
  · rw [tagAt_entered_ne _ _ _ _ hne, awaiting, tagAt_modTag_ne _ _ hne, tagAt_abortCounted, htu]
  · rw [tagAt_entered_same, tagAt_awaiting_same, tagAt_abortCounted, htk]
  · rw [endView_proj (fun w => rf w Reg.cquAbortcnt 0 16) (fun _ => rfl) hend]
    refine (rf_abortCounted v (dw0 := 0) (by decide)).trans ?_
    rw [unmarked_proj (fun w => rf w Reg.cquAbortcnt (16 * 0) 16) (fun _ => rfl) hview]
  · exact (endView_proj (fun w => w.obj.chunks) (fun _ => rfl) hend).trans hchunks
  · exact (endView_proj (fun w => w.obj.nss) (fun _ => rfl) hend).trans hnss
  · exact (endView_proj State.mem (fun _ => rfl) hend).trans hmem

/-! ### Event requests and features (R113, R116, R119) -/

theorem Completed.congr_right {s t t' : State} {k : Nat} {r : Nat × Nat} {dw0 : Nat} (h : Completed s t k r dw0)
    (ht : tagAt t' k = tagAt t k) (hq : t'.cqu.compq = t.cqu.compq) (hcq : ∀ p, (t'.port p).cqs = (t.port p).cqs) : Completed s t' k r dw0 := by
  unfold Completed at h ⊢
  simp only [ht, hq, hcq]
  exact h

theorem serveHeld_none {s : State} {p : Port} (h : (s.port p).held = []) : serveHeld s p = s := by
  unfold serveHeld
  dsimp only
  rw [h]
  split
  next h' => cases h'
  · rfl

theorem asyncEventRequestOp_waits {s : State} {k : Nat} (hr : readyAdmin s k .adminOther = true)
    (hn : (s.port (tagAt s k).port).aers.contains k = false) (hl : (s.port (tagAt s k).port).aers.length < 16)
    (hh : (s.port (tagAt s k).port).held = []) :
    asyncEventRequestOp s k = modPort s (tagAt s k).port fun p => { p with aers := p.aers ++ [k] } := by
  have hheld : ((modPort s (tagAt s k).port fun p => { p with aers := p.aers ++ [k] }).port (tagAt s k).port).held = [] := by
    rw [modPort_port]
    exact hh
  rw [asyncEventRequestOp, adminCmd_ready hr, if_neg (by simpa using hn), if_neg (by omega), serveHeld_none hheld]

/-- The value that a feature keeps: a set temperature threshold carries a bit of its own. -/
def featureKept (fid value : Nat) : Nat := if fid = 4 then value + 2 ^ 32 else value

/-- A feature set on a port (R113). -/
def withFeature (s : State) (p : Port) (fid value : Nat) : State :=
  let s := modPort s p fun p => { p with features := tset 0 p.features (featureKey fid value) (featureKept fid value) }
  if fid = 0xE then modPort s p fun p => { p with tsBase := value % 2 ^ 48, tsTick := s.tick.toNat } else s

section
variable (s : State) (p : Port) (fid value : Nat)

theorem endView_withFeature : endView (withFeature s p fid value) = endView s := by
  unfold withFeature
  dsimp only
  split <;> rfl

theorem withFeature_cqu : (withFeature s p fid value).cqu = s.cqu := by
  unfold withFeature
  dsimp only
  split <;> rfl

theorem withFeature_queues (q : Port) : ((withFeature s p fid value).port q).sqs = (s.port q).sqs
    ∧ ((withFeature s p fid value).port q).cqs = (s.port q).cqs ∧ ((withFeature s p fid value).port q).ps = (s.port q).ps := by
  unfold withFeature
  by_cases h : q = p
  · subst h
    dsimp only
    split <;> simp only [modPort_port, and_self]
  · dsimp only
    split <;> simp only [modPort_port_ne _ _ h, and_self]

theorem withFeature_feature : tget 0 ((withFeature s p fid value).port p).features (featureKey fid value) = featureKept fid value := by
  unfold withFeature
  dsimp only
  split <;> simp only [modPort_port, tget_tset_same]

theorem sameEnd_withFeature (k : Nat) : SameEnd s (withFeature s p fid value) k := by
  refine .of_eq (by rw [tagAt, withFeature_cqu, tagAt]) (by rw [withFeature_cqu]) (fun q => ?_) fun q => ?_
  · exact (withFeature_queues s p fid value q).1
  · exact (withFeature_queues s p fid value q).2.1

end

theorem setFeaturesOp_sets {s : State} {k fid value : Nat} (hr : readyAdmin s k .adminOther = true) (hid : featureIds.contains fid = true)
    (hb : featureBad fid value = false) : setFeaturesOp s k fid value
      = (fun u => if fid = 2 then setPower u (tagAt s k).port (value % 32) else u)
          (complete (withFeature s (tagAt s k).port fid value) k scOk (if fid = 7 then queueCounts else 0)) := by
  rw [setFeaturesOp, adminCmd_ready hr, if_neg (by rw [hid, hb]; decide)]
  rfl

/-- What the setting of a feature completes, and what it leaves of the port. -/
theorem complete_withFeature {s : State} {k : Nat} (fid value dw0 : Nat) (hr : readyAdmin s k .adminOther = true) (hc : calm s) :
    let t := complete (withFeature s (tagAt s k).port fid value) k scOk dw0
    Completed s t k scOk dw0 ∧ endView t = endView s ∧ unfiled t.cqu = unfiled s.cqu
      ∧ unposted (t.port (tagAt s k).port) = unposted ((withFeature s (tagAt s k).port fid value).port (tagAt s k).port) := by
  have hcqu := withFeature_cqu s (tagAt s k).port fid value
  have htag : tagAt (withFeature s (tagAt s k).port fid value) k = tagAt s k := by rw [tagAt, hcqu, tagAt]
  have hcalm : calm (withFeature s (tagAt s k).port fid value) := calm_congr (by rw [hcqu]) (by rw [hcqu]) hc
  have hd : (tagAt (withFeature s (tagAt s k).port fid value) k).dead = false := by
    rw [htag]
    exact admin_alive hr
  obtain ⟨hdone, hview, hport⟩ := complete_after (sameEnd_withFeature s (tagAt s k).port fid value k) hcalm hd (.inl rfl) dw0
  exact ⟨hdone, hview.trans (endView_withFeature _ _ _ _), (unfiled_complete hcalm hd scOk dw0).trans (by rw [hcqu]), hport _⟩

theorem trimSlices_keeps {β : Type} {p : State → β} (hp : ∀ t i v, p (rbitSet t Reg.pmuGate i v) = p t) (s : State) : p (trimSlices s) = p s := by
  unfold trimSlices
  exact overList_keeps p _ s _ fun t n => hp t n true

theorem regsSameBut_trimSlices (s : State) : regsSameBut s (trimSlices s) [Reg.pmuGate] := fun a ha =>
  trimSlices_keeps (p := fun u => rget u a) (fun t i v => rget_rbitSet_ne t i v fun h => ha (List.mem_singleton.mpr h)) s

/-- R119: an operational power state is taken at once. -/
theorem setPower_operational {s : State} {p : Port} {ps : Nat} (h3 : ps ≠ 3) (hp : (s.port p).ps ≠ 3) (hk : s.cqu.psStep = 0) :
    setPower s p ps = trimSlices { modPort s p fun x => { x with ps := ps, lastOpPs := ps } with cqu := { s.cqu with psTarget := ps } } := by
  have hk' : (modPort s p fun x => { x with ps := ps, lastOpPs := ps }).cqu.psStep = 0 := hk
  rw [setPower, if_neg h3, if_neg (by simp [hp, hk])]
  dsimp only
  rw [if_pos hk']
  rfl

theorem setPower_operational_fields {s : State} {p : Port} {ps : Nat} (h3 : ps ≠ 3) (hp : (s.port p).ps ≠ 3) (hk : s.cqu.psStep = 0) :
    let t := setPower s p ps
    (t.port p).ps = ps ∧ t.cqu.tags = s.cqu.tags ∧ t.cqu.compq = s.cqu.compq ∧ (∀ q, (t.port q).cqs = (s.port q).cqs)
      ∧ t.obj = s.obj ∧ regsSameBut s t [Reg.pmuGate] ∧ t.mem = s.mem := by
  dsimp only
  rw [setPower_operational h3 hp hk]
  obtain ⟨u, hu⟩ : ∃ u, u = { modPort s p fun x => { x with ps := ps, lastOpPs := ps } with cqu := { s.cqu with psTarget := ps } } := ⟨_, rfl⟩
  have hport : u.port p = { s.port p with ps := ps, lastOpPs := ps } := by
    rw [hu]
    exact modPort_port s p _
  have hports : (trimSlices u).ports = u.ports := trimSlices_keeps (p := State.ports) (fun _ _ _ => rfl) u
  have htrim : ∀ q, (trimSlices u).port q = u.port q := fun q => congrArg (vget · (portIx q)) hports
  rw [← hu]
  refine ⟨by rw [htrim, hport], ?_, ?_, fun q => ?_, ?_, ?_, ?_⟩
  · rw [trimSlices_keeps (p := fun v => v.cqu.tags) (fun _ _ _ => rfl) u, hu]
  · rw [trimSlices_keeps (p := fun v => v.cqu.compq) (fun _ _ _ => rfl) u, hu]
  · rw [htrim]
    by_cases h : q = p
    · rw [h, hport]
    · rw [hu]
      exact congrArg PortSt.cqs (modPort_port_ne s _ h)
  · rw [trimSlices_keeps (p := State.obj) (fun _ _ _ => rfl) u, hu]
    rfl
  · exact regsSameBut_of_left (by rw [hu]; rfl) (regsSameBut_trimSlices u)
  · rw [trimSlices_keeps (p := State.mem) (fun _ _ _ => rfl) u, hu]
    rfl

/-- The bytes that Get Features sends with a feature, none for most (R113). -/
def featureSent (s : State) (x : Tag) (fid cdw11 : Nat) : State :=
  if fid = 0xE then sendHost s x (timestamp s (s.port x.port))
  else if fid = 0xC then sendHost s x (toBytes 8 (featureValue (s.port x.port) fid cdw11)) else s

theorem getFeaturesOp_answers {s : State} {k fid cdw11 : Nat} (hr : readyAdmin s k .adminOther = true) (hid : featureIds.contains fid = true)
    (h9 : fid ≠ 9 ∨ cdw11 % 2 ^ 16 < 256) (h4 : fid ≠ 4 ∨ fld cdw11 20 2 < 2) : getFeaturesOp s k fid cdw11
      = complete (featureSent s (tagAt s k) fid cdw11) k scOk (featureValue (s.port (tagAt s k).port) fid cdw11 % 2 ^ 32) := by
  have hok : (!featureIds.contains fid || (decide (fid = 9) && decide (255 < cdw11 % 2 ^ 16)) || (decide (fid = 4) && decide (1 < fld cdw11 20 2))) = false := by
    rw [hid]
    simp only [Bool.not_true, Bool.false_or, Bool.or_eq_false_iff, Bool.and_eq_false_iff, decide_eq_false_iff_not]
    exact ⟨h9.imp_right (by omega), h4.imp_right (by omega)⟩
  rw [getFeaturesOp, adminCmd_ready hr]
  simp only [hok, Bool.false_eq_true, ↓reduceIte]
  rfl

theorem featureSent_facts {s : State} (hc : calm s) (x : Tag) (k fid cdw11 : Nat) :
    SameEnd s (featureSent s x fid cdw11) k ∧ calm (featureSent s x fid cdw11) ∧ tagAt (featureSent s x fid cdw11) k = tagAt s k
      ∧ unsent (featureSent s x fid cdw11) = unsent s := by
  unfold featureSent
  split
  · exact ⟨sameEnd_sendHost .., sendHost_calm _ _ hc, sendHost_tagAt .., unsent_sendHost ..⟩
  · split
    · exact ⟨sameEnd_sendHost .., sendHost_calm _ _ hc, sendHost_tagAt .., unsent_sendHost ..⟩
    · exact ⟨.refl s k, hc, rfl, rfl⟩

theorem featureValue_plain (p : PortSt) {fid : Nat} (h : fid ∈ [1, 5, 8, 0xB, 0xC]) (cdw11 : Nat) :
    featureValue p fid cdw11 = tget 0 p.features fid := by
  simp only [List.mem_cons, List.not_mem_nil, or_false] at h
  rcases h with rfl | rfl | rfl | rfl | rfl <;> rfl

end Sys2Proof.Machine
end

section
open Sys2Proof Sys2Proof.Machine

/-- Settles O26: each command changes its port or its tags before it completes, and the completion keeps both. -/
theorem adminQueues : Obligations.AdminQueues := by
  refine ⟨?_, ?_, ?_, ?_, ?_, ?_, ?_, ?_, ?_, ?_, ?_⟩
  · intro k qid size vector s hr hc h1 h2 h3 h4 h5 hn
    refine answers_settled _ _ ?_
    simp only [settle_port, settle_obj, settle_regs, settle_mem]
    rw [createIoCqOp_creates hr h1 h2 h3 h4 h5 hn]
    obtain ⟨hport, hview, -⟩ := complete_modPort hr hc (fun p => { p with cqs := p.cqs
      ++ [{ qid := qid, size := size, vector := vector, head := 0, tail := 0, entries := [], stopped := false }] }) 0
    have hnone : (s.port (tagAt s k).port).cqs.find? (fun q => decide (q.qid = qid)) = none := by simpa using hn
    obtain ⟨q', hq', he⟩ := unposted_find hport qid (by simp [List.find?_append, hnone]; rfl)
    have hsize : (untaken q').size = size := by rw [he]; rfl
    have hvector : (untaken q').vector = vector := by rw [he]; rfl
    have hstopped : (untaken q').stopped = false := by rw [he]; rfl
    exact ⟨⟨q', hq', hsize, hvector, hstopped⟩, (unposted_proj PortSt.sqs (fun _ => rfl) hport).trans rfl, endView_fields hview⟩
  · intro k qid size cqid s hr hc h1 h2 h3 h4 h5 hcq hn
    refine answers_settled _ _ ?_
    simp only [settle_port, settle_obj, settle_regs, settle_mem]
    rw [createIoSqOp_creates hr h1 h2 h3 h4 h5 hcq hn]
    obtain ⟨hport, hview, -⟩ := complete_modPort hr hc (fun p => { p with sqs := p.sqs
      ++ [{ qid := qid, size := size, cqid := cqid, tail := 0, head := 0, stopped := false }] }) 0
    have hnone : (s.port (tagAt s k).port).sqs.find? (fun q => decide (q.qid = qid)) = none := by simpa using hn
    refine ⟨?_, endView_fields hview⟩
    rw [unposted_proj PortSt.sqs (fun _ => rfl) hport]
    simp [List.find?_append, hnone]
  · intro k qid size cqid s hr hc hq
    refine answers_settled _ _ ?_
    simp only [settle_port, completed_settle]
    rw [createIoSqOp_badQid hr hq]
    exact ⟨completed_complete hc (admin_alive hr) scQid 0,
      unposted_proj PortSt.sqs (fun _ => rfl) (unposted_complete hc (admin_alive hr) scQid 0 _)⟩
  · intro k qid s hr hc h0 hs hi
    have hne : (tagAt s k).sqid ≠ qid := by
      have hin := tag_listed (s := s) (k := k) (by rw [ready_active (readyAdmin_ready hr)]; decide)
      simpa using List.any_eq_false.mp hi _ hin
    refine answers_settled _ _ ?_
    simp only [settle_port, settle_obj, settle_regs, settle_mem, completed_settle]
    rw [deleteIoSqOp_deletes hr h0 hs hi]
    obtain ⟨hport, hview, hdone⟩ := complete_modPort hr hc (fun p => { p with sqs := p.sqs.filter fun q => q.qid ≠ qid }) 0
    refine ⟨hdone (cqOfSq_deleteSq _ hne), fun q hq => ?_, endView_fields hview⟩
    rw [unposted_proj PortSt.sqs (fun _ => rfl) hport] at hq
    simpa using (List.mem_filter.mp hq).2
  · intro k qid s hr hc h0 hcq hs
    refine answers_settled _ _ ?_
    simp only [settle_port, settle_obj, settle_regs, settle_mem, completed_settle]
    rw [deleteIoCqOp_deletes hr h0 hcq hs]
    obtain ⟨hport, hview, hdone⟩ := complete_modPort hr hc (fun p => { p with cqs := p.cqs.filter fun q => q.qid ≠ qid }) 0
    refine ⟨hdone (cqOfSq_deleteCq _ _ hs), unposted_qid_ne hport fun q hq => ?_, endView_fields hview⟩
    simpa using (List.mem_filter.mp hq).2
  · intro k sqid cid s hr hc hw ht
    obtain ⟨hdone, hview⟩ := abortOp_gone hr hc hw ht
    obtain ⟨hobj, hregs, hmem⟩ := endView_fields hview
    refine answers_settled _ _ ?_
    simp only [settle_rf, settle_obj, settle_mem, completed_settle]
    refine ⟨hdone, ?_, regsSameBut_settle fun a ha => ?_, hobj, hmem⟩
    · rw [endView_proj (fun u => rf u Reg.cquAbortcnt 16 16) (fun _ => rfl) hview]
      exact rf_abortCounted s (dw0 := 1) (by decide)
    · rw [rget, hregs, ← rget]
      exact regsSameBut_rfSet s _ _ _ _ a ha
  · intro k sqid cid u y s hr hc hw ht hy ha hm hst
    obtain ⟨hne, heq⟩ := abortOp_marks hr hc hw ht hy ha hm hst
    obtain ⟨hu, hwaits, hk, hcount, hchunks, hnss, hmem⟩ := abortOp_marks_fields (s := s) hne
    refine answers_settled _ _ ?_
    simp only [settle_tagAt, settle_cqu, settle_rf, settle_obj, settle_mem]
    rw [heq, hu, hk, hy]
    exact ⟨rfl, hst, hwaits, rfl, rfl, rfl, hcount, hchunks, hnss, hmem⟩
  · intro k s hr hn hl hh
    refine answers_settled _ _ ?_
    simp only [settle_port, settle_tagAt, settle_obj, settle_mem]
    rw [asyncEventRequestOp_waits hr hn hl hh, modPort_port]
    exact ⟨rfl, ready_active (readyAdmin_ready hr), rfl, rfl⟩
  · intro k fid value s hr hc hid h2 hb
    obtain ⟨hdone, hview, -, hport⟩ := complete_withFeature fid value (if fid = 7 then queueCounts else 0) hr hc
    refine answers_settled _ _ ?_
    simp only [settle_port, settle_obj, settle_regs, settle_mem, completed_settle]
    rw [setFeaturesOp_sets hr hid hb]
    dsimp only
    rw [if_neg h2]
    refine ⟨hdone, ?_, endView_fields hview⟩
    rw [unposted_proj PortSt.features (fun _ => rfl) hport]
    exact withFeature_feature s _ fid value
  · intro k value s hr hc hv hk hps
    have hb : featureBad 2 value = false := by
      have h : ¬ 3 < value % 32 := by omega
      simp [featureBad, h]
    obtain ⟨hdone, hview, hcqu, hport⟩ := complete_withFeature 2 value 0 hr hc
    obtain ⟨u, hu⟩ : ∃ u, u = complete (withFeature s (tagAt s k).port 2 value) k scOk 0 := ⟨_, rfl⟩
    have heq : setFeaturesOp s k 2 value = setPower u (tagAt s k).port (value % 32) := by
      rw [setFeaturesOp_sets hr (by decide) hb, hu]
      rfl
    rw [← hu] at hdone hview hcqu hport
    have hups : (u.port (tagAt s k).port).ps ≠ 3 := by
      rw [unposted_proj PortSt.ps (fun _ => rfl) hport, (withFeature_queues s _ 2 value _).2.2]
      exact hps
    have hustep : u.cqu.psStep = 0 := (congrArg CquSt.psStep hcqu).trans hk
    obtain ⟨hset, htags, hcompq, hcqs, hobj, hregs, hmem⟩ := setPower_operational_fields (ps := value % 32) (by omega) hups hustep
    obtain ⟨hobj', hregs', hmem'⟩ := endView_fields hview
    refine answers_settled _ _ ?_
    simp only [settle_port, settle_obj, settle_mem, completed_settle]
    rw [heq]
    refine ⟨hdone.congr_right (by rw [tagAt, htags, tagAt]) hcompq hcqs, hset, hobj.trans hobj', regsSameBut_settle (regsSameBut_of_left hregs' hregs),
      hmem.trans hmem'⟩
  · intro k fid cdw11 s hr hc hid h9 h4
    obtain ⟨hend, hcalm, htag, hsent⟩ := featureSent_facts hc (tagAt s k) k fid cdw11
    have hd : (tagAt (featureSent s (tagAt s k) fid cdw11) k).dead = false := by
      rw [htag]
      exact admin_alive hr
    obtain ⟨hdone, hview, -⟩ := complete_after hend hcalm hd (.inl rfl) (featureValue (s.port (tagAt s k).port) fid cdw11 % 2 ^ 32)
    obtain ⟨hobj, hregs, hmem⟩ := endView_fields hview
    refine answers_settled _ _ ?_
    simp only [settle_obj, settle_regs, settle_mem, completed_settle]
    rw [getFeaturesOp_answers hr hid h9 h4]
    exact ⟨hdone, hobj.trans (unsent_proj State.obj (fun _ => rfl) hsent), hregs.trans (unsent_proj State.regs (fun _ => rfl) hsent),
      hmem.trans (unsent_proj State.mem (fun _ => rfl) hsent), fun h => featureValue_plain _ h cdw11⟩
end

section
/-! What the host has got in the buffer of a command (R93, R98). -/

namespace Sys2Proof.Machine

/-! ### Bytes of host memory -/

theorem tget_hostWriteBytes_below (bs : List Byte) (m : Memory) {a k : Nat} (h : k < a) (d : Byte) : tget d (hostWriteBytes m a bs) k = tget d m k := by
  induction bs generalizing m a with
  | nil => rfl
  | cons b rest ih => rw [hostWriteBytes, ih _ (by omega), tget_tset_ne _ _ _ _ (by omega)]

theorem hostReadBytes_written (bs : List Byte) (t : State) (m : Memory) (a : Nat) (h : t.hostMem = hostWriteBytes m a bs) :
    hostReadBytes t a bs.length = bs := by
  induction bs generalizing m a with
  | nil => rfl
  | cons b rest ih =>
    have hb : tget (Config.hostByte a) t.hostMem a = b := by
      rw [h, hostWriteBytes, tget_hostWriteBytes_below _ _ (by omega), tget_tset_same]
    rw [List.length_cons, hostReadBytes, hb, ih _ _ h]

/-! ### A buffer that is one Data Block -/

theorem spansOf_dataBlock {s : State} {p : Port} {c : HostCmd} {len : Nat} (h : dataBlock c len) (h0 : len ≠ 0) :
    spansOf s p c true len = .ok [(some c.prp, sglLen c.prp2)] := by
  obtain ⟨hsgl, htype, hlen⟩ := h
  have hsum : ¬ ([(some c.prp, sglLen c.prp2)].map fun e : Span => e.2).sum < len := by simpa using hlen
  rw [spansOf, if_neg h0, if_neg (by simp [hsgl]), htype]
  exact if_neg hsum

/-- Bytes put at the start of a Data Block stand at its address. -/
theorem hostMem_hostPut_dataBlock {s : State} {p : Port} {c : HostCmd} {len : Nat} (h : dataBlock c len) (h0 : len ≠ 0) {bs : List Byte}
    (hl : bs.length ≤ len) : (hostPut s p c len 0 bs).hostMem = hostWriteBytes s.hostMem c.prp bs := by
  have hn : 0 < sglLen c.prp2 := by
    obtain ⟨-, -, hlen⟩ := h
    omega
  have htake : bs.take (sglLen c.prp2) = bs := List.take_of_length_le (hl.trans h.2.2)
  have hput : putSpans s.hostMem (dropSpan [(some c.prp, sglLen c.prp2)] 0) bs = hostWriteBytes s.hostMem c.prp bs := by
    rw [dropSpan, if_pos hn]
    exact congrArg (hostWriteBytes s.hostMem c.prp) htake
  unfold hostPut
  rw [spansOf_dataBlock h h0]
  dsimp only
  rw [hput]
  split <;> rfl

/-- The host has got what was sent to it. -/
theorem hostGets_sent {s t : State} {k : Nat} {bs : List Byte} (h : t.hostMem = (sendHost s (tagAt s k) bs).hostMem) : HostGets s t k bs := by
  refine ⟨h, fun hd => ?_⟩
  have hlen : min (tagAt s k).cmd.hostLen bs.length = (bs.take (tagAt s k).cmd.hostLen).length := List.length_take.symm
  by_cases h0 : (tagAt s k).cmd.hostLen = 0
  · rw [h0, Nat.zero_min, List.take_zero]
    rfl
  · rw [hlen]
    exact hostReadBytes_written _ t s.hostMem _ (h.trans (hostMem_hostPut_dataBlock hd h0 (List.length_take_le _ _)))

theorem hostReadBytes_congr {s t : State} (h : t.hostMem = s.hostMem) (n a : Nat) : hostReadBytes t a n = hostReadBytes s a n := by
  induction n generalizing a with
  | zero => rw [hostReadBytes, hostReadBytes]
  | succ n ih => rw [hostReadBytes, hostReadBytes, h, ih]

/-- What the host has got tells from its memory. -/
theorem HostGets.congr {s t u : State} {k : Nat} {bs : List Byte} (h : u.hostMem = t.hostMem) (hg : HostGets s t k bs) : HostGets s u k bs :=
  ⟨h.trans hg.1, fun hd => (hostReadBytes_congr h _ _).trans (hg.2 hd)⟩

@[simp] theorem hostGets_settle {s t : State} {k : Nat} {bs : List Byte} : HostGets s (settle t) k bs ↔ HostGets s t k bs :=
  ⟨HostGets.congr (settle_hostMem t).symm, HostGets.congr (settle_hostMem t)⟩

theorem sendHost_take (s : State) (x : Tag) (bs : List Byte) : sendHost s x (bs.take x.cmd.hostLen) = sendHost s x bs := by
  rw [sendHost, List.take_take, Nat.min_self, sendHost]

/-! ### Values drawn before are not seen by the host -/

section
variable (s : State) (d : Nat)

theorem hostReadBytes_drawn (a n : Nat) : hostReadBytes { s with drawn := d } a n = hostReadBytes s a n := by
  exact hostReadBytes_congr (s := s) (t := { s with drawn := d }) rfl n a

theorem hostNat_drawn (a n : Nat) : hostNat { s with drawn := d } a n = hostNat s a n := by rw [hostNat, hostReadBytes_drawn, hostNat]

theorem prpList_drawn (fuel : Nat) (page a len : Nat) : prpList { s with drawn := d } page a len fuel = prpList s page a len fuel := by
  induction fuel generalizing a len with
  | zero => rfl
  | succ fuel ih => simp only [prpList, hostNat_drawn, ih]

theorem sglWalk_drawn (fuel : Nat) (toHost : Bool) (a n : Nat) (last : Bool) :
    sglWalk { s with drawn := d } toHost a n last fuel = sglWalk s toHost a n last fuel := by
  induction fuel generalizing a n last with
  | zero => rfl
  | succ fuel ih =>
    cases n with
    | zero => rfl
    | succ n => simp only [sglWalk, hostNat_drawn, ih]

theorem spansOf_drawn (p : Port) (c : HostCmd) (toHost : Bool) (len : Nat) :
    spansOf { s with drawn := d } p c toHost len = spansOf s p c toHost len := by
  simp only [spansOf, prpSpans, prpList_drawn, sglWalk_drawn]
  rfl

theorem hostMem_sendHost_drawn (x : Tag) (bs : List Byte) : (sendHost { s with drawn := d } x bs).hostMem = (sendHost s x bs).hostMem := by
  unfold sendHost hostPut
  rw [spansOf_drawn]
  split
  · rfl
  · dsimp only
    split <;> rfl

end

/-- A command that sends bytes to the host and completes. -/
theorem complete_sendHost {s : State} {k : Nat} (hc : calm s) (hd : (tagAt s k).dead = false) (bs : List Byte) {r : Nat × Nat}
    (hr : r = scOk ∨ (tagAt s k).cmd.op ≠ .zoneAppend) (dw0 : Nat) :
    let t := complete (sendHost s (tagAt s k) bs) k r dw0
    Completed s t k r dw0 ∧ t.obj = s.obj ∧ t.regs = s.regs ∧ t.mem = s.mem ∧ HostGets s t k bs ∧ t.datum = s.datum := by
  have htag := sendHost_tagAt s (tagAt s k) bs k
  have hd' : (tagAt (sendHost s (tagAt s k) bs) k).dead = false := by rw [htag, hd]
  have hr' : r = scOk ∨ (tagAt (sendHost s (tagAt s k) bs) k).cmd.op ≠ .zoneAppend := by rwa [htag]
  obtain ⟨hdone, hview, -⟩ := complete_after (sameEnd_sendHost s (tagAt s k) bs k) (sendHost_calm _ _ hc) hd' hr' dw0
  obtain ⟨hobj, hregs, hmem⟩ := endView_fields hview
  exact ⟨hdone, hobj.trans (sendHost_obj ..), hregs.trans (sendHost_regs ..), hmem.trans (sendHost_mem ..),
    hostGets_sent (endView_proj State.hostMem (fun _ => rfl) hview), (endView_proj State.datum (fun _ => rfl) hview).trans (sendHost_datum ..)⟩

end Sys2Proof.Machine
end

section
/-! New versions of chunks, and chunks dropped (R99, R157, R173). -/

namespace Sys2Proof.Machine

/-- The end of the command finds the same tags and ports. -/
theorem SameEnd.of_cqu_ports {s u : State} {k : Nat} (hc : u.cqu = s.cqu) (hp : u.ports = s.ports) : SameEnd s u k := by
  have hport : ∀ p, u.port p = s.port p := fun p => congrArg (vget · (portIx p)) hp
  exact .of_eq (by rw [tagAt, hc, tagAt]) (by rw [hc]) (fun p => by rw [hport]) fun p => by rw [hport]

theorem calm_of_cqu {s u : State} (hc : u.cqu = s.cqu) (h : calm s) : calm u := calm_congr (by rw [hc]) (by rw [hc]) h

/-- What completing with success leaves of a state whose tags and ports are those of `s`. -/
theorem complete_ok_after {s u : State} {k : Nat} (hcqu : u.cqu = s.cqu) (hports : u.ports = s.ports) (hc : calm s)
    (hd : (tagAt s k).dead = false) (dw0 : Nat) :
    Completed s (complete u k scOk dw0) k scOk dw0 ∧ endView (complete u k scOk dw0) = endView u
      ∧ ∀ p, unposted ((complete u k scOk dw0).port p) = unposted (s.port p) := by
  have hd' : (tagAt u k).dead = false := by rw [tagAt, hcqu, ← tagAt, hd]
  have hport : ∀ p, u.port p = s.port p := fun p => congrArg (vget · (portIx p)) hports
  obtain ⟨hdone, hview, hp⟩ := complete_after (SameEnd.of_cqu_ports (k := k) hcqu hports) (calm_of_cqu hcqu hc) hd' (.inl rfl) dw0
  exact ⟨hdone, hview, fun p => (hp p).trans (by rw [hport])⟩

/-! ### A chunk stored -/

theorem storeChunk_put (s : State) (k e : Nat) (d : List Byte) : ∃ u c, storeChunk s k e d = putChunk u k c ∧ u.obj.chunks = s.obj.chunks
    ∧ c.data = d ∧ c.staged = true ∧ c.gen = nextGen (chunkAt s k).gen := by
  refine ⟨_, _, rfl, ?_, rfl, rfl, rfl⟩
  split <;> split <;> rfl

theorem chunkAt_storeChunk_same (s : State) (k e : Nat) (d : List Byte) :
    (chunkAt (storeChunk s k e d) k).data = d ∧ (chunkAt (storeChunk s k e d) k).staged = true
      ∧ (chunkAt (storeChunk s k e d) k).gen = nextGen (chunkAt s k).gen := by
  obtain ⟨u, c, he, -, hd, hs, hg⟩ := storeChunk_put s k e d
  rw [he, chunkAt_putChunk_same]
  exact ⟨hd, hs, hg⟩

theorem chunkAt_storeChunk_ne (s : State) {j k : Nat} (e : Nat) (d : List Byte) (h : j ≠ k) : chunkAt (storeChunk s k e d) j = chunkAt s j := by
  obtain ⟨u, c, he, hu, -⟩ := storeChunk_put s k e d
  rw [he, chunkAt_putChunk_ne _ _ h, chunkAt_congr hu]

/-! ### Chunks dropped -/

theorem dropChunk_count (s : State) (k : Nat) : (chunkAt (dropChunk s k) k).count = 0 := by
  rw [dropChunk, chunkAt_putChunk_same]
  rfl

theorem chunkAt_dropChunk_ne (s : State) {j k : Nat} (h : j ≠ k) : chunkAt (dropChunk s k) j = chunkAt s j := by
  rw [dropChunk, chunkAt_putChunk_ne _ _ h]
  rfl

/-- A chunk that is dropped, or has no live version, has none after chunks have been dropped. -/
theorem overDrop_count (l : List Nat) (s : State) {k : Nat} (h : k ∈ l ∨ (chunkAt s k).count = 0) :
    (chunkAt (overList l s dropChunk) k).count = 0 := by
  induction l generalizing s with
  | nil => exact h.resolve_left List.not_mem_nil
  | cons j rest ih =>
    refine ih _ ?_
    by_cases hk : k = j
    · subst hk
      exact .inr (dropChunk_count s k)
    · rw [chunkAt_dropChunk_ne s hk]
      exact h.imp_left fun hm => (List.mem_cons.mp hm).resolve_left hk

theorem mem_liveKeys {s : State} {k : Nat} (h : (chunkAt s k).count ≠ 0) : k ∈ liveKeys s := by
  have hin : (k, chunkAt s k) ∈ s.obj.chunks := mem_of_tget_ne fun he => h (congrArg Chunk.count he)
  exact List.mem_map.mpr ⟨(k, chunkAt s k), List.mem_filter.mpr ⟨hin, by simpa using h⟩, rfl⟩

theorem overDrop_slot (s : State) {slot k : Nat} (h : handleSlot (keyHandle k) = slot) :
    (chunkAt (overList (slotKeys s slot) s dropChunk) k).count = 0 := by
  refine overDrop_count _ s ?_
  by_cases hc : (chunkAt s k).count = 0
  · exact .inr hc
  · exact .inl (List.mem_filter.mpr ⟨mem_liveKeys hc, by simpa using h⟩)

theorem overDrop_object (s : State) {handle k : Nat} (h : keyHandle k = handle) :
    (chunkAt (overList (objectKeys s handle) s dropChunk) k).count = 0 := by
  refine overDrop_count _ s ?_
  by_cases hc : (chunkAt s k).count = 0
  · exact .inr hc
  · exact .inl (List.mem_filter.mpr ⟨mem_liveKeys hc, by simpa using h⟩)

theorem unstored_overDrop (l : List Nat) (s : State) : unstored (overList l s dropChunk) = unstored s :=
  overList_keeps unstored l s dropChunk fun _ _ => rfl

theorem tombs_addTomb (s : State) (handle first last cause : Nat) :
    (addTomb s handle first last cause).obj.tombs.length = s.obj.tombs.length + 1 := by
  unfold addTomb
  exact List.length_append

/-! ### Namespaces -/

theorem nsid_of_nsOf {s : State} {nsid : Nat} {n : Ns} (h : nsOf s nsid = some n) : n.nsid = nsid := by
  simpa using List.find?_some h

theorem nsOf_modNs {s : State} {nsid : Nat} {n : Ns} (h : nsOf s nsid = some n) {f : Ns → Ns} (hf : ∀ m, (f m).nsid = m.nsid) :
    nsOf (modNs s nsid f) nsid = some (f n) := by
  have hp : ∀ m, decide ((f m).nsid = nsid) = decide (m.nsid = nsid) := fun m => by rw [hf]
  exact (find?_lmodFirst_same hp s.obj.nss).trans (congrArg (Option.map f) h)

theorem nsOf_congr {s t : State} (h : t.obj.nss = s.obj.nss) (nsid : Nat) : nsOf t nsid = nsOf s nsid := by rw [nsOf, nsOf, h]

end Sys2Proof.Machine
end

section
/-! Logs, Identify, namespaces, firmware and self-test (R101, R102, R112–R117, R163, R173, R174, R590). -/

namespace Sys2Proof.Machine

/-! ### Log pages and Identify (R112, R114) -/

/-- The object log has been read: bit 2 of Critical Warning ends (log entry 188). -/
def objectsRead (s : State) : State := { s with obj := { s.obj with critWarn := s.obj.critWarn &&& ~~~4 } }

section
variable {s : State} {k : Nat} (hr : readyAdmin s k .adminOther = true)
include hr

theorem getLogPageOp_parity {lpo : Nat} (hl : lpo ≤ (parityLog s).length) (csi : Nat) :
    getLogPageOp s k 0xC1 true lpo csi = complete (sendHost s (tagAt s k) ((parityLog s).drop lpo)) k scOk 0 := by
  rw [getLogPageOp, adminCmd_ready hr]
  simp only [logPage, if_neg (Nat.not_lt.mpr hl), logPart, if_neg (show ¬ 0xC1 = 0xC0 by decide), if_true, sendHost_take]

theorem getLogPageOp_objects (csi : Nat) : getLogPageOp s k 0xC0 true 0 csi
    = complete (objectsRead (sendHost s (tagAt s k) ((s.obj.unrec.flatMap unrecBytes).take ((tagAt s k).cmd.hostLen / 64 * 64)))) k scOk 0 := by
  rw [getLogPageOp, adminCmd_ready hr]
  simp only [logPage, if_neg (Nat.not_lt_zero _), logPart, if_true, List.drop_zero, objectsRead]

theorem getLogPageOp_unknown (rae : Bool) (lpo csi : Nat) : getLogPageOp s k 0x7F rae lpo csi = complete s k scLogPage 0 := by
  rw [getLogPageOp, adminCmd_ready hr]
  rfl

theorem identifyOp_answers {cns csi : Nat} {bs : List Byte} {s' : State} (hi : identifyData s (tagAt s k) cns csi = some (bs, s')) :
    identifyOp s k cns csi = complete (sendHost s' (tagAt s k) bs) k scOk 0 := by
  rw [identifyOp, adminCmd_ready hr, hi]

end

theorem page_state (s : State) (n : Nat) (parts : List (Nat × List Byte)) (open_ : List (Nat × Nat)) :
    (page s n parts open_).2 = { s with drawn := (page s n parts open_).2.drawn } := by
  have h : ∀ (l : List (Nat × Nat)) (a : List Byte × State), (∃ d, a.2 = { s with drawn := d }) →
      ∃ d, (l.foldl (fun (a : List Byte × State) e => (layOver a.1 [(e.1, (drawBytes a.2 e.2).1)], (drawBytes a.2 e.2).2)) a).2
        = { s with drawn := d } := fun l => by
    induction l with
    | nil => exact fun _ h => h
    | cons e rest ih =>
      intro a ⟨d, hd⟩
      refine ih _ ⟨d + e.2, ?_⟩
      dsimp only [drawBytes]
      rw [hd]
  obtain ⟨d, hd⟩ := h open_ (zeros n, s) ⟨s.drawn, rfl⟩
  have hp : (page s n parts open_).2 = { s with drawn := d } := hd
  rw [hp]

/-- Identify draws values that the spec leaves open, and changes nothing else. -/
theorem identifyData_state {s s' : State} {x : Tag} {cns csi : Nat} {bs : List Byte} (h : identifyData s x cns csi = some (bs, s')) :
    s' = { s with drawn := s'.drawn } := by
  have hsame : ∀ l : List Byte, some (l, s) = some (bs, s') → s' = { s with drawn := s'.drawn } := fun l he => by
    rw [← (Prod.mk.inj (Option.some.inj he)).2]
  have hpage : ∀ parts open_, some (page s 4096 parts open_) = some (bs, s') → s' = { s with drawn := s'.drawn } := fun parts open_ he => by
    have hs' : (page s 4096 parts open_).2 = s' := congrArg Prod.snd (Option.some.inj he)
    rw [← hs']
    exact page_state s 4096 parts open_
  unfold identifyData at h
  dsimp only at h
  split at h
  · split at h <;> exact hsame _ h
  · exact hpage _ _ h
  · exact hsame _ h
  · split at h <;> exact hsame _ h
  · exact hsame _ h
  · split at h
    · exact hsame _ h
    · split at h
      · cases h
      · split at h
        · exact hsame _ h
        · split at h
          · exact hpage _ _ h
          · exact hsame _ h
  · split at h
    · exact hsame _ h
    · split at h
      · exact hsame _ h
      · cases h
  · exact hsame _ h
  · split at h <;> exact hsame _ h
  · exact hsame _ h
  · cases h

/-! ### Changes that controllers learn of (R114, R116) -/

/-- What notices of a change of namespaces leave where no request waits for an event: all but the held events and the Changed
Namespace Lists. -/
def unnoticed (x : PortSt) : PortSt := { x with held := [], changed := [] }

theorem unnoticed_proj {β : Type} {x y : PortSt} (f : PortSt → β) (hf : ∀ z, f (unnoticed z) = f z) (h : unnoticed y = unnoticed x) : f y = f x := by
  rw [← hf y, h, hf]

/-- From `s` to `t` ports have only been noticed, no request waiting on them. -/
def NoticedOnly (s t : State) : Prop :=
  t = { s with ports := t.ports } ∧ ∀ q, unnoticed (t.port q) = unnoticed (s.port q) ∧ ∀ i ∈ (s.port q).changed, i ∈ (t.port q).changed

theorem NoticedOnly.refl (s : State) : NoticedOnly s s := ⟨rfl, fun _ => ⟨rfl, fun _ h => h⟩⟩

theorem NoticedOnly.trans {s t u : State} (h : NoticedOnly s t) (h' : NoticedOnly t u) : NoticedOnly s u := by
  obtain ⟨hs, hp⟩ := h
  obtain ⟨hs', hp'⟩ := h'
  refine ⟨?_, fun q => ⟨(hp' q).1.trans (hp q).1, fun i hi => (hp' q).2 i ((hp q).2 i hi)⟩⟩
  rw [hs', hs]

theorem NoticedOnly.modPort (s : State) (p : Port) {f : PortSt → PortSt} (hf : ∀ x, unnoticed (f x) = unnoticed x)
    (hc : ∀ x, ∀ i ∈ x.changed, i ∈ (f x).changed) : NoticedOnly s (modPort s p f) := by
  refine ⟨rfl, fun q => ?_⟩
  by_cases h : q = p
  · rw [h, modPort_port]
    exact ⟨hf _, hc _⟩
  · rw [modPort_port_ne _ _ h]
    exact ⟨rfl, fun _ h => h⟩

theorem mem_insertNsid (i n : Nat) (l : List Nat) : i ∈ insertNsid n l ↔ i = n ∨ i ∈ l := by
  induction l with
  | nil => simp [insertNsid]
  | cons m rest ih =>
    rw [insertNsid]
    split
    · simp
    · split
      next hm => simp [hm]
      next => simp [ih, or_left_comm]

theorem postAen_held {s : State} {p : Port} (ha : (s.port p).aers = []) {e : Aen} (he : e.ty ≠ 7) : NoticedOnly s (postAen s p e) := by
  unfold postAen
  dsimp only
  rw [ha, if_neg (by simp [he])]
  refine NoticedOnly.modPort s p (fun x => ?_) fun x => ?_
  · split <;> rfl
  · split <;> exact fun _ h => h

/-- R114, R116: with no request waiting, a controller notes the change and holds its event. -/
theorem noticeOn_noticed {s : State} {p : Port} (ha : (s.port p).aers = []) (n : Ns) :
    NoticedOnly s (noticeOn s p n) ∧ (portExists s p = true → n.nsid ∈ ((noticeOn s p n).port p).changed) := by
  unfold noticeOn
  split
  next h => exact ⟨.refl s, fun h' => by simp [h'] at h⟩
  next =>
    have hmod : NoticedOnly s (modPort s p fun x => { x with changed := insertNsid n.nsid x.changed }) :=
      NoticedOnly.modPort s p (fun _ => rfl) fun _ i hi => (mem_insertNsid i _ _).mpr (.inr hi)
    have hin : n.nsid ∈ ((modPort s p fun x => { x with changed := insertNsid n.nsid x.changed }).port p).changed := by
      rw [modPort_port]
      exact (mem_insertNsid _ _ _).mpr (.inl rfl)
    dsimp only
    split
    · have hpost := postAen_held (s := modPort s p fun x => { x with changed := insertNsid n.nsid x.changed }) (p := p)
        (by rw [modPort_port]; exact ha) (e := { ty := 2, info := 0, log := 4 }) (by decide)
      exact ⟨hmod.trans hpost, fun _ => (hpost.2 p).2 _ hin⟩
    · exact ⟨hmod, fun _ => hin⟩

theorem noticeChange_noticed {s : State} (ha : ∀ p, (s.port p).aers = []) (n : Ns) :
    NoticedOnly s (noticeChange s n) ∧ ∀ p, n.attached p = true → portExists s p = true → n.nsid ∈ ((noticeChange s n).port p).changed := by
  obtain ⟨hfirst, hin⟩ : NoticedOnly s (if n.attA = true then noticeOn s .a n else s)
      ∧ (n.attA = true → portExists s .a = true → n.nsid ∈ ((if n.attA = true then noticeOn s .a n else s).port .a).changed) := by
    split
    next h =>
      obtain ⟨h1, h2⟩ := noticeOn_noticed (ha .a) n
      exact ⟨h1, fun _ => h2⟩
    next h => exact ⟨.refl s, fun h' => absurd h' h⟩
  unfold noticeChange
  dsimp only
  generalize (if n.attA = true then noticeOn s .a n else s) = u at hfirst hin ⊢
  have hau : (u.port .b).aers = [] := by rw [unnoticed_proj PortSt.aers (fun _ => rfl) (hfirst.2 .b).1, ha]
  have hex : portExists u .b = portExists s .b := by
    rw [hfirst.1]
    rfl
  split
  next h =>
    obtain ⟨hsecond, hin'⟩ := noticeOn_noticed hau n
    refine ⟨hfirst.trans hsecond, fun p hatt hp => ?_⟩
    cases p with
    | a => exact (hsecond.2 .a).2 _ (hin hatt hp)
    | b => exact hin' (hex.trans hp)
  next h =>
    refine ⟨hfirst, fun p hatt hp => ?_⟩
    cases p with
    | a => exact hin hatt hp
    | b => exact absurd hatt h

/-- A command that has completed has still completed once controllers have learned of its change. -/
theorem NoticedOnly.completed {s t u : State} (h : NoticedOnly t u) {k : Nat} {r : Nat × Nat} {dw0 : Nat} (hc : Completed s t k r dw0) :
    Completed s u k r dw0 := by
  obtain ⟨hs, hp⟩ := h
  have hcqu : u.cqu = t.cqu := by rw [hs]
  exact hc.congr_right (by rw [tagAt, hcqu, tagAt]) (by rw [hcqu]) fun p => unnoticed_proj PortSt.cqs (fun _ => rfl) (hp p).1

/-! ### The Datum die beneath the commands (R163, R587, R590) -/

/-- `s` with all blanked that the die and its events can change. -/
def undied (s : State) : State := { s with regs := [], fcaps := [], drawn := 0, dtm := State.reset.dtm, datum := State.reset.datum }

theorem undied_proj {β : Type} {s t : State} (f : State → β) (hf : ∀ u, f (undied u) = f u) (h : undied t = undied s) : f t = f s := by
  rw [← hf t, h, hf]

theorem undied_of_flash {s t : State} (h : flashView t = flashView s) : undied t = undied s := flashView_proj undied (fun _ => rfl) h

theorem undied_norRewriteFree {s : State} (h : DtmCalm s [1]) (l : Nat) : undied (norRewriteFree s l) = undied s :=
  (undied_of_flash (norRewrite_view (s := (norDraw s).2) ⟨h.pending, h.react, h.clear⟩ l (norDraw s).1).1).trans rfl

theorem undied_writeSlot {s : State} (hq : quiet s .dtm) (slot offset : Nat) (bytes : List Byte) (e : NorEv) :
    undied (writeSlot s slot offset bytes e).2.2 = undied s := by
  unfold writeSlot
  split
  · rfl
  · dsimp only
    obtain ⟨u, hu⟩ : ∃ u, u = if offset = 0 then eraseSlot s slot else s := ⟨_, rfl⟩
    have hcalm : DtmCalm u [1] := by
      have hs : DtmCalm s [1] := .of_quiet hq (by decide)
      rw [hu]
      split
      · exact ⟨hs.pending, hs.react, hs.clear⟩
      · exact hs
    have hus : undied u = undied s := by
      rw [hu]
      split <;> rfl
    rw [← hu]
    exact (undied_of_flash (programSpan_view hcalm _ _ _).1).trans hus

theorem undied_commitSlot {s : State} (hq : quiet s .dtm) (slot : Nat) (floor : Bool) (img : ImageInfo) :
    undied (commitSlot s slot floor img).2.2 = undied s := by
  have hraise : undied (raiseFloor s 0 img.build) = undied s := by
    have hs : DtmCalm s [1] := .of_quiet hq (by decide)
    have hu : DtmCalm (modDatum s fun d => { d with floors := vmod d.floors 0 (Nat.max img.build) }) [1] := ⟨hs.pending, hs.react, hs.clear⟩
    exact (undied_norRewriteFree hu 1026).trans rfl
  unfold commitSlot
  split
  · rfl
  · dsimp only
    split
    · dsimp only
      split
      · exact hraise
      · rfl
    · rfl

/-- A command whose work the die has done completes. -/
theorem complete_undied {s u : State} {k : Nat} (hv : undied u = undied s) (hc : calm s) (hd : (tagAt s k).dead = false) {r : Nat × Nat}
    (hop : (tagAt s k).cmd.op ≠ .zoneAppend) (dw0 : Nat) :
    Completed s (complete u k r dw0) k r dw0 ∧ endView (complete u k r dw0) = endView u := by
  have hcqu : u.cqu = s.cqu := undied_proj State.cqu (fun _ => rfl) hv
  have htag : tagAt u k = tagAt s k := by rw [tagAt, hcqu, tagAt]
  obtain ⟨hdone, hview, -⟩ := complete_after (SameEnd.of_cqu_ports (k := k) hcqu (undied_proj State.ports (fun _ => rfl) hv))
    (calm_of_cqu hcqu hc) (htag ▸ hd) (r := r) (.inr (htag ▸ hop)) dw0
  exact ⟨hdone, hview⟩

theorem firmwareImageDownloadOp_writes {s : State} {k : Nat} (hr : readyAdmin s k .adminOther = true) (slot offset : Nat) (bytes : List Byte) :
    firmwareImageDownloadOp s k slot offset bytes = complete (writeSlot (norDraw s).2 slot offset bytes (norDraw s).1).2.2 k
      (datumStatus (writeSlot (norDraw s).2 slot offset bytes (norDraw s).1).1 scFwImage) 0 := by
  rw [firmwareImageDownloadOp, adminCmd_ready hr]

theorem firmwareCommitOp_commits {s : State} {k : Nat} (hr : readyAdmin s k .adminOther = true) (slot : Nat) (floor : Bool) (img : ImageInfo) :
    firmwareCommitOp s k slot floor img
      = complete (commitSlot s slot floor img).2.2 k (datumStatus (commitSlot s slot floor img).1 scFwImage) 0 := by
  rw [firmwareCommitOp, adminCmd_ready hr]

theorem complete_writeSlot {s : State} {k : Nat} (hr : readyAdmin s k .adminOther = true) (hc : calm s) (hq : quiet s .dtm) (slot offset : Nat)
    (bytes : List Byte) : let w := writeSlot (norDraw s).2 slot offset bytes (norDraw s).1
    let t := complete w.2.2 k (datumStatus w.1 scFwImage) 0
    Completed s t k (datumStatus w.1 scFwImage) 0 ∧ t.datum = w.2.2.datum := by
  have hv : undied (writeSlot (norDraw s).2 slot offset bytes (norDraw s).1).2.2 = undied s :=
    (undied_writeSlot (s := (norDraw s).2) hq slot offset bytes (norDraw s).1).trans rfl
  generalize writeSlot (norDraw s).2 slot offset bytes (norDraw s).1 = w at hv
  obtain ⟨hdone, hview⟩ := complete_undied hv hc (admin_alive hr) (r := datumStatus w.1 scFwImage) (admin_op hr) 0
  exact ⟨hdone, endView_proj State.datum (fun _ => rfl) hview⟩

theorem complete_commitSlot {s : State} {k : Nat} (hr : readyAdmin s k .adminOther = true) (hc : calm s) (hq : quiet s .dtm) (slot : Nat)
    (floor : Bool) (img : ImageInfo) : let w := commitSlot s slot floor img
    let t := complete w.2.2 k (datumStatus w.1 scFwImage) 0
    Completed s t k (datumStatus w.1 scFwImage) 0 ∧ t.datum = w.2.2.datum ∧ t.obj = s.obj ∧ t.mem = s.mem := by
  have hv := undied_commitSlot hq slot floor img
  generalize commitSlot s slot floor img = w at hv
  obtain ⟨hdone, hview⟩ := complete_undied hv hc (admin_alive hr) (r := datumStatus w.1 scFwImage) (admin_op hr) 0
  obtain ⟨hobj, -, hmem⟩ := endView_fields hview
  exact ⟨hdone, endView_proj State.datum (fun _ => rfl) hview, hobj.trans (undied_proj State.obj (fun _ => rfl) hv),
    hmem.trans (undied_proj State.mem (fun _ => rfl) hv)⟩

/-! ### Namespaces (R102, R163, R173, R174) -/

/-- A namespace as its creation enters it (R102, R174). -/
def newNs (s : State) (id cmdset size : Nat) (nguid : List Byte) : Ns :=
  { nsid := id, cmdset := cmdset, nguid := nguid, size := if cmdset = 1 then 0 else size, attA := false, attB := false
    keyep := 1, keyDraw := 0, created := clockSec s.datum, recGen := 0, nextSerial := 2, zones := [], objs := [] }

/-- The namespace entered, its key made and its record written. -/
def createdNs (s : State) (n : Ns) : State := writeNsRecord (makeKey { s with obj := { s.obj with nss := s.obj.nss ++ [n] } } n.slot 1) n

theorem namespaceCreateOp_creates {s : State} {k cmdset size id : Nat} {nguid : List Byte} (hr : readyAdmin s k .adminOther = true)
    (hid : freeNsid s = some id) (h3 : cmdset < 3) (hg : nguid.length = 16) (hs : cmdset = 1 ∨ (size ≠ 0 ∧ tooManyChunks size = false))
    (hz : cmdset ≠ 2 ∨ size % 65536 = 0) (ht : takesData s 4128 = true) :
    namespaceCreateOp s k cmdset 0 size nguid = complete (createdNs s (newNs s id cmdset size nguid)) k scOk id := by
  have hok : (decide (3 ≤ cmdset) || decide (nguid.length ≠ 16) || (decide (cmdset ≠ 1) && (decide (size = 0) || tooManyChunks size))
      || (decide (cmdset = 2) && decide (size % 65536 ≠ 0))) = false := by
    simp only [Bool.or_eq_false_iff, Bool.and_eq_false_iff, decide_eq_false_iff_not, Decidable.not_not]
    exact ⟨⟨⟨by omega, hg⟩, hs⟩, hz⟩
  rw [namespaceCreateOp, adminCmd_ready hr, if_neg (by decide), hok, if_neg (by decide), hid]
  exact if_pos ht

theorem undied_modDatum (s : State) (f : DatumSt → DatumSt) : undied (modDatum s f) = undied s := rfl

theorem undied_makeKey {s : State} (h : DtmCalm s [1]) (slot epoch : Nat) : undied (makeKey s slot epoch) = undied s :=
  (undied_modDatum _ _).trans (undied_norRewriteFree h 1025)

theorem epoch_makeKey (s : State) (slot epoch : Nat) : (tget MKey.none (makeKey s slot epoch).datum.keys slot).epoch = epoch := by
  unfold makeKey modDatum
  dsimp only
  rw [tget_tset_same]

/-- What the creation of a namespace leaves. -/
theorem createdNs_fields {s : State} {n : Ns} (hq : quiet s .dtm) (hfree : nsOf s n.nsid = none) :
    (createdNs s n).cqu = s.cqu ∧ (createdNs s n).ports = s.ports ∧ (createdNs s n).mem = s.mem
      ∧ (tget MKey.none (createdNs s n).datum.keys n.slot).epoch = 1
      ∧ (∃ d g, nsOf (createdNs s n) n.nsid = some { n with keyDraw := d, recGen := g })
      ∧ (chunkAt (createdNs s n) (nsRecordKey n)).data = nsRecordBody n := by
  have hs : DtmCalm s [1] := .of_quiet hq (by decide)
  obtain ⟨v, hv⟩ : ∃ v : State, v = { s with obj := { s.obj with nss := s.obj.nss ++ [n] } } := ⟨_, rfl⟩
  have hvcalm : DtmCalm v [1] := by
    rw [hv]
    exact ⟨hs.pending, hs.react, hs.clear⟩
  have hmade := undied_makeKey hvcalm n.slot 1
  have hepoch := epoch_makeKey v n.slot 1
  have hview := undied_proj (fun w => (w.cqu, w.ports, w.mem, w.obj.nss)) (fun _ => rfl) hmade
  have heq : createdNs s n = writeNsRecord (makeKey v n.slot 1) n := by rw [createdNs, hv]
  generalize makeKey v n.slot 1 = w at *
  have hstored := (storesOnly_storeChunk w (nsRecordKey n) n.keyep (nsRecordBody n)).1
  have hdata := (chunkAt_storeChunk_same w (nsRecordKey n) n.keyep (nsRecordBody n)).1
  have hfields := unstored_proj (fun z => (z.cqu, z.ports, z.mem, z.obj.nss, z.datum)) (fun _ => rfl) hstored
  rw [heq, writeNsRecord]
  generalize storeChunk w (nsRecordKey n) n.keyep (nsRecordBody n) = z at *
  simp only [Prod.mk.injEq] at hview hfields
  obtain ⟨hcqu, hports, hmem, hnss⟩ := hview
  obtain ⟨hcqu', hports', hmem', hnss', hdatum'⟩ := hfields
  have hfind : nsOf z n.nsid = some n := by
    rw [nsOf] at hfree
    rw [nsOf, hnss', hnss, hv, List.find?_append, hfree]
    simp
  refine ⟨?_, ?_, ?_, ?_, ⟨_, _, nsOf_modNs hfind fun _ => rfl⟩, hdata⟩
  · rw [show (modNs z n.nsid _).cqu = z.cqu from rfl, hcqu', hcqu, hv]
  · rw [show (modNs z n.nsid _).ports = z.ports from rfl, hports', hports, hv]
  · rw [show (modNs z n.nsid _).mem = z.mem from rfl, hmem', hmem, hv]
  · rw [show (modNs z n.nsid _).datum = z.datum from rfl, hdatum']
    exact hepoch

/-- The namespace with its chunks, past the ledger: one tombstone over the record's handle ends it (R173). -/
def deletedNs (s : State) (n : Ns) : State :=
  let s := addTomb (overList (slotKeys s n.slot) s dropChunk) (nsRecordHandle n.slot) 0 (2 ^ 40 - 1) 4
  { s with obj := { s.obj with nss := s.obj.nss.filter fun m => m.nsid ≠ n.nsid } }

theorem namespaceDeleteOp_deletes {s : State} {k : Nat} {n : Ns} (hr : readyAdmin s k .adminNsDelete = true)
    (hn : nsOf s (tagAt s k).cmd.nsid = some n) : namespaceDeleteOp s k = noticeChange (complete (deletedNs s n) k scOk 0) n := by
  rw [namespaceDeleteOp]
  dsimp only
  rw [hn]
  exact if_pos hr

theorem deletedNs_fields (s : State) (n : Ns) :
    (deletedNs s n).cqu = s.cqu ∧ (deletedNs s n).ports = s.ports ∧ (deletedNs s n).mem = s.mem ∧ nsOf (deletedNs s n) n.nsid = none
      ∧ (deletedNs s n).obj.tombs.length = s.obj.tombs.length + 1
      ∧ ∀ key, handleSlot (keyHandle key) = n.slot → (chunkAt (deletedNs s n) key).count = 0 := by
  have hdrop := unstored_overDrop (slotKeys s n.slot) s
  have hcount : ∀ key, handleSlot (keyHandle key) = n.slot → (chunkAt (overList (slotKeys s n.slot) s dropChunk) key).count = 0 :=
    fun key h => overDrop_slot s h
  have hfields := unstored_proj (fun w => (w.cqu, w.ports, w.mem, w.obj.tombs)) (fun _ => rfl) hdrop
  unfold deletedNs
  dsimp only
  generalize overList (slotKeys s n.slot) s dropChunk = u at *
  simp only [Prod.mk.injEq] at hfields
  obtain ⟨hcqu, hports, hmem, htombs⟩ := hfields
  refine ⟨hcqu, hports, hmem, List.find?_eq_none.mpr fun m hm => ?_, ?_, hcount⟩
  · simpa using (List.mem_filter.mp hm).2
  · exact (tombs_addTomb u _ _ _ _).trans (by rw [htombs])

theorem namespaceAttachmentOp_attaches {s : State} {k nsid : Nat} {p : Port} {attach : Bool} {n : Ns} (hr : readyAdmin s k .adminOther = true)
    (hn : nsOf s nsid = some n) (hp : portExists s p = true) (ha : n.attached p = !attach) : namespaceAttachmentOp s k nsid p attach
      = noticeChange (complete (modNs s nsid fun m => setAttached m p attach) k scOk 0) (setAttached n p true) := by
  rw [namespaceAttachmentOp, adminCmd_ready hr, hn]
  dsimp only
  rw [if_neg (by simp [hp]), if_neg (by rw [ha]; cases attach <;> decide)]

theorem complete_identified {s s' : State} {k : Nat} (hc : calm s) (hd : (tagAt s k).dead = false) (hs : s' = { s with drawn := s'.drawn })
    (bs : List Byte) : let t := complete (sendHost s' (tagAt s k) bs) k scOk 0
    Completed s t k scOk 0 ∧ t.obj = s.obj ∧ t.regs = s.regs ∧ t.mem = s.mem ∧ HostGets s t k bs := by
  have hcqu : s'.cqu = s.cqu := by rw [hs]
  have hports : s'.ports = s.ports := by rw [hs]
  have hfields : s'.obj = s.obj ∧ s'.regs = s.regs ∧ s'.mem = s.mem := by rw [hs]; exact ⟨rfl, rfl, rfl⟩
  have htag : tagAt s' k = tagAt s k := by rw [tagAt, hcqu, tagAt]
  obtain ⟨hdone, hobj, hregs, hmem, hgets, -⟩ := complete_sendHost (calm_of_cqu hcqu hc) (htag ▸ hd) bs (.inl rfl) 0
  rw [htag] at hdone hobj hregs hmem hgets
  obtain ⟨hobj', hregs', hmem'⟩ := hfields
  refine ⟨(SameEnd.of_cqu_ports hcqu hports).completed hdone, hobj.trans hobj', hregs.trans hregs', hmem.trans hmem', hostGets_sent ?_⟩
  rw [hgets.1, htag, hs, hostMem_sendHost_drawn]

theorem complete_objectsRead {s : State} {k : Nat} (hc : calm s) (hd : (tagAt s k).dead = false) (bs : List Byte) :
    let t := complete (objectsRead (sendHost s (tagAt s k) bs)) k scOk 0
    Completed s t k scOk 0 ∧ t.obj = { s.obj with critWarn := s.obj.critWarn &&& ~~~4 } ∧ t.mem = s.mem ∧ HostGets s t k bs := by
  have hend := sameEnd_sendHost s (tagAt s k) bs k
  have hmem' := sendHost_mem s (tagAt s k) bs
  have hobj' := sendHost_obj s (tagAt s k) bs
  have hgets := hostGets_sent (s := s) (t := sendHost s (tagAt s k) bs) rfl
  have hd' : (tagAt (sendHost s (tagAt s k) bs) k).dead = false := by rw [sendHost_tagAt, hd]
  have hc' := sendHost_calm (tagAt s k) bs hc
  generalize sendHost s (tagAt s k) bs = u at *
  obtain ⟨hdone, hview, -⟩ := complete_ok_after (u := objectsRead u) (k := k) rfl rfl hc' hd' 0
  obtain ⟨hobj, -, hmem⟩ := endView_fields hview
  refine ⟨hend.completed hdone, hobj.trans ?_, hmem.trans hmem', hgets.congr ?_⟩
  · rw [objectsRead, hobj']
  · exact (endView_proj State.hostMem (fun _ => rfl) hview).trans rfl

theorem nsid_of_freeNsid {s : State} {id : Nat} (h : freeNsid s = some id) : nsOf s id = none ∧ id ≠ 0 := by
  rw [freeNsid] at h
  have hfree := List.find?_some (p := fun i => (nsOf s i).isNone) h
  obtain ⟨i, -, hi⟩ := List.mem_map.mp (List.mem_of_find?_eq_some h)
  exact ⟨Option.isNone_iff_eq_none.mp hfree, by omega⟩

/-- Controllers that learn of a change keep the objects, the memory and the registers. -/
theorem NoticedOnly.fields {s t : State} (h : NoticedOnly s t) : t.obj = s.obj ∧ t.regs = s.regs ∧ t.mem = s.mem := by
  obtain ⟨hs, -⟩ := h
  rw [hs]
  exact ⟨rfl, rfl, rfl⟩

theorem no_aers_of_unposted {s t : State} (h : ∀ p, unposted (t.port p) = unposted (s.port p)) (ha : ∀ p, (s.port p).aers = []) (p : Port) :
    (t.port p).aers = [] :=
  (unposted_proj PortSt.aers (fun _ => rfl) (h p)).trans (ha p)

theorem setAttached_nsid (n : Ns) (p : Port) (b : Bool) : (setAttached n p b).nsid = n.nsid := by cases p <;> rfl

theorem attached_setAttached (n : Ns) (p : Port) : (setAttached n p true).attached p = true := by cases p <;> rfl

end Sys2Proof.Machine
end

section
open Sys2Proof Sys2Proof.Machine

/-- Settles O27: each command changes the objects, the die or the host's memory, which its completion keeps. -/
theorem adminNamespaces : Obligations.AdminNamespaces := by
  refine ⟨?_, ?_, ?_, ?_, ?_, ?_, ?_, ?_, ?_, ?_⟩
  · intro k lpo csi s hr hc hl
    obtain ⟨hdone, hobj, hregs, hmem, hgets, -⟩ := complete_sendHost hc (admin_alive hr) ((parityLog s).drop lpo) (.inl rfl) 0
    refine answers_settled _ _ ?_
    simp only [settle_obj, settle_regs, settle_mem, completed_settle, hostGets_settle]
    rw [getLogPageOp_parity hr hl]
    exact ⟨hdone, hobj, hregs, hmem, hgets⟩
  · intro k csi s hr hc
    refine answers_settled _ _ ?_
    simp only [settle_obj, settle_mem, completed_settle, hostGets_settle]
    rw [getLogPageOp_objects hr]
    exact complete_objectsRead hc (admin_alive hr) _
  · intro k lpo csi rae s hr hc
    obtain ⟨hdone, hview, -⟩ := complete_after (SameEnd.refl s k) hc (admin_alive hr) (.inr (admin_op hr)) (r := scLogPage) 0
    obtain ⟨hobj, -, hmem⟩ := endView_fields hview
    refine answers_settled _ _ ?_
    simp only [settle_obj, settle_mem, settle_hostMem, completed_settle]
    rw [getLogPageOp_unknown hr]
    exact ⟨hdone, hobj, endView_proj State.hostMem (fun _ => rfl) hview, hmem⟩
  · intro k cns csi bs s s' hr hc hi
    refine answers_settled _ _ ?_
    simp only [settle_obj, settle_regs, settle_mem, completed_settle, hostGets_settle]
    rw [identifyOp_answers hr hi]
    exact complete_identified hc (admin_alive hr) (identifyData_state hi) bs
  · intro k cmdset size id nguid s hr hc hq hid h3 hg hs hz ht
    obtain ⟨hfree, h0⟩ := nsid_of_freeNsid hid
    obtain ⟨hcqu, hports, hmem, hepoch, ⟨d, g, hn⟩, hdata⟩ := createdNs_fields (n := newNs s id cmdset size nguid) hq hfree
    obtain ⟨hdone, hview, -⟩ := complete_ok_after hcqu hports hc (admin_alive hr) id
    have hobj := endView_proj State.obj (fun _ => rfl) hview
    refine answers_settled _ _ ?_
    simp only [settle_datum, settle_mem, completed_settle]
    rw [namespaceCreateOp_creates hr hid h3 hg hs hz ht]
    refine ⟨hdone, ?_, (endView_proj State.mem (fun _ => rfl) hview).trans hmem,
      { newNs s id cmdset size nguid with keyDraw := d, recGen := g }, ?_, rfl, rfl, rfl, rfl, rfl, rfl, rfl, ?_⟩
    · rw [endView_proj State.datum (fun _ => rfl) hview]
      exact hepoch
    · rw [nsOf_congr (congrArg ObjSt.nss ((settle_obj _).trans hobj))]
      exact hn
    · rw [chunkAt_congr (congrArg ObjSt.chunks ((settle_obj _).trans hobj))]
      exact hdata
  · intro k n s hr hd hc hn ha
    obtain ⟨hcqu, hports, hmem, hgone, htombs, hchunks⟩ := deletedNs_fields s n
    obtain ⟨hdone, hview, hposts⟩ := complete_ok_after hcqu hports hc hd 0
    obtain ⟨hnoticed, -⟩ := noticeChange_noticed (no_aers_of_unposted hposts ha) n
    obtain ⟨hobj, -, hmem'⟩ := endView_fields hview
    obtain ⟨hobj', -, hmem''⟩ := hnoticed.fields
    have hobjs := (settle_obj _).trans (hobj'.trans hobj)
    refine answers_settled _ _ ?_
    simp only [settle_obj, settle_mem, completed_settle]
    rw [namespaceDeleteOp_deletes hr hn]
    refine ⟨hnoticed.completed hdone, ?_, ?_, hmem''.trans (hmem'.trans hmem), fun key hk => ?_⟩
    · rw [nsOf_congr (congrArg ObjSt.nss hobjs), ← nsid_of_nsOf hn]
      exact hgone
    · rw [hobj', hobj]
      exact htombs
    · rw [chunkAt_congr (congrArg ObjSt.chunks hobjs)]
      exact hchunks key hk
  · intro k nsid p attach n s hr hc hn hp hatt ha
    obtain ⟨hdone, hview, hposts⟩ := complete_ok_after (s := s) (u := modNs s nsid fun m => setAttached m p attach) rfl rfl hc (admin_alive hr) (k := k) 0
    obtain ⟨hnoticed, hin⟩ := noticeChange_noticed (no_aers_of_unposted hposts ha) (setAttached n p true)
    obtain ⟨hobj, hregs, hmem⟩ := endView_fields hview
    obtain ⟨hobj', hregs', hmem'⟩ := hnoticed.fields
    have hobjs := (settle_obj _).trans (hobj'.trans hobj)
    have hex : portExists (complete (modNs s nsid fun m => setAttached m p attach) k scOk 0) p = true := by
      rw [endView_proj (portExists · p) (fun _ => rfl) hview]
      exact hp
    refine answers_settled _ _ ?_
    simp only [settle_regs, settle_mem, settle_port, completed_settle]
    rw [namespaceAttachmentOp_attaches hr hn hp hatt]
    refine ⟨hnoticed.completed hdone, ?_, ?_, (congrArg ObjSt.chunks hobjs :), hregs'.trans hregs, hmem'.trans hmem⟩
    · rw [nsOf_congr (congrArg ObjSt.nss hobjs)]
      exact nsOf_modNs hn fun m => setAttached_nsid m p attach
    · have hid := hin p (attached_setAttached n p) hex
      rwa [setAttached_nsid, nsid_of_nsOf hn] at hid
  · intro k slot offset bytes s hr hc hq
    refine answers_settled _ _ ?_
    simp only [settle_datum, completed_settle]
    rw [firmwareImageDownloadOp_writes hr]
    exact complete_writeSlot hr hc hq slot offset bytes
  · intro k slot floor img s hr hc hq
    refine answers_settled _ _ ?_
    simp only [settle_datum, settle_obj, settle_mem, completed_settle]
    rw [firmwareCommitOp_commits hr]
    exact complete_commitSlot hr hc hq slot floor img
  · intro k extended pass s hr hc
    obtain ⟨hdone, hview, -⟩ := complete_ok_after (s := s) (k := k)
      (u := { s with obj := { s.obj with selfTest := ((extended, pass) :: s.obj.selfTest).take 20 } }) rfl rfl hc (admin_alive hr) 0
    obtain ⟨hobj, hregs, hmem⟩ := endView_fields hview
    refine answers_settled _ _ ?_
    simp only [settle_obj, settle_regs, settle_mem, completed_settle]
    rw [deviceSelfTestOp, adminCmd_ready hr]
    exact ⟨hdone, hobj, hregs, hmem⟩
end

section
/-! The Key Value commands (R106, R118, R136, R157, R172, R173). -/

namespace Sys2Proof.Machine

/-! ### Keys of chunks (R157) -/

theorem keyHandle_chunkKey (handle : Nat) {c : Nat} (h : c < 2 ^ 40) : keyHandle (chunkKey handle c) = handle := by
  rw [keyHandle, chunkKey, Nat.mul_comm, Nat.mul_add_div (by decide), Nat.div_eq_of_lt h, Nat.add_zero]

theorem keyChunk_chunkKey (handle : Nat) {c : Nat} (h : c < 2 ^ 40) : keyChunk (chunkKey handle c) = c := by
  rw [keyChunk, chunkKey, Nat.mul_comm, Nat.mul_add_mod, Nat.mod_eq_of_lt h]

theorem chunkKey_inj {handle c d : Nat} (h : chunkKey handle c = chunkKey handle d) : c = d := Nat.add_left_cancel h

/-! ### What a command stages (R99) -/

theorem storesOnly_overStore (e : Nat) (l : List (Nat × List Byte)) (s : State) :
    StoresOnly s (overList l s fun s x => storeChunk s x.1 e x.2) :=
  StoresOnly.overList (fun s x => storesOnly_storeChunk s x.1 e x.2) l s

/-- Chunks stored under keys that differ all stand in the dirty set. -/
theorem stored_overStore (e : Nat) (l : List (Nat × List Byte)) (s : State) (hl : (l.map (·.1)).Nodup) :
    stored s (overList l s fun s x => storeChunk s x.1 e x.2) l := by
  induction l generalizing s with
  | nil => exact ⟨fun _ h => absurd h List.not_mem_nil, fun _ _ => rfl⟩
  | cons x rest ih =>
    obtain ⟨hx, hrest⟩ := List.nodup_cons.mp hl
    obtain ⟨hin, hout⟩ := ih (storeChunk s x.1 e x.2) hrest
    refine ⟨fun y hy => ?_, fun k hk => ?_⟩
    · rcases List.mem_cons.mp hy with rfl | hy
      · rw [show overList (y :: rest) s _ = overList rest (storeChunk s y.1 e y.2) _ from rfl, hout _ hx]
        exact chunkAt_storeChunk_same s y.1 e y.2
      · have hne : y.1 ≠ x.1 := fun he => hx (List.mem_map.mpr ⟨y, hy, he⟩)
        obtain ⟨hd, hs, hg⟩ := hin y hy
        exact ⟨hd, hs, hg.trans (by rw [chunkAt_storeChunk_ne _ _ _ hne])⟩
    · obtain ⟨hne, hk⟩ := not_or.mp (List.mem_cons.not.mp hk)
      exact (hout k hk).trans (chunkAt_storeChunk_ne s e x.2 hne)

theorem chunkAt_overDrop_of_notMem (l : List Nat) (s : State) {k : Nat} (h : k ∉ l) : chunkAt (overList l s dropChunk) k = chunkAt s k := by
  induction l generalizing s with
  | nil => rfl
  | cons j rest ih =>
    obtain ⟨hj, hrest⟩ := not_or.mp (List.mem_cons.not.mp h)
    exact (ih _ hrest).trans (chunkAt_dropChunk_ne s hj)

/-- What the end of a command sees where only the keys that the command has staged are noted in its tag. -/
theorem sameEnd_keys {s u : State} {k : Nat} {l : List Nat} (hc : u.cqu = (modTag s k fun x => { x with keys := x.keys ++ l }).cqu)
    (hp : u.ports = s.ports) : SameEnd s u k ∧ tagAt u k = { tagAt s k with keys := (tagAt s k).keys ++ l } := by
  have htag : tagAt u k = { tagAt s k with keys := (tagAt s k).keys ++ l } := by
    rw [tagAt, hc, ← tagAt, tagAt_modTag_same]
  have hport : ∀ p, u.port p = s.port p := fun p => congrArg (vget · (portIx p)) hp
  have hstopped : u.cqu.stopped = s.cqu.stopped := by rw [hc]; rfl
  refine ⟨⟨by rw [htag], by rw [htag], by rw [htag], ?_⟩, htag⟩
  simp only [entryQueue, htag, hport, hstopped]

@[simp] theorem staged_settle {s t : State} {k : Nat} {r : Nat × Nat} {dw0 : Nat} : Staged s (settle t) k r dw0 ↔ Staged s t k r dw0 := by
  simp only [Staged, settle_tagAt, completed_settle]

/-- R99: a command that has staged its data completes, or waits where data are durable on media alone. -/
theorem completeDurable_staged {s u : State} {k j : Nat} (hend : SameEnd s u k) (hw : writesThrough u = writesThrough s) (hc : calm u)
    (hd : (tagAt u k).dead = false) (hop : (tagAt u k).cmd.op ≠ .zoneAppend) (hst : (tagAt u k).st = .active)
    (hj : j ∈ (tagAt u k).keys) (hs : (chunkAt u j).staged = true) (dw0 : Nat) :
    Staged s (completeDurable u k dw0) k (tagResult (tagAt u k)) dw0 ∧ endView (completeDurable u k dw0) = endView u := by
  cases hwt : writesThrough s with
  | true =>
    have hnot : durable u (tagAt u k) = false := by
      rw [durable, hw, hwt, Bool.not_true, Bool.false_or]
      exact List.all_eq_false.mpr ⟨j, hj, by simp [hs]⟩
    have hstay : completeDurable u k dw0 = u := by rw [completeDurable, hnot, when, if_neg (by decide)]
    rw [hstay, Staged, if_pos hwt]
    exact ⟨hst, rfl⟩
  | false =>
    have hnow : durable u (tagAt u k) = true := by rw [durable, hw, hwt, Bool.not_false, Bool.true_or]
    have hgo : completeDurable u k dw0 = complete u k (tagResult (tagAt u k)) dw0 := by rw [completeDurable, hnow, when, if_pos rfl]
    obtain ⟨hdone, hview, -⟩ := complete_after hend hc hd (r := tagResult (tagAt u k)) (.inr hop) dw0
    rw [hgo, Staged, if_neg (by simp [hwt])]
    exact ⟨hdone, hview⟩

/-! ### Store (R172) -/

theorem mem_valueChunks {handle : Nat} {e : Nat × List Byte} : ∀ {n c : Nat} {value : List Byte}, e ∈ valueChunks handle c n value →
    ∃ i, c ≤ i ∧ i < c + n ∧ e.1 = chunkKey handle i
  | 0, _, _, h => absurd h List.not_mem_nil
  | n + 1, c, value, h => by
    rcases List.mem_cons.mp h with rfl | h
    · exact ⟨c, by omega, by omega, rfl⟩
    · obtain ⟨i, hlo, hhi, he⟩ := mem_valueChunks h
      exact ⟨i, by omega, by omega, he⟩

theorem valueChunks_nodup (handle : Nat) : ∀ (n c : Nat) (value : List Byte), ((valueChunks handle c n value).map (·.1)).Nodup
  | 0, _, _ => List.nodup_nil
  | n + 1, c, value => by
    refine List.nodup_cons.mpr ⟨fun h => ?_, valueChunks_nodup handle n (c + 1) _⟩
    obtain ⟨e, he, hk⟩ := List.mem_map.mp h
    obtain ⟨i, hlo, -, hi⟩ := mem_valueChunks he
    have := chunkKey_inj (hi.symm.trans hk)
    omega

section
variable {s : State} {n : Ns} {c : HostCmd} (hlen : c.hostLen ≤ 4294963200)
include hlen

/-- What a Store writes are chunks of the value, below its number of chunks, and the object record. -/
theorem mem_storeSet {e : Nat × List Byte} (h : e ∈ storeSet s n c) :
    ∃ i, i < 2 ^ 40 ∧ e.1 = chunkKey (storeHandle n c.key) i ∧ (i < (c.hostLen + 65535) / 65536 ∨ i = objRecordChunk) := by
  rcases List.mem_append.mp h with h | h
  · obtain ⟨i, -, hi, he⟩ := mem_valueChunks h
    exact ⟨i, by omega, he, .inl (by omega)⟩
  · obtain rfl := List.mem_singleton.mp h
    exact ⟨objRecordChunk, by decide, rfl, .inr rfl⟩

theorem storeSet_nodup : ((storeSet s n c).map (·.1)).Nodup := by
  rw [storeSet, List.map_append]
  refine List.nodup_append.mpr ⟨valueChunks_nodup _ _ _ _, List.nodup_singleton _, fun a ha b hb he => ?_⟩
  obtain ⟨e, hm, rfl⟩ := List.mem_map.mp ha
  obtain ⟨i, -, hi, hk⟩ := mem_valueChunks hm
  obtain rfl := List.mem_singleton.mp hb
  have hrec : i = objRecordChunk := chunkKey_inj (hk.symm.trans he)
  rw [objRecordChunk] at hrec
  omega

end

/-- Chunks of a longer value that a Store drops. -/
def pastValue (s : State) (n : Ns) (c : HostCmd) : List Nat :=
  (objectKeys s (storeHandle n c.key)).filter fun k => decide ((c.hostLen + 65535) / 65536 ≤ keyChunk k) && keyChunk k ≠ objRecordChunk

/-- The object that a Store leaves. -/
def storedObj (n : Ns) (c : HostCmd) : KvObj := { key := c.key, handle := storeHandle n c.key, vallen := c.hostLen }

/-- The value staged in `u`, chunks past its end dropped, and its key known. -/
def kvPlaced (s : State) (k : Nat) (n : Ns) (u : State) : State :=
  modNs (overList (pastValue s n (tagAt s k).cmd) u dropChunk) n.nsid fun m => kvPut m (storedObj n (tagAt s k).cmd)

/-- What a Store leaves, its command not yet completed. -/
def kvStored (s : State) (k : Nat) (n : Ns) : State := kvPlaced s k n (stageChunks s k n.keyep (storeSet s n (tagAt s k).cmd))

theorem stageFor_stages {s : State} {k : Nat} {n : Ns} {l : List (Nat × List Byte)} (h : canStage s k n l) (f : State → State) :
    stageFor s k n false l f = f (stageChunks s k n.keyep l) := by
  obtain ⟨hkeys, hcap, htakes, hkey⟩ := h
  rw [stageFor, if_neg (by simp [hkeys]), if_neg (by decide), if_neg (by simp [hcap]), if_neg (by simp [htakes, hkey])]

/-- A Store whose data are in: the checks of its options and of room for a key, then its staging. -/
theorem kvStoreOp_eq {s : State} {k : Nat} {n : Ns} (hn : nsOf s (tagAt s k).cmd.nsid = some n) (hr : ready s k .kvStore = true)
    (hd : (tagAt s k).cmd.hostLen ≤ (tagAt s k).cmd.data.length) : kvStoreOp s k
      = if (tagAt s k).keys = [] && (tagAt s k).cmd.opts.testBit 0 && (kvFind n (tagAt s k).cmd.key).isSome then complete s k scKeyExists 0
        else if (tagAt s k).cmd.opts.testBit 1 && (kvFind n (tagAt s k).cmd.key).isNone then complete s k scNoKey 0
        else if (kvFind n (tagAt s k).cmd.key).isNone && decide (lastSerial < n.nextSerial) then complete s k scCapacity 0
        else stageFor s k n false (storeSet s n (tagAt s k).cmd) fun u => completeDurable (kvPlaced s k n u) k 0 := by
  rw [kvStoreOp]
  dsimp only
  rw [hn]
  dsimp only
  rw [when, if_pos (by rw [hr, decide_eq_true hd]; rfl)]
  rfl

theorem kvStoreOp_stages {s : State} {k : Nat} {n : Ns} (hn : nsOf s (tagAt s k).cmd.nsid = some n) (hr : ready s k .kvStore = true)
    (hd : (tagAt s k).cmd.hostLen ≤ (tagAt s k).cmd.data.length) (ho : (tagAt s k).cmd.opts = 0)
    (hroom : (kvFind n (tagAt s k).cmd.key).isSome = true ∨ n.nextSerial ≤ lastSerial) (hst : canStage s k n (storeSet s n (tagAt s k).cmd)) :
    kvStoreOp s k = completeDurable (kvStored s k n) k 0 := by
  have hserial : ((kvFind n (tagAt s k).cmd.key).isNone && decide (lastSerial < n.nextSerial)) = false := by
    rcases hroom with h | h
    · obtain ⟨o, ho⟩ := Option.isSome_iff_exists.mp h
      rw [ho]
      rfl
    · rw [decide_eq_false (Nat.not_lt.mpr h), Bool.and_false]
  rw [kvStoreOp_eq hn hr hd, ho, Nat.zero_testBit, Nat.zero_testBit, hserial, Bool.and_false, Bool.false_and, Bool.false_and,
    if_neg Bool.false_ne_true, if_neg Bool.false_ne_true, if_neg Bool.false_ne_true, stageFor_stages hst, kvStored]

theorem kvStoreOp_exists {s : State} {k : Nat} {n : Ns} (hn : nsOf s (tagAt s k).cmd.nsid = some n) (hr : ready s k .kvStore = true)
    (hd : (tagAt s k).cmd.hostLen ≤ (tagAt s k).cmd.data.length) (ho : (tagAt s k).cmd.opts = 1) (hk : (tagAt s k).keys = [])
    (hf : (kvFind n (tagAt s k).cmd.key).isSome = true) : kvStoreOp s k = complete s k scKeyExists 0 := by
  rw [kvStoreOp_eq hn hr hd, hf, hk, ho, if_pos (by decide)]

theorem kvFind_kvPut (n : Ns) (o : KvObj) : kvFind (kvPut n o) o.key = some o := by
  rw [kvFind, kvPut]
  dsimp only
  split
  next h =>
    obtain ⟨p, hp⟩ := Option.isSome_iff_exists.mp ((List.find?_isSome (p := fun p : KvObj => decide (p.key = o.key))).mpr (by simpa using h))
    have hkey : p.key = o.key := by simpa using List.find?_some hp
    have hsame : ((fun p : KvObj => decide (p.key = o.key)) ∘ fun p => if p.key = o.key then o else p) = fun p => decide (p.key = o.key) := by
      funext q
      by_cases hq : q.key = o.key <;> simp [hq]
    rw [List.find?_map, hsame, hp, Option.map_some, if_pos hkey]
  next h =>
    have hnone : n.objs.find? (fun p => decide (p.key = o.key)) = none := List.find?_eq_none.mpr fun p hp hk =>
      h (List.any_eq_true.mpr ⟨p, hp, hk⟩)
    rw [List.find?_append, hnone]
    simp

/-- A Store drops no chunk that it stores. -/
theorem storeSet_not_pastValue {s : State} {n : Ns} {c : HostCmd} (hlen : c.hostLen ≤ 4294963200) {e : Nat × List Byte} (h : e ∈ storeSet s n c) :
    e.1 ∉ pastValue s n c := by
  obtain ⟨i, hi, he, hcase⟩ := mem_storeSet hlen h
  intro hm
  have hpast := (List.mem_filter.mp hm).2
  rw [he, keyChunk_chunkKey _ hi] at hpast
  simp only [Bool.and_eq_true, decide_eq_true_eq] at hpast
  omega

theorem handle_of_storeSet {s : State} {n : Ns} {c : HostCmd} (hlen : c.hostLen ≤ 4294963200) {e : Nat × List Byte} (h : e ∈ storeSet s n c) :
    keyHandle e.1 = storeHandle n c.key := by
  obtain ⟨i, hi, he, -⟩ := mem_storeSet hlen h
  rw [he, keyHandle_chunkKey _ hi]

theorem handle_of_pastValue {s : State} {n : Ns} {c : HostCmd} {k : Nat} (h : k ∈ pastValue s n c) : keyHandle k = storeHandle n c.key := by
  have hobj := (List.mem_filter.mp (List.mem_filter.mp h).1).2
  simpa using hobj

theorem chunkAt_modNs (s : State) (nsid : Nat) (f : Ns → Ns) (k : Nat) : chunkAt (modNs s nsid f) k = chunkAt s k := rfl

theorem chunkAt_kvStored {s : State} {k : Nat} {n : Ns} (hlen : (tagAt s k).cmd.hostLen ≤ 4294963200) :
    (∀ e ∈ storeSet s n (tagAt s k).cmd, (chunkAt (kvStored s k n) e.1).data = e.2 ∧ (chunkAt (kvStored s k n) e.1).staged = true)
      ∧ ∀ j, keyHandle j ≠ storeHandle n (tagAt s k).cmd.key → chunkAt (kvStored s k n) j = chunkAt s j := by
  obtain ⟨hin, hout⟩ := stored_overStore n.keyep (storeSet s n (tagAt s k).cmd) s (storeSet_nodup hlen)
  have hkept : ∀ j, j ∉ pastValue s n (tagAt s k).cmd → chunkAt (kvStored s k n) j
      = chunkAt (overList (storeSet s n (tagAt s k).cmd) s fun s x => storeChunk s x.1 n.keyep x.2) j := fun j hj => by
    rw [kvStored, kvPlaced, chunkAt_modNs, chunkAt_overDrop_of_notMem _ _ hj]
    rfl
  refine ⟨fun e he => ?_, fun j hj => ?_⟩
  · obtain ⟨hdata, hstaged, -⟩ := hin e he
    rw [hkept _ (storeSet_not_pastValue hlen he)]
    exact ⟨hdata, hstaged⟩
  · rw [hkept j fun h => hj (handle_of_pastValue h), hout j fun h => ?_]
    obtain ⟨e, he, rfl⟩ := List.mem_map.mp h
    exact hj (handle_of_storeSet hlen he)

theorem writesThrough_congr {s t : State} (h : t.regs = s.regs) : writesThrough t = writesThrough s := by
  rw [writesThrough, writesThrough, rf, rf, rn, rn, rget, rget, h]

theorem storesOnly_writesThrough {s t : State} (h : StoresOnly s t) : writesThrough t = writesThrough s := by
  rw [writesThrough, writesThrough, rf, rf, rn_of_regsSameBut h.2 (by decide)]

/-- What a Store leaves beside the chunks. -/
theorem kvStored_fields (s : State) (k : Nat) (n : Ns) :
    (kvStored s k n).cqu = (modTag s k fun x => { x with keys := x.keys ++ (storeSet s n (tagAt s k).cmd).map (·.1) }).cqu
      ∧ (kvStored s k n).ports = s.ports ∧ (kvStored s k n).mem = s.mem ∧ writesThrough (kvStored s k n) = writesThrough s
      ∧ (kvStored s k n).obj.nss = lmodFirst (fun m => m.nsid = n.nsid) (fun m => kvPut m (storedObj n (tagAt s k).cmd)) s.obj.nss := by
  have hstores := storesOnly_overStore n.keyep (storeSet s n (tagAt s k).cmd) s
  have hview := unstored_proj (fun u => (u.cqu, u.ports, u.mem, u.obj.nss)) (fun _ => rfl) hstores.1
  have hthrough := storesOnly_writesThrough hstores
  rw [kvStored, kvPlaced, stageChunks]
  generalize overList (storeSet s n (tagAt s k).cmd) s _ = v at *
  simp only [Prod.mk.injEq] at hview
  obtain ⟨hcqu, hports, hmem, hnss⟩ := hview
  have hdrop := overList_keeps (fun u : State => (u.cqu, u.ports, u.mem, u.obj.nss, u.regs)) (pastValue s n (tagAt s k).cmd)
    (modTag v k fun x => { x with keys := x.keys ++ (storeSet s n (tagAt s k).cmd).map (·.1) }) dropChunk fun _ _ => rfl
  generalize overList (pastValue s n (tagAt s k).cmd) _ dropChunk = z at *
  simp only [Prod.mk.injEq] at hdrop
  obtain ⟨hcqu', hports', hmem', hnss', hregs'⟩ := hdrop
  refine ⟨hcqu'.trans ?_, hports'.trans hports, hmem'.trans hmem, ?_, ?_⟩
  · rw [modTag, setTag, tagAt, hcqu, ← tagAt]
    rfl
  · exact (writesThrough_congr hregs').trans hthrough
  · rw [modNs, hnss']
    exact congrArg _ hnss

theorem nsOf_kvStored {s : State} {k : Nat} {n : Ns} (hn : nsOf s (tagAt s k).cmd.nsid = some n) :
    nsOf (kvStored s k n) (tagAt s k).cmd.nsid = some (kvPut n (storedObj n (tagAt s k).cmd)) := by
  obtain ⟨-, -, -, -, hnss⟩ := kvStored_fields s k n
  rw [nsid_of_nsOf hn] at hnss
  exact (nsOf_congr (t := kvStored s k n) (s := modNs s _ fun m => kvPut m (storedObj n (tagAt s k).cmd)) hnss _).trans (nsOf_modNs hn fun _ => rfl)

/-- R99, R172: a Store that has staged its value completes, or waits for it. -/
theorem completeDurable_kvStored {s : State} {k : Nat} {n : Ns} (hr : ready s k .kvStore = true) (hc : calm s)
    (hlen : (tagAt s k).cmd.hostLen ≤ 4294963200) :
    Staged s (completeDurable (kvStored s k n) k 0) k (tagResult (tagAt s k)) 0
      ∧ endView (completeDurable (kvStored s k n) k 0) = endView (kvStored s k n) := by
  obtain ⟨hcqu, hports, -, hthrough, -⟩ := kvStored_fields s k n
  obtain ⟨hend, htag⟩ := sameEnd_keys hcqu hports
  have hcalm : calm (kvStored s k n) := calm_of_cqu hcqu (calm_modTag hc k (not_lockwait_of_ready hr))
  have hmem : (chunkKey (storeHandle n (tagAt s k).cmd.key) objRecordChunk,
      objectRecord (tagAt s k).cmd.key (tagAt s k).cmd.hostLen (clockSec s.datum)) ∈ storeSet s n (tagAt s k).cmd :=
    List.mem_append_right _ (List.mem_singleton.mpr rfl)
  have hstaged := ((chunkAt_kvStored (n := n) hlen).1 _ hmem).2
  have hresult : tagResult (tagAt (kvStored s k n) k) = tagResult (tagAt s k) := by
    rw [htag]
    rfl
  rw [← hresult]
  refine completeDurable_staged hend hthrough hcalm ?_ ?_ ?_ ?_ hstaged 0
  · rw [htag]
    exact ready_alive hr rfl
  · rw [htag]
    exact fun h => by simp [ready_op hr] at h
  · rw [htag]
    exact ready_active hr
  · rw [htag]
    exact List.mem_append_right _ (List.mem_map_of_mem (f := Prod.fst) hmem)

/-! ### Retrieve and Exist (R106, R118, R133) -/

theorem nsFor_some {s : State} {x : Tag} {n : Ns} (h : nsOf s x.cmd.nsid = some n) : nsFor s x = some n := by
  rw [nsFor, h]

theorem sendParts_one (s : State) (x : Tag) (bs : List Byte) : sendParts s x [some bs] 0 = sendHost s x bs := by
  rw [sendParts, sendParts, Nat.sub_zero, sendHost]

theorem kvRetrieveOp_sends {s : State} {k : Nat} {n : Ns} {e : Nat × Chunk} {bs : List Byte} (hn : nsOf s (tagAt s k).cmd.nsid = some n)
    (hr : ready s k .kvRetrieve = true) (hd : readable s n (tagAt s k) = true)
    (hf : (versions s n (tagAt s k)).find? (fun e => decide (keyChunk e.1 = objRecordChunk)) = some e) (hl : lost (tagAt s k) e.1 e.2 = false)
    (hv : valueParts (tagAt s k) (versions s n (tagAt s k)) (keyHandle e.1) 0
      ((min (ofBytes ((e.2.data.drop 0x18).take 8)) (tagAt s k).cmd.hostLen + 65535) / 65536) = [some bs]) :
    kvRetrieveOp s k = complete (sendHost s (tagAt s k) bs) k (tagResult (tagAt s k)) (ofBytes ((e.2.data.drop 0x18).take 8)) := by
  rw [kvRetrieveOp]
  dsimp only
  rw [nsFor_some hn]
  dsimp only
  rw [when, if_pos (by rw [hr, hd]; rfl), hf]
  dsimp only
  rw [hl, if_neg Bool.false_ne_true, hv, sendParts_one]
  rfl

theorem readKeys_of_kvFind_none {n : Ns} {c : HostCmd} (hop : c.op = .kvRetrieve) (hf : kvFind n c.key = none) : readKeys n c = [] := by
  rw [readKeys, hop]
  dsimp only
  rw [hf]

theorem kvRetrieveOp_noKey {s : State} {k : Nat} {n : Ns} (hn : nsOf s (tagAt s k).cmd.nsid = some n) (hr : ready s k .kvRetrieve = true)
    (hk : keyLoaded s n = true) (hcopy : (tagAt s k).copy = none) (hf : kvFind n (tagAt s k).cmd.key = none) :
    kvRetrieveOp s k = complete s k scNoKey 0 := by
  have hkeys := readKeys_of_kvFind_none (ready_op hr) hf
  have hread : readable s n (tagAt s k) = true := by
    rw [readable, dataRead, needs, flashServes, hkeys, hk]
    simp
  have hversions : versions s n (tagAt s k) = [] := by
    rw [versions, hcopy, hkeys]
    rfl
  rw [kvRetrieveOp]
  dsimp only
  rw [nsFor_some hn]
  dsimp only
  rw [when, if_pos (by rw [hr, hread]; rfl), hversions]
  rfl

theorem kvExistOp_live {s : State} {k : Nat} {n : Ns} (hn : nsOf s (tagAt s k).cmd.nsid = some n) (hr : ready s k .kvExist = true)
    (hcopy : (tagAt s k).copy = none) :
    kvExistOp s k = complete s k (if (kvFind n (tagAt s k).cmd.key).isSome then scOk else scNoKey) 0 := by
  rw [kvExistOp]
  dsimp only
  rw [nsFor_some hn]
  dsimp only
  rw [when, if_pos hr, hcopy]

theorem kvExistOp_copied {s : State} {k : Nat} {l : List (Nat × Chunk)} (hr : ready s k .kvExist = true) (hcopy : (tagAt s k).copy = some l) :
    kvExistOp s k = complete s k (if l.any fun e => decide (keyChunk e.1 = objRecordChunk) then scOk else scNoKey) 0 := by
  obtain ⟨n, hn⟩ : ∃ n, nsFor s (tagAt s k) = some n := by
    rw [nsFor, hcopy]
    split
    · exact ⟨_, rfl⟩
    · exact ⟨_, rfl⟩
  rw [kvExistOp]
  dsimp only
  rw [hn]
  dsimp only
  rw [when, if_pos hr, hcopy]

/-! ### Delete and List (R106, R136, R173) -/

/-- A namespace that has forgotten a key. -/
def withoutKey (n : Ns) (key : List Byte) : Ns := { n with objs := n.objs.filter fun p => p.key ≠ key }

theorem kvFind_withoutKey (n : Ns) (key : List Byte) : kvFind (withoutKey n key) key = none :=
  List.find?_eq_none.mpr fun p hp => by simpa using (List.mem_filter.mp hp).2

/-- The chunks of an object dropped, one tombstone over them, and its key forgotten. -/
def kvDeleted (s : State) (n : Ns) (o : KvObj) : State :=
  modNs (addTomb (overList (objectKeys s o.handle) s dropChunk) o.handle 0 objRecordChunk 2) n.nsid fun n => withoutKey n o.key

theorem kvDeleteOp_deletes {s : State} {k : Nat} {n : Ns} {o : KvObj} (hn : nsOf s (tagAt s k).cmd.nsid = some n)
    (hr : ready s k .kvDelete = true) (ho : kvFind n (tagAt s k).cmd.key = some o) :
    kvDeleteOp s k = complete (kvDeleted s n o) k scOk 0 := by
  rw [kvDeleteOp]
  dsimp only
  rw [hn]
  dsimp only
  rw [when, if_pos hr, ho]
  dsimp only [kvDeleted, withoutKey]

theorem kvDeleted_fields {s : State} {nsid : Nat} {n : Ns} (hn : nsOf s nsid = some n) (o : KvObj) :
    (kvDeleted s n o).cqu = s.cqu ∧ (kvDeleted s n o).ports = s.ports ∧ (kvDeleted s n o).mem = s.mem
      ∧ nsOf (kvDeleted s n o) nsid = some (withoutKey n o.key)
      ∧ ∀ c, c < 2 ^ 40 → (chunkAt (kvDeleted s n o) (chunkKey o.handle c)).count = 0 := by
  have hdrop := unstored_overDrop (objectKeys s o.handle) s
  have hfields := unstored_proj (fun w => (w.cqu, w.ports, w.mem, w.obj.nss)) (fun _ => rfl) hdrop
  have hcount : ∀ c, c < 2 ^ 40 → (chunkAt (overList (objectKeys s o.handle) s dropChunk) (chunkKey o.handle c)).count = 0 :=
    fun c hc => overDrop_object s (keyHandle_chunkKey _ hc)
  rw [kvDeleted]
  generalize overList (objectKeys s o.handle) s dropChunk = u at *
  simp only [Prod.mk.injEq] at hfields
  obtain ⟨hcqu, hports, hmem, hnss⟩ := hfields
  refine ⟨hcqu, hports, hmem, ?_, hcount⟩
  rw [nsid_of_nsOf hn]
  exact nsOf_modNs (s := addTomb u o.handle 0 objRecordChunk 2) (f := fun m => withoutKey m o.key) ((nsOf_congr hnss nsid).trans hn) fun _ => rfl

/-- The keys that List returns: from the one named on, as many as the buffer holds, after their number (R106). -/
def listed (x : Tag) : List Byte :=
  let es := fitEntries (x.cmd.hostLen - 4) (((sortKeys x.snap).filter fun j => keyBefore x.cmd.key j).map listEntry)
  toBytes 4 es.length ++ es.flatten

theorem kvListOp_sends {s : State} {k : Nat} (hr : ready s k .kvList = true) :
    kvListOp s k = complete (sendHost s (tagAt s k) (listed (tagAt s k))) k scOk 0 := if_pos hr

/-- A command that is none of the Zoned set and completes changes no object and no memory. -/
theorem complete_plain {s : State} {k : Nat} {op : HostOp} (hr : ready s k op = true) (hruns : runsOn op = false) (hop : op ≠ .zoneAppend)
    (hc : calm s) (r : Nat × Nat) (dw0 : Nat) :
    Completed s (complete s k r dw0) k r dw0 ∧ endView (complete s k r dw0) = endView s := by
  obtain ⟨hdone, hview, -⟩ := complete_after (SameEnd.refl s k) hc (ready_alive hr hruns) (r := r) (.inr (ready_op hr ▸ hop)) dw0
  exact ⟨hdone, hview⟩

end Sys2Proof.Machine
end

section
open Sys2Proof Sys2Proof.Machine

/-- Settles O25: each command stages, sends or drops what the clause names, which its completion keeps. -/
theorem keyValueCommands : Obligations.KeyValueCommands := by
  refine ⟨?_, ?_, ?_, ?_, ?_, ?_, ?_, ?_⟩
  · intro k n s hn hr hc hdata hlen ho hroom hst
    obtain ⟨hstaged, hview⟩ := completeDurable_kvStored (n := n) hr hc hlen
    obtain ⟨-, -, hmem, -⟩ := kvStored_fields s k n
    obtain ⟨hin, hout⟩ := chunkAt_kvStored (s := s) (k := k) (n := n) hlen
    have hobj := (settle_obj (completeDurable (kvStored s k n) k 0)).trans (endView_proj State.obj (fun _ => rfl) hview)
    have hchunk := fun j => chunkAt_congr (k := j) (congrArg ObjSt.chunks hobj)
    refine answers_settled _ _ ?_
    rw [kvStoreOp_stages hn hr hdata ho hroom hst]
    simp only [hchunk, nsOf_congr (congrArg ObjSt.nss hobj), settle_mem, staged_settle]
    exact ⟨hstaged, (endView_proj State.mem (fun _ => rfl) hview).trans hmem, hin, hout, _, nsOf_kvStored hn, kvFind_kvPut n (storedObj n _)⟩
  · intro k n s hn hr hc hdata ho hk hf
    obtain ⟨hdone, hview⟩ := complete_plain hr rfl (by decide) hc scKeyExists 0
    obtain ⟨hobj, -, hmem⟩ := endView_fields hview
    refine answers_settled _ _ ?_
    simp only [settle_obj, settle_mem, completed_settle]
    rw [kvStoreOp_exists hn hr hdata ho hk hf]
    exact ⟨hdone, hobj, hmem⟩
  · intro k n e bs s hn hr hd hc hf hl hv
    have hop : (tagAt s k).cmd.op ≠ .zoneAppend := by rw [ready_op hr]; decide
    obtain ⟨hdone, hobj, -, hmem, hgets, -⟩ := complete_sendHost hc (ready_alive hr rfl) bs (r := tagResult (tagAt s k)) (.inr hop)
      (ofBytes ((e.2.data.drop 0x18).take 8))
    refine answers_settled _ _ ?_
    simp only [settle_obj, settle_mem, completed_settle, hostGets_settle]
    rw [kvRetrieveOp_sends hn hr hd hf hl hv]
    exact ⟨hdone, hobj, hmem, hgets⟩
  · intro k n s hn hr hk hc hcopy hf
    obtain ⟨hdone, hview⟩ := complete_plain hr rfl (by decide) hc scNoKey 0
    obtain ⟨hobj, -, hmem⟩ := endView_fields hview
    refine answers_settled _ _ ?_
    simp only [settle_obj, settle_mem, settle_hostMem, completed_settle]
    rw [kvRetrieveOp_noKey hn hr hk hcopy hf]
    exact ⟨hdone, hobj, endView_proj State.hostMem (fun _ => rfl) hview, hmem⟩
  · intro k n o s hn hr hd hc ho
    obtain ⟨hcqu, hports, hmem, hns, hcount⟩ := kvDeleted_fields hn o
    obtain ⟨hdone, hview, -⟩ := complete_ok_after hcqu hports hc hd 0
    have hkey : o.key = (tagAt s k).cmd.key := by simpa using List.find?_some ho
    have hobj := (settle_obj (complete (kvDeleted s n o) k scOk 0)).trans (endView_proj State.obj (fun _ => rfl) hview)
    have hchunk := fun j => chunkAt_congr (k := j) (congrArg ObjSt.chunks hobj)
    refine answers_settled _ _ ?_
    rw [kvDeleteOp_deletes hn hr ho]
    simp only [hchunk, nsOf_congr (congrArg ObjSt.nss hobj), settle_mem, completed_settle]
    exact ⟨hdone, hcount, (endView_proj State.mem (fun _ => rfl) hview).trans hmem, _, hns, hkey ▸ kvFind_withoutKey n o.key⟩
  · intro k n s hn hr hc hcopy
    obtain ⟨hdone, hview⟩ := complete_plain hr rfl (by decide) hc (if (kvFind n (tagAt s k).cmd.key).isSome then scOk else scNoKey) 0
    obtain ⟨hobj, -, hmem⟩ := endView_fields hview
    refine answers_settled _ _ ?_
    simp only [settle_obj, settle_mem, completed_settle]
    rw [kvExistOp_live hn hr hcopy]
    exact ⟨hdone, hobj, hmem⟩
  · intro k l s hr hc hcopy
    obtain ⟨hdone, hview⟩ := complete_plain hr rfl (by decide) hc
      (if l.any fun e => decide (keyChunk e.1 = objRecordChunk) then scOk else scNoKey) 0
    obtain ⟨hobj, -, hmem⟩ := endView_fields hview
    refine answers_settled _ _ ?_
    simp only [settle_obj, settle_mem, completed_settle]
    rw [kvExistOp_copied hr hcopy]
    exact ⟨hdone, hobj, hmem⟩
  · intro k s hr hc
    obtain ⟨hdone, hobj, -, hmem, hgets, -⟩ := complete_sendHost hc (ready_alive hr rfl) (listed (tagAt s k)) (.inl rfl) 0
    refine answers_settled _ _ ?_
    simp only [settle_obj, settle_mem, completed_settle, hostGets_settle]
    rw [kvListOp_sends hr]
    exact ⟨hdone, hobj, hmem, hgets⟩
end
